-- ==== Sys2Proof/Word.lean ====
section
/-! DEFINITION. The word types and the sparse table type of the model. -/

namespace Sys2Proof

/-- A byte (R9: multi-byte values are little-endian). -/
abbrev Byte := BitVec 8

/-- A 32-bit word: one register (R10) or one lane of a row (R113). -/
abbrev Word32 := BitVec 32

/-- A 64-bit word. -/
abbrev Word64 := BitVec 64

/-- A 128-bit block: a digest, a rota entry (R209) or a stack instruction (R160). -/
abbrev Word128 := BitVec 128

/-- A 256-bit value: a bundle (R121) or a SHA-256 hash. -/
abbrev Word256 := BitVec 256

/-- One row of a block: 256 lanes of 32 bits, lane 0 first (R113).  A lane past the list's end reads 0. -/
abbrev Row := List Word32

/-- One vector of the network: 512 bytes as a number, byte 0 least significant (R9). -/
abbrev Vec512 := BitVec 4096

/-- A table indexed by numbers, kept as the list of its entries that differ from the value an unlisted index
holds, indexes strictly rising.  `Machine.get` and `Machine.put` read and write it. -/
abbrev Sparse (α : Type) := List (Nat × α)

/-- Bytes by address.  An unlisted address reads 0x00. -/
abbrev Memory := List (Nat × Byte)

end Sys2Proof
end

