-- ==== Sys2Proof/Syntax.lean ====
section
/-! DEFINITION. What the commands carry, and the commands themselves: one constructor of `Instr` for each row of the spec's
table. -/

namespace Sys2Proof

/-- A coordinate key (R247): 16 bits; 0xFFFF for none. -/
abbrev Key := BitVec 16

/-- A 256-bit hash as its 32 bytes, first byte most significant. -/
abbrev Hash := Word256

/-- A plan unit that runs a stream: a physical block or a stack region. -/
inductive UnitId where
  | block (b : Fin 64)
  | stack (i : Fin 12)
  deriving DecidableEq, Repr

/-- The capture registers of R62. -/
inductive CaptureReg where
  | tFrac | frcLo | anchorLo | offsetFrac | rateLo | sheafCountLo | stepNumberLo
  deriving DecidableEq, Repr

/-- The header fields that every received packet carries besides its type (R236); `corrected` is not a field: it counts the FEC
codewords that this end corrected as the packet came in (R269). -/
structure PktHdr where
  seq : BitVec 16
  ack : BitVec 16
  nak : Bool
  sync : BitVec 8
  credit : BitVec 4
  corrected : BitVec 16 := 0
  deriving DecidableEq, Repr

/-- A bypass packet (R247); the body's bytes as a number, byte 0 least significant. -/
structure BypMsg where
  mtype : BitVec 8
  flags : BitVec 8
  dest : Key
  src : Key
  msgId : Word32
  series : BitVec 8
  len : BitVec 8
  body : BitVec 416
  deriving DecidableEq, Repr

/-- The identity block of R262. -/
structure IdBlock where
  serial : Word64
  key : Key
  role : Bool
  link : BitVec 6
  kryRev : BitVec 16
  fwVersion : Word32
  planAbi : BitVec 16
  mapHash : Hash
  deriving DecidableEq, Repr

/-- What a TRAIN packet asks for (R253, R256, R257, R267). -/
inductive TrainReq where
  | none | fast | full
  | swap (lane : Fin 4)
  | lossOfLock (lane : Fin 4)
  deriving DecidableEq, Repr

/-- A packet that failed its CRC (R241) with the FEC codewords of its link that this end could not correct as it came in (R269). -/
structure BadPacket where
  link : Fin 56
  codewords : BitVec 16 := 0
  deriving DecidableEq, Repr

/-- The elements of a chunk whose rounding a rounder of the pair got wrong, each with the word that it delivers (R109). -/
structure RounderFaults where
  first : List (Nat × Word32) := []
  second : List (Nat × Word32) := []
  deriving DecidableEq, Repr

/-- Why a link-down condition holds (R258); a loss of light names its lanes. -/
inductive DownCause where
  | lightLost (lanes : BitVec 4)
  | fecLockLost | laneUnrepaired | replayLimit
  deriving DecidableEq, Repr

/-- The kinds of value that a slot of the sequencer may mark as offending (R123, R144, R147, R136). -/
inductive IllegalCause where
  | badSlot | variantMissing | variantSpurious | uncorrectable | endOfStream
  deriving DecidableEq, Repr

/-- The fields of a stack instruction below its operation code (R160). -/
structure SFields where
  ara : Fin 64
  arb : Fin 64
  arc : Fin 64
  ard : Fin 64
  len : BitVec 8
  count : BitVec 16
  fmtIn : BitVec 4
  fmtOut : BitVec 4
  mode : BitVec 2
  key : BitVec 8
  kdesc : BitVec 8
  hash : Bool
  eset : BitVec 7
  deriving DecidableEq, Repr

/-- The spaces an address register may name (R118, R162). -/
inductive Space where
  | sram | opb | dev | remote | egress | hbm | staging
  deriving DecidableEq, Repr

/-- An address register (R118, R162): `aux` is the remote logical block, or the egress entry's network region. -/
structure AddrReg where
  space : Space := .sram
  base : Nat := 0
  s : List Int := []
  ss : Int := 0
  aux : Nat := 0
  deriving DecidableEq, Repr

/-- A chunk descriptor (R119): four bases (A, B, A scales, B scales), KV, and a loop level and line stride for each
base. -/
structure ChunkDesc where
  a : Nat := 0
  b : Nat := 0
  sa : Nat := 0
  sb : Nat := 0
  kv : Nat := 0
  levels : List Nat := []
  strides : List Int := []
  deriving DecidableEq, Repr

/-- A rounding key (R119, R162): `se` is the stack's fifth stride, applied to the engine index. -/
structure RoundKey where
  block : BitVec 16 := 0
  base : Nat := 0
  s : List Int := []
  se : Int := 0
  deriving DecidableEq, Repr

/-- The load-time tables of one block (R119). -/
structure BlockTables where
  ar : List AddrReg := []
  desc : List ChunkDesc := []
  trip : List Nat := []
  key : List RoundKey := []
  deriving DecidableEq, Repr

/-- A kernel descriptor (R167); `resv` is what its reserved bytes 33 to 63 spell. -/
structure KDesc where
  b1 : Word32 := 0
  b2 : Word32 := 0
  eps : Word32 := 0
  wd : Word32 := 0
  lrOff : Nat := 0
  lrLen : Nat := 0
  gsOff : Nat := 0
  momFmt : Nat := 0
  gradFmt : Nat := 0
  shadowFmt : Nat := 0
  narrowMode : Nat := 0
  narrowKey : Nat := 0
  resv : Nat := 0
  deriving DecidableEq, Repr

/-- The load-time tables of one stack region (R162). -/
structure StackTables where
  ar : List AddrReg := []
  eset : List Word64 := []
  kdesc : List KDesc := []
  trip : List Nat := []
  key : List RoundKey := []
  deriving DecidableEq, Repr

/-- What the directory says of the section that an item stands in (R308): its index, VARIANT, FORM and TARGET; and, for
TARGET 0xFFFF, whether the section is of relay role (log entry 9). -/
structure SectionRef where
  index : Nat := 0xFFFF
  variant : Nat := 0
  form : Nat := 0xFF
  target : Nat := 0xFFFF
  relay : Bool := false
  deriving DecidableEq, Repr

/-- A stream of one unit in one sheaf pattern (R134, R163): header counts and loose mask, then the words (256-bit
bundles, or 128-bit stack instructions in the low half); `offset` is the place of its header in its section, `resv` what the
header's reserved bytes spell. -/
structure Stream where
  sec : SectionRef
  unitIx : Nat
  pattern : Nat
  expected : List Nat
  loose : Word64
  words : List Word256
  offset : Nat := 0
  resv : Nat := 0
  deriving DecidableEq, Repr

/-- What one section supplies of a unit's tables (R118, R119, R162, R466): entries by index; chunk descriptors are
a block's, engine sets and kernel descriptors a stack's, the latter as their 64 bytes, byte 0 least significant (R167). -/
structure TableEntries where
  ar : List (Nat × AddrReg) := []
  desc : List (Nat × ChunkDesc) := []
  eset : List (Nat × Word64) := []
  kdesc : List (Nat × BitVec 512) := []
  trip : List (Nat × Nat) := []
  key : List (Nat × RoundKey) := []
  deriving DecidableEq, Repr

/-- The entries that a section supplies for one unit, a logical block or a stack. -/
structure UnitTables where
  sec : SectionRef
  unitIx : Nat
  entries : TableEntries
  deriving DecidableEq, Repr

/-- A slice schedule of one stack and pattern (R310): its entries in list order. -/
structure SliceSched where
  sec : SectionRef
  stack : Nat
  pattern : Nat
  entries : List Word128
  deriving DecidableEq, Repr

/-- One part of a rota pattern (R214); `offset` is the place of its first entry in its section. -/
structure RotaPart where
  sec : SectionRef
  pattern : Nat
  part : Nat
  entries : List Word128
  offset : Nat := 0
  deriving DecidableEq, Repr

/-- A planned tier move (R199, R311); `resv` is what its entry's reserved bytes 34 to 39 spell. -/
structure TierMove where
  engine : Nat
  toHbm : Bool
  units : Nat
  ddrAddr : Nat
  hbmAddr : Nat
  start : Nat
  stop : Nat
  toStack : Bool
  targetUnit : Nat
  group : Nat
  resv : Nat := 0
  deriving DecidableEq, Repr

/-- A range-table entry (R313): `order` lists its 4 KiB pieces in logical order, empty for address order; `resv` is its reserved
bytes. -/
structure RangeEntry where
  id : Nat
  cls : Nat
  space : Nat
  block : Nat
  base : Nat
  length : Nat
  order : List Nat := []
  resv : Nat := 0
  deriving DecidableEq, Repr

/-- A result stream of the plan (R370, R372). -/
structure ResultSpec where
  length : Nat
  depth : Nat
  overwritable : Bool
  source : Nat
  deriving DecidableEq, Repr

/-- What the sections of a plan image spell.  R309 to R313 name the sections; where no byte layout is given for a
section's framing the content enters as this record (log entry 9).  In `assured` a unit is a logical block, or 64 + a stack. -/
structure PlanBody where
  streams : List Stream := []
  stackStreams : List Stream := []
  blockTables : List UnitTables := []
  stackTables : List UnitTables := []
  slices : List SliceSched := []
  rota : List RotaPart := []
  stepPatterns : List Nat := []
  refillLists : List (Nat × List Nat) := []
  assured : List (Nat × Nat) := []
  stageIndex : List (SectionRef × List Nat) := []
  positions : List Nat := []
  moves : List (SectionRef × Nat × TierMove) := []
  ranges : List RangeEntry := []
  init : List (SectionRef × Nat × List Byte) := []
  budgets : List (SectionRef × Nat × Nat × Nat) := []
  results : List (Nat × ResultSpec) := []
  feedLength : Nat := 0
  hasUnique : Bool := false
  deriving DecidableEq, Repr

/-- One link of a machine map (R384). -/
structure MapLink where
  keyA : Key
  linkA : Nat
  keyB : Key
  linkB : Nat
  cls : Nat
  deriving DecidableEq, Repr

/-- The registers' writers: a host port through BAR0, or the control processor (R62, R354). -/
inductive Writer where
  | host (p : Fin 4)
  | processor
  deriving DecidableEq, Repr

/-- What a BAR2 access does (R373). -/
inductive Bar2Op where
  | read (len : Nat)
  | write (data : List Byte)
  deriving DecidableEq, Repr

/-- What the module finds at one read of the feed buffer's header and, when SEQ matches, at the pull (R367 to R369). -/
inductive FeedSight where
  | header (seq : Word64) (length : Nat) (retention : Word128) (payload : List Byte) (second : Word64)
  | transferFailed
  deriving DecidableEq, Repr

/-- Where a background or firmware move of R203 stands. -/
inductive BgStep where
  | start | resume | finish (ue : Bool)
  deriving DecidableEq, Repr

/-- What the reset exit measures and finds: the straps, each crossing's sender, receiver and natural delay (R73), the failed
cells by block, each DIMM's channel, type (true MRDIMM), capacity in GiB, rated speed and serial, the channels that fail
training, each image's security version and whether its signature holds, the hold-up in 0.1 ms, the milliseconds the
start took, the random start count of R425 and the granary records that have no valid copy. -/
structure ExitSight where
  bootSrc : BitVec 2
  clkMode : BitVec 2
  role : Bool
  delays : List (Nat × Nat × Nat)
  badCells : List (Nat × Nat)
  dimms : List (Nat × Bool × Nat × Nat × Nat)
  ddrFailed : List Nat
  imageA : Option (Word32 × Bool)
  imageB : Option (Word32 × Bool)
  holdup : Nat
  startupMs : BitVec 16
  randomCount : BitVec 8
  absent : List Nat
  deriving DecidableEq, Repr

/-- The granary records of R425. -/
inductive GranaryRec where
  | identity | imageMeta | planKeys | repairMap | repairDelta | xcal | linkBase | ddrBase | temperHist | temperSteps
  | temperWeek | laser | counters | resetHist | errSummary | session | eol | rollback
  deriving DecidableEq, Repr

/-- How the device operations of one granary update end (R421). -/
inductive UpdateEnd where
  | written | failed (dev : Fin 3) | torn
  deriving DecidableEq, Repr

/-- The sensors of R447. -/
inductive Sensor where
  | inputVoltage | inputCurrent | inputPower | gatingFraction
  | dieJunction (d : Fin 5) | hbmTemp (i : Fin 12) | dimmTemp (c : Fin 12)
  | coolantInlet | coolantOutlet | coolantRise | holdUp | laserBias (e : Fin 16) | marginCode (r : Fin 33)
  deriving DecidableEq, Repr

/-- The requests of SPDM 1.2 that the responder offers (R450, R451). -/
inductive SpdmReq where
  | getCertificate (slot : Fin 8)
  | challenge (nonce : Word256)
  | getMeasurements (index : Nat) (nonce : Word256)
  | keyExchange (peerRoot : Hash)
  | finish (session : Nat)
  | endSession (session : Nat)
  deriving DecidableEq, Repr

/-- How the lanes of a link come out of its training (R253, R271): whether its own four pass, and whether the spare lane of its port
group has adapted. -/
structure LaneResult where
  ownPass : Bool
  spareAdapted : Bool
  deriving DecidableEq, Repr

/-- A start report (R385). -/
structure StartReport where
  planHash : Hash
  replay : Bool
  firstStep : BitVec 48
  seed : Word64
  keyCheck : Word64
  deriving DecidableEq, Repr

/-- An entry of a range table (R378): bus address, length in pages, buffer index, reserved bytes. -/
structure TableEntry where
  addr : Nat
  pages : Nat
  index : Nat
  reserved : Nat := 0
  deriving DecidableEq, Repr

/-- What a command reads of its buffers: the range table, and what the buffers hold; `none` where the transfer fails (R378). -/
structure Pulled (α : Type) where
  table : Option (List TableEntry)
  content : Option α
  deriving DecidableEq, Repr

/-- A record of the journal as replay reads it (R291 to R293). -/
structure JournalRec where
  rtype : BitVec 8
  flags : BitVec 8
  rseq : Word64
  step : BitVec 48
  sheafInStep : BitVec 16
  body : List Byte
  deriving DecidableEq, Repr

/-- The commands of the block: one constructor for each row of the table, in the table's order. -/
inductive Instr where
  -- sheaf, tick and network time
  | tick
  | syncCutoff
  | consensusLatch
  | heldTickLimit (missing : List Key)
  | segmentAnnouncement (src : Key) (epoch : Word64) (p : Word32) (syncEpoch : BitVec 2)
  | segmentAcknowledgement (src : Key) (epoch : Word64)
  | epochNotAcknowledged
  | nextArmWrite (v : Word32)
  | stagedTimeLoad
  | captureRead (r : CaptureReg)
  | timeExchange
  | timeExchangeRequest (link : Fin 56) (src : Key) (msgId : Word32)
  | timeExchangeResponse (link : Fin 56) (t2 t3 : BitVec 80) (master : Key) (masterSeq : Word32)
  | masterSequenceTimeout
  | holdoverExpired
  | pulseEdge (out : Fin 2)
  | tpulseCtrlWrite (out : Fin 2) (v : Word32)
  | tcaptureEdge (rising : Bool)
  -- clock regions
  | marginMeasure (r : Fin 33) (code : BitVec 6)
  | droopWarning (r : Fin 33)
  | crossingHold (r : Fin 33) (held : Nat)
  | leadHold (r : Fin 33) (held : Nat)
  | crossingRelease (src dst : Fin 33) (crcOk : Bool)
  | temperSample
  | temperWeekEnd
  | temperWeekCommit
  -- cells
  | chunk (b : Fin 64) (c : Fin 4) (fmt : BitVec 4) (rb : Bool) (desc : BitVec 8)
  | chunkEnd (b : Fin 64) (c : Fin 4) (parityBad residueBad : Bool) (rounders : RounderFaults)
  | drainTree (b : Fin 64) (c : Fin 4) (rb : Bool) (row : Fin 16) (t : Fin 32)
  | drainVec (b : Fin 64) (c : Fin 4) (rb : Bool) (row : Fin 16) (v : Fin 32)
  | drainSram (b : Fin 64) (c : Fin 4) (rb : Bool) (row : Fin 16) (ar : Fin 64)
  -- vector slot
  | vadd (b : Fin 64) (vd va vb : Fin 32)
  | vsub (b : Fin 64) (vd va vb : Fin 32)
  | vmul (b : Fin 64) (vd va vb : Fin 32)
  | vfma (b : Fin 64) (vd va vb vc : Fin 32)
  | vmin (b : Fin 64) (vd va vb : Fin 32)
  | vmax (b : Fin 64) (vd va vb : Fin 32)
  | vcmp (b : Fin 64) (vd va vb : Fin 32) (mode : BitVec 3)
  | vsel (b : Fin 64) (vd va vb vc : Fin 32)
  | vmov (b : Fin 64) (vd va : Fin 32)
  | vcvtNarrow (b : Fin 64) (vd va : Fin 32) (mode : BitVec 3) (fmt : BitVec 4) (key : BitVec 8)
  | vcvtWide (b : Fin 64) (vd va : Fin 32) (fmt : BitVec 4)
  | vexp (b : Fin 64) (vd va : Fin 32)
  | vlog (b : Fin 64) (vd va : Fin 32)
  | vrcp (b : Fin 64) (vd va : Fin 32)
  | vrsqrt (b : Fin 64) (vd va : Fin 32)
  | vtanh (b : Fin 64) (vd va : Fin 32)
  | viadd (b : Fin 64) (vd va vb : Fin 32)
  -- tree slot
  | tadd (b : Fin 64) (td ta tb : Fin 32)
  | taddi (b : Fin 64) (td ta tb : Fin 32)
  | tload (b : Fin 64) (td : Fin 32) (ar : Fin 64)
  | tstore (b : Fin 64) (ar : Fin 64) (ta : Fin 32)
  | ttov (b : Fin 64) (v ta : Fin 32)
  | vtot (b : Fin 64) (td v : Fin 32)
  -- move slots
  | ldOpb (b : Fin 64) (ch : Fin 2) (ars arx : Fin 64) (len : BitVec 4) (cell : Fin 4)
  | ldV (b : Fin 64) (ch : Fin 2) (ars : Fin 64) (vreg : Fin 32)
  | stV (b : Fin 64) (ch : Fin 2) (ars : Fin 64) (vreg : Fin 32)
  | hbmRd (b : Fin 64) (ch : Fin 2) (ars arx : Fin 64)
  | hbmWr (b : Fin 64) (ch : Fin 2) (ars arx : Fin 64)
  | egress (b : Fin 64) (ch : Fin 2) (ars arx : Fin 64) (len : BitVec 4)
  | xfer (b : Fin 64) (ch : Fin 2) (ars arx : Fin 64) (len : BitVec 4)
  -- sync and control slots
  | wait (b : Fin 64) (group : Fin 64)
  | waitFirst (b : Fin 64) (group : Fin 64) (mask : BitVec 4)
  | waitProceed (u : UnitId)
  | signal (b : Fin 64) (group : Fin 64) (target : BitVec 6)
  | readT (b : Fin 64) (v : Fin 32)
  | sample (b : Fin 64) (index : BitVec 6) (v : Fin 32)
  | loopBegin (b : Fin 64) (level : Fin 4) (trip : BitVec 8)
  | loopEnd (b : Fin 64) (level : Fin 4)
  | sheafEnd (b : Fin 64)
  | instructionStall (u : UnitId)
  | streamFetch (u : UnitId) (count : Nat)
  | vectorLanding (link : Fin 56) (dgrp : BitVec 12) (dst : Word32) (op : BitVec 4) (payload : Vec512)
  -- stack operations
  | add (i : Fin 12) (f : SFields)
  | sub (i : Fin 12) (f : SFields)
  | mul (i : Fin 12) (f : SFields)
  | fma (i : Fin 12) (f : SFields)
  | axpby (i : Fin 12) (f : SFields)
  | min (i : Fin 12) (f : SFields)
  | max (i : Fin 12) (f : SFields)
  | cvt (i : Fin 12) (f : SFields)
  | quantMx (i : Fin 12) (f : SFields)
  | div (i : Fin 12) (f : SFields)
  | sqrt (i : Fin 12) (f : SFields)
  | rowsum (i : Fin 12) (f : SFields)
  | rowmax (i : Fin 12) (f : SFields)
  | accum (i : Fin 12) (f : SFields)
  | copy (i : Fin 12) (f : SFields)
  | gather (i : Fin 12) (f : SFields)
  | stageLocal (i : Fin 12) (f : SFields)
  | stageReduce (i : Fin 12) (f : SFields)
  | adamw (i : Fin 12) (f : SFields)
  | adam (i : Fin 12) (f : SFields)
  | sgdm (i : Fin 12) (f : SFields)
  | trustNorm (i : Fin 12) (f : SFields)
  | trustApply (i : Fin 12) (f : SFields)
  | stackWait (i : Fin 12) (group : Fin 64)
  | stackLoopBegin (i : Fin 12) (level : Fin 4) (trip : BitVec 8)
  | stackLoopEnd (i : Fin 12) (level : Fin 4)
  | stackSheafEnd (i : Fin 12)
  | refreshDebtIncrement (i : Fin 12) (pc : Fin 64) (bg : Fin 16)
  | autonomousRefresh (i : Fin 12)
  -- tier moves
  | tierMoveStart (c : Fin 12)
  | tierMoveComplete (c : Fin 12) (ue : Bool)
  | backgroundMove (c : Fin 12) (b : BgStep)
  -- rota
  | send (n : Fin 4) (entry : Word128)
  | cut (n : Fin 4) (entry : Word128)
  | stageFwd (n : Fin 4) (entry : Word128)
  | maint (n : Fin 4) (entry : Word128)
  | windowStall (n : Fin 4)
  | rotaFetch (n : Fin 4) (count : Nat)
  | forwardHold (n : Fin 4) (entry : BitVec 12)
  | tableUpdate (src : Key) (gen : BitVec 16) (form : Fin 9) (positions : List Nat)
  | tableAcknowledgement (src : Key) (gen : BitVec 16)
  | tableCommit (gen : BitVec 16)
  | tableResendRequest (src : Key) (gen : BitVec 16)
  -- link packets
  | data (link : Fin 56) (h : PktHdr) (dgrp : BitVec 12) (dst : Word32) (op : BitVec 4) (payload : Vec512)
  | bypass (link : Fin 56) (h : PktHdr) (msgs : List BypMsg)
  | idle (link : Fin 56) (h : PktHdr)
  | nakrec (link : Fin 56) (h : PktHdr) (first highest : BitVec 16) (cause : BitVec 8)
  | train (link : Fin 56) (h : PktHdr) (req : TrainReq) (peerKey : Key) (peerLink : BitVec 6)
  | reservedTypePacket (link : Fin 56) (h : PktHdr)
  | replayTimeout (link : Fin 56)
  | rotaHold (n : Fin 4) (link : Fin 56)
  | rotaHoldEnd (n : Fin 4)
  | bypassForwardTimeout (link : Fin 56)
  | maintenanceRetrain (link : Fin 56)
  | lightDetected (link : Fin 56)
  | fecLock (link : Fin 56)
  | alignComplete (link : Fin 56) (latency : BitVec 14) (peerNext peerBase : BitVec 16) (lanes : LaneResult)
  | trainingTimeout (link : Fin 56)
  | fastRetrainTimeout (link : Fin 56)
  | lightLossTimeout (link : Fin 56)
  | identity (link : Fin 56) (id : IdBlock)
  | identityRepeat (link : Fin 56)
  | identityResult (link : Fin 56) (code : BitVec 4)
  | linkMissingTimeout (link : Fin 56)
  | laneFailure (link : Fin 56) (lane : Fin 4) (lightLost : Bool)
  | linkDown (link : Fin 56) (cause : DownCause)
  | graceExpired (link : Fin 56)
  | failedLinkRetry (link : Fin 56)
  | probe (link : Fin 56) (lit : Bool)
  -- faults, spares and the assay
  | linkEvent (src : Key) (phys : BitVec 6) (event : BitVec 8) (peer : Key) (step : BitVec 48) (logical : BitVec 6) (msgId : Word32)
  | relayHoldRequest (src : Key) (isAbort : Bool)
  | relayFatalFault
  | assayParam (src : Key) (step : BitVec 48) (replica : BitVec 16) (digest : Word128) (msgId : Word32)
  | assayVerdict (step : BitVec 48) (verdict : BitVec 8) (minority : Bool) (digest : Word128) (src : Key) (msgId : Word32)
  | twinContrib (src : Key) (step : BitVec 48) (attempt form : BitVec 8) (digest : Word128)
  | twinResult (src : Key) (step : BitVec 48) (attempt outcome : BitVec 8) (msgId : Word32)
  | twinWaitExpired
  | assayAck (msgId : Word32)
  | messageRetry
  | coordBeatSend
  | coordBeat (src : Key) (number : Word32) (step : BitVec 48) (gen : BitVec 16)
  | coordBeatTimeout
  | failing (src : Key) (cause : BitVec 8) (seq : Word32) (msgId : Word32)
  | refillOrder (step : BitVec 48) (gen : BitVec 16) (replicas : List (BitVec 16))
  | exclude (step : BitVec 48) (keys : List Key)
  | recoveryDone (src : Key) (step : BitVec 48) (gen : BitVec 16) (repairs refill : Bool) (msgId : Word32)
  | recoveryTimeout
  | removal (key : Key) (msgId : Word32)
  | join (key : Key) (planHash mapHash : Word128) (start : BitVec 8) (msgId : Word32)
  | joinResult (outcome : BitVec 8) (gen : BitVec 16)
  | joinRetry
  | mgmt (link : Fin 56) (body : BitVec 160)
  | mgmtSend
  -- journal, save, start
  | journalSpill (readOffset : Nat)
  | saveCaptureEnd
  | saveUploadComplete (error : BitVec 16)
  | startReadinessReport (src : Key) (r : StartReport)
  | startWaitExpired
  -- host ports
  | mbxPost (p : Fin 4) (m : Fin 8) (v : Word32)
  | abort (p : Fin 4) (v : Word32)
  | abortTimeout (p : Fin 4)
  | feedPoll (sight : FeedSight)
  | resultWrite (stream : Fin 64)
  | bar2Access (p : Fin 4) (offset : BitVec 36) (op : Bar2Op) (ue : Bool)
  | portLinkDown (p : Fin 4)
  | portLinkUp (p : Fin 4)
  | portReset (p : Fin 4)
  | registerWrite (w : Writer) (offset : BitVec 24) (data : List Byte)
  -- the Birtur command set
  | identify (p : Fin 4) (m : Fin 8)
  | getStatus (p : Fin 4) (m : Fin 8)
  | loadPlan (p : Fin 4) (m : Fin 8) (image : Pulled (List Byte)) (body : PlanBody)
  | verifyPlan (p : Fin 4) (m : Fin 8)
  | unloadPlan (p : Fin 4) (m : Fin 8)
  | bindMachine (p : Fin 4) (m : Fin 8) (image : Pulled (List Byte))
  | startJob (p : Fin 4) (m : Fin 8)
  | holdAtStep (p : Fin 4) (m : Fin 8)
  | resume (p : Fin 4) (m : Fin 8)
  | stopJob (p : Fin 4) (m : Fin 8)
  | feedRegister (p : Fin 4) (m : Fin 8) (ranges : Option (List TableEntry))
  | resultRegister (p : Fin 4) (m : Fin 8) (ranges : Option (List TableEntry))
  | resultAck (p : Fin 4) (m : Fin 8)
  | saveState (p : Fin 4) (m : Fin 8) (ranges : Option (List TableEntry))
  | restoreState (p : Fin 4) (m : Fin 8) (image : Pulled (List Byte))
  | journalConfig (p : Fin 4) (m : Fin 8) (ranges : Option (List TableEntry))
  | replayStart (p : Fin 4) (m : Fin 8) (records : Pulled (List JournalRec))
  | assayConfig (p : Fin 4) (m : Fin 8)
  | timeConfig (p : Fin 4) (m : Fin 8)
  | pulseConfig (p : Fin 4) (m : Fin 8)
  | readCounters (p : Fin 4) (m : Fin 8)
  | readErrors (p : Fin 4) (m : Fin 8)
  | grantRole (p : Fin 4) (m : Fin 8)
  | powerCap (p : Fin 4) (m : Fin 8)
  | reset (p : Fin 4) (m : Fin 8)
  | recoveryImagePost (signed : Bool) (version : Word32)
  -- reset
  | powerGood (inRegulation : Bool)
  | supplyMonitor (fault : Bool)
  | rstN (low : Bool)
  | thermalTrip (hot : Bool)
  | watchdog
  | firmwareRegionReset (r : Fin 33)
  | firmwareBlockReset (b : Fin 64)
  | resetExit (sight : ExitSight)
  | scrub
  | scrubEnd
  -- granary
  | norDeferExpiry (r : GranaryRec) (e : UpdateEnd)
  | repairFold (e : UpdateEnd)
  | granaryUpdate (r : GranaryRec) (body : List Byte) (e : UpdateEnd)
  | powerFail
  | powerReturn
  | countersCommit
  | laserCommit (bias : List (Nat × Nat)) (worstRatio : Nat)
  | rollbackRaise
  -- module hardware
  | pwrEnRise
  | pwrEnLow
  | gatingFractionUpdate (meanW : Nat) (hottest : Nat) (currentTrip : Bool)
  | attnN
  | surpriseRemoval
  | getInfo
  | setPosition (session : Bool) (key : Key) (tag : Word32)
  | nameTimeMaster (session : Bool) (key : Key)
  | mgmtReset (session : Bool) (kind : BitVec 8)
  | mgmtUnloadPlan (session : Bool)
  | setPlanKeys (session : Bool) (keys : List (BitVec 512))
  | programFuses (session : Bool) (bank : List Byte) (readBack : List Byte)
  | raiseFloor (session : Bool) (f : BitVec 8)
  | requestRemoval (session : Bool)
  | cancelRemoval (session : Bool)
  | getNeighbours
  | clearCause (session : Bool) (mask : Word32)
  | pollPlatformEvent (ack : Bool)
  | firmwareUpdate (version : Word32) (verified : Bool)
  | spdmRequest (r : SpdmReq)
  | entdaa (address : BitVec 7)
  -- the rows at the table's end
  | illegalBundle (b : Fin 64) (cause : IllegalCause)
  | illegalStackInstruction (i : Fin 12) (cause : IllegalCause)
  | packetPosition (link : Fin 56) (maintenance : Bool)
  | packetCrcFailure (packet : BadPacket)
  | plannedRefresh (i : Fin 12) (pc : Fin 64) (bg : Fin 16)
  | sensorThresholdCrossing (s : Sensor) (critical : Bool)
  | overCurrentWarning
  deriving DecidableEq, Repr

end Sys2Proof
end

