-- ==== Sys2Proof/Config.lean ====
section
/-! DEFINITION. The values that the spec leaves open after a command: constants with no body, applied to the counter
`State.free`.  No proof can see one, so a statement about it holds for every value (log entry 1). -/

namespace Sys2Proof.Config

open Sys2Proof

/-- The servo's next RATE (R56 names no law by which the firmware steers it; log entry 13). -/
opaque freeRate : Nat → BitVec 48

/-- The amount of a permitted phase step (R53 permits it and states no amount; log entry 13). -/
opaque freePhase : Nat → BitVec 80

/-- The code of a chip error-log entry for which the spec names the entry and lists no code (R369, R374), and the status of a command
that fails for a reason to which R363 and R377 give none (R204, R301). -/
opaque freeCode : Nat → BitVec 16

/-- Which lanes of a link have lost light where a report names none (R258; log entry 113). -/
opaque freeLanes : Nat → BitVec 4

/-- The spare rows with which every HBM bank is made (R183 names them and gives no count). -/
opaque spareRows : Nat

/-- The status of a vendor message that is not accepted where R453 names no status for the reason. -/
opaque freeStatus : Nat → Byte

/-- The boot ROM's version, which the measurements show (R450) and the spec does not give. -/
opaque romVersion : BitVec 512

/-- A value drawn by the security core: nonces, session keys, signatures (R425, R450). -/
opaque freeBytes : Nat → BitVec 512

end Sys2Proof.Config
end

