-- ==== Sys2Proof/Machine/Bits.lean ====
section
/-! DEFINITION. Bit fields, byte order, saturating counters and the sparse tables' two operations. -/

namespace Sys2Proof.Machine

open Sys2Proof

/-- Bits [lo + w − 1 : lo] of a word (R9: bit 0 the least significant). -/
def field {n : Nat} (x : BitVec n) (lo w : Nat) : Nat := (x.toNat / 2 ^ lo) % 2 ^ w

/-- One bit of a word. -/
def bit {n : Nat} (x : BitVec n) (i : Nat) : Bool := x.getLsbD i

/-- A flag as a number. -/
def b2n (b : Bool) : Nat := if b then 1 else 0

/-- A word built from fields (value, lowest bit), each cut by its own place in the list's use. -/
def pack (fields : List (Nat × Nat)) : Word32 :=
  BitVec.ofNat 32 (fields.foldl (fun acc f => acc + f.1 * 2 ^ f.2) 0)

/-- A word with one bit set. -/
def setBit {n : Nat} (x : BitVec n) (i : Nat) : BitVec n := x ||| BitVec.ofNat n (2 ^ i)

/-- A word with one bit set when the condition holds. -/
def setBitIf {n : Nat} (c : Bool) (x : BitVec n) (i : Nat) : BitVec n := if c then setBit x i else x

/-- A word with one bit cleared. -/
def clearBit {n : Nat} (x : BitVec n) (i : Nat) : BitVec n := x &&& ~~~ BitVec.ofNat n (2 ^ i)

/-- W1C (R11): each 1 written clears that bit; each 0 leaves it unchanged. -/
def w1c {n : Nat} (x v : BitVec n) : BitVec n := x &&& ~~~ v

/-- A 32-bit counter that saturates at its maximum (R62, R84, R150 and the other register chapters). -/
def satAdd (c : Word32) (k : Nat) : Word32 :=
  if c.toNat + k < 2 ^ 32 then BitVec.ofNat 32 (c.toNat + k) else BitVec.ofNat 32 (2 ^ 32 - 1)

/-- A saturating counter raised by 1. -/
def satInc (c : Word32) : Word32 := satAdd c 1

/-- A saturating 64-bit counter raised by 1. -/
def satInc64 (c : Word64) : Word64 := if c == 0xFFFFFFFFFFFFFFFF then c else c + 1

/-- A saturating 16-bit counter raised by 1. -/
def inc16 (c : BitVec 16) : BitVec 16 := if c == 0xFFFF then c else c + 1

/-- A counter field of fewer bits that saturates. -/
def satIncN (w n : Nat) : Nat := if n + 1 < 2 ^ w then n + 1 else 2 ^ w - 1

/-- The number that bytes spell, first byte least significant (R9). -/
def leNat : List Byte → Nat
  | [] => 0
  | b :: bs => b.toNat + 256 * leNat bs

/-- The low `k` bytes of a number, least significant first (R9). -/
def leBytes : Nat → Nat → List Byte
  | 0, _ => []
  | k + 1, v => BitVec.ofNat 8 v :: leBytes k (v / 256)

/-- `k` bytes of a list from offset `o`, short reads filled with 0. -/
def slice (bs : List Byte) (o k : Nat) : List Byte :=
  let t := (bs.drop o).take k
  t ++ List.replicate (k - t.length) 0

/-- The little-endian number in `k` bytes at offset `o`. -/
def fieldLE (bs : List Byte) (o k : Nat) : Nat := leNat (slice bs o k)

/-- The bytes of a run from `a` where another run of bytes, from `b`, covers them. -/
def overlaid (a : Nat) (bs : List Byte) (b : Nat) (cs : List Byte) : List Byte :=
  (bs.zipIdx).map (fun p => if b ≤ a + p.2 ∧ a + p.2 < b + cs.length then cs.getD (a + p.2 - b) 0 else p.1)

/-- The words of a byte list, four bytes a word (R9). -/
def toWords : List Byte → List Word32
  | a :: b :: c :: d :: bs => BitVec.ofNat 32 (leNat [a, b, c, d]) :: toWords bs
  | [] => []
  | bs => [BitVec.ofNat 32 (leNat bs)]

/-- The bytes of a list of words (R9). -/
def fromWords (ws : List Word32) : List Byte := ws.flatMap (fun w => leBytes 4 w.toNat)

/-- A two's-complement reading of a `w`-bit number. -/
def signed (w n : Nat) : Int := if n < 2 ^ (w - 1) then (n : Int) else (n : Int) - 2 ^ w

/-- The value a table holds at an index, `d` where it lists none. -/
def get {α : Type} (d : α) : Sparse α → Nat → α
  | [], _ => d
  | (k, v) :: m, i => if i = k then v else get d m i

/-- The table with index `i` taken out. -/
def drop {α : Type} (m : Sparse α) (i : Nat) : Sparse α := m.filter (fun p => p.1 != i)

/-- The table with index `i` listed as `v`. -/
def insert {α : Type} : Sparse α → Nat → α → Sparse α
  | [], i, v => [(i, v)]
  | (k, w) :: m, i, v =>
    if i = k then (i, v) :: m else if i < k then (i, v) :: (k, w) :: m else (k, w) :: insert m i v

/-- The table with index `i` holding `v`: written as no entry when `v` is what an unlisted index holds. -/
def put {α : Type} [DecidableEq α] (d : α) (m : Sparse α) (i : Nat) (v : α) : Sparse α :=
  if v = d then drop m i else insert m i v

/-- The table with the value at `i` rewritten by `f`. -/
def upd {α : Type} [DecidableEq α] (d : α) (m : Sparse α) (i : Nat) (f : α → α) : Sparse α :=
  put d m i (f (get d m i))

/-- Indexes of a table strictly above a bound and strictly rising. -/
def rising {α : Type} : Nat → Sparse α → Bool
  | _, [] => true
  | lo, (k, _) :: m => lo ≤ k && rising (k + 1) m

/-- The canonical form: indexes strictly rising, and no entry equal to what an unlisted index holds. -/
def canon {α : Type} [DecidableEq α] (d : α) (m : Sparse α) : Bool :=
  rising 0 m && m.all (fun p => decide (p.2 ≠ d))

/-- Reads one byte. -/
def readByte (m : Memory) (a : Nat) : Byte := get 0 m a

/-- Writes one byte. -/
def writeByte (m : Memory) (a : Nat) (v : Byte) : Memory := put 0 m a v

/-- Reads `k` bytes from address `a`. -/
def readBytes (m : Memory) (a : Nat) : Nat → List Byte
  | 0 => []
  | k + 1 => readByte m a :: readBytes m (a + 1) k

/-- Writes a run of bytes from address `a`. -/
def writeBytes (m : Memory) (a : Nat) : List Byte → Memory
  | [] => m
  | b :: bs => writeBytes (writeByte m a b) (a + 1) bs

/-- Every byte from `a` to `a + k − 1` is 0 afterwards: the entries of the span leave the list. -/
def zeroSpan (m : Memory) (a k : Nat) : Memory := m.filter (fun p => !(a ≤ p.1 && p.1 < a + k))

/-- The canonical form of memory (an unlisted byte reads 0x00). -/
def Memory.wf (m : Memory) : Bool := canon 0 m

/-- Lane `q` of a row. -/
def lane (r : Row) (q : Nat) : Word32 := r.getD q 0

/-- A row from its lanes. -/
def mkRow (f : Nat → Word32) : Row := (List.range 256).map f

/-- A row of zeros. -/
def zeroRow : Row := List.replicate 256 0

/-- A row as 1 KiB of bytes (R113, R9). -/
def rowBytes (r : Row) : List Byte := (List.range 256).flatMap (fun q => leBytes 4 (lane r q).toNat)

/-- A row from 1 KiB of bytes. -/
def bytesRow (bs : List Byte) : Row := mkRow (fun q => BitVec.ofNat 32 (fieldLE bs (4 * q) 4))

/-- Mathematical rounding up of a quotient. -/
def ceilDiv (a b : Nat) : Nat := (a + b - 1) / b

/-- ⌈log₂ n⌉ for n ≥ 1. -/
def clog2 (n : Nat) : Nat := if n ≤ 1 then 0 else Nat.log2 (n - 1) + 1

end Sys2Proof.Machine
end

