-- ==== Sys2Proof/Machine/Digest.lean ====
section
/-! DEFINITION. The published algorithms that the rules name: SHA-256 (R26, R293), CRC-32 of IEEE 802.3 (R235), CRC-32C
(R291, R307), the GF(2^128) multiplication of SP 800-38D (R175), Philox-4×32-10 (R106), ECDSA P-256 (R307) and the
rota check code (R312). -/

namespace Sys2Proof.Machine

open Sys2Proof

/-- Rotation to the right. -/
def rotr (x : Word32) (k : Nat) : Word32 := x.rotateRight k

/-- The first primes, those below 312: 64 of them. -/
def smallPrimes : List Nat :=
  (List.range 312).filter (fun n => decide (2 ≤ n) && (List.range 16).all (fun d => decide (n ≤ d + 2) || n % (d + 2) != 0))

/-- The first 32 fractional bits of the `k`-th root of `p`, for a root below 64: the greatest `x` with x^k ≤ p × 2^(32k), bit by
bit from bit 37. -/
def rootFraction (k p : Nat) : Word32 :=
  BitVec.ofNat 32 ((List.range 38).foldl (fun x i =>
    let y := x + 2 ^ (37 - i)
    if y ^ k ≤ p * 2 ^ (32 * k) then y else x) 0)

/-- The 64 round constants of SHA-256: fractions of the cube roots of the first 64 primes. -/
def shaK : List Word32 := smallPrimes.map (rootFraction 3)

/-- The initial hash value of SHA-256: fractions of the square roots of the first eight primes. -/
def shaInit : List Word32 := (smallPrimes.take 8).map (rootFraction 2)

/-- The number that bytes spell, first byte most significant. -/
def beNat (bs : List Byte) : Nat := bs.foldl (fun a b => a * 256 + b.toNat) 0

/-- The low `k` bytes of a number, most significant first. -/
def beBytes (k v : Nat) : List Byte := (leBytes k v).reverse

/-- Big-endian words of a block. -/
def beWords (bs : List Byte) : List Word32 :=
  (List.range (bs.length / 4)).map (fun i => BitVec.ofNat 32 (beNat (slice bs (4 * i) 4)))

/-- The message schedule: the last 16 words (newest first) extended by `k`. -/
def shaSchedule : Nat → List Word32 → List Word32
  | 0, ws => ws
  | k + 1, ws =>
    let s0 := let x := ws.getD 14 0; rotr x 7 ^^^ rotr x 18 ^^^ (x >>> 3)
    let s1 := let x := ws.getD 1 0; rotr x 17 ^^^ rotr x 19 ^^^ (x >>> 10)
    shaSchedule k ((ws.getD 15 0 + s0 + ws.getD 6 0 + s1) :: ws)

/-- One round of SHA-256 on the eight working words. -/
def shaRound (h : List Word32) (kw : Word32) : List Word32 :=
  match h with
  | [a, b, c, d, e, f, g, i] =>
    let s1 := rotr e 6 ^^^ rotr e 11 ^^^ rotr e 25
    let ch := (e &&& f) ^^^ (~~~ e &&& g)
    let t1 := i + s1 + ch + kw
    let s0 := rotr a 2 ^^^ rotr a 13 ^^^ rotr a 22
    let mj := (a &&& b) ^^^ (a &&& c) ^^^ (b &&& c)
    [t1 + s0 + mj, a, b, c, d + t1, e, f, g]
  | h => h

/-- The compression of one 64-byte block. -/
def shaBlock (h : List Word32) (blk : List Byte) : List Word32 :=
  let w := (shaSchedule 48 (beWords blk).reverse).reverse
  let r := (List.zipWith (· + ·) shaK w).foldl shaRound h
  List.zipWith (· + ·) h r

/-- The padded message. -/
def shaPad (bs : List Byte) : List Byte :=
  bs ++ [0x80] ++ List.replicate ((119 - bs.length % 64) % 64) 0 ++ beBytes 8 (8 * bs.length)

/-- SHA-256 of a byte string, 32 bytes. -/
def sha256 (bs : List Byte) : List Byte :=
  let p := shaPad bs
  ((List.range (p.length / 64)).foldl (fun h i => shaBlock h (slice p (64 * i) 64)) shaInit).flatMap
    (fun w => beBytes 4 w.toNat)

/-- Eight shift steps of a reflected CRC. -/
def crcBits (poly : Word32) : Nat → Word32 → Word32
  | 0, c => c
  | k + 1, c => crcBits poly k (if bit c 0 then (c >>> 1) ^^^ poly else c >>> 1)

/-- A reflected CRC-32 with initial value and final complement of all ones. -/
def crcWith (poly : Word32) (bs : List Byte) : Word32 :=
  ~~~ (bs.foldl (fun c b => crcBits poly 8 (c ^^^ b.zeroExtend 32)) 0xFFFFFFFF)

/-- The CRC-32 of IEEE 802.3 (R235). -/
def crc32 (bs : List Byte) : Word32 := crcWith 0xEDB88320 bs

/-- CRC-32C (R291, R307, R308, R346, R419). -/
def crc32c (bs : List Byte) : Word32 := crcWith 0x82F63B78 bs

/-- The product in GF(2^128) by the bit order of SP 800-38D: `k` bits of `x` left, `z` the sum, `v` the shifted factor. -/
def gfSteps (x : Nat) : Nat → Nat → Nat → Nat
  | 0, z, _ => z
  | k + 1, z, v =>
    let z' := if x.testBit k then z ^^^ v else z
    gfSteps x k z' (if v.testBit 0 then (v / 2) ^^^ (0xE1 * 2 ^ 120) else v / 2)

/-- A block with its byte order reversed. -/
def swap128 (x : Word128) : Nat := beNat (leBytes 16 x.toNat)

/-- Multiplication in GF(2^128) of two 16-byte blocks (R175). -/
def gfMul (x y : Word128) : Word128 :=
  BitVec.ofNat 128 (leNat (beBytes 16 (gfSteps (swap128 x) 128 0 (swap128 y))))

/-- Absorbing a block (R175): Y = (Y ⊕ X) · H. -/
def absorb (h y x : Word128) : Word128 := gfMul (y ^^^ x) h

/-- Absorbing a byte string padded with zero bytes to a multiple of 16 (R175); a string of 0 bytes absorbs nothing. -/
def absorbBytes (h y : Word128) (bs : List Byte) : Word128 :=
  (List.range (ceilDiv bs.length 16)).foldl
    (fun a i => absorb h a (BitVec.ofNat 128 (leNat (slice bs (16 * i) 16)))) y

/-- One round of Philox-4×32. -/
def philoxRound (k0 k1 : Word32) (c : List Word32) : List Word32 :=
  match c with
  | [c0, c1, c2, c3] =>
    let p0 := 0xD2511F53 * c0.toNat
    let p1 := 0xCD9E8D57 * c2.toNat
    [BitVec.ofNat 32 (p1 / 2 ^ 32) ^^^ c1 ^^^ k0, BitVec.ofNat 32 p1,
     BitVec.ofNat 32 (p0 / 2 ^ 32) ^^^ c3 ^^^ k1, BitVec.ofNat 32 p0]
  | c => c

/-- `k` rounds with the key raised by the Weyl constants between rounds. -/
def philoxRounds : Nat → Word32 → Word32 → List Word32 → List Word32
  | 0, _, _, c => c
  | k + 1, k0, k1, c => philoxRounds k (k0 + 0x9E3779B9) (k1 + 0xBB67AE85) (philoxRound k0 k1 c)

/-- The random word of R106 for one element. -/
def srWord (seed : Word64) (elem sheafInStep keyBlock step : Nat) : Nat :=
  let out := philoxRounds 10 (BitVec.ofNat 32 seed.toNat) (BitVec.ofNat 32 (seed.toNat / 2 ^ 32))
    [BitVec.ofNat 32 (elem / 4), BitVec.ofNat 32 (sheafInStep % 2 ^ 16 + keyBlock % 2 ^ 16 * 2 ^ 16),
     BitVec.ofNat 32 step, BitVec.ofNat 32 (step / 2 ^ 32 % 2 ^ 16)]
  (out.getD (elem % 4) 0).toNat

/-- The field prime of P-256. -/
def p256P : Nat := 0xFFFFFFFF00000001000000000000000000000000FFFFFFFFFFFFFFFFFFFFFFFF
/-- The group order of P-256. -/
def p256N : Nat := 0xFFFFFFFF00000000FFFFFFFFFFFFFFFFBCE6FAADA7179E84F3B9CAC2FC632551
/-- The coefficient b of P-256. -/
def p256B : Nat := 0x5AC635D8AA3A93E7B3EBBD55769886BC651D06B0CC53B0F63BCE3C3E27D2604B
/-- The base point of P-256. -/
def p256G : Nat × Nat :=
  (0x6B17D1F2E12C4247F8BCE6E563A440F277037D812DEB33A0F4A13945D898C296,
   0x4FE342E2FE1A7F9B8EE7EB4A7C0F9E162BCE33576B315ECECBB6406837BF51F5)

/-- b^e mod m over `k` bits of the exponent. -/
def modPow (b e m : Nat) : Nat → Nat
  | 0 => 1 % m
  | k + 1 =>
    let r := modPow b (e / 2) m k
    if e % 2 = 1 then r * r % m * b % m else r * r % m

/-- The inverse modulo a prime. -/
def modInv (a m : Nat) : Nat := modPow (a % m) (m - 2) m 256

/-- Addition on P-256 in affine coordinates; `none` is the point at infinity. -/
def ecAdd : Option (Nat × Nat) → Option (Nat × Nat) → Option (Nat × Nat)
  | none, q => q
  | p, none => p
  | some (x1, y1), some (x2, y2) =>
    let p := p256P
    if x1 = x2 ∧ (y1 + y2) % p = 0 then none
    else
      let l :=
        if x1 = x2 then (3 * x1 * x1 + (p - 3)) * modInv (2 * y1) p % p
        else (y2 + p - y1) * modInv (x2 + p - x1) p % p
      let x3 := (l * l + 2 * p - x1 - x2) % p
      some (x3, (l * (x1 + p - x3) + p - y1) % p)

/-- k · P over `i` bits. -/
def ecMul (pt : Option (Nat × Nat)) (k : Nat) : Nat → Option (Nat × Nat)
  | 0 => none
  | i + 1 =>
    let r := ecMul pt (k / 2) i
    let d := ecAdd r r
    if k % 2 = 1 then ecAdd d pt else d

/-- ECDSA P-256 verification over a SHA-256 digest (R307, R319, R452).  The key's x and y and the signature's r and s are
little-endian fields, as every field of an image and a command is (R9, R307, R358); the digest is SHA-256's own number. -/
def ecdsaVerify (key : List Byte) (digest : List Byte) (sig : List Byte) : Bool :=
  let x := fieldLE key 0 32
  let y := fieldLE key 32 32
  let r := fieldLE sig 0 32
  let s := fieldLE sig 32 32
  let onCurve := x < p256P && y < p256P && y * y % p256P == (x * x % p256P * x + (p256P - 3) * x + p256B) % p256P
  if onCurve && 0 < r && r < p256N && 0 < s && s < p256N then
    let w := modInv s p256N
    let u1 := beNat digest % p256N * w % p256N
    let u2 := r * w % p256N
    match ecAdd (ecMul (some p256G) u1 256) (ecMul (some (x, y)) u2 256) with
    | none => false
    | some (px, _) => px % p256N == r
  else false

/-- Code positions 1, 2, 3 … that are no powers of two, for `k` data bits, from position `p` (R312). -/
def dataPositions : Nat → Nat → List Nat
  | 0, _ => []
  | k + 1, p => if 2 ^ p.log2 = p then dataPositions k (p + 1) else p :: dataPositions k (p + 1)

/-- The 120 positions of the entry bits (R312): 1 to 127 without the powers of two. -/
def rotaPositions : List Nat := dataPositions 127 1

/-- CHECK[6:0] of a rota entry: the XOR of the positions of its set bits (R312). -/
def rotaSyn (e : Word128) : Nat :=
  (List.zip (List.range 120) rotaPositions).foldl (fun c p => if bit e p.1 then c ^^^ p.2 else c) 0

/-- The parity of the low `k` bits of a number. -/
def parity (k : Nat) (n : Nat) : Bool := (List.range k).foldl (fun p i => p != n.testBit i) false

/-- CHECK[7:0] of a rota entry (R312). -/
def rotaCheck (e : Word128) : Nat :=
  let c := rotaSyn e
  let p := parity 120 e.toNat != parity 7 c
  c + b2n p * 128

/-- What a reader makes of a rota entry (R312): the entry, whether a bit was corrected, or an uncorrectable error. -/
inductive RotaRead where
  | clean (e : Word128)
  | corrected (e : Word128)
  | bad
  deriving DecidableEq, Repr

/-- Reads a rota entry through its check code (R312). -/
def rotaRead (e : Word128) : RotaRead :=
  let s := (field e 120 7) ^^^ rotaSyn e
  let q := parity 128 e.toNat
  if s = 0 ∧ q = false then .clean e
  else if q then
    if s = 0 then .corrected (e ^^^ BitVec.ofNat 128 (2 ^ 127))
    else if 2 ^ s.log2 = s then .corrected (e ^^^ BitVec.ofNat 128 (2 ^ (120 + s.log2)))
    else .corrected (e ^^^ BitVec.ofNat 128 (2 ^ (rotaPositions.idxOf s)))
  else .bad

end Sys2Proof.Machine
end

