-- ==== Sys2Proof/Machine/State.lean ====
section
/-! DEFINITION. The state of the module, subsystem by subsystem: registers as the maps of the spec give them, tables
indexed by unit, the memories, and the queue of waiting commands. -/

namespace Sys2Proof.Machine

open Sys2Proof

/-- The servo states of R56, in TIME_STATUS's code order (R63). -/
inductive Servo where
  | unlocked | acquire | locked | holdover | master
  deriving DecidableEq, Repr

/-- One time-pulse output (R60): its registers, the output's present drive, how many pulses it has begun, the network time
in whole ns at which its pending pulse rises, and the one at which the pulse under way ends. -/
structure Pulse where
  enable : Bool := false
  polarity : Bool := false
  mode : BitVec 2 := 0
  armed : Bool := false
  start : Word64 := 0
  period : Word64 := 0
  width : Word32 := 10
  high : Bool := false
  active : Bool := false
  begun : Nat := 0
  rise : Option Nat := none
  fall : Nat := 0
  deriving DecidableEq, Repr

/-- A capture entry (R61). -/
structure CapEntry where
  t : BitVec 80 := 0
  rising : Bool := false
  deriving DecidableEq, Repr

/-- The captured copies of the multi-word values (R62). -/
structure Captures where
  t : BitVec 80 := 0
  frc : Word64 := 0
  anchor : Word64 := 0
  offset : BitVec 80 := 0
  rate : BitVec 48 := 0x00F3CF3CF3CF
  sheafCount : Word64 := 0
  step : Word64 := 0
  deriving DecidableEq, Repr

/-- Network time (R49 to R52) and the time block's registers (R62, R63). -/
structure TimeBlock where
  frc : Word64 := 0
  anchor : Word64 := 0
  offset : BitVec 80 := 0
  rate : BitVec 48 := 0x00F3CF3CF3CF
  nextAnchor : Word64 := 0
  nextOffset : BitVec 80 := 0
  nextRate : BitVec 48 := 0
  nextPending : Bool := false
  nextLate : Bool := false
  nextRange : Bool := false
  epoch : Word64 := 0
  period : Word32 := 0x000186A0
  copies : Captures := {}
  pulse0 : Pulse := {}
  pulse1 : Pulse := {}
  capEnable : Bool := false
  capEdge : BitVec 2 := 0
  valid0 : Bool := false
  valid1 : Bool := false
  cap0 : CapEntry := {}
  cap1 : CapEntry := {}
  capOverrun : Word32 := 0
  deriving DecidableEq, Repr

/-- The servo and the time tree (R54 to R59): the state, the parent, the master heard, the runs of exchanges that R56
counts, the path delay of the last exchange, the budget of R58, the request stamp t1 of the open exchange, and whether the
module has yet to hold and resynchronize after a holdover, and a budget that waits for the exit from holdover (R390). -/
structure TimeServo where
  state : Servo := .unlocked
  parentLink : BitVec 6 := 0x3F
  holdoverExpired : Bool := false
  holdoverBudget : Word32 := 0x000001F4
  servoOffset : Word32 := 0
  named : Bool := false
  master : Key := 0xFFFF
  masterSeq : Word32 := 0
  lockRun : Nat := 0
  missRun : Nat := 0
  delay : BitVec 80 := 0
  t1 : BitVec 80 := 0
  resync : Bool := false
  budgetNext : Option Word32 := none
  deriving DecidableEq, Repr

/-- Where the sheaf machinery stands (R29 to R47): the segment with its epoch E and the number n of its last tick, the counts
of the job; of a run of mid-step held ticks the network time of the first, the ticks that count toward R44's limit and the ns for
which a link grace has paused it; the local bits sampled and the input latched, whether each has been taken for the coming tick, whether a sheaf has begun and does not rest, whether the last tick was held,
and the announced segment (epoch, P, sync epoch) whose tick 0 is still to come. -/
structure SheafState where
  syncEpoch : BitVec 2 := 0
  segEpoch : Word64 := 0
  tickNo : Nat := 0
  sheafCount : Word64 := 0
  step : Word64 := 0
  sheafInStep : BitVec 16 := 0
  heldTicks : Word32 := 0
  heldConsec : Word32 := 0
  heldSince : Option Nat := none
  heldCount : Nat := 0
  heldPaused : Nat := 0
  sampled : Byte := 0
  latched : Byte := 0
  cut : Bool := false
  taken : Bool := false
  running : Bool := false
  held : Bool := false
  atBoundary : Bool := false
  begun : Bool := false
  stepHeld : Word32 := 0
  refillLeft : Nat := 0
  nextSeg : Option (Word64 × Word32 × BitVec 2) := none
  awaitSeg : Bool := false
  pattern : Nat := 0
  deriving DecidableEq, Repr

/-- The causes for which a module holds, in GET_STATUS's bit order (R379), with the causes that order does not list. -/
structure Holds where
  host : Bool := false
  feed : Bool := false
  result : Bool := false
  journal : Bool := false
  save : Bool := false
  timeSync : Bool := false
  twin : Bool := false
  table : Bool := false
  replayEnd : Bool := false
  split : Bool := false
  debug : Bool := false
  stalled : Bool := false
  planSwitch : Bool := false
  relayRequest : Bool := false
  spareMissing : Bool := false
  restore : Bool := false
  deriving DecidableEq, Repr

/-- Why a step is aborted, in the ABORT record's cause order (R293). -/
inductive AbortCause where
  | consensus | localError | holdover | linkFailed | heldLimit
  deriving DecidableEq, Repr

/-- One entry of the chip error log (R346).  `detail` is the 16 bytes of DETAIL as a number. -/
structure LogEntry where
  seq : Word32
  code : BitVec 16
  severity : Byte
  region : Byte
  unit : BitVec 16
  action : Byte
  flags : Byte
  rep : Word32
  t : Word64
  sheafCount : Word64
  step : BitVec 48
  sheafInStep : BitVec 16
  key : Key
  detail : Word128
  deriving DecidableEq, Repr

/-- FAULT_STATUS and the counters of the fault block (R349, R350), and the error log (R346). -/
structure FaultBlock where
  recoveryActive : Bool := false
  refillActive : Bool := false
  commitFault : Bool := false
  suspect : Bool := false
  excluded : Bool := false
  recoveryStalled : Bool := false
  planSuspect : Bool := false
  restoreNeeded : Bool := false
  nextSeq : Word32 := 0
  log : List LogEntry := []
  stepAborts : Word32 := 0
  abortConsec : Word32 := 0
  heldLimitRun : Nat := 0
  hardwareSeen : Bool := false
  spareSwitches : Word32 := 0
  refillSheaves : Word32 := 0
  suspectAt : List Nat := []
  abort : Option AbortCause := none
  abortSeq : Word32 := 0
  deferred : Option AbortCause := none
  deriving DecidableEq, Repr

/-- One step's contribution digest as a module keeps it (R341). -/
structure DigestRec where
  step : BitVec 48
  attempt : Byte
  form : Byte
  digest : Word128
  deriving DecidableEq, Repr

/-- The assay (R175, R337 to R342, R349, R350).  `refillOwed` says that a verdict has ordered a refill that has not ended (R339). -/
structure Assay where
  keySet : Bool := false
  key : Word128 := 0
  twinOn : Bool := false
  twinLost : Bool := false
  verdictPending : Bool := false
  twinPending : Bool := false
  verdict : BitVec 2 := 0
  twinOutcome : BitVec 3 := 0
  attempt : Byte := 0
  step : BitVec 48 := 0
  twinWait : Word32 := 0x000003E8
  param : Word128 := 0
  contrib : Word128 := 0
  twin : Word128 := 0
  acc : Word128 := 0
  kept : List DigestRec := []
  heard : List DigestRec := []
  passed : Option (BitVec 48) := none
  firstStep : Bool := true
  sentParam : Bool := false
  refillOwed : Bool := false
  deriving DecidableEq, Repr

/-- A bypass message whose acknowledgement the sender awaits (R345). -/
structure Unacked where
  mtype : Byte
  dest : Key
  msgId : Word32
  body : BitVec 416
  len : Byte
  deriving DecidableEq, Repr

/-- A failure or recovery of a link as the coordinator recorded it (R333, R334). -/
structure LinkReport where
  src : Key
  event : Byte
  logical : Nat
  peer : Key
  step : BitVec 48
  deriving DecidableEq, Repr

/-- What the machine's recovery has in hand, on every module and on its coordinator (R332 to R345).  `failDue` lists the modules to
be declared failed at the next boundary (R340), `wanted` the replica indexes to be refilled beside those of switched-in spares. -/
structure Coordination where
  coordKey : Key := 0xFFFF
  heardAt : Option Nat := none
  heardStep : BitVec 48 := 0xFFFFFFFFFFFF
  isCoord : Bool := false
  beat : Word32 := 0
  unacked : List Unacked := []
  segAcks : List Key := []
  segEpoch : Word64 := 0
  segOpen : Bool := false
  failed : List Key := []
  failedRelays : List Key := []
  reports : List LinkReport := []
  excluded : List Key := []
  voteStep : BitVec 48 := 0
  digests : List (Key × BitVec 16 × Word128) := []
  twinResults : List (Key × BitVec 48 × Byte × Byte) := []
  starts : List (Key × StartReport) := []
  nextPlans : List (Key × StartReport) := []
  recoveries : List (Key × BitVec 16 × Bool × Bool) := []
  removals : List Key := []
  relayHold : List Key := []
  refill : List (BitVec 16) := []
  refillGen : BitVec 16 := 0
  wanted : List (BitVec 16) := []
  failDue : List Key := []
  form : Byte := 0
  deriving DecidableEq, Repr

/-- A journal record with whether it has been spilled, and where in the journal range it stands (R291). -/
structure JournalItem where
  entry : JournalRec
  spilled : Bool
  at_ : Nat := 0
  deriving DecidableEq, Repr

/-- A registered host buffer: its port, bus address and length in bytes of each piece (R190, R378), and its window
base. -/
structure HostBuffer where
  port : Nat
  window : Nat
  pieces : List (Nat × Nat)
  deriving DecidableEq, Repr

/-- Replay (R296 to R300). -/
structure Replay where
  active : Bool := false
  diverged : Bool := false
  planWait : Bool := false
  action : Nat := 0
  first : BitVec 48 := 0
  last : BitVec 48 := 0
  step : BitVec 48 := 0
  divStep : BitVec 48 := 0
  divHold : Bool := false
  feedMismatch : Word32 := 0
  records : List JournalRec := []
  deriving DecidableEq, Repr

/-- The input journal and the determinism block (R289 to R295, R305); `head` is where in the range the next record goes. -/
structure Glean where
  on : Bool := false
  base : Nat := 0
  length : Nat := 0
  full : Bool := false
  dropPolicy : Bool := false
  spill : Option HostBuffer := none
  spillOffset : Nat := 64
  head : Nat := 0
  records : List JournalItem := []
  broken : Bool := false
  held : Bool := false
  feedChanged : Bool := false
  varBase : Nat := 0
  rseq : Word64 := 0
  spilledSeq : Word64 := 0
  holds : Word32 := 0
  gaps : Word32 := 0
  replay : Replay := {}
  deriving DecidableEq, Repr

/-- The hazard registers (R325). -/
structure Hazard where
  recorded : Bool := false
  kind : BitVec 3 := 0
  whereW : Word32 := 0
  sheaf : Word32 := 0
  step : Word32 := 0
  addr : BitVec 48 := 0
  count : Word32 := 0
  deriving DecidableEq, Repr

/-- A plan image as loaded: the header of R307, the plan hash of R293, the signature with the digest that it covers (R318), and
its content. -/
structure Plan where
  hash : Hash
  profile : Nat
  cellMask : Nat
  flags : Byte
  period : Nat
  stepLen : Nat
  commit : Nat
  margin : Nat
  skew : Nat
  grace : Nat
  envelope : Nat
  relayEnvelope : Nat
  mapHash : Hash
  seed : Word64
  length : Nat
  sections : List (List Nat)
  digest : List Byte := []
  signature : List Byte := []
  keyId : List Byte := []
  image : List Byte := []
  body : PlanBody
  deriving DecidableEq, Repr

/-- A bound machine map (R384). -/
structure MachineMap where
  hash : Hash
  twins : Nat
  racks : Nat
  cells : Nat
  master : Key
  coord : Key
  coords : List (Key × Bool)
  links : List MapLink
  swap : List (Key × BitVec 16)
  positions : List Nat
  deriving DecidableEq, Repr

/-- One captured range of a save image: where its data stand in the image, where in checkpoint staging, and their length (R301). -/
structure SavePart where
  offset : Nat
  place : Nat
  length : Nat
  deriving DecidableEq, Repr

/-- A save in progress (R301). -/
inductive SavePhase where
  | idle | armed | capturing | uploading
  deriving DecidableEq, Repr

/-- The pending save: `head` holds the image's header and directory, `parts` the ranges that await their upload, `size` the image's
length. -/
structure Save where
  phase : SavePhase := .idle
  port : Nat := 0
  mbx : Nat := 0
  holdAfter : Bool := false
  image : Option HostBuffer := none
  step : BitVec 48 := 0
  head : List Byte := []
  parts : List SavePart := []
  size : Nat := 0
  rseq : Word64 := 0
  deriving DecidableEq, Repr

/-- Where the job of the module stands (R385). -/
inductive JobPhase where
  | none | starting | running
  deriving DecidableEq, Repr

/-- No mailbox: the number after the last. -/
def noMailbox : Nat := 8

/-- The job (R385 to R387).  `mbx` is the mailbox that awaits the start, or none. -/
structure Job where
  phase : JobPhase := .none
  port : Nat := 0
  mbx : Nat := 0
  startWait : Nat := 60000
  reported : Bool := false
  replayMode : Bool := false
  joining : Bool := false
  firstStep : BitVec 48 := 0
  seed : Word64 := 0
  cells : Nat := 0
  replica : BitVec 16 := 0xFFFF
  form : Byte := 0
  restored : Option (BitVec 48 × Word64) := none
  restoredHead : List Byte := []
  lastCommit : Option (BitVec 48) := none
  hostArm : Option (Word64) := none
  hostMbx : List (Nat × Nat × Word64) := []
  resumeMbx : List (Nat × Nat) := []
  stopMode : Option (BitVec 8) := none
  stopMbx : List (Nat × Nat) := []
  deriving DecidableEq, Repr

/-- The plan store: the current plan, the next plan with the switch step while a switch is staged, the bound map, the owner's plan key of
R319, and whether RESTORE_STATE has loaded a save image since the plan was loaded (R316). -/
structure PlanStore where
  cur : Option Plan := none
  next : Option Plan := none
  switchStep : Option Word64 := none
  map : Option MachineMap := none
  ownerKey : Option (List Byte) := none
  imageRestored : Bool := false
  deriving DecidableEq, Repr

/-- A port's role, in PORT_ID's code order (R355). -/
inductive PortRole where
  | none | observer | feeder | owner
  deriving DecidableEq, Repr

/-- A mailbox's state, in MBX_STATUS's code order (R355). -/
inductive MbxState where
  | idle | posted | inProgress | done
  deriving DecidableEq, Repr

/-- One mailbox (R355, R358): its registers, the two areas, the length and ID of the command it serves, the mailbox whose
response it awaits (R362), and whether its command waits for a scrub (R397). -/
structure Mailbox where
  postLo : Word32 := 0
  state : MbxState := .idle
  dup : Bool := false
  overpost : Bool := false
  status : BitVec 16 := 0
  cplEn : Bool := false
  cplAddr : Word64 := 0
  cmd : Memory := []
  resp : Memory := []
  len : Nat := 0
  id : Word32 := 0
  follows : Option (Fin 8) := none
  waits : Bool := false
  deriving DecidableEq, Repr

/-- A duplicate record (R362). -/
structure DupRec where
  id : Word32
  hash : Hash
  status : BitVec 16
  resp : Memory
  deriving DecidableEq, Repr

/-- A host port (R353 to R374).  `posted` lists its mailboxes in the order of their last posts (R360). -/
structure Port where
  role : PortRole := .none
  up : Bool := false
  events : Word32 := 0
  mask : Word32 := 0
  abortPending : Bool := false
  abortDone : Bool := false
  abortForced : Bool := false
  jobAborted : Bool := false
  abortCount : Byte := 0
  bar2Base : BitVec 12 := 0
  bar2Cause : BitVec 3 := 0
  bar2Fails : BitVec 24 := 0
  msix : Sparse Word32 := []
  pba : Word64 := 0
  boxes : Sparse Mailbox := []
  dups : List DupRec := []
  windows : List HostBuffer := []
  posted : List Nat := []
  deriving DecidableEq, Repr

/-- The bytes of a step's feed as they stand in feed staging (R294). -/
structure FeedBytes where
  step : Word64
  length : Nat
  digest : Hash
  deriving DecidableEq, Repr

/-- The feed ring and the pull under way (R367 to R369).  Feed staging holds the feed validated last and, until its step commits, the
one before it (R294); `lost` names the steps whose staged bytes are to be pulled again (R197). -/
structure Feed where
  port : Nat := 0
  ring : List HostBuffer := []
  pulling : Option Word64 := none
  validated : Option FeedBytes := none
  prior : Option FeedBytes := none
  lost : List Word64 := []
  retention : Word128 := 0
  heldFor : Option Word64 := none
  deriving DecidableEq, Repr

/-- A result that waits for its slot (R372). -/
structure Waiting where
  q : Nat
  step : BitVec 48
  data : List Byte
  deriving DecidableEq, Repr

/-- A result stream (R370 to R372). -/
structure ResultStream where
  port : Nat := 0
  slots : List HostBuffer := []
  overwrite : Bool := false
  produced : Nat := 0
  gens : List Nat := []
  acked : List Nat := []
  waiting : List Waiting := []
  overruns : Nat := 0
  lost : List Nat := []
  heldFor : Option Word64 := none
  deriving DecidableEq, Repr

/-- The module-wide counters of R355. -/
structure HostCounters where
  feedHolds : Word32 := 0
  feedPulls : Word32 := 0
  feedRejects : Word32 := 0
  resultWrites : Word32 := 0
  resultHolds : Word32 := 0
  resultOverruns : Word32 := 0
  dupHits : Word32 := 0
  hostUnavail : Word32 := 0
  deriving DecidableEq, Repr

/-- What leaves the module towards its hosts and its tray, oldest first. -/
inductive Out where
  | hostWrite (port : Nat) (addr : Nat) (bytes : List Byte)
  | msix (port : Nat) (vector : Nat)
  | unsupported (port : Nat)
  | completion (port : Nat) (ok : Bool) (bytes : List Byte)
  | management (what : String) (bytes : List Byte)
  deriving DecidableEq, Repr

/-- The reset sources, in RESET_CAUSE's bit order (R395, R416); a port reset has its port's number. -/
inductive ResetSource where
  | powerGood | supply | rstPin | mgmtCold | mgmtWarm | hostWarm | hostJob | watchdog | thermal | forcedAbort
  | fwRegion | fwBlock
  deriving DecidableEq, Repr

/-- The reset block (R394 to R416): the sources now active, the episode open, the cause registers, the straps and fuses.
`bootDraw` and `fuseDraw` number the free values that the image and the fuse banks had at boot and at fuse sensing (R450). -/
structure ResetBlock where
  active : List ResetSource := []
  episode : List ResetSource := [.powerGood]
  latch : BitVec 16 := 1
  cause : Word32 := 0
  lastCause : Word32 := 0
  target : Word32 := 0x00000FFF
  bootSrc : BitVec 2 := 0
  clkMode : BitVec 2 := 0
  role : Bool := false
  strapInvalid : Bool := false
  booted : BitVec 2 := 0
  bootFail : Bool := false
  factoryValid : Bool := false
  fusesProgrammed : Bool := false
  fuseConflict : Bool := false
  gradeB : Bool := false
  stepping : Byte := 0xB0
  episodes : Word32 := 0
  startupMs : BitVec 16 := 0
  birtur : Bool := false
  recoveryWait : Bool := false
  rstDriven : Bool := false
  scrubHbm : Bool := false
  scrubDdr : Bool := false
  fusedBlocks : List Nat := []
  integratorBank : List Byte := []
  blownBank : List Byte := []
  fuseFloor : Nat := 0
  imageVersion : Word32 := 0
  validVersions : List Word32 := []
  serial : Word64 := 0
  fwVersion : Word32 := 0
  vendorId : BitVec 16 := 0
  subVendorId : BitVec 16 := 0
  subsystemId : BitVec 16 := 0
  due : List ResetSource := []
  jobMbx : Option (Nat × Nat) := none
  sight : Option ExitSight := none
  bootDraw : Nat := 0
  fuseDraw : Nat := 0
  deriving DecidableEq, Repr

/-- One copy of a granary record slot: its generation and its body; a torn or foreign copy is `none` where it is kept
(R419, R420). -/
structure GranCopy where
  gen : Nat
  poh : Word32
  body : List Byte
  deriving DecidableEq, Repr

/-- A granary record: two slots on each of two NOR devices, or two slots of MRAM kept as the first device (R418, R420); the erase
count of each slot of NOR (R426), in the order a0, a1, b0, b1. -/
structure GranRecord where
  a0 : Option GranCopy := none
  a1 : Option GranCopy := none
  b0 : Option GranCopy := none
  b1 : Option GranCopy := none
  failsA : Nat := 0
  failsB : Nat := 0
  stopA : Bool := false
  stopB : Bool := false
  erases : List Nat := [0, 0, 0, 0]
  recent : Bool := false
  held : Option (List Byte) := none
  running : Option (List Byte) := none
  deriving DecidableEq, Repr

/-- A repair entry of REPAIR_DELTA with its sequence number (R425, R427): kind 1 a block's CELL_MAP, 2 a failed block, 3 a row
of HBM (`place` is the stack's pseudo-channel and bank, `value` the row), 4 a row of DDR5 (`place` is the channel). -/
structure Repair where
  seq : Nat
  kind : Nat
  place : Nat
  value : Nat
  hard : Bool := false
  deriving DecidableEq, Repr

/-- What the granary keeps of one region's supply (R80 to R82, R425, R429): TEMPER_STEPS' count, its flags and the minute of
power-on time of each applied step, oldest first; TEMPER_WEEK's histogram as it grows and as last committed; TEMPER_HIST's
medians, oldest first, how many of them were taken since the last applied step, and its copy of the count. -/
structure Temper where
  steps : Nat := 0
  scheduled : Bool := false
  eol : Bool := false
  dates : List Nat := []
  samples : Sparse Nat := []
  saved : Sparse Nat := []
  medians : List Nat := []
  since : Nat := 0
  copied : Nat := 0
  deriving DecidableEq, Repr

/-- The granary (R417 to R435). -/
structure Granary where
  recs : Sparse GranRecord := []
  nor0 : Bool := false
  nor1 : Bool := false
  mram : Bool := false
  holdupOk : Bool := false
  pfActive : Bool := false
  restored : Bool := false
  writeFail : Bool := false
  foldPending : Bool := false
  eol : Word32 := 0
  eolTold : Word32 := 0
  powerMinutes : Nat := 0
  coldStarts : Nat := 0
  powerLosses : Word32 := 0
  thermalTrips : Nat := 0
  thermalPeak : Nat := 0
  startCount : Byte := 0
  commits : Word32 := 0
  deferred : Word32 := 0
  writeFails : Word32 := 0
  holdupTime : BitVec 12 := 0
  delta : List Repair := []
  deltaSeq : Nat := 0
  lastFolded : Nat := 0
  repairMap : List Repair := []
  resetHist : List (Word32 × Nat) := []
  summary : List LogEntry := []
  codeCounts : Sparse Nat := []
  planKeys : List (BitVec 512) := []
  xcal : Sparse Nat := []
  ddrSerials : List Nat := []
  newestA : Bool := true
  rollback : Word32 := 0
  temper : Sparse Temper := []
  laserBias : Sparse Nat := []
  laserKnown : Bool := true
  laserLit : Sparse Nat := []
  deriving DecidableEq, Repr

/-- The hot-plug states, in R458's code order. -/
inductive HotPlug where
  | off | powered | placed | spare | active | leaving | safe
  deriving DecidableEq, Repr

/-- A PLDM platform event that waits to be read (R448). -/
structure PlatformEvent where
  what : String
  value : Nat
  deriving DecidableEq, Repr

/-- The module's hardware and management (R439 to R463).  `hot` says that a junction stands above 105 °C (R425). -/
structure Mgmt where
  key : Key := 0xFFFF
  tag : Word32 := 0
  hotplug : HotPlug := .off
  blocked : Bool := false
  removal : Bool := false
  rmvOk : Bool := false
  powered : Bool := true
  pgOut : Bool := true
  events : List PlatformEvent := []
  lostEvents : Bool := false
  alert : Bool := false
  address : Option (BitVec 7) := none
  opening : List Nat := []
  sessions : List Nat := []
  nextSession : Nat := 0
  neighbours : Sparse (BitVec 160) := []
  g : Nat := 0
  holdTicks : Nat := 0
  downTicks : Nat := 0
  cap : Nat := 2800
  hot : Bool := false
  deriving DecidableEq, Repr

/-- Why a region's plan stepping is stopped (R141, R134, R216, R225, R260, R178). -/
inductive Stall where
  | arrival | instruction | window | forward | rotaHold | refresh
  deriving DecidableEq, Repr

/-- A clock region (R64 to R84).  Held and stretched time is kept in units of 1/65536 of a nominal period: `xrem` and
`lrem` are the remainders of R76, `holdLeft` and `lag` the time by which the region's next edges wait.  `warned` says that a
droop warning was raised in the present period (R68, R70); `badData` lists the tokens of the sheaf that were delivered with
error status, each by its sender and its release cycle (R79). -/
structure Region where
  active : Bool := false
  calFail : Bool := false
  marginLow : Bool := false
  temperEol : Bool := false
  margin : BitVec 6 := 0
  least : BitVec 6 := 0
  measured : Bool := false
  stretches : Word32 := 0
  throttled : Word32 := 0
  xhold : Word32 := 0
  leadHold : Word32 := 0
  xcrc : Word32 := 0
  netDroop : Word32 := 0
  xrem : Nat := 0
  lrem : Nat := 0
  holdLeft : Nat := 0
  lag : Nat := 0
  warned : Bool := false
  badData : List (Nat × Nat) := []
  phase : Nat := 0
  guard : BitVec 5 := 0
  guardSender : BitVec 6 := 0
  away : Bool := false
  temper : Nat := 0
  scheduled : Bool := false
  cycle : Nat := 0
  done : Bool := true
  stall : Option Stall := none
  gatedCc : Word32 := 0
  deriving DecidableEq, Repr

/-- What a token carries across a crossing (R72, R137): rows of an XFER for a block's SRAM, a SIGNAL for a group, half a
vector pair for an egress entry, a request of an HBM move with its answer, or words for a stack. -/
inductive Payload where
  | rows (block off : Nat) (bytes : List Byte) (rank : Nat)
  | signal (block group : Nat)
  | egress (at_ : Nat) (bytes : List Byte)
  | rota (link : Nat) (seq : BitVec 16)
  | hbmRead (block sram : Nat) (addr : Nat) (line : Nat) (rank : Nat)
  | hbmData (block sram : Nat) (bytes : List Byte) (rank : Nat)
  | hbmWrite (block : Nat) (addr : Nat) (bytes : List Byte) (line : Nat)
  deriving DecidableEq, Repr

/-- A token in flight on a crossing (R71, R72): sender and receiver regions, the sender's cycle, the receiver's release
cycle. -/
structure Token where
  src : Nat
  dst : Nat
  sent : Nat
  release : Nat
  payload : Payload
  deriving DecidableEq, Repr

/-- An effect of a block operation that falls due in a later sheaf cycle (R137, R138). -/
inductive Act where
  | setV (r : Nat) (row : Row)
  | setT (r : Nat) (row : Row)
  | sram (off : Nat) (bytes : List Byte)
  | opb (cell line : Nat) (bytes : List Byte)
  | readOpb (cell line off : Nat) (refused : Bool)
  | readXfer (target off src : Nat) (release : Nat) (refused : Bool) (dstRefused : Bool)
  | readEgress (net entry src : Nat) (release : Nat) (refused : Bool)
  | readHbmWr (addr src : Nat) (first : List Byte) (refused : Bool) (line : Nat)
  deriving DecidableEq, Repr

/-- An effect with its due cycle and the rank of the operation that started it (R116, R138). -/
structure Due where
  cycle : Nat
  rank : Nat
  act : Act
  deriving DecidableEq, Repr

/-- One accumulator of a PE (R95, R97, R109): the exact value in units of its least significant bit, the flags 1 NaN, 2 +Inf,
4 −Inf, and the residue modulo 255 that the separate path has summed. -/
structure Acc where
  v : Int := 0
  flags : Nat := 0
  residue : Nat := 0
  deriving DecidableEq, Repr

/-- What a PE holds of a chunk (R95, R96): its accumulator, or the two of an MX chunk with the sums of their scale codes. -/
structure PeRun where
  acc : Acc := {}
  acc1 : Acc := {}
  scale : Nat := 0
  scale1 : Nat := 0
  deriving DecidableEq, Repr

/-- A chunk that a logical cell runs (R86, R88): its format code, result buffer, issue cycle, what its 4,096 PEs hold, row by
row, whether an operand byte was read with a parity mismatch (R108), whether an array fault shows in a residue, and what its two
rounders get wrong (R109). -/
structure ChunkRun where
  fmt : Nat
  rb : Bool
  issue : Nat
  pes : List PeRun
  parityBad : Bool := false
  residueBad : Bool := false
  rounders : RounderFaults := {}
  deriving DecidableEq, Repr

/-- An open loop level (R135): the iteration, the trip count and the body's first line. -/
structure LoopLevel where
  level : Nat
  iter : Nat
  trip : Nat
  body : Nat
  deriving DecidableEq, Repr

/-- A block's arrival groups (R139 to R142): expected and present counts, the failed and loose masks, the groups that
completed in the present period, and the order of senders seen. -/
structure Groups where
  expected : Sparse Nat := []
  count : Sparse Nat := []
  failed : Word64 := 0
  loose : Word64 := 0
  fresh : Word64 := 0
  sender : Sparse Nat := []
  disordered : Word64 := 0
  deriving DecidableEq, Repr

/-- A sequencer (R122, R134, R135, R163): the line now issuing, the cycles its IDLE field still covers, what the fetcher has
delivered, the stream's length, the open loops, and the wait it stands at.  `issued` says that the line has issued and its
IDLE cycles run, `reported` that it was found illegal; `ahead` counts the lines that the fetcher already holds of the next
sheaf's stream, which is that of pattern `aheadPattern`. -/
structure Sequencer where
  line : Nat := 0
  left : Nat := 0
  length : Nat := 0
  fetched : Nat := 0
  issued : Bool := false
  reported : Bool := false
  ahead : Nat := 0
  aheadPattern : Nat := 0
  jump : Option Nat := none
  loops : List LoopLevel := []
  waiting : Option (Nat × Nat) := none
  stalled : Bool := false
  ended : Bool := true
  deriving DecidableEq, Repr

/-- A vector that the arrival port stores in the present period (R117, R159): its place, whether it is added (R140), its
bytes. -/
structure Arrival where
  place : Nat
  loose : Bool := false
  bytes : List Byte
  deriving DecidableEq, Repr

/-- A physical block (R113 to R151).  Its SRAM and instruction memory are bytes of `State.mem` at its windows (R188);
`opbParity` holds the even-parity bit of each operand-buffer byte (R108), `arrivals` what lands in the present period. -/
structure Block where
  active : Bool := false
  isolated : Bool := false
  failed : Bool := false
  fused : Bool := false
  spareInUse : Bool := false
  frozen : Bool := false
  logical : BitVec 6 := 0x3F
  err : Word32 := 0
  errInfo : Word32 := 0
  cellMap : Word32 := 0x00004688
  arrivalStalls : Word32 := 0
  instrStalls : Word32 := 0
  variant : Word32 := 0
  sramCe : Word32 := 0
  sramUeAddr : Word32 := 0
  isoDiscards : Word32 := 0
  planFaults : Word32 := 0
  planFaultInfo : Word32 := 0
  groups : Groups := {}
  sel : BitVec 2 := 0
  seq : Sequencer := {}
  tables : BlockTables := {}
  v : Sparse Row := []
  t : Sparse Row := []
  opb : Sparse Memory := []
  opbParity : Sparse Memory := []
  results : Sparse Word32 := []
  chunks : List (Nat × ChunkRun) := []
  undrained : Sparse Nat := []
  landed : List (Nat × Nat) := []
  cellFree : Sparse Nat := []
  channelFree : Sparse Nat := []
  reads : Sparse Nat := []
  writes : Sparse Nat := []
  pend : List Due := []
  arrivals : List Arrival := []
  rank : Nat := 0
  faulty : List Nat := []
  deriving DecidableEq, Repr

/-- The per-step scalars of one kernel descriptor (R168); lr is read with the instruction (R167, log entry 22). -/
structure StepScalars where
  r1 : Word32 := 0
  r2 : Word32 := 0
  c1 : Word32 := 0
  c2 : Word32 := 0
  deriving DecidableEq, Repr

/-- Bytes that a stack operation or a block's HBM_WR has yet to make visible (R137, R165): the cycle from which a read
returns them, a device address, and the block whose HBM_WR they are. -/
structure StackWrite where
  cycle : Nat
  addr : Nat
  bytes : List Byte
  owner : Option Nat := none
  deriving DecidableEq, Repr

/-- An engine's HBM write that its slice refuses (R156, R165): the cycle in which it is judged, its place, its instruction's
line and its engine. -/
structure Slip where
  cycle : Nat
  place : Nat
  line : Nat
  engine : Nat
  deriving DecidableEq, Repr

/-- What one engine gathers while an operation runs: its scalars lr, gs and the trust ratio, the bytes and scale bytes of
the digest string (R175), and the squares of the two partial norms (R170). -/
structure EngineRun where
  engine : Nat
  lr : Word32 := 0
  gs : Word32 := 0
  ratio : Word32 := 0
  bytes : List Byte := []
  scales : List Byte := []
  w2 : List Word32 := []
  u2 : List Word32 := []
  deriving DecidableEq, Repr

/-- A stack operation under way (R165): its code, instruction and line, the loop iterations at issue, its groups with
their occupancy `t`, the cycles `rho` from a group's read to its result before write-back, and the next group. -/
structure StackRun where
  code : Nat
  f : SFields
  line : Nat
  iters : List Nat
  kd : KDesc
  hashed : Bool
  issue : Nat
  groups : Nat
  t : Nat
  rho : Nat
  next : Nat
  engines : List EngineRun
  deriving DecidableEq, Repr

/-- A stack region (R152 to R184).  Its arrays and its staging store are bytes of `State.mem` (R185); `imem` is its instruction
memory (R163), `arrivals` what lands in the present period, `slips` the writes to be refused. -/
structure Stack where
  active : Bool := false
  degraded : Bool := false
  autoRefresh : Bool := false
  digestValid : Bool := false
  frozen : Bool := false
  err : Word32 := 0
  errInfo : Word32 := 0
  ceCount : Word32 := 0
  ueAddr : Word64 := 0
  arrivalStalls : Word32 := 0
  instrStalls : Word32 := 0
  planFaults : Word32 := 0
  planFaultInfo : Word32 := 0
  refreshForced : Word32 := 0
  debtMax : BitVec 3 := 0
  ppr : Word32 := 0
  digest : Word128 := 0
  arrDiscards : Word32 := 0
  groups : Groups := {}
  seq : Sequencer := {}
  tables : StackTables := {}
  scalars : Sparse StepScalars := []
  acc : Sparse Word128 := []
  debt : Sparse Nat := []
  busy : Sparse Nat := []
  runs : List StackRun := []
  writes : List StackWrite := []
  slips : List Slip := []
  arrivals : List Arrival := []
  imem : Memory := []
  slices : List Word128 := []
  gate : Nat := 0
  forced : List Nat := []
  retire : List Nat := []
  landed : List (Nat × Nat) := []
  written : List (Nat × Nat) := []
  deriving DecidableEq, Repr

/-- A move under way on a tier-move engine (R199 to R203): the cycles of the I/O region and of the HBM side's stack region at
which it began. -/
structure MoveRun where
  move : TierMove
  began : Nat
  slot : Nat := 0
  deriving DecidableEq, Repr

/-- A DDR5 channel with its tier-move engine (R192 to R205).  `restore` lists the units to be restored at the boundary, `ueRows` the rows
that errors have hit since the last one, `badRows` those of before (R204). -/
structure Ddr where
  present : Bool := false
  trained : Bool := false
  fromStore : Bool := false
  mrdimm : Bool := false
  ce : Bool := false
  ue : Bool := false
  mixed : Bool := false
  capacity : Nat := 0
  speed : Nat := 0
  ceCount : Word32 := 0
  ueAddr : BitVec 48 := 0
  moves : Word32 := 0
  late : Word32 := 0
  lateMax : Word32 := 0
  suspends : Word32 := 0
  run : Option MoveRun := none
  queue : List TierMove := []
  background : Bool := false
  suspended : Bool := false
  restore : List Nat := []
  badRows : List Nat := []
  ueRows : List Nat := []
  serial : Nat := 0
  deriving DecidableEq, Repr

/-- A vector that comes for the forward store in the present period (R276): its link and its entry. -/
structure FwdArrival where
  link : Nat
  entry : Nat
  vec : Vec512
  deriving DecidableEq, Repr

/-- A vector with its place in the rota and its landing (R208, R209, R211): the part and slot that sent it. -/
structure Latched where
  part : Nat
  slot : Nat
  dst : Word32
  dgrp : BitVec 12
  op : BitVec 4
  payload : Vec512
  deriving DecidableEq, Repr

/-- A network region's rota part (R206 to R230).  `ahead` counts the entries that the fetcher already holds of the next
sheaf's part, which is that of pattern `aheadPattern` (R216); `frozen` is a hazard's freeze of the part (R324). -/
structure Net where
  active : Bool := false
  sent : Word32 := 0
  stallCc : Word32 := 0
  fwdHoldCc : Word32 := 0
  darkSkips : Word32 := 0
  collides : Word32 := 0
  corrected : BitVec 16 := 0
  uncorrected : BitVec 16 := 0
  windowStall : Bool := false
  fwdHold : Bool := false
  rotaHold : Bool := false
  heldEntry : BitVec 12 := 0
  heldLink : BitVec 6 := 0
  fetched : Nat := 0
  read : Nat := 0
  length : Nat := 0
  budget : Nat := 0
  ahead : Nat := 0
  aheadPattern : Nat := 0
  blank : List Nat := []
  blankAhead : List Nat := []
  digest : Word128 := 0
  written : List Nat := []
  frozen : Bool := false
  deriving DecidableEq, Repr

/-- A port-table entry (R218, R219, R230). -/
structure PortEntry where
  phys : BitVec 6 := 0x3F
  enabled : Bool := false
  remapped : Bool := false
  port : BitVec 6 := 0
  deriving DecidableEq, Repr

/-- A table update as it travels and as it is staged (R222). -/
structure TableSet where
  gen : BitVec 16
  form : Nat
  positions : List Nat
  committed : Bool
  localOnly : Bool
  held : Bool := false
  deriving DecidableEq, Repr

/-- The installed tables, the staged update and the coordinator's acknowledgements (R217 to R222). -/
structure Tables where
  form : Byte := 0
  gen : BitVec 16 := 0
  ports : Sparse PortEntry := []
  stage : Sparse Byte := []
  positions : Sparse Nat := []
  staged : Option TableSet := none
  ackedBy : List Key := []
  offered : Option TableSet := none
  remaps : List (Nat × Nat) := []
  remapWaits : Bool := false
  deriving DecidableEq, Repr

/-- The states of a link, in R252's code order. -/
inductive LinkState where
  | dark | seek | adapt | align | discover | up | quarantine | fastRetrain | failed
  deriving DecidableEq, Repr

/-- A DATA packet in a replay buffer (R238, R245): its latched content, its sequence number, its transmissions, and whether
it is still in the crossing to the region of its link (R215). -/
structure Held where
  seq : BitVec 16
  data : Latched
  crossing : Bool := false
  sent : Nat
  lastSent : Nat
  deriving DecidableEq, Repr

/-- A bypass packet that waits in a link's queue, with the time at which it began to wait, and the link on which it came
when it is being forwarded (R250, R251). -/
structure Queued where
  msg : BypMsg
  since : Nat
  via : Option Nat := none
  deriving DecidableEq, Repr

/-- What a link has put on the wire (R235 to R237): the type code, the header's own fields, the DATA fields, the payload
and the CRC; a BYPASS packet also lists the messages that its payload holds, and a TRAIN packet its request. -/
structure Sent where
  type : BitVec 3
  seq : BitVec 16
  ack : BitVec 16
  nak : Bool
  sync : Byte
  credit : BitVec 4
  dgrp : BitVec 12
  dst : Word32
  op : BitVec 4
  payload : Vec512
  crc : Word32
  msgs : List BypMsg
  deriving DecidableEq, Repr

/-- The error and traffic counters of a link (R270). -/
structure LinkCounters where
  crc : Word32 := 0
  fecCorrected : Word32 := 0
  fecUncorrectable : Word32 := 0
  naksSent : Word32 := 0
  replayed : Word32 := 0
  dups : Word32 := 0
  bypSent : Word32 := 0
  bypReceived : Word32 := 0
  bypDrops : Word32 := 0
  fastRetrains : BitVec 16 := 0
  fullTrainings : BitVec 16 := 0
  maintRetrains : Word32 := 0
  rotaHoldCc : Word32 := 0
  flushed : Word32 := 0
  fillMax : Nat := 0
  creditMin : Nat := 0
  deriving DecidableEq, Repr

/-- A physical link (R231 to R271).  `txOff` marks the transmitters that a loss of light on the same lane has turned off (R268);
`idMsg` is the MSG_ID under which IDENTITY repeats (R251), `barred` a DARK that UNEXPECTED brought (R264), `wasUp` that the link has
been UP since it left DARK (R259). -/
structure Link where
  state : LinkState := .dark
  grace : Option Nat := none
  laserOn : Bool := false
  disc : BitVec 4 := 0
  peerKey : Key := 0xFFFF
  err : Word32 := 0
  laneMap : Word32 := 0
  latency : BitVec 14 := 0
  cls : BitVec 2 := 0
  overBound : Bool := false
  nextSeq : BitVec 16 := 0
  base : BitVec 16 := 0
  seen : Sparse Bool := []
  landing : List Latched := []
  replay : List Held := []
  replayAt : Option (BitVec 16) := none
  naking : Bool := false
  nakCause : Nat := 0
  highest : BitVec 16 := 0
  lastWindowReplay : Bool := false
  credits : Nat := 0
  owed : Nat := 0
  queue : List Queued := []
  peerSerial : Word64 := 0
  peerLink : BitVec 6 := 0
  peerRole : Bool := false
  peerRev : BitVec 16 := 0
  peerFw : Word32 := 0
  counters : LinkCounters := {}
  ownCode : BitVec 4 := 0
  peerCode : BitVec 4 := 0
  trainedOnce : Bool := false
  full : Bool := false
  maint : List Nat := []
  discoverAfter : Bool := false
  freshSeq : Bool := false
  lostLanes : BitVec 4 := 0
  txOff : BitVec 4 := 0
  declared : Bool := false
  rxSync : Option (Bool × Bool × Bool) := none
  maintWanted : Bool := false
  asked : Option TrainReq := none
  replayFrom : Option (BitVec 16) := none
  idMsg : Word32 := 0
  barred : Bool := false
  wasUp : Bool := false
  peerId : Option IdBlock := none
  wire : List Sent := []
  deriving DecidableEq, Repr

/-- What a destination keeps of one source of bypass messages (R251). -/
structure SourceRec where
  start : Byte
  top : Nat
  have_ : List Nat
  deriving DecidableEq, Repr

/-- The bypass channel of the module (R247 to R251): routes by destination key (primary and second link), what was
delivered to firmware, the sources' records, and the answers kept for repeated requests. -/
structure Bypass where
  routes : Sparse (Nat × Nat) := []
  inbox : List BypMsg := []
  sources : Sparse SourceRec := []
  answers : List (Key × Word32 × BypMsg) := []
  dups : Word32 := 0
  number : Nat := 0
  graceLimit : Word32 := 0x00000032
  deriving DecidableEq, Repr

/-- The role block (R283): the relay requests sent and the forward store's counts (R276).  `fatal` says that the relay has detected
its own fatal fault (R280). -/
structure RoleBlock where
  computeGated : Bool := false
  ddrOff : Bool := false
  secondCopy : Bool := false
  fwdStored : Word32 := 0
  fwdCut : Word32 := 0
  fwdUnread : Word32 := 0
  holdReqs : BitVec 16 := 0
  abortReqs : BitVec 16 := 0
  inputPower : BitVec 12 := 0
  fatal : Bool := false
  deriving DecidableEq, Repr

/-- Why the module stops: no command of the table stops it, so no meaning raises a fault.  The one constructor stands for
a fault that the interface could name; it is raised by nothing, which is safe. -/
inductive Fault where
  | never
  deriving DecidableEq, Repr

/-- Why the model has no answer.  Raised only by `exec` for a command that has no meaning yet; safe, because no claim about
the command can then be proved. -/
inductive Refusal where
  | notModelled (mnemonic : String)
  deriving DecidableEq, Repr

/-- The whole module: every register, buffer, table and queue that the spec gives it, its memories, what it has sent to
its hosts and its tray, and the commands that wait, first in, first out.  `weak` lists the ECC units of `mem`, each
by the address of its first byte, whose accesses find an error: 1 correctable, 2 uncorrectable (R147, R181, R204), 3 of the command
or address parity (R180); the world puts entries in, a write of the unit takes an error of its bits out (log entry 23).  `fwdArrivals` is what comes for the forward
store in the present period (R276), `turn` the port whose command firmware looks for next (R360). -/
structure State where
  pending : List Instr := []
  time : TimeBlock := {}
  servo : TimeServo := {}
  sheaf : SheafState := {}
  holds : Holds := {}
  fault : FaultBlock := {}
  assay : Assay := {}
  coord : Coordination := {}
  glean : Glean := {}
  hazard : Hazard := {}
  store : PlanStore := {}
  job : Job := {}
  save : Save := {}
  ports : Sparse Port := []
  feed : Feed := {}
  results : Sparse ResultStream := []
  counts : HostCounters := {}
  rst : ResetBlock := {}
  granary : Granary := {}
  mgmt : Mgmt := {}
  regions : Sparse Region := []
  tokens : List Token := []
  blocks : Sparse Block := []
  stks : Sparse Stack := []
  ddr : Sparse Ddr := []
  nets : Sparse Net := []
  tables : Tables := {}
  links : Sparse Link := []
  bypass : Bypass := {}
  role : RoleBlock := {}
  mem : Memory := []
  weak : Sparse Nat := []
  egress : Memory := []
  forward : Sparse (Option Vec512) := []
  fwdArrivals : List FwdArrival := []
  turn : BitVec 2 := 0
  out : List Out := []
  free : Nat := 0
  deriving DecidableEq, Repr

/-- The module right after a power-on reset, its exit sequence not yet run: every register at the value its map gives,
every memory listing nothing, no command waiting. -/
def State.reset : State := {}

end Sys2Proof.Machine
end

