-- ==== Sys2Proof/Machine/Ops.lean ====
section
/-! DEFINITION. The named operations over the state: units, network time, memory, the error log, events to hosts and to
management, local abort causes, arrival groups, messages, the journal and the granary's commits. -/

namespace Sys2Proof.Machine

open Sys2Proof

/-! Units -/

/-- The fixed names of the regions (R64). -/
def compRegion (b : Nat) : Nat := b / 4
/-- Network region n's ID. -/
def netRegion (n : Nat) : Nat := 0x10 + n
/-- Stack region i's ID. -/
def stackRegion (i : Nat) : Nat := 0x14 + i
/-- The I/O region's ID. -/
def ioRegion : Nat := 0x20
/-- Whether a region's clock stretches and gates (R68, R69): compute and stack regions. -/
def gateable (r : Nat) : Bool := decide (r < 0x10) || (decide (0x14 ≤ r) && decide (r < 0x20))

/-- A region. -/
def State.region (s : State) (r : Nat) : Region := get {} s.regions r
/-- The state with one region rewritten. -/
def State.onRegion (s : State) (r : Nat) (f : Region → Region) : State := { s with regions := upd {} s.regions r f }
/-- A physical block. -/
def State.block (s : State) (b : Nat) : Block := get {} s.blocks b
/-- The state with one block rewritten. -/
def State.onBlock (s : State) (b : Nat) (f : Block → Block) : State := { s with blocks := upd {} s.blocks b f }
/-- A stack region's unit. -/
def State.stack (s : State) (i : Nat) : Stack := get {} s.stks i
/-- The state with one stack rewritten. -/
def State.onStack (s : State) (i : Nat) (f : Stack → Stack) : State := { s with stks := upd {} s.stks i f }
/-- A DDR5 channel. -/
def State.chan (s : State) (c : Nat) : Ddr := get {} s.ddr c
/-- The state with one channel rewritten. -/
def State.onChan (s : State) (c : Nat) (f : Ddr → Ddr) : State := { s with ddr := upd {} s.ddr c f }
/-- A network region's rota part. -/
def State.net (s : State) (n : Nat) : Net := get {} s.nets n
/-- The state with one rota part rewritten. -/
def State.onNet (s : State) (n : Nat) (f : Net → Net) : State := { s with nets := upd {} s.nets n f }
/-- A physical link. -/
def State.link (s : State) (l : Nat) : Link := get {} s.links l
/-- The state with one link rewritten. -/
def State.onLink (s : State) (l : Nat) (f : Link → Link) : State := { s with links := upd {} s.links l f }
/-- A host port. -/
def State.port (s : State) (p : Nat) : Port := get {} s.ports p
/-- The state with one port rewritten. -/
def State.onPort (s : State) (p : Nat) (f : Port → Port) : State := { s with ports := upd {} s.ports p f }
/-- A mailbox. -/
def State.mbx (s : State) (p m : Nat) : Mailbox := get {} (s.port p).boxes m
/-- The state with one mailbox rewritten. -/
def State.onMbx (s : State) (p m : Nat) (f : Mailbox → Mailbox) : State :=
  s.onPort p (fun q => { q with boxes := upd {} q.boxes m f })

/-- The sheaf cycle of a region (R32). -/
def State.cyc (s : State) (r : Nat) : Nat := (s.region r).cycle

/-- Relay role (R3). -/
def State.relay (s : State) : Bool := s.rst.role

/-- Whether a job runs on the module. -/
def State.jobRuns (s : State) : Bool := s.job.phase == .running

/-- The physical block that holds logical block `lb` (R114). -/
def State.physOf (s : State) (lb : Nat) : Option Nat :=
  (List.range 64).find? (fun p => (s.block p).active && (s.block p).logical.toNat == lb)

/-- N, the number of logical blocks of the job (R114). -/
def State.logicalCount (s : State) : Nat := s.job.cells / 4

/-- The profile of the current plan (R307): true for LP2. -/
def State.lp2 (s : State) : Bool := match s.store.cur with | some p => p.profile == 2 | none => false

/-- The step length L. -/
def State.stepLen (s : State) : Nat := match s.store.cur with | some p => p.stepLen | none => 0

/-- The number of commit sheaves C. -/
def State.commitLen (s : State) : Nat := match s.store.cur with | some p => p.commit | none => 0

/-- Whether the current sheaf is a commit sheaf (R45): the span of R329 from the commit tick to the next boundary. -/
def State.inCommit (s : State) : Bool :=
  s.jobRuns && s.sheaf.begun && !s.sheaf.atBoundary &&
    decide (s.stepLen ≤ s.sheaf.sheafInStep.toNat + s.commitLen)

/-- Whether the current plan runs in debug mode (R322, R323). -/
def State.debugMode (s : State) : Bool := match s.store.cur with | some p => bit p.flags 1 | none => false

/-! Network time -/

/-- T = OFFSET + (FRC − ANCHOR) × RATE, the product truncated to 16 fractional bits (R50). -/
def TimeBlock.now (t : TimeBlock) : BitVec 80 :=
  t.offset + BitVec.ofNat 80 ((t.frc - t.anchor).toNat * t.rate.toNat / 2 ^ 24)

/-- T of the module. -/
def State.now (s : State) : BitVec 80 := s.time.now

/-- Whole nanoseconds of T. -/
def State.nowNs (s : State) : Nat := s.now.toNat / 2 ^ 16

/-- Whole microseconds of FRC time (1,050 counts each), for the intervals that the model counts in state. -/
def State.frcUs (s : State) : Nat := s.time.frc.toNat / 1050

/-- TICK_INDEX: the number of the segment's last tick, held at the register's maximum (R62). -/
def SheafState.tick (h : SheafState) : Word32 := BitVec.ofNat 32 (Nat.min h.tickNo (2 ^ 32 - 1))

/-- The network time in ns of the next tick (R29): the next of the present segment, or tick 0 of an announced one if that
falls first. -/
def State.tickTime (s : State) : Nat :=
  let n := s.sheaf.segEpoch.toNat + (s.sheaf.tickNo + 1) * s.time.period.toNat
  match s.sheaf.nextSeg with
  | some (e, _, _) => Nat.min n e.toNat
  | none => n

/-- The DETAIL of an entry of the time and sheaf machinery (R347): the servo's offset and the tick. -/
def State.servoDetail (s : State) : Nat := s.servo.servoOffset.toNat + s.sheaf.tick.toNat * 2 ^ 32

/-- Whether network time has come within `lead` ns of the next tick. -/
def State.nearTick (s : State) (lead : Nat) : Bool := decide (s.tickTime ≤ s.nowNs + lead)

/-! Memory: every byte at a device address (R185) -/

/-- The base of physical block `p`'s window (R188). -/
def blockBase (p : Nat) : Nat := 0x200000000000 + p * 0x800000
/-- The base of partition `e` of stack `i`'s staging window (R188). -/
def stageBase (i e : Nat) : Nat := 0x200100000000 + i * 0x1000000 + e * 0x40000
/-- The base of pseudo-channel `e` of stack `i` (R187). -/
def pcBase (i e : Nat) : Nat := i * 2 ^ 36 + e * 2 ^ 30
/-- The base of a network region's egress entry in the egress buffers (R211). -/
def egressBase (n entry : Nat) : Nat := (n * 4096 + entry) * 512

/-- The bytes that one ECC word covers: 32 of HBM (R181), 64 of DDR5 (R204), 8 of block SRAM, instruction memory and staging
store (R147, R159). -/
def eccWidth (a : Nat) : Nat := if a < 0x00C000000000 then 32 else if 0x100000000000 ≤ a ∧ a < 0x130000000000 then 64 else 8
/-- Whether a run of bytes touches the ECC word at `u`. -/
def meetsUnit (a k u : Nat) : Bool := decide (a < u + eccWidth u) && decide (u < a + k)
/-- The state with bytes written at a device address. -/
def State.poke (s : State) (a : Nat) (bs : List Byte) : State :=
  { s with mem := writeBytes s.mem a bs
           weak := s.weak.filter (fun u => u.2 == 3 || !(decide (a ≤ u.1) && decide (u.1 + eccWidth u.1 ≤ a + bs.length))) }
/-- The units with errors that an access to a run of bytes finds: of the stored bits, or of the command and address parity of the
access, which is handled as an uncorrectable error (R180). -/
def State.badUnits (s : State) (a k : Nat) : List (Nat × Nat) := s.weak.filter (fun u => meetsUnit a k u.1)
/-- The worst error that an access finds: 0 none, 1 correctable, 2 uncorrectable. -/
def State.weakness (s : State) (a k : Nat) : Nat := (s.badUnits a k).foldl (fun m u => max m u.2) 0
/-- How many units an access corrects. -/
def State.corrections (s : State) (a k : Nat) : Nat := ((s.badUnits a k).filter (fun u => u.2 == 1)).length
/-- The units that an access cannot correct. -/
def State.lostUnits (s : State) (a k : Nat) : List Nat := ((s.badUnits a k).filter (fun u => decide (2 ≤ u.2))).map (·.1)
/-- The units of a run of bytes whose every access has a command or address parity error (R180). -/
def State.parityUnits (s : State) (a k : Nat) : List Nat := ((s.badUnits a k).filter (fun u => u.2 == 3)).map (·.1)
/-- The first uncorrectable unit that a run of bytes touches. -/
def State.firstWeak (s : State) (a k : Nat) : Nat := (s.lostUnits a k).headD a
/-- Unit errors of a run of bytes taken away: their content stands as a board peer's equal range gives it back (R183, R197; log
entry 42). -/
def State.healed (s : State) (a n : Nat) : State :=
  { s with weak := s.weak.filter (fun u => !meetsUnit a n u.1) }
/-- Bytes at a device address. -/
def State.peek (s : State) (a k : Nat) : List Byte := readBytes s.mem a k
/-- The state with bytes written into an egress buffer. -/
def State.pokeEgress (s : State) (a : Nat) (bs : List Byte) : State := { s with egress := writeBytes s.egress a bs }
/-- A range of device memory zeroed. -/
def State.zeroMem (s : State) (a k : Nat) : State := { s with mem := zeroSpan s.mem a k }

/-! The granary's commits, platform events and port events -/

/-- The generation of a copy; 0 where none is valid (R419, R420). -/
def copyGen (c : Option GranCopy) : Nat := match c with | some x => x.gen | none => 0

/-- The newest generation of a record's valid copies; 0 when absent. -/
def GranRecord.newest (r : GranRecord) : Nat :=
  Nat.max (Nat.max (copyGen r.a0) (copyGen r.a1)) (Nat.max (copyGen r.b0) (copyGen r.b1))

/-- Whether an update writes slot 1: slot 0 holds a copy of the newest generation (R421). -/
def GranRecord.slotOne (r : GranRecord) : Bool :=
  r.newest != 0 && (copyGen r.a0 == r.newest || copyGen r.b0 == r.newest)

/-- The copy that a read takes (R420): the highest generation, then slot 0 of N0, slot 0 of N1, slot 1 of N0, slot 1 of N1. -/
def GranRecord.read (r : GranRecord) : Option GranCopy :=
  [r.a0, r.b0, r.a1, r.b1].findSome? (fun c => if r.newest != 0 && copyGen c == r.newest then c else none)

/-- One device's copy of a slot rewritten: `second` is N1, `one` is slot 1. -/
def GranRecord.write (r : GranRecord) (second one : Bool) (c : Option GranCopy) : GranRecord :=
  match second, one with
  | false, false => { r with a0 := c }
  | false, true => { r with a1 := c }
  | true, false => { r with b0 := c }
  | true, true => { r with b1 := c }

/-- A slot's place among the erase counts. -/
def slotIx (second one : Bool) : Nat := 2 * b2n second + b2n one

/-- `n` erases more of a slot of NOR (R426). -/
def GranRecord.erased (r : GranRecord) (second one : Bool) (n : Nat) : GranRecord :=
  { r with erases := r.erases.set (slotIx second one) (r.erases.getD (slotIx second one) 0 + n) }

/-- The largest erase count of a record's sectors. -/
def GranRecord.eraseMax (r : GranRecord) : Nat := r.erases.foldl Nat.max 0

/-- A granary record by its type code. -/
def State.record (s : State) (ty : Nat) : GranRecord := get {} s.granary.recs ty
/-- The state with one granary record rewritten. -/
def State.onRecord (s : State) (ty : Nat) (f : GranRecord → GranRecord) : State :=
  { s with granary := { s.granary with recs := upd {} s.granary.recs ty f } }

/-- The copy that an update programs (R419). -/
def State.nextCopy (s : State) (r : GranRecord) (body : List Byte) : GranCopy :=
  { gen := r.newest + 1, poh := BitVec.ofNat 32 s.granary.powerMinutes, body := body }

/-- A record of MRAM committed to its older slot (R421, R434); with no MRAM the record is absent (R430).  The content of the
firmware's own records stands in the fields of `Granary`, so their body is empty (log entry 35). -/
def State.committed (s : State) (ty : Nat) : State :=
  if s.granary.mram then
    let t := s.onRecord ty (fun r => if r.stopA then r else r.write false r.slotOne (some (s.nextCopy r [])))
    { t with granary := { t.granary with commits := satInc t.granary.commits } }
  else s

/-- Queues a PLDM platform event and asserts ALERT_N, in I3C mode with an in-band interrupt; a full queue of 64 drops the newest
(R448). -/
def State.platform (s : State) (what : String) (v : Nat) : State :=
  if s.mgmt.events.length < 64 then
    { s with
      mgmt := { s.mgmt with events := s.mgmt.events ++ [{ what := what, value := v }], alert := true }
      out := if s.mgmt.address.isSome then s.out ++ [.management "IBI" []] else s.out }
  else { s with mgmt := { s.mgmt with lostEvents := true, alert := true } }

/-- Raises an end-of-life indicator (R433): committed to EOL, told once per power-on. -/
def State.endOfLife (s : State) (i : Nat) : State :=
  let g := s.granary
  let s1 := if bit g.eol i then s else ({ s with granary := { g with eol := setBit g.eol i } } : State).committed 0x60
  if bit s1.granary.eolTold i then s1
  else ({ s1 with granary := { s1.granary with eolTold := setBit s1.granary.eolTold i } }).platform "EOL" i

/-- Sends an MSI-X vector of a port, or marks it pending while its table entry is masked (R351, R353). -/
def State.vector (s : State) (p v : Nat) : State :=
  if bit (get 1 (s.port p).msix (4 * v + 3)) 0 then s.onPort p (fun q => { q with pba := setBit q.pba v })
  else if (s.port p).up then { s with out := s.out ++ [.msix p v] } else s

/-- Sets a PORT_EVENT bit, which raises its vector when the mask allows (R355). -/
def State.event (s : State) (p i : Nat) : State :=
  let s1 := s.onPort p (fun q => { q with events := setBit q.events i })
  if bit (s.port p).mask i then s1.vector p i else s1

/-- An event on each of the four ports. -/
def State.eventAll (s : State) (i : Nat) : State := (List.range 4).foldl (fun t p => t.event p i) s

/-- The owner port, if any (R357). -/
def State.owner (s : State) : Option Nat := (List.range 4).find? (fun p => (s.port p).role == .owner)

/-- An event on the owner port alone. -/
def State.ownerEvent (s : State) (i : Nat) : State :=
  match s.owner with
  | some p => s.event p i
  | none => s

/-- A write to host memory through a port; a port that is down ends it with HOST_UNAVAILABLE (R191, R374). -/
def State.hostWrite (s : State) (p a : Nat) (bs : List Byte) : State :=
  if (s.port p).up then { s with out := s.out ++ [.hostWrite p a bs] }
  else { s with counts := { s.counts with hostUnavail := satInc s.counts.hostUnavail } }

/-! The chip error log (R346 to R348) -/

/-- What the writer of an entry gives. -/
structure LogArgs where
  code : BitVec 16
  severity : Nat
  region : Nat := 0x3F
  unit : Nat := 0xFFFF
  action : Nat := 0
  detail : Nat := 0

/-- The capacity of the ring (R346). -/
def State.logCapacity (s : State) : Nat := if s.relay then 4096 else 65536

/-- The entry that the present state gives. -/
def State.logEntry (s : State) (a : LogArgs) : LogEntry :=
  { seq := s.fault.nextSeq, code := a.code, severity := BitVec.ofNat 8 a.severity, region := BitVec.ofNat 8 a.region
    unit := BitVec.ofNat 16 a.unit, action := BitVec.ofNat 8 a.action
    flags := if a.severity ≥ 3 then (if s.owner.isSome then 3 else 1) else 0
    rep := 0, t := BitVec.ofNat 64 s.nowNs, sheafCount := s.sheaf.sheafCount
    step := BitVec.ofNat 48 s.sheaf.step.toNat, sheafInStep := s.sheaf.sheafInStep, key := s.mgmt.key
    detail := BitVec.ofNat 128 a.detail }

/-- Whether the new occurrence coalesces with the latest entry (R348). -/
def coalesces (e : LogEntry) (n : LogEntry) : Bool :=
  decide (n.severity.toNat ≤ 1) && e.code == n.code && e.region == n.region && e.unit == n.unit &&
    decide (n.t.toNat - e.t.toNat ≤ 1000000)

/-- One more occurrence of the latest entry, saturating (R346). -/
def bumpRepeat (e : LogEntry) : LogEntry :=
  { e with rep := satInc e.rep, flags := if e.rep == 0xFFFFFFFE then setBit e.flags 2 else e.flags }

/-- The log with its last entry rewritten. -/
def onLast {α : Type} (f : α → α) : List α → List α
  | [] => []
  | [e] => [f e]
  | e :: es => e :: onLast f es

/-- The newest `k` of a list. -/
def newest {α : Type} (k : Nat) (l : List α) : List α := l.drop (l.length - k)

/-- Whether a code names hardware, for R322's three aborts with no hardware entry (R347: cells, memories, crossings,
regions, links). -/
def hardwareCode (c : BitVec 16) : Bool :=
  (decide (c.toNat ≤ 0x0111) && decide (c.toNat ≥ 0x0101)) || c == 0x0160 ||
    (decide (0x0201 ≤ c.toNat) && decide (c.toNat ≤ 0x0504))

/-- Appends an entry. -/
def State.appendLog (s : State) (e : LogEntry) : State :=
  let f := s.fault
  { s with fault := { f with log := newest s.logCapacity (f.log ++ [e]), nextSeq := f.nextSeq + 1
                             hardwareSeen := f.hardwareSeen || (decide (2 ≤ e.severity.toNat) && hardwareCode e.code) } }

/-- A new entry with its effects: severity 2 and higher enter the granary's summaries, severity 3 and 4 are notified at
once to management and to the owner port (R348). -/
def State.logNew (s : State) (e : LogEntry) : State :=
  let s1 := s.appendLog e
  let s2 := if e.severity.toNat ≥ 2 then
      ({ s1 with granary := { s1.granary with
          summary := newest 64 (s1.granary.summary ++ [e])
          codeCounts := upd 0 s1.granary.codeCounts e.code.toNat (· + 1) } } : State).committed 0x52
    else s1
  if e.severity.toNat ≥ 3 then (s2.platform "ERROR" e.code.toNat).ownerEvent 9 else s2

/-- The suspect marks within the last 168 h of power-on time, in minutes (R340): the register SUSPECT_MARKS counts them (R349). -/
def State.recentMarks (s : State) : List Nat := s.fault.suspectAt.filter (fun m => decide (s.granary.powerMinutes - m ≤ 168 * 60))

/-- Writes an entry to the chip error log (R346, R348): occurrences of low severity coalesce with the latest entry. -/
def State.log (s : State) (a : LogArgs) : State :=
  let e := s.logEntry a
  match s.fault.log.getLast? with
  | some l =>
    if coalesces l e then { s with fault := { s.fault with log := onLast bumpRepeat s.fault.log } }
    else s.logNew e
  | none => s.logNew e

/-- An entry for which the spec lists no code: its code is a free value (log entry 80). -/
def State.logOpen (s : State) (a : LogArgs) : State :=
  let t := s.log { a with code := Config.freeCode s.free }
  { t with free := s.free + 1 }

/-! Coordinates (R13 to R17, R247) -/

/-- The twin, rack, board (2 for a relay) and slot or relay index of a key. -/
def keyTwin (k : Key) : Nat := field k 15 1
/-- Rack of a key. -/
def keyRack (k : Key) : Nat := field k 11 4
/-- Board of a key; 2 for a relay. -/
def keyBoard (k : Key) : Nat := field k 9 2
/-- Slot or relay index of a key. -/
def keySlot (k : Key) : Nat := field k 0 5
/-- Whether a key names a relay. -/
def keyRelay (k : Key) : Bool := keyBoard k == 2
/-- A key from its fields. -/
def mkKey (t r b s : Nat) : Key := BitVec.ofNat 16 (t * 2 ^ 15 + r * 2 ^ 11 + b * 2 ^ 9 + s)
/-- Whether a key is a coordinate: slots 0 to 16, relay indexes 0 to 7, bits [8:5] clear. -/
def keyValid (k : Key) : Bool :=
  field k 5 4 == 0 && (if keyRelay k then decide (keySlot k ≤ 7) else decide (keyBoard k ≤ 1) && decide (keySlot k ≤ 16))

/-- The entry number of a logical slot in the position table (R220). -/
def posIndex (t r b l : Nat) : Nat := t * 512 + r * 32 + b * 16 + l
/-- The physical slot that holds a logical slot; 0x1F for none (R220). -/
def posAt (tab : Sparse Nat) (t r b l : Nat) : Nat := get 0x1F tab (posIndex t r b l)
/-- The logical slot that a compute key holds in a position table. -/
def logicalSlot (tab : Sparse Nat) (k : Key) : Option Nat :=
  if keyRelay k then none
  else (List.range 16).find? (fun l => posAt tab (keyTwin k) (keyRack k) (keyBoard k) l == keySlot k)
/-- A logical replica index (R17). -/
def replicaIndex (tab : Sparse Nat) (k : Key) : BitVec 16 :=
  match logicalSlot tab k with
  | some l => BitVec.ofNat 16 (keyRack k * 32 + keyBoard k * 16 + l)
  | none => 0xFFFF
/-- The compute key that holds a replica index of a twin. -/
def replicaKey (tab : Sparse Nat) (t : Nat) (ix : Nat) : Key :=
  mkKey t (ix / 32) ((ix / 16) % 2) (posAt tab t (ix / 32) ((ix / 16) % 2) (ix % 16))
/-- A position table from a list of 1,024 entries. -/
def positionsOf (l : List Nat) : Sparse Nat :=
  (l.zipIdx).foldl (fun m p => put 0x1F m p.2 p.1) []

/-- The module's own logical slot, if any. -/
def State.ownSlot (s : State) : Option Nat := logicalSlot s.tables.positions s.mgmt.key

/-- The keys that the bound map lists. -/
def State.present (s : State) : List Key := match s.store.map with | some m => m.coords.map (·.1) | none => []

/-- The keys of the module's own twin. -/
def State.twinKeys (s : State) : List Key := s.present.filter (fun k => keyTwin k == keyTwin s.mgmt.key)

/-! Local causes of HOLD and ABORT -/

/-- The bypass message number with the start count (R247): MSG_ID. -/
def State.msgId (s : State) : Word32 := BitVec.ofNat 32 (s.granary.startCount.toNat * 2 ^ 24 + s.bypass.number % 2 ^ 24)

/-- The link by which a message leaves for a key: the primary when it is UP, else the second (R249); none where no link
leads to the key.  The flag says that the second link is taken. -/
def State.route (s : State) (dest : Key) : Option (Nat × Bool) :=
  match s.bypass.routes.find? (fun x => x.1 == dest.toNat) with
  | none => none
  | some x =>
    let (p, q) := x.2
    if (s.link p).state == .up then some (p, false) else if (s.link q).state == .up then some (q, true) else some (p, false)

/-- Puts a bypass packet into a link's queue; a routed one may still move to its other link (R249). -/
def State.enqueue (s : State) (l : Nat) (m : BypMsg) : State :=
  s.onLink l (fun k => { k with queue := k.queue ++ [{ msg := m, since := s.frcUs }] })

/-- Queues a packet of this module for its destination: to itself it is delivered at once; otherwise by the routes of R249,
and lost where no route leads to the key.  The hop count and the second-link flag are written when it leaves. -/
def State.queueFor (s : State) (m : BypMsg) : State :=
  if m.dest == s.mgmt.key then { s with bypass := { s.bypass with inbox := s.bypass.inbox ++ [m] } }
  else match s.route m.dest with
    | some (l, _) => s.enqueue l m
    | none => s

/-- A bypass packet of this module (R247): FLAGS[5] marks the last packet of its series. -/
def State.packet (s : State) (dest : Key) (mtype len body : Nat) (id : Word32) (series : Nat) (last : Bool) : BypMsg :=
  { mtype := BitVec.ofNat 8 mtype, flags := if last then 0x20 else 0, dest := dest, src := s.mgmt.key, msgId := id
    series := BitVec.ofNat 8 series, len := BitVec.ofNat 8 len, body := BitVec.ofNat 416 body }

/-- A message of one packet to a key, with a given MSG_ID. -/
def State.sendWith (s : State) (dest : Key) (mtype : Nat) (len : Nat) (body : Nat) (id : Word32) : State :=
  s.queueFor (s.packet dest mtype len body id 0 true)

/-- A message under the next MSG_ID. -/
def State.send (s : State) (dest : Key) (mtype len body : Nat) : State :=
  let t := s.sendWith dest mtype len body s.msgId
  { t with bypass := { t.bypass with number := t.bypass.number + 1 } }

/-- Content of any length (R247): packets of at most 52 B with consecutive message numbers and rising SERIES. -/
def State.sendSeries (s : State) (dest : Key) (mtype : Nat) (content : List Byte) : State :=
  let n := Nat.max 1 (ceilDiv content.length 52)
  (List.range n).foldl (fun t i =>
    let part := slice content (52 * i) (Nat.min 52 (content.length - 52 * i))
    let u := t.queueFor (t.packet dest mtype part.length (leNat part) t.msgId i (i + 1 == n))
    { u with bypass := { u.bypass with number := u.bypass.number + 1 } }) s

/-- The request of a type that a source last sent, by its MSG_ID. -/
def State.requestId (s : State) (src : Key) (mtype : Nat) : Option Word32 :=
  (s.bypass.inbox.reverse.find? (fun m => m.src == src && m.mtype == BitVec.ofNat 8 mtype)).map (·.msgId)

/-- An answer to a request, kept for a duplicate of the request (R251). -/
def State.answerTo (s : State) (src : Key) (id : Word32) (mtype len body : Nat) : State :=
  let t := s.send src mtype len body
  { t with bypass := { t.bypass with
      answers := newest 256 (t.bypass.answers ++ [(src, id, s.packet src mtype len body s.msgId 0 true)]) } }

/-- An answer to the request of type `req` that the source last sent. -/
def State.answer (s : State) (src : Key) (req mtype len body : Nat) : State :=
  match s.requestId src req with
  | some id => s.answerTo src id mtype len body
  | none => s.send src mtype len body

/-- A message that the sender keeps until it is acknowledged (R345). -/
def State.sendKept (s : State) (dest : Key) (mtype len body : Nat) : State :=
  let u : Unacked := { mtype := BitVec.ofNat 8 mtype, dest := dest, msgId := s.msgId, body := BitVec.ofNat 416 body
                       len := BitVec.ofNat 8 len }
  let t := s.send dest mtype len body
  { t with coord := { t.coord with unacked := t.coord.unacked ++ [u] } }

/-- The same message to several keys. -/
def State.sendAll (s : State) (dests : List Key) (mtype len body : Nat) : State :=
  dests.foldl (fun t d => t.send d mtype len body) s

/-- A message kept for several keys. -/
def State.sendAllKept (s : State) (dests : List Key) (mtype len body : Nat) : State :=
  dests.foldl (fun t d => t.sendKept d mtype len body) s

/-- A message on one link to the module at its other end (R247). -/
def State.sendLink (s : State) (l mtype len body : Nat) : State :=
  let t := s.enqueue l (s.packet 0xFFFF mtype len body s.msgId 0 true)
  { t with bypass := { t.bypass with number := t.bypass.number + 1 } }

/-- An answer on one link to the request of type `req` that a source last sent, kept for a duplicate of the request (R251). -/
def State.answerLink (s : State) (l : Nat) (src : Key) (req mtype len body : Nat) : State :=
  let t := s.sendLink l mtype len body
  match s.requestId src req with
  | some id => { t with bypass := { t.bypass with
      answers := newest 256 (t.bypass.answers ++ [(src, id, s.packet 0xFFFF mtype len body s.msgId 0 true)]) } }
  | none => t

/-- A body from fields (value, first byte): little-endian at its byte offset (R9). -/
def bodyOf (fields : List (Nat × Nat)) : Nat := fields.foldl (fun a f => a + f.1 * 2 ^ (8 * f.2)) 0

/-- A relay's request to the coordinator (R38, R274): body byte 0 is 0 for HOLD and 1 for ABORT (log entry 20). -/
def State.relayRequest (s : State) (isAbort : Bool) : State :=
  let r := s.role
  let t := { s with role := if isAbort then { r with abortReqs := inc16 r.abortReqs } else { r with holdReqs := inc16 r.holdReqs } }
  t.send s.coord.coordKey 0x22 1 (b2n isAbort)

/-- A local cause of ABORT: a relay asks the coordinator (R274); in commit sheaves it is deferred to the boundary (R329);
otherwise it shows from the next cutoff (R37, R331). -/
def State.abortFor (s : State) (c : AbortCause) : State :=
  let f := s.fault
  if s.relay then (if s.jobRuns then s.relayRequest true else s)
  else if s.inCommit then { s with fault := { f with deferred := some (f.deferred.getD c), recoveryActive := f.recoveryActive || s.jobRuns } }
  else { s with fault := { f with abort := some (f.abort.getD c), recoveryActive := f.recoveryActive || s.jobRuns } }

/-- The action code of a log entry about an abort (R346). -/
def State.abortAction (s : State) : Nat := if s.inCommit then 3 else 2

/-- A fault in a commit sheaf, that the entry `seq` reports, may have changed committed state (R329). -/
def State.commitFault (s : State) (seq : Word32) : State :=
  if s.inCommit && !s.fault.commitFault then
    ({ s with fault := { s.fault with commitFault := true } }).log
      { code := 0x0709, severity := 3, action := 4, detail := seq.toNat }
  else s

/-- A logged local error that aborts the step (R148, R182, R204, R331). -/
def State.stepError (s : State) (a : LogArgs) : State :=
  let t := s.log { a with action := s.abortAction }
  let t := { t with fault := { t.fault with abortSeq := s.fault.nextSeq } }
  t.abortFor .localError

/-- A logged error of a cell, a crossing, a stack or a memory: in a commit sheaf it also sets COMMIT_FAULT (R329). -/
def State.hardError (s : State) (a : LogArgs) : State := (s.stepError a).commitFault s.fault.nextSeq

/-- Whether any cause of HOLD stands (R46, R379). -/
def Holds.any (h : Holds) : Bool :=
  h.host || h.feed || h.result || h.journal || h.save || h.timeSync || h.twin || h.table || h.replayEnd || h.split ||
    h.debug || h.stalled || h.planSwitch || h.relayRequest || h.spareMissing || h.restore

/-- The hold causes as GET_STATUS gives them (R379). -/
def Holds.word (h : Holds) : Word32 :=
  pack [(b2n h.host, 0), (b2n h.feed, 1), (b2n h.result, 2), (b2n h.journal, 3), (b2n h.save, 4), (b2n h.timeSync, 5),
        (b2n h.twin, 6), (b2n h.table, 7), (b2n h.replayEnd, 8), (b2n h.split, 9), (b2n h.debug, 10)]

/-! Arrival groups (R139 to R142) -/

/-- Expected count of a group. -/
def Groups.expect (g : Groups) (k : Nat) : Nat := get 0 g.expected k
/-- Present count of a group. -/
def Groups.have (g : Groups) (k : Nat) : Nat := get 0 g.count k
/-- A failed group counts as complete (R142); otherwise its count equals its expected count (R139). -/
def Groups.complete (g : Groups) (k : Nat) : Bool := bit g.failed k || g.have k == g.expect k
/-- Complete before the present cycle began (R141). -/
def Groups.ready (g : Groups) (k : Nat) : Bool := g.complete k && !bit g.fresh k
/-- The mask of complete groups. -/
def Groups.completeMask (g : Groups) : Word64 :=
  (List.range 64).foldl (fun m k => setBitIf (g.complete k) m k) 0
/-- Fails a group (R142). -/
def Groups.fail (g : Groups) (k : Nat) : Groups :=
  { g with failed := setBit g.failed k, fresh := setBitIf (!g.complete k) g.fresh k }
/-- Counts one in a group that is not at its expected count. -/
def Groups.bump (g : Groups) (k : Nat) : Groups :=
  { g with count := put 0 g.count k (g.have k + 1), fresh := setBitIf (g.have k + 1 == g.expect k) g.fresh k }
/-- Counts a SIGNAL at its release cycle, which an operation issued in that cycle already sees (R137). -/
def Groups.signal (g : Groups) (k : Nat) : Groups := { g with count := put 0 g.count k (g.have k + 1) }
/-- Whether one more arrival would exceed the expected count (R142). -/
def Groups.full (g : Groups) (k : Nat) : Bool := decide (g.expect k ≤ g.have k)
/-- Notes the sender position of an arrival, for R145's loose groups. -/
def Groups.noteSender (g : Groups) (k pos : Nat) : Groups :=
  { g with sender := put 0 g.sender k (max (get 0 g.sender k) (pos + 1))
           disordered := setBitIf (decide (pos + 1 < get 0 g.sender k)) g.disordered k }
/-- The groups of a new sheaf (R139): expected counts and loose mask from the stream header, counts 0. -/
def Groups.start (expected : List Nat) (loose : Word64) : Groups :=
  { expected := (expected.zipIdx).foldl (fun m p => put 0 m p.2 p.1) [], loose := loose }

/-! The journal (R290 to R295) -/

/-- The bytes of a record (R291), the CRC over the header with its field 0 and over the body. -/
def recordBytes (r : JournalRec) : List Byte :=
  let len := 32 + r.body.length
  let head (crc : Nat) := [r.rtype, r.flags, 0, 0] ++ leBytes 4 len ++ leBytes 8 r.rseq.toNat ++ leBytes 6 r.step.toNat ++
    leBytes 2 r.sheafInStep.toNat ++ leBytes 4 crc ++ leBytes 4 0
  head (crc32c (head 0 ++ r.body)).toNat ++ r.body

/-- Bytes of unspilled records in the journal range. -/
def Glean.used (g : Glean) : Nat := (g.records.filter (fun i => !i.spilled)).foldl (fun a i => a + 32 + i.entry.body.length) 0

/-- A body padded to whole 32 B units (R291). -/
def padBody (n : Nat) (bs : List Byte) : List Byte :=
  let m := max n (32 * ceilDiv bs.length 32)
  bs ++ List.replicate (m - bs.length) 0

/-- A journal with one more record, which takes the next RSEQ and the place after the record before it (log entry 50). -/
def Glean.append (g : Glean) (rtype : Nat) (flags : Byte) (step : BitVec 48) (inStep : BitVec 16) (body : List Byte) : Glean :=
  { g with
    records := g.records ++ [{ entry := { rtype := BitVec.ofNat 8 rtype, flags := flags, rseq := g.rseq, step := step
                                          sheafInStep := inStep, body := body }, spilled := false, at_ := g.head }]
    head := (g.head + 32 + body.length) % g.length
    rseq := g.rseq + 1 }

/-- The device addresses of a run of the journal range, which wraps at the range's end: address and length of each part. -/
def Glean.parts (g : Glean) (off n : Nat) : List (Nat × Nat) :=
  let k := Nat.min n (g.length - off)
  [(g.base + off, k), (g.base, n - k)].filter (fun x => x.2 != 0)

/-- Bytes written into the journal range (R197). -/
def State.ringPoke (s : State) (off : Nat) (bs : List Byte) : State :=
  ((s.glean.parts off bs.length).foldl (fun (acc : State × List Byte) x =>
    (acc.1.poke x.1 (acc.2.take x.2), acc.2.drop x.2)) (s, bs)).1

/-- Bytes read from the journal range. -/
def State.ringPeek (s : State) (off n : Nat) : List Byte := (s.glean.parts off n).flatMap (fun x => s.peek x.1 x.2)

/-- A record's bytes written at its place. -/
def State.storeItem (s : State) (i : JournalItem) : State := s.ringPoke i.at_ (recordBytes i.entry)

/-- A record appended: in the list, and its bytes in DDR5 (R290, R291). -/
def State.appendRecord (s : State) (rtype : Nat) (flags : Byte) (step : BitVec 48) (inStep : BitVec 16) (body : List Byte) : State :=
  let t : State := { s with glean := s.glean.append rtype flags step inStep body }
  match t.glean.records.getLast? with
  | some i => t.storeItem i
  | none => t

/-- Free bytes of the journal range. -/
def Glean.freeBytes (g : Glean) : Nat := g.length - g.used

/-- The reserve of R295: 4 MiB and the largest FEED record that the next step can need. -/
def State.journalReserve (s : State) : Nat :=
  let feed := match s.store.cur with | some p => p.body.feedLength | none => 0
  let fullLen := 32 * ceilDiv feed 32
  4 * 2 ^ 20 + 128 + (if s.glean.full && decide (4 * fullLen ≤ s.glean.length) then fullLen else 0)

/-- The records without the oldest unspilled ones whose space brings the free bytes to `need`, and the RSEQ of those (R295). -/
def dropOldest (need : Nat) : List JournalItem → Nat → List JournalItem × List Word64
  | [], _ => ([], [])
  | i :: rest, free =>
    if need ≤ free then (i :: rest, [])
    else if i.spilled then
      let x := dropOldest need rest free
      (i :: x.1, x.2)
    else
      let x := dropOldest need rest (free + 32 + i.entry.body.length)
      (x.1, i.entry.rseq :: x.2)

/-- The DROP policy (R295): when the free space is below the reserve the oldest unspilled records go, and a GAP record with cause
1 names them. -/
def State.dropRecords (s : State) : State :=
  let g := s.glean
  if g.dropPolicy && decide (g.freeBytes < s.journalReserve) then
    let x := dropOldest s.journalReserve g.records g.freeBytes
    match x.2 with
    | [] => s
    | a :: l =>
      let h : Glean := { g with records := x.1, gaps := satAdd g.gaps (l.length + 1), broken := true }
      ({ s with glean := h } : State).appendRecord 0x0B 0 (BitVec.ofNat 48 s.sheaf.step.toNat) s.sheaf.sheafInStep
        (padBody 32 (leBytes 8 a.toNat ++ leBytes 8 (l.getLastD a).toNat ++ [1]))
  else s

/-- Appends a record while a journal is configured and the module does not replay (R290, R300); the full policy then applies
(R295). -/
def State.journal (s : State) (rtype : Nat) (flags : Byte) (step : BitVec 48) (inStep : BitVec 16) (body : List Byte) : State :=
  if s.glean.on && !s.glean.replay.active then
    (s.appendRecord rtype flags step inStep body).dropRecords
  else s

/-- A record at the present place in the job. -/
def State.journalNow (s : State) (rtype : Nat) (body : List Byte) : State :=
  s.journal rtype 0 (BitVec.ofNat 48 s.sheaf.step.toNat) s.sheaf.sheafInStep body

/-- A hash's bytes, first byte first. -/
def hashBytes (h : Hash) : List Byte := beBytes 32 h.toNat
/-- The SHA-256 of bytes as a hash. -/
def hashOf (bs : List Byte) : Hash := BitVec.ofNat 256 (beNat (sha256 bs))
/-- The bytes of a 128-bit block: byte 0 first, as SP 800-38D orders it (log entry 14). -/
def blockBytes (x : Word128) : List Byte := leBytes 16 x.toNat

/-- The assay key check (R390): bytes 0 to 7 of the SHA-256 of H. -/
def keyCheck (h : Word128) : List Byte := (sha256 (blockBytes h)).take 8

/-! Plan faults and errors of blocks and stacks -/

/-- Captures INFO under the first-error rule of R150: taken when every bit of `mask` was 0. -/
def captureInfo (err mask : Word32) (old new : Word32) : Word32 := if err &&& mask == 0 then new else old

/-- BLK_ERR_INFO for the present place (R150). -/
def State.blockInfo (s : State) (b : Nat) : Word32 :=
  pack [((s.block b).seq.line % 2 ^ 14, 0), (s.sheaf.sheafInStep.toNat, 16)]

/-- Sets a BLK_ERR bit with the capture of BLK_ERR_INFO by every bit but SRAM_CE (R150). -/
def State.blockErr (s : State) (b i : Nat) : State :=
  let info := s.blockInfo b
  s.onBlock b (fun k => { k with errInfo := captureInfo k.err 0x00007EFF k.errInfo info, err := setBit k.err i })

/-- A plan fault of a block (R148, R150): kinds 1 PORT, 2 BUSY, 3 ALIGN, 4 RANGE.  The job goes on.  DESIGN CHOICE: a landing row
of XFER that is refused is a fault of the block that receives it, with that block's line at the time (log entry 115). -/
def State.planFault (s : State) (b kind : Nat) : State :=
  let info : Word32 := pack [(kind, 0), ((s.block b).seq.line % 2 ^ 14, 6)]
  let t := s.onBlock b (fun k => { k with planFaultInfo := if bit k.err 13 then k.planFaultInfo else info
                                          planFaults := satInc k.planFaults })
  (t.blockErr b 13).log { code := 0x0140, severity := 0, region := compRegion b, unit := b, action := 1
                          detail := info.toNat }

/-- A plan fault of a stack (R182, R184): kinds 1 SLICE, 2 BUSY, 3 ALIGN, 4 RANGE, 5 GATHER_RANGE. -/
def State.stackFault (s : State) (i kind line engine : Nat) : State :=
  let info : Word32 := pack [(kind, 0), (line % 2 ^ 13, 3), (engine % 64, 16)]
  let eInfo : Word32 := pack [(line % 2 ^ 13, 0), (engine % 64, 13)]
  let t := s.onStack i (fun k => { k with
    planFaultInfo := if bit k.err 6 then k.planFaultInfo else info
    planFaults := satInc k.planFaults
    errInfo := captureInfo k.err 0x000000FE k.errInfo eInfo
    err := setBit k.err 6 })
  t.log { code := 0x0140, severity := 0, region := stackRegion i, unit := engine, action := 1, detail := info.toNat }

/-- Sets a STK_ERR bit other than CE with the capture of STK_ERR_INFO (R184). -/
def State.stackErr (s : State) (i bitIx line engine : Nat) : State :=
  let eInfo : Word32 := pack [(line % 2 ^ 13, 0), (engine % 64, 13)]
  s.onStack i (fun k => { k with errInfo := captureInfo k.err 0x000000FE k.errInfo eInfo, err := setBit k.err bitIx })

/-- The corrected errors of a read in a block's window (R147): each counts. -/
def State.sramCorrect (s : State) (b off len : Nat) : State :=
  let n := s.corrections (blockBase b + off) len
  if n = 0 then s
  else (s.onBlock b (fun k => { k with sramCe := satAdd k.sramCe n, err := setBit k.err 8 })).log
    { code := 0x0111, severity := 1, region := compRegion b, unit := b, action := 1, detail := off }

/-- Uncorrectable units of block SRAM (R147, R148): the first is told, and the step aborts. -/
def State.sramLost (s : State) (b : Nat) (units : List Nat) : State :=
  match units with
  | [] => s
  | u :: _ =>
    let place := u - blockBase b
    let t := s.onBlock b (fun k => { k with
      sramUeAddr := if bit k.err 9 then k.sramUeAddr else BitVec.ofNat 32 (place % 2 ^ 23) })
    let t := t.blockErr b 9
    t.hardError { code := 0x0110, severity := 2, region := compRegion b, unit := b, detail := (t.block b).sramUeAddr.toNat }

/-- The checks of a read of block SRAM (R147, R148): corrected errors count, an uncorrectable one aborts the step. -/
def State.sramCheck (s : State) (b off len : Nat) : State :=
  (s.sramCorrect b off len).sramLost b (s.lostUnits (blockBase b + off) len)

/-- An illegal or uncorrectable bundle of a block (R148): logged, and the step aborts.  One issue of a bundle is one illegal
bundle, however many of its slots offend. -/
def State.illegalBundle (s : State) (b : Nat) : State :=
  if (s.block b).seq.reported then s
  else
    let t := (s.onBlock b (fun k => { k with seq := { k.seq with reported := true } })).blockErr b 10
    t.stepError { code := 0x0120, severity := 2, region := compRegion b, unit := b, detail := (t.block b).errInfo.toNat }

/-- An illegal or uncorrectable stack instruction for an engine (R163, R182, R347): handled as an illegal bundle. -/
def State.illegalStack (s : State) (i e : Nat) : State :=
  if (s.stack i).seq.reported then s
  else
    let t := (s.onStack i (fun k => { k with seq := { k.seq with reported := true } })).stackErr i 4 (s.stack i).seq.line e
    t.hardError { code := 0x0120, severity := 2, region := stackRegion i, unit := e, detail := (t.stack i).errInfo.toNat }

/-! The hazard detector (R323 to R325) -/

/-- Records the first hazard (R324, R325): the unit freezes and the module holds; later ones freeze their unit and count. -/
def State.hazardAt (s : State) (region lb line : Nat) (cycle : Nat) (kind addr : Nat) : State :=
  let h := s.hazard
  let h1 := if h.recorded then h else
    { h with recorded := true, kind := BitVec.ofNat 3 kind
             whereW := pack [(region, 0), (lb % 64, 6), (line % 2 ^ 14, 12)]
             sheaf := pack [(s.sheaf.sheafInStep.toNat, 0), (cycle % 2 ^ 16, 16)]
             step := BitVec.ofNat 32 s.sheaf.step.toNat, addr := BitVec.ofNat 48 addr }
  let t := { s with hazard := { h1 with count := satInc h.count }, holds := { s.holds with debug := true } }
  t.log { code := 0x0150, severity := 2, region := region, unit := lb, action := 6
          detail := h1.whereW.toNat + h1.addr.toNat * 2 ^ 32 }

/-- A hazard of a block in debug mode: the block freezes. -/
def State.blockHazard (s : State) (b kind addr : Nat) : State :=
  if s.debugMode && !(s.block b).frozen then
    ((s.onBlock b (fun k => { k with frozen := true })).blockErr b 14).hazardAt (compRegion b)
      (s.block b).logical.toNat (s.block b).seq.line (s.cyc (compRegion b)) kind addr
  else s

/-- A hazard of a network region in debug mode: DESIGN CHOICE: its part is the unit that freezes (log entry 116). -/
def State.netHazard (s : State) (n kind addr : Nat) : State :=
  if s.debugMode && !(s.net n).frozen then
    (s.onNet n (fun k => { k with frozen := true })).hazardAt (netRegion n) 0x3F (s.net n).read (s.cyc (netRegion n)) kind addr
  else s

/-- A hazard of a stack region in debug mode. -/
def State.stackHazard (s : State) (i kind addr : Nat) : State :=
  if s.debugMode && !(s.stack i).frozen then
    ((s.onStack i (fun k => { k with frozen := true })).stackErr i 7 (s.stack i).seq.line 0).hazardAt (stackRegion i)
      0x3F (s.stack i).seq.line (s.cyc (stackRegion i)) kind addr
  else s

end Sys2Proof.Machine
end

