-- ==== Sys2Proof/Machine/Streams.lean ====
section
/-! DEFINITION. The sections of the current plan that apply to this module, by target, form and cell count (R308), and the
streams of its blocks and stacks. -/

namespace Sys2Proof.Machine

open Sys2Proof

/-- The VARIANT code of a cell count (R308). -/
def variantOf (cells : Nat) : Nat := if cells = 192 then 1 else if cells = 224 then 2 else if cells = 256 then 3 else 0

/-- Whether a section's TARGET names a key under a position table (R308); 0xFFFF names every module of the section's role. -/
def secNames (x : SectionRef) (pos : Sparse Nat) (k : Key) : Bool :=
  if x.target == 0xFFFF then x.relay == keyRelay k
  else x.target == (if keyRelay k then 0x8000 + 8 * keyRack k + keySlot k else (replicaIndex pos k).toNat)

/-- Whether a FORM field covers a form (R308). -/
def formCovers (f form : Nat) : Bool := f == 0xFF || f == form

/-- Whether a section applies to the module, by VARIANT and TARGET (R308, R314). -/
def State.applies (s : State) (x : SectionRef) : Bool :=
  (x.variant == 0 || x.variant == variantOf s.job.cells) && secNames x s.tables.positions s.mgmt.key

/-- Whether a section applies to the module in the form that its tables give. -/
def State.appliesNow (s : State) (x : SectionRef) : Bool := s.applies x && formCovers x.form s.tables.form.toNat

/-- The content of the current plan. -/
def State.body (s : State) : PlanBody := match s.store.cur with | some p => p.body | none => {}

/-- The pattern of sheaf `i` of a step (R214). -/
def State.patternAt (s : State) (i : Nat) : Nat := s.body.stepPatterns.getD i 0

/-- The stream of a unit in a pattern, from a list of streams. -/
def State.streamIn (s : State) (l : List Stream) (unitIx pattern : Nat) : Option Stream :=
  l.find? (fun x => x.unitIx == unitIx && x.pattern == pattern && s.appliesNow x.sec)

/-- The HBM address at which the loader placed a section; 0 if not placed (R308, R316). -/
def State.placeOf (s : State) (x : SectionRef) : Nat :=
  match s.store.cur with | some p => (p.sections.getD x.index []).getD 6 0 | none => 0

/-- Where a run of HBM lies in the placed sections, and where its bytes stand in their other copies (R281, R316): (place, other
place, length) of each part. -/
def State.otherCopies (s : State) (a n : Nat) : List (Nat × Nat × Nat) :=
  let part (here there len : Nat) : List (Nat × Nat × Nat) :=
    let lo := Nat.max a here
    let hi := Nat.min (a + n) (here + len)
    if here = 0 ∨ there = 0 ∨ hi ≤ lo then [] else [(lo, there + (lo - here), hi - lo)]
  match s.store.cur with
  | none => []
  | some p => p.sections.flatMap (fun x =>
      part (x.getD 6 0) (x.getD 7 0) (x.getD 5 0) ++ part (x.getD 7 0) (x.getD 6 0) (x.getD 5 0))

/-- Whether both copies of every placed section are intact (R283): no row of one waits to be retired. -/
def State.copiesWhole (s : State) : Bool :=
  s.stks.all (fun x => x.2.retire.all (fun q => (s.otherCopies (1024 * q) 1024).isEmpty))

/-- The stream that a physical block runs in the current pattern. -/
def State.blockStream (s : State) (b : Nat) : Option Stream :=
  s.streamIn s.body.streams (s.block b).logical.toNat s.sheaf.pattern

/-- The stream that a stack runs in the current pattern. -/
def State.stackStream (s : State) (i : Nat) : Option Stream := s.streamIn s.body.stackStreams i s.sheaf.pattern

/-! What the next sheaf runs (R45, R214, R335, R336) -/

/-- A pattern number that no plan uses: nothing runs. -/
def emptyPattern : Nat := 4096

/-- The pattern list that the module's own board runs, empty where no slot of it is refilled: list `16 × form + l` of the plan. -/
def State.refillList (s : State) (ix : BitVec 16) : List Nat :=
  match s.body.refillLists.find? (fun x => x.1 == 16 * s.tables.form.toNat + ix.toNat % 16) with | some x => x.2 | none => []

/-- The longest of the ordered lists: the sheaves that the machine's refill takes. -/
def State.refillLength (s : State) : Nat := (s.coord.refill.map (fun ix => (s.refillList ix).length)).foldl Nat.max 0

/-- The list of the module's own board. -/
def State.ownRefill (s : State) : List Nat :=
  match s.coord.refill.find? (fun ix => !s.relay && ix.toNat / 16 == keyRack s.mgmt.key * 2 + keyBoard s.mgmt.key) with
  | some ix => s.refillList ix
  | none => []

/-- Whether a refill begins: an order for the installed generation that has not run. -/
def State.refillDue (s : State) : Bool := !s.coord.refill.isEmpty && s.coord.refillGen == s.tables.gen && s.sheaf.refillLeft == 0

/-- The pattern of the next sheaf that starts (R214, R216, R229, R336): the next of the refill under way, the step's next, or
sheaf 0 of a step at a boundary and after its last sheaf. -/
def State.nextPattern (s : State) : Nat :=
  let left := s.sheaf.refillLeft
  if s.fault.refillActive then
    (if left ≤ 1 then s.patternAt 0 else s.ownRefill.getD (s.refillLength - (left - 1)) emptyPattern)
  else if s.sheaf.atBoundary || !s.sheaf.begun then
    (if s.refillDue && s.refillLength != 0 then s.ownRefill.getD 0 emptyPattern else s.patternAt 0)
  else if s.stepLen ≤ s.sheaf.sheafInStep.toNat + 1 then s.patternAt 0
  else s.patternAt (s.sheaf.sheafInStep.toNat + 1)

end Sys2Proof.Machine
end

