-- ==== Sys2Proof/WellFormed.lean ====
section
/-! DEFINITION. Which commands' fields the spec allows: the field rules of bundles (R123 to R133) and of stack
instructions (R160, R166 to R173).  A sequencer command that breaks them acts as an illegal bundle or instruction. -/

namespace Sys2Proof

/-- The plain output codes of R160. -/
def plainOut (f : BitVec 4) : Bool := decide (f.toNat ≤ 4) || f == 0xB

/-- The input codes of R160. -/
def plainIn (f : BitVec 4) : Bool := decide (f.toNat ≤ 4) || f == 0xA || f == 0xB

/-- The MX codes of R129. -/
def mxOut (f : BitVec 4) : Bool := decide (5 ≤ f.toNat ∧ f.toNat ≤ 9)

/-- FP32 or BF16 (R167, R173). -/
def wideFmt (f : BitVec 4) : Bool := f == 0xB || f == 0x0

/-- Rounding modes 0 to 2 (R160). -/
def modeOk (f : SFields) : Bool := decide (f.mode.toNat ≤ 2)

/-- An arithmetic stack instruction (R160). -/
def arithOk (f : SFields) : Bool := modeOk f && plainIn f.fmtIn && plainOut f.fmtOut

/-- A stack instruction that converts nothing (R160). -/
def moveOk (f : SFields) : Bool := modeOk f && f.fmtIn == 0 && f.fmtOut == 0

/-- Whether a command's fields keep the spec's field rules. -/
def Instr.wellFormed : Instr → Bool
  | .chunk _ _ fmt _ _ => decide (fmt.toNat ≤ 0xC)
  | .vcmp _ _ _ _ mode => decide (mode.toNat ≤ 3)
  | .vcvtNarrow _ _ _ mode fmt key => decide (mode.toNat ≤ 2) && decide (fmt.toNat ≤ 9) && (mode == 2 || key == 0)
  | .vcvtWide _ _ _ fmt => decide (fmt.toNat ≤ 0xA)
  | .waitFirst _ group mask =>
    mask != 0 && (List.range 4).all (fun k => !mask.getLsbD k || decide (group.val + k ≤ 63))
  | .sample _ index _ => decide (index.toNat ≤ 4)
  | .add _ f => arithOk f
  | .sub _ f => arithOk f
  | .mul _ f => arithOk f
  | .fma _ f => arithOk f
  | .axpby _ f => arithOk f
  | .min _ f => arithOk f
  | .max _ f => arithOk f
  | .cvt _ f => arithOk f
  | .div _ f => arithOk f
  | .sqrt _ f => arithOk f
  | .rowsum _ f => arithOk f
  | .rowmax _ f => arithOk f
  | .accum _ f => arithOk f
  | .quantMx _ f => modeOk f && plainIn f.fmtIn && mxOut f.fmtOut
  | .copy _ f => moveOk f
  | .gather _ f => moveOk f
  | .stageLocal _ f => moveOk f
  | .adamw _ f => moveOk f
  | .adam _ f => moveOk f
  | .sgdm _ f => moveOk f
  | .trustNorm _ f => moveOk f
  | .trustApply _ f => moveOk f
  | .stageReduce _ f => modeOk f && wideFmt f.fmtIn && wideFmt f.fmtOut && f.len == 1 && decide (f.count.toNat ≤ 63)
  | _ => true

end Sys2Proof
end

