-- ==== Sys2Proof/Machine/Bundle.lean ====
section
/-! DEFINITION. The words of the streams: the slots of a bundle (R121 to R133, R144), a stack instruction (R160, R161), and the
instruction memories that hold them (R134, R163, R188). -/

namespace Sys2Proof.Machine

open Sys2Proof

/-- What a slot's bits spell: nothing (R122), a command, or an encoding that R123 calls illegal. -/
inductive SlotWord where
  | empty
  | bad
  | op (i : Instr)
  deriving DecidableEq, Repr

/-- A command whose unused fields are as they must be and whose own fields keep their rules. -/
def spells (clean : Bool) (i : Instr) : SlotWord := if clean && i.wellFormed then .op i else .bad

/-- A register field of 5 bits. -/
def reg5 {n : Nat} (w : BitVec n) (lo : Nat) : Fin 32 := Fin.ofNat 32 (field w lo 5)
/-- A register or group field of 6 bits. -/
def reg6 {n : Nat} (w : BitVec n) (lo : Nat) : Fin 64 := Fin.ofNat 64 (field w lo 6)

/-- A cell slot (R124, R125): FMT is 0 but for CHUNK; a T or V register lies in 0 to 31. -/
def cellSlot (b : Fin 64) (c : Fin 4) (w : BitVec 20) : SlotWord :=
  let rb := bit w 7
  let row : Fin 16 := Fin.ofNat 16 (field w 8 4)
  let drain := field w 3 4 == 0 && field w 18 2 == 0
  let low := decide (field w 12 6 < 32)
  match field w 0 3 with
  | 0 => if drain then .empty else .bad
  | 1 => spells (field w 16 4 == 0) (.chunk b c (BitVec.ofNat 4 (field w 3 4)) rb (BitVec.ofNat 8 (field w 8 8)))
  | 2 => spells (drain && low) (.drainTree b c rb row (reg5 w 12))
  | 3 => spells (drain && low) (.drainVec b c rb row (reg5 w 12))
  | 4 => spells drain (.drainSram b c rb row (reg6 w 12))
  | _ => .bad

/-- The vector slot (R126, R127, R129): MODE, FMT and KEY are 0 where the operation has none. -/
def vectorSlot (b : Fin 64) (w : BitVec 48) : SlotWord :=
  let vd := reg5 w 6
  let va := reg5 w 11
  let vb := reg5 w 16
  let vc := reg5 w 21
  let mode : BitVec 3 := BitVec.ofNat 3 (field w 26 3)
  let fmt : BitVec 4 := BitVec.ofNat 4 (field w 29 4)
  let key : BitVec 8 := BitVec.ofNat 8 (field w 33 8)
  let sound := field w 41 7 == 0
  let bare := sound && mode == 0 && fmt == 0 && key == 0
  match field w 0 6 with
  | 0x00 => if bare then .empty else .bad
  | 0x01 => spells bare (.vadd b vd va vb)
  | 0x02 => spells bare (.vsub b vd va vb)
  | 0x03 => spells bare (.vmul b vd va vb)
  | 0x04 => spells bare (.vfma b vd va vb vc)
  | 0x05 => spells bare (.vmin b vd va vb)
  | 0x06 => spells bare (.vmax b vd va vb)
  | 0x07 => spells (sound && fmt == 0 && key == 0) (.vcmp b vd va vb mode)
  | 0x08 => spells bare (.vsel b vd va vb vc)
  | 0x09 => spells bare (.vmov b vd va)
  | 0x0A => spells sound (.vcvtNarrow b vd va mode fmt key)
  | 0x0B => spells (sound && mode == 0 && key == 0) (.vcvtWide b vd va fmt)
  | 0x0C => spells bare (.vexp b vd va)
  | 0x0D => spells bare (.vlog b vd va)
  | 0x0E => spells bare (.vrcp b vd va)
  | 0x0F => spells bare (.vrsqrt b vd va)
  | 0x10 => spells bare (.vtanh b vd va)
  | 0x11 => spells bare (.viadd b vd va vb)
  | _ => .bad

/-- The tree slot (R130): what an operation does not use is 0. -/
def treeSlot (b : Fin 64) (w : BitVec 20) : SlotWord :=
  let td := reg5 w 3
  let ta := reg5 w 8
  let reg := reg5 w 13
  let ar := reg6 w 13
  let sound := !bit w 19
  let low := !bit w 18
  match field w 0 3 with
  | 0 => if field w 3 17 = 0 then .empty else .bad
  | 1 => spells (sound && low) (.tadd b td ta reg)
  | 2 => spells (sound && low) (.taddi b td ta reg)
  | 3 => spells (sound && ta == 0) (.tload b td ar)
  | 4 => spells (sound && td == 0) (.tstore b ar ta)
  | 5 => spells (sound && low && td == 0) (.ttov b reg ta)
  | 6 => spells (sound && low && ta == 0) (.vtot b td reg)
  | _ => .bad

/-- A move slot (R131) with its rules for LEN. -/
def moveSlot (b : Fin 64) (ch : Fin 2) (w : BitVec 28) : SlotWord :=
  let ars := reg6 w 4
  let arx := reg6 w 10
  let len : BitVec 4 := BitVec.ofNat 4 (field w 16 4)
  let vreg := reg5 w 22
  let sound := !bit w 27
  match field w 0 4 with
  | 0x0 => if sound then .empty else .bad
  | 0x1 => spells sound (.ldOpb b ch ars arx len (Fin.ofNat 4 (field w 20 2)))
  | 0x2 => spells (sound && len == 0) (.ldV b ch ars vreg)
  | 0x3 => spells (sound && len == 0) (.stV b ch ars vreg)
  | 0x4 => spells (sound && len == 1) (.hbmRd b ch ars arx)
  | 0x5 => spells (sound && len == 1) (.hbmWr b ch ars arx)
  | 0x6 => spells sound (.egress b ch ars arx len)
  | 0x7 => spells sound (.xfer b ch ars arx len)
  | _ => .bad

/-- The sync slot (R132): every GROUP or ARG bit that an operation does not use is 0. -/
def syncSlot (b : Fin 64) (w : BitVec 16) : SlotWord :=
  let group := reg6 w 3
  let arg := field w 9 6
  let sound := !bit w 15
  match field w 0 3 with
  | 0 => if field w 3 13 = 0 then .empty else .bad
  | 1 => spells (sound && arg == 0) (.wait b group)
  | 2 => spells (sound && decide (arg < 16)) (.waitFirst b group (BitVec.ofNat 4 arg))
  | 3 => spells sound (.signal b group (BitVec.ofNat 6 arg))
  | 4 => spells (sound && group == 0 && decide (arg < 32)) (.readT b (reg5 w 9))
  | 5 => spells (sound && decide (arg < 32)) (.sample b (BitVec.ofNat 6 (field w 3 6)) (reg5 w 9))
  | _ => .bad

/-- The control slot (R133). -/
def controlSlot (b : Fin 64) (w : BitVec 20) : SlotWord :=
  let level : Fin 4 := Fin.ofNat 4 (field w 3 2)
  let sound := field w 13 7 == 0
  match field w 0 3 with
  | 0 => if sound then .empty else .bad
  | 1 => spells sound (.loopBegin b level (BitVec.ofNat 8 (field w 5 8)))
  | 2 => spells sound (.loopEnd b level)
  | 3 => spells sound (.sheafEnd b)
  | _ => .bad

/-- Slot `n` of a bundle (R121): the cell slots are 0 to 3, then vector 4, tree 5, moves 6 and 7, sync 8 and control 9. -/
def slotWord (b : Fin 64) (w : Word256) (n : Nat) : SlotWord :=
  match n with
  | 4 => vectorSlot b (w.extractLsb' 80 48)
  | 5 => treeSlot b (w.extractLsb' 128 20)
  | 6 => moveSlot b 0 (w.extractLsb' 148 28)
  | 7 => moveSlot b 1 (w.extractLsb' 176 28)
  | 8 => syncSlot b (w.extractLsb' 204 16)
  | 9 => controlSlot b (w.extractLsb' 220 20)
  | n => cellSlot b (Fin.ofNat 4 n) (w.extractLsb' (20 * (n % 4)) 20)

/-- Whether a command is marked under a loose mask (R144). -/
def Instr.marked (loose : Word64) : Instr → Bool
  | .wait _ g => bit loose g
  | .waitFirst _ _ _ | .readT _ _ | .sample _ _ _ => true
  | _ => false

/-- Whether a slot of a bundle offends (R123, R144): an illegal encoding, or a marked operation in a bundle without VARIANT. -/
def offends (b : Fin 64) (loose : Word64) (w : Word256) (n : Nat) : Bool :=
  match slotWord b w n with
  | .empty => false
  | .bad => true
  | .op i => !bit w 255 && Instr.marked loose i

/-- Whether a bundle holds a marked operation. -/
def holdsMarked (b : Fin 64) (loose : Word64) (w : Word256) : Bool :=
  match slotWord b w 8 with
  | .op i => Instr.marked loose i
  | _ => false

/-- Whether a bundle is illegal (R123, R144): a reserved bit of its own, an offending slot, or VARIANT with no marked operation, for
which no slot offends. -/
def bundleIllegal (b : Fin 64) (loose : Word64) (w : Word256) : Bool :=
  field w 240 7 != 0 || (List.range 10).any (offends b loose w) || (bit w 255 && !holdsMarked b loose w)

/-! Stack instructions (R160, R161) -/

/-- The fields of a stack instruction's word. -/
def stackFields {n : Nat} (w : BitVec n) : SFields :=
  { ara := reg6 w 6, arb := reg6 w 12, arc := reg6 w 18, ard := reg6 w 24
    len := BitVec.ofNat 8 (field w 30 8), count := BitVec.ofNat 16 (field w 38 16), fmtIn := BitVec.ofNat 4 (field w 54 4)
    fmtOut := BitVec.ofNat 4 (field w 58 4), mode := BitVec.ofNat 2 (field w 62 2), key := BitVec.ofNat 8 (field w 64 8)
    kdesc := BitVec.ofNat 8 (field w 78 8), hash := bit w 86, eset := BitVec.ofNat 7 (field w 87 7) }

/-- What a stack instruction's word spells (R160, R161, R166). -/
def stackWord (i : Fin 12) (w : Word128) : SlotWord :=
  let f := stackFields w
  let sound := field w 104 24 == 0
  let level : Fin 4 := Fin.ofNat 4 (field w 94 2)
  let op (c : Fin 12 → SFields → Instr) : SlotWord := spells sound (c i f)
  match field w 0 6 with
  | 0x00 => if sound then .empty else .bad
  | 0x01 => op .add | 0x02 => op .sub | 0x03 => op .mul | 0x04 => op .fma | 0x05 => op .axpby | 0x06 => op .min
  | 0x07 => op .max | 0x08 => op .cvt | 0x09 => op .quantMx | 0x0A => op .div | 0x0B => op .sqrt | 0x0C => op .rowsum
  | 0x0D => op .rowmax | 0x0E => op .accum | 0x0F => op .copy | 0x10 => op .gather | 0x11 => op .stageLocal
  | 0x12 => op .stageReduce | 0x13 => op .adamw | 0x14 => op .adam | 0x15 => op .sgdm | 0x16 => op .trustNorm
  | 0x17 => op .trustApply
  | 0x30 => spells (sound && moveOk f) (.stackWait i (reg6 w 72))
  | 0x31 => spells (sound && moveOk f) (.stackLoopBegin i level (BitVec.ofNat 8 (field w 78 8)))
  | 0x32 => spells (sound && moveOk f) (.stackLoopEnd i level)
  | 0x33 => spells (sound && moveOk f) (.stackSheafEnd i)
  | _ => .bad

/-! Instruction memory -/

/-- The IDLE field of a bundle (R121, R122). -/
def bundleIdle (w : Word256) : Nat := field w 247 8
/-- The IDLE field of a stack instruction (R160). -/
def stackIdle (w : Word128) : Nat := field w 96 8

/-- The bundles of one half of a block's instruction memory (R134). -/
def blockHalf : Nat := 8192
/-- The instructions of one half of a stack's instruction memory (R163). -/
def stackHalf : Nat := 4096

/-- The window offset of a line's bundle: two halves, the line's own modulo both (R134, R188).  DESIGN CHOICE: a stream begins at
the first half's first line (log entry 98). -/
def bundlePlace (line : Nat) : Nat := 0x600000 + 32 * (line % (2 * blockHalf))

/-- The bundle at a line of a block's stream, as instruction memory holds it. -/
def State.bundleAt (s : State) (b line : Nat) : Word256 :=
  BitVec.ofNat 256 (leNat (s.peek (blockBase b + bundlePlace line) 32))

/-- The instruction at a line of a stack's stream, as its instruction memory holds it. -/
def Stack.instrAt (k : Stack) (line : Nat) : Word128 := BitVec.ofNat 128 (leNat (readBytes k.imem (16 * (line % (2 * stackHalf))) 16))

/-- Whether a slot of the line that a block issues is an offending one (R148); a line that the fetcher has not delivered names
nothing yet. -/
def State.slotOffends (s : State) (b n : Nat) : Bool :=
  let k := s.block b
  decide (k.seq.line < k.seq.fetched) && offends (Fin.ofNat 64 b) k.groups.loose (s.bundleAt b k.seq.line) n

/-- Whether the line that a block issues is illegal. -/
def State.lineIllegal (s : State) (b : Nat) : Bool :=
  bundleIllegal (Fin.ofNat 64 b) (s.block b).groups.loose (s.bundleAt b (s.block b).seq.line)

/-- Lines of a stream, from `first` on, that the fetcher may still deliver (R134, R163): the half that the sequencer is in and the
one that it has left. -/
def Sequencer.room (q : Sequencer) (half : Nat) : Nat := Nat.min q.length ((q.line / half + 2) * half) - q.fetched

/-- Lines of the next sheaf's stream that the fetcher may hold: the first half once the sequencer has left it for good, both once
the stream has ended. -/
def Sequencer.aheadRoom (q : Sequencer) (half : Nat) : Nat :=
  (if q.ended then 2 * half else if (q.line / half) % 2 = 1 ∧ q.length ≤ (q.line / half + 1) * half then half else 0) - q.ahead

/-- A sequencer at the first line of a stream of `n` lines in a pattern, with what the fetcher already holds of it; with no stream
it has nothing to issue (R32, R135). -/
def Sequencer.start (q : Sequencer) (n pattern : Nat) : Sequencer :=
  { length := n, ended := n == 0, fetched := if q.aheadPattern = pattern then Nat.min n q.ahead else 0 }

/-- A sequencer one cycle on (R122, R133, R135): its IDLE cycles run, then the next line or a loop's first begins. -/
def Sequencer.cycle (q : Sequencer) : Sequencer :=
  if q.ended || q.waiting.isSome || q.stalled then q
  else if 0 < q.left then { q with left := q.left - 1, issued := true }
  else { q with line := q.jump.getD (q.line + 1), jump := none, issued := false, reported := false }

/-- Whether a sequencer has just come to a line: none of the line's cycles has passed. -/
def Sequencer.atLine (q : Sequencer) : Bool := !q.ended && q.waiting.isNone && !q.stalled && !q.issued

end Sys2Proof.Machine
end

