-- ==== Sys2Proof/Machine/Numeric.lean ====
section
/-! DEFINITION. Number formats (R90, R91), exact decoding, the three rounding modes (R102 to R105) and binary32
arithmetic (R100, R128, R158). -/

namespace Sys2Proof.Machine

open Sys2Proof

/-- The floating formats of R90. -/
inductive FpFmt where
  | fp32 | bf16 | fp16 | e5m2 | e4m3 | e3m2 | e2m3 | e2m1
  deriving DecidableEq, Repr

/-- Exponent bits. -/
def FpFmt.eb : FpFmt → Nat
  | .fp32 => 8 | .bf16 => 8 | .fp16 => 5 | .e5m2 => 5 | .e4m3 => 4 | .e3m2 => 3 | .e2m3 => 2 | .e2m1 => 2

/-- Mantissa bits. -/
def FpFmt.mb : FpFmt → Nat
  | .fp32 => 23 | .bf16 => 7 | .fp16 => 10 | .e5m2 => 2 | .e4m3 => 3 | .e3m2 => 2 | .e2m3 => 3 | .e2m1 => 1

/-- Exponent bias. -/
def FpFmt.bias : FpFmt → Nat
  | .fp32 => 127 | .bf16 => 127 | .fp16 => 15 | .e5m2 => 15 | .e4m3 => 7 | .e3m2 => 3 | .e2m3 => 1 | .e2m1 => 1

/-- Encoded bits of one element. -/
def FpFmt.bits (f : FpFmt) : Nat := 1 + f.eb + f.mb

/-- The magnitude code of the largest finite value (R90). -/
def FpFmt.maxMag : FpFmt → Nat
  | .fp32 => 0x7F7FFFFF | .bf16 => 0x7F7F | .fp16 => 0x7BFF | .e5m2 => 0x7B | .e4m3 => 0x7E
  | .e3m2 => 0x1F | .e2m3 => 0x1F | .e2m1 => 0x7

/-- Whether the format's top exponent codes infinity and NaN (R90). -/
def FpFmt.ieeeTop : FpFmt → Bool
  | .fp32 => true | .bf16 => true | .fp16 => true | .e5m2 => true | _ => false

/-- A decoded value: (−1)^neg × m × 2^e, or a special value. -/
inductive FpVal where
  | nan
  | inf (neg : Bool)
  | fin (neg : Bool) (m : Nat) (e : Int)
  deriving DecidableEq, Repr

/-- Decodes an encoding of R90 exactly. -/
def fpDecode (f : FpFmt) (code : Nat) : FpVal :=
  let mant := code % 2 ^ f.mb
  let ex := (code / 2 ^ f.mb) % 2 ^ f.eb
  let neg := (code / 2 ^ (f.eb + f.mb)) % 2 == 1
  if f.ieeeTop && ex == 2 ^ f.eb - 1 then
    if mant == 0 then .inf neg else .nan
  else if f == .e4m3 && ex == 15 && mant == 7 then .nan
  else if ex == 0 then .fin neg mant (1 - (f.bias : Int) - f.mb)
  else .fin neg (2 ^ f.mb + mant) ((ex : Int) - f.bias - f.mb)

/-- The rounding modes of R102. -/
inductive RMode where
  | rne | rtz | sr
  deriving DecidableEq, Repr

/-- Rounds the magnitude n × 2^e (plus a little more when `sticky`) to the grid of `f` with an unbounded exponent
above, and answers the magnitude code.  `u` is the 32-bit random word of R106, used by SR alone (R105). -/
def roundMag (f : FpFmt) (mode : RMode) (u : Nat) (n : Nat) (e : Int) (sticky : Bool) : Nat :=
  if n = 0 then 0 else
    let top : Int := (Nat.log2 n : Int) + e
    let emin : Int := 1 - (f.bias : Int)
    let q : Int := (if top < emin then emin else top) - f.mb
    let sh : Nat := (q - e).toNat
    let k := if e < q then n / 2 ^ sh else n * 2 ^ (e - q).toNat
    let rem := if e < q then n % 2 ^ sh else 0
    let up := match mode with
      | .rne => decide (2 * rem > 2 ^ sh) || (decide (e < q) && decide (2 * rem = 2 ^ sh) && (sticky || k % 2 == 1))
      | .rtz => false
      | .sr => decide (u < rem * 2 ^ 32 / 2 ^ sh)
    let k' := if up then k + 1 else k
    (q + f.mb + f.bias).toNat * 2 ^ f.mb + k' - 2 ^ f.mb

/-- The code with its sign. -/
def withSign (f : FpFmt) (neg : Bool) (mag : Nat) : Nat := mag + b2n neg * 2 ^ (f.eb + f.mb)

/-- The canonical NaN 0x7FC0_0000 (R97, R128). -/
def nan32 : Word32 := 0x7FC00000

/-- ±Inf in FP32. -/
def inf32 (neg : Bool) : Word32 := BitVec.ofNat 32 (withSign .fp32 neg 0x7F800000)

/-- ±0 in FP32. -/
def zero32 (neg : Bool) : Word32 := BitVec.ofNat 32 (withSign .fp32 neg 0)

/-- Rounds (−1)^neg × n × 2^e to FP32 with round-to-nearest-even; ±Inf from the overflow threshold on (R98). -/
def round32 (neg : Bool) (n : Nat) (e : Int) (sticky : Bool) : Word32 :=
  let mag := roundMag .fp32 .rne 0 n e sticky
  if mag > 0x7F7FFFFF then inf32 neg else BitVec.ofNat 32 (withSign .fp32 neg mag)

/-- Rounds an exact signed sum n × 2^e; an exact zero gives +0 (R98). -/
def round32Int (n : Int) (e : Int) : Word32 := round32 (decide (n < 0)) n.natAbs e false

/-- A decoded FP32 word. -/
def dec32 (x : Word32) : FpVal := fpDecode .fp32 x.toNat

/-- The signed value of a finite number in units of 2^u, for u at or below its exponent. -/
def fixedAt (neg : Bool) (m : Nat) (e u : Int) : Int :=
  let v : Int := (m : Int) * 2 ^ (e - u).toNat
  if neg then -v else v

/-- binary32 addition (R100, R128): an exact zero sum of operands of opposite sign gives +0. -/
def fadd (x y : Word32) : Word32 :=
  match dec32 x, dec32 y with
  | .nan, _ => nan32
  | _, .nan => nan32
  | .inf a, .inf b => if a == b then inf32 a else nan32
  | .inf a, _ => inf32 a
  | _, .inf b => inf32 b
  | .fin a m e, .fin b n g =>
    let u := min e g
    let s := fixedAt a m e u + fixedAt b n g u
    if s = 0 then zero32 (a && b && decide (m = 0) && decide (n = 0)) else round32Int s u

/-- Negation of the sign bit. -/
def fneg (x : Word32) : Word32 := x ^^^ 0x80000000

/-- binary32 subtraction (R127); a NaN stays the canonical NaN. -/
def fsub (x y : Word32) : Word32 := fadd x (fneg y)

/-- binary32 multiplication (R128). -/
def fmul (x y : Word32) : Word32 :=
  match dec32 x, dec32 y with
  | .nan, _ => nan32
  | _, .nan => nan32
  | .inf a, .inf b => inf32 (a != b)
  | .inf a, .fin b n _ => if n = 0 then nan32 else inf32 (a != b)
  | .fin a m _, .inf b => if m = 0 then nan32 else inf32 (a != b)
  | .fin a m e, .fin b n g => round32 (a != b) (m * n) (e + g) false

/-- binary32 fused multiply-add with one rounding: x × y + z (R127, R128). -/
def ffma (x y z : Word32) : Word32 :=
  match dec32 x, dec32 y, dec32 z with
  | .nan, _, _ => nan32
  | _, .nan, _ => nan32
  | _, _, .nan => nan32
  | .inf a, .inf b, .inf c => if (a != b) == c then inf32 c else nan32
  | .inf a, .inf b, _ => inf32 (a != b)
  | .inf a, .fin b n _, .inf c => if n = 0 then nan32 else if (a != b) == c then inf32 c else nan32
  | .inf a, .fin b n _, _ => if n = 0 then nan32 else inf32 (a != b)
  | .fin a m _, .inf b, .inf c => if m = 0 then nan32 else if (a != b) == c then inf32 c else nan32
  | .fin a m _, .inf b, _ => if m = 0 then nan32 else inf32 (a != b)
  | .fin _ _ _, .fin _ _ _, .inf c => inf32 c
  | .fin a m e, .fin b n g, .fin c k h =>
    let u := min (e + g) h
    let s := fixedAt (a != b) (m * n) (e + g) u + fixedAt c k h u
    if s = 0 then zero32 ((a != b) && c && decide (m * n = 0) && decide (k = 0)) else round32Int s u

/-- binary32 division, correctly rounded (R128, R158). -/
def fdiv (x y : Word32) : Word32 :=
  match dec32 x, dec32 y with
  | .nan, _ => nan32
  | _, .nan => nan32
  | .inf _, .inf _ => nan32
  | .inf a, .fin b _ _ => inf32 (a != b)
  | .fin a _ _, .inf b => zero32 (a != b)
  | .fin a m e, .fin b n g =>
    if n = 0 then (if m = 0 then nan32 else inf32 (a != b))
    else round32 (a != b) (m * 2 ^ 64 / n) (e - g - 64) (decide (m * 2 ^ 64 % n ≠ 0))

/-- The integer square root by bits from `2^k` down. -/
def isqrtFrom : Nat → Nat → Nat → Nat
  | 0, n, r => if (r + 1) * (r + 1) ≤ n then r + 1 else r
  | k + 1, n, r =>
    let c := r + 2 ^ (k + 1)
    if c * c ≤ n then isqrtFrom k n c else isqrtFrom k n r

/-- ⌊√n⌋. -/
def isqrt (n : Nat) : Nat := isqrtFrom (Nat.log2 n / 2) n 0

/-- m × 2^e with an even exponent. -/
def evenExp (m : Nat) (e : Int) : Nat × Int := if e % 2 = 0 then (m, e) else (2 * m, e - 1)

/-- binary32 square root, correctly rounded (R158); √−0 is −0. -/
def fsqrt (x : Word32) : Word32 :=
  match dec32 x with
  | .nan => nan32
  | .inf a => if a then nan32 else inf32 false
  | .fin a m e =>
    if m = 0 then zero32 a else if a then nan32 else
      let p := evenExp m e
      let n := p.1 * 2 ^ 80
      let r := isqrt n
      round32 false r (p.2 / 2 - 40) (decide (r * r ≠ n))

/-- The order of finite and infinite values, −0 below +0 (R128): `some true` when x is strictly below y. -/
def fltTotal (x y : Word32) : Bool :=
  let k (w : Word32) : Int := if bit w 31 then -((w.toNat % 2 ^ 31 : Nat) : Int) - 1 else (w.toNat : Int)
  decide (k x < k y)

/-- Whether a word is a NaN. -/
def isNan (x : Word32) : Bool := dec32 x == .nan

/-- VMIN and MIN (R128): canonical NaN if either input is NaN; −0 is less than +0. -/
def fmin (x y : Word32) : Word32 := if isNan x || isNan y then nan32 else if fltTotal y x then y else x

/-- VMAX and MAX (R128). -/
def fmax (x y : Word32) : Word32 := if isNan x || isNan y then nan32 else if fltTotal x y then y else x

/-- Numerical equality of two words, ±0 equal. -/
def feq (x y : Word32) : Bool :=
  !isNan x && !isNan y && (x == y || (x.toNat % 2 ^ 31 == 0 && y.toNat % 2 ^ 31 == 0))

/-- Numerical less-than. -/
def flt (x y : Word32) : Bool := !isNan x && !isNan y && !feq x y && fltTotal x y

/-- The number in 32-bit two's complement as FP32, rounded to nearest even (R129, R160). -/
def ofInt32 (x : Word32) : Word32 := round32Int (signed 32 x.toNat) 0

/-- INT8 conversion (R103): rounds to an integer in the mode, then saturates; NaN gives 0. -/
def toInt8 (mode : RMode) (u : Nat) (x : Word32) : Nat :=
  match dec32 x with
  | .nan => 0
  | .inf a => if a then 0x80 else 0x7F
  | .fin a m e =>
    let sh := (-e).toNat
    let k := if e < 0 then m / 2 ^ sh else m * 2 ^ e.toNat
    let rem := if e < 0 then m % 2 ^ sh else 0
    let up := match mode with
      | .rne => decide (e < 0) && (decide (2 * rem > 2 ^ sh) || (decide (2 * rem = 2 ^ sh) && k % 2 == 1))
      | .rtz => false
      | .sr => decide (e < 0) && decide (u < rem * 2 ^ 32 / 2 ^ sh)
    let k' := if up then k + 1 else k
    if a then (256 - min k' 128) % 256 else min k' 127

/-- The NaN code of a plain narrow format (R103). -/
def FpFmt.nanCode : FpFmt → Nat
  | .fp32 => 0x7FC00000 | .bf16 => 0x7FC0 | .fp16 => 0x7E00 | .e5m2 => 0x7E | .e4m3 => 0x7F
  | .e3m2 => 0 | .e2m3 => 0 | .e2m1 => 0

/-- The code of ±Inf on a plain conversion (R103): E4M3 gives ±448. -/
def FpFmt.infCode (f : FpFmt) : Nat := if f.ieeeTop then (2 ^ f.eb - 1) * 2 ^ f.mb else f.maxMag

/-- A plain conversion from FP32 (R102, R103): subnormals of the target are produced, except in BF16, whose rounded
magnitude below 2^−126 becomes a zero of the same sign. -/
def narrow (f : FpFmt) (mode : RMode) (u : Nat) (x : Word32) : Nat :=
  match dec32 x with
  | .nan => f.nanCode
  | .inf a => withSign f a f.infCode
  | .fin a m e =>
    let mag := roundMag f mode u m e false
    let mag' := if f == .bf16 && mag < 2 ^ 7 then 0 else mag
    if mag' ≤ f.maxMag then withSign f a mag'
    else withSign f a (if mode == .rtz then f.maxMag else f.infCode)

/-- One MX element from the scaled value (R103, R104): saturating. -/
def narrowMx (f : FpFmt) (mode : RMode) (u : Nat) (x : Word32) (scaleX : Int) : Nat :=
  match dec32 x with
  | .nan => 0
  | .inf _ => 0
  | .fin a m e => withSign f a (min (roundMag f mode u m (e - scaleX) false) f.maxMag)

/-- An exact widening to FP32 where the value lies in FP32's range (R129). -/
def widen (f : FpFmt) (code : Nat) : Word32 :=
  match fpDecode f code with
  | .nan => nan32
  | .inf a => inf32 a
  | .fin a m e => if m = 0 then zero32 a else round32 a m e false

/-- A widened MX element under scale code `s` (R92, R129); scale 0xFF makes the canonical NaN. -/
def widenMx (f : FpFmt) (s code : Nat) : Word32 :=
  if s = 255 then nan32 else
    match fpDecode f code with
    | .nan => nan32
    | .inf a => inf32 a
    | .fin a m e => if m = 0 then zero32 a else round32 a m (e + (s : Int) - 127) false

/-- The conversion codes of R129, with FP32 as the stack's code 0xB (R160). -/
inductive CvtFmt where
  | plain (f : FpFmt)
  | int8
  | mx (f : FpFmt)
  | int32
  deriving DecidableEq, Repr

/-- R129's table with R160's code 0xB; the reserved codes are `none`. -/
def cvtFmt : Nat → Option CvtFmt
  | 0x0 => some (.plain .bf16) | 0x1 => some (.plain .fp16) | 0x2 => some (.plain .e4m3)
  | 0x3 => some (.plain .e5m2) | 0x4 => some .int8 | 0x5 => some (.mx .e4m3) | 0x6 => some (.mx .e5m2)
  | 0x7 => some (.mx .e3m2) | 0x8 => some (.mx .e2m3) | 0x9 => some (.mx .e2m1) | 0xA => some .int32
  | 0xB => some (.plain .fp32) | _ => none

/-- Bits of one element of a conversion format (R94). -/
def CvtFmt.bits : CvtFmt → Nat
  | .plain f => f.bits | .int8 => 8 | .mx f => f.bits | .int32 => 32

/-- One element converted to a plain format; MX formats are converted a block at a time. -/
def cvtPlain (c : CvtFmt) (mode : RMode) (u : Nat) (x : Word32) : Nat :=
  match c with
  | .plain .fp32 => x.toNat
  | .plain f => narrow f mode u x
  | .int8 => toInt8 mode u x
  | .mx _ => 0
  | .int32 => x.toNat

/-- One element of a plain format widened to FP32 (R129). -/
def widenPlain (c : CvtFmt) (code : Nat) : Word32 :=
  match c with
  | .plain .fp32 => BitVec.ofNat 32 code
  | .plain f => widen f code
  | .int8 => round32Int (signed 8 code) 0
  | .mx f => widen f code
  | .int32 => ofInt32 (BitVec.ofNat 32 code)

/-- EMAX of R104. -/
def emax : FpFmt → Int
  | .e4m3 => 8 | .e5m2 => 15 | .e3m2 => 4 | .e2m3 => 2 | .e2m1 => 2 | _ => 0

/-- The E8M0 scale of one MX block (R104). -/
def mxScale (f : FpFmt) (xs : List Word32) : Nat :=
  let bad := xs.any (fun x => match dec32 x with | .fin _ _ _ => false | _ => true)
  let amax := xs.foldl (fun a x => max a (x.toNat % 2 ^ 31)) 0
  if bad then 255
  else match fpDecode .fp32 amax with
    | .fin _ m e =>
      if m = 0 then 0
      else
        let x : Int := (Nat.log2 m : Int) + e - emax f
        ((max (-127) (min 127 x)) + 127).toNat
    | _ => 255

/-- The elements of one MX block (R104): zeros under scale 0xFF or for a block of zeros. -/
def mxElems (f : FpFmt) (mode : RMode) (us : List Nat) (xs : List Word32) : List Nat :=
  let s := mxScale f xs
  let zeros := xs.all (fun x => x.toNat % 2 ^ 31 == 0)
  if s = 255 || zeros then xs.map (fun _ => 0)
  else (List.zip xs us).map (fun p => narrowMx f mode p.2 p.1 ((s : Int) - 127))

/-- Elements of `w` bits packed from bit 0 upward (R94: FP4 two a byte, FP6 four in three bytes, others whole bytes),
as one number. -/
def packElems (w : Nat) : List Nat → Nat
  | [] => 0
  | c :: cs => c % 2 ^ w + 2 ^ w * packElems w cs

/-- Element `i` of `w` bits in a packed run of bytes (R94). -/
def elemAt (w : Nat) (n : Nat) (i : Nat) : Nat := (n / 2 ^ (w * i)) % 2 ^ w

/-- One level of the tree of R100 over any combining operation: pairs combine, an odd last element moves up. -/
def pairUp {α : Type} (op : α → α → α) : List α → List α
  | a :: b :: cs => op a b :: pairUp op cs
  | cs => cs

/-- The tree of R100 with fuel for its levels. -/
def treeFuel {α : Type} (op : α → α → α) : Nat → List α → List α
  | 0, cs => cs
  | k + 1, cs => if cs.length ≤ 1 then cs else treeFuel op k (pairUp op cs)

/-- tree_sum of R100: the one order in which results are combined. -/
def treeCombine {α : Type} (op : α → α → α) (d : α) (cs : List α) : α :=
  (treeFuel op (cs.length + 1) cs).headD d

end Sys2Proof.Machine
end

