-- ==== Sys2Proof/Machine/Operands.lean ====
section
/-! DEFINITION. The operand forms of blocks: issue, loop indexes, address registers (R118), SRAM ports (R116), registers
with their latencies (R137, R138), rounding keys (R106, R107) and tokens (R72). -/

namespace Sys2Proof.Machine

open Sys2Proof

/-- Whether a block's line has its issue cycle (R122), and neither the stream's end, isolation (R413), a freeze (R324), its own
wait nor its own stall stops it. -/
def State.runsOn (s : State) (b : Nat) : Bool :=
  let k := s.block b
  k.active && !k.isolated && !k.frozen && !k.seq.ended && !k.seq.issued && k.seq.waiting.isNone && !k.seq.stalled

/-- Whether a block's slots act now: it runs on and no other block's wait or stall gates its region (R141, R143). -/
def State.issues (s : State) (b : Nat) : Bool := s.runsOn b && (s.region (compRegion b)).stall.isNone

/-- The current iteration i_l of a loop level; 0 while the level is inactive (R118). -/
def Sequencer.iter (q : Sequencer) (l : Nat) : Nat :=
  match q.loops.find? (fun x => x.level == l) with
  | some x => x.iter
  | none => 0

/-- Σ stride_l × i_l (R118, R119, R162). -/
def Sequencer.offset (q : Sequencer) (strides : List Int) : Int :=
  (List.range 4).foldl (fun a l => a + strides.getD l 0 * (q.iter l : Int)) 0

/-- The effective address of a block's address register (R118). -/
def Block.effective (k : Block) (a : AddrReg) : Int :=
  (a.base : Int) + k.seq.offset a.s + a.ss * (k.sel.toNat : Int)

/-- An address register of a block; one that no section supplies reads as zeros (R466). -/
def Block.areg (k : Block) (ar : Nat) : AddrReg := k.tables.ar.getD ar {}

/-- Resolves an address register for a use that takes `len` units from its space of `limit` units, aligned to `align`
(R118): a space that does not fit raises RANGE and suppresses the access; a misaligned address raises ALIGN and is rounded
down; an address then outside the space raises RANGE and suppresses the access.  DESIGN CHOICE: a run that starts inside its
space and ends past it counts as outside, and the whole access is suppressed (log entry 97). -/
def State.resolve (s : State) (b ar : Nat) (want : Space) (len align limit : Nat) : State × Option Nat :=
  let k := s.block b
  let a := k.areg ar
  let ea := k.effective a
  let at_ := ea - ea % (align : Int)
  let s1 := if a.space == want && at_ != ea then s.planFault b 3 else s
  if a.space != want || decide (at_ < 0) || decide (limit < at_.toNat + len) then (s1.planFault b 4, none)
  else (s1, some at_.toNat)

/-- The bytes of block SRAM (R115). -/
def sramSize : Nat := 0x600000

/-- An SRAM side of `rows` rows. -/
def State.resolveSram (s : State) (b ar rows : Nat) : State × Option Nat := s.resolve b ar .sram (1024 * rows) 32 sramSize

/-- Takes a plan read port for the row at an SRAM offset in a cycle: a run of 1 KiB uses each bank once, and a bank serves two
reads a cycle (R115, R116).  True when the access is refused. -/
def State.takeRead (s : State) (b cycle off : Nat) : State × Bool :=
  if get 0 (s.block b).reads cycle < 2 then (s.onBlock b (fun k => { k with reads := upd 0 k.reads cycle (· + 1) }), false)
  else ((s.blockHazard b 4 off).planFault b 1, true)

/-- Takes a plan write port for the row at an SRAM offset in a cycle (R116). -/
def State.takeWrite (s : State) (b cycle off : Nat) : State × Bool :=
  if get 0 (s.block b).writes cycle < 2 then (s.onBlock b (fun k => { k with writes := upd 0 k.writes cycle (· + 1) }), false)
  else ((s.blockHazard b 4 off).planFault b 1, true)

/-- Whether an effect is a row that uses a write port of its own block in a cycle, of a rank behind `rank`: it is stored in the
cycle after. -/
def Due.writesAt (d : Due) (cycle rank : Nat) : Bool :=
  decide (d.cycle = cycle + 1 ∧ rank < d.rank) && (match d.act with | .sram _ _ => true | _ => false)

/-- Whether an effect of another block is an XFER's row that will use a write port of block `b` in a cycle, of a rank behind
`rank`. -/
def Due.lands (d : Due) (b cycle rank : Nat) : Bool :=
  decide (rank < d.rank) && (match d.act with
    | .readXfer p _ _ rel _ refused => p == b && rel == cycle && !refused
    | _ => false)

/-- Whether a token is such a row on its way. -/
def Token.lands (t : Token) (b cycle rank : Nat) : Bool :=
  decide (t.release = cycle) && (match t.payload with | .rows p _ _ r => p == b && decide (rank < r) | _ => false)

/-- An XFER's row loses its write port. -/
def Due.refuse (d : Due) : Due :=
  { d with act := match d.act with | .readXfer p o x rel r _ => .readXfer p o x rel r true | a => a }

/-- The first element that a test names, rewritten. -/
def onFirst {α : Type} (p : α → Bool) (f : α → α) : List α → List α
  | [] => []
  | x :: xs => if p x then f x :: xs else x :: onFirst p f xs

/-- A write of later rank that holds a port of a cycle gives it up (R116): a row of the block's own, an XFER's row on its way, or one
that its sender has yet to read; none where every holder ranks before. -/
def State.displace (s : State) (b cycle rank : Nat) : Option State :=
  if (s.block b).pend.any (fun d => d.writesAt cycle rank) then
    some (s.onBlock b (fun k => { k with pend := k.pend.eraseP (fun d => d.writesAt cycle rank) }))
  else if s.tokens.any (fun t => t.lands b cycle rank) then some { s with tokens := s.tokens.eraseP (fun t => t.lands b cycle rank) }
  else
    match (List.range 64).find? (fun x => (s.block x).pend.any (fun d => d.lands b cycle rank)) with
    | some x => some (s.onBlock x (fun k => { k with pend := onFirst (fun d => d.lands b cycle rank) Due.refuse k.pend }))
    | none => none

/-- Takes a plan write port for a row that an XFER of rank `rank` lands from another region: it goes before writes of later rank that
already hold the ports of its cycle, for the regions' cycles may stand apart (R116). -/
def State.takeLanding (s : State) (b rank cycle off : Nat) : State × Bool :=
  if get 0 (s.block b).writes cycle < 2 then s.takeWrite b cycle off
  else match s.displace b cycle rank with
    | some t => ((t.blockHazard b 4 off).planFault b 1, false)
    | none => s.takeWrite b cycle off

/-- Takes ports for `rows` rows from a cycle and an offset on, one row a cycle; the rows refused. -/
def State.takeRows (take : State → Nat → Nat → State × Bool) : State → Nat → Nat → Nat → State × List Bool
  | s, _, _, 0 => (s, [])
  | s, c, off, n + 1 =>
    let r := take s c off
    let q := State.takeRows take r.1 (c + 1) (off + 1024) n
    (q.1, r.2 :: q.2)

/-- The rank of an operation (R116): by issue cycle, and within one cycle the cell slots 0 to 3, the vector slot (4), the tree
slot (5), the move slots (6 and 7) and the sync slot (8). -/
def issueRank (cycle slot : Nat) : Nat := 16 * cycle + slot

/-- An operation issues in a slot of a block: what it starts has its rank. -/
def State.ranked (s : State) (b slot : Nat) : State := s.onBlock b (fun k => { k with rank := issueRank (s.cyc (compRegion b)) slot })

/-- An effect of a block due in a later cycle, at the block's present rank. -/
def State.later (s : State) (b cycle : Nat) (a : Act) : State :=
  s.onBlock b (fun k => { k with pend := k.pend ++ [{ cycle := cycle, rank := k.rank, act := a }] })

/-- An effect of a block due in a later cycle, at the rank of the operation that issued it, which may be another block's. -/
def State.laterAs (s : State) (b cycle rank : Nat) (a : Act) : State :=
  s.onBlock b (fun k => { k with pend := k.pend ++ [{ cycle := cycle, rank := rank, act := a }] })

/-- A vector register as a read sees it now (R138). -/
def Block.vreg (k : Block) (r : Nat) : Row := get zeroRow k.v r
/-- A tree register as a read sees it now. -/
def Block.treg (k : Block) (r : Nat) : Row := get zeroRow k.t r

/-- Whether a vector register has a write under way, which a read before its latency misses (R323 RAW). -/
def Block.vBusy (k : Block) (r : Nat) : Bool := k.pend.any (fun d => match d.act with | .setV q _ => q == r | _ => false)
/-- Whether a tree register has a write under way. -/
def Block.tBusy (k : Block) (r : Nat) : Bool := k.pend.any (fun d => match d.act with | .setT q _ => q == r | _ => false)
/-- Whether an SRAM row has a write under way that a read in a cycle misses. -/
def Block.sramBusy (k : Block) (off cycle : Nat) : Bool :=
  k.pend.any (fun d => match d.act with
    | .sram o bs => decide (cycle < d.cycle) && decide (o < off + 1024) && decide (off < o + bs.length) | _ => false)

/-- Reports a RAW hazard of the named registers in debug mode (R323). -/
def State.rawCheck (s : State) (b : Nat) (vs ts : List Nat) : State :=
  if s.debugMode then
    let k := s.block b
    match vs.find? k.vBusy with
    | some r => s.blockHazard b 1 r
    | none =>
      match ts.find? k.tBusy with
      | some r => s.blockHazard b 1 r
      | none => s
  else s

/-- Whether a vector has landed in an SRAM row for a group that can still receive (R117). -/
def Block.landingIn (k : Block) (off : Nat) : Bool :=
  k.landed.any (fun l => decide (off < l.1 + 512) && decide (l.1 < off + 1024) && !k.groups.complete l.2)

/-- Whether a crossing still holds data for an SRAM row of a block that a read in a cycle misses (R72): a row is readable in the cycle
after its release, an HBM_RD's rows 95 and 96 cycles after the request's (R137). -/
def State.inCrossing (s : State) (b off cycle : Nat) : Bool :=
  let meets (o n ready : Nat) : Bool := decide (o < off + 1024) && decide (off < o + n) && decide (cycle < ready)
  s.tokens.any (fun t => match t.payload with
    | .rows p o bs _ => p == b && meets o bs.length (t.release + 1)
    | .hbmData p o bs _ => p == b && meets o bs.length (t.release + 1)
    | .hbmRead p o _ _ _ => p == b && (meets (o % 2 ^ 32) 1024 (t.release + 95) || meets (o % 2 ^ 32 + 1024) 1024 (t.release + 96))
    | _ => false)

/-- The sheaf cycle of a block. -/
def State.blockCycle (s : State) (b : Nat) : Nat := s.cyc (compRegion b)

/-- Reports a RAW, a CROSSING or a LANDING hazard of a read of `rows` SRAM rows in debug mode, row m in the m-th cycle from now
(R323). -/
def State.rawSram (s : State) (b off : Nat) (rows : Nat := 1) : State :=
  let at_ (m : Nat) : Nat := off + 1024 * m
  let now := s.blockCycle b
  if !s.debugMode then s
  else match (List.range rows).find? (fun m => (s.block b).sramBusy (at_ m) (now + m)) with
    | some m => s.blockHazard b 1 (at_ m)
    | none =>
      match (List.range rows).find? (fun m => s.inCrossing b (at_ m) (now + m)) with
      | some m => s.blockHazard b 5 (at_ m)
      | none =>
        match (List.range rows).find? (fun m => (s.block b).landingIn (at_ m)) with
        | some m => s.blockHazard b 6 (at_ m)
        | none => s

/-- Reports a LANDING hazard of a plan write of `rows` SRAM rows in debug mode (R323). -/
def State.landCheck (s : State) (b off rows : Nat) : State :=
  if s.debugMode && (List.range rows).any (fun m => (s.block b).landingIn (off + 1024 * m)) then s.blockHazard b 6 off else s

/-- An operation whose one result goes to a vector register after `lat` cycles. -/
def State.resultV (s : State) (b slot vd lat : Nat) (row : Row) : State :=
  (s.ranked b slot).later b (s.blockCycle b + lat) (.setV vd row)

/-- An operation whose one result goes to a tree register after `lat` cycles. -/
def State.resultT (s : State) (b slot td lat : Nat) (row : Row) : State :=
  (s.ranked b slot).later b (s.blockCycle b + lat) (.setT td row)

/-- The row at an SRAM offset of a block. -/
def State.sramRow (s : State) (b off : Nat) : Row := bytesRow (s.peek (blockBase b + off) 1024)

/-- A command of slot `n` of a block (numbered as `slotWord` numbers them).  One that keeps its field rules and whose block
issues acts by `f`; where it breaks a rule, or the line's bundle makes the slot an offending one, the slot acts as empty and
the step aborts (R123, R148). -/
def State.slot (s : State) (b n : Nat) (legal : Bool) (f : State → State) : State :=
  if s.issues b then (if legal && !s.slotOffends b n then f s else s.illegalBundle b) else s

/-- A rounding key's element index for lane 0 (R119); keys that no section supplies read as zeros. -/
def keyElement (q : Sequencer) (k : RoundKey) : Int := (k.base : Int) + q.offset k.s

/-- The random word of lane `lane` under a rounding key (R106, R107). -/
def State.draw (s : State) (keyBlock : BitVec 16) (element : Int) : Nat :=
  srWord s.job.seed (element % 2 ^ 32).toNat s.sheaf.sheafInStep.toNat keyBlock.toNat s.sheaf.step.toNat

/-- The rounding mode of a MODE field (R126, R160). -/
def modeOf (m : Nat) : RMode := if m = 2 then .sr else if m = 1 then .rtz else .rne

/-- Whether a crossing from a region carries tokens: the region is clocked, and back after any reset of its own (R75, R78). -/
def State.crossingOn (s : State) (src : Nat) : Bool := (s.region src).active && !(s.region src).away

/-- Crossing misuse (R78, R323): a transfer named on a disabled crossing, reported in debug mode at the unit that would have received
it, which freezes (R324). -/
def State.crossingMisuse (s : State) (t : Token) : State :=
  match t.payload with
  | .rows b off _ _ | .hbmData b off _ _ => s.blockHazard b 5 off
  | .signal b g => s.blockHazard b 5 g
  | .egress a _ => s.netHazard (t.dst - 0x10) 5 (a % 2 ^ 21 / 512)
  | .rota l _ => s.netHazard (t.dst - 0x10) 5 l
  | .hbmRead _ _ a _ _ | .hbmWrite _ a _ _ => s.stackHazard (t.dst - 0x14) 5 a

/-- Puts a token into its crossing (R72); a disabled crossing carries none (R78). -/
def State.token (s : State) (t : Token) : State :=
  if s.crossingOn t.src then { s with tokens := s.tokens ++ [t] } else s.crossingMisuse t

end Sys2Proof.Machine
end

