-- ==== Sys2Proof/Machine/Transcend.lean ====
section
/-! DEFINITION. The correctly rounded functions VEXP, VLOG, VRCP, VRSQRT and VTANH (R128), computed in 240-bit fixed point
and rounded once. -/

namespace Sys2Proof.Machine

open Sys2Proof

/-- Fraction bits of the fixed-point evaluation (log entry 12: enough for every binary32 argument). -/
def fxBits : Nat := 240

/-- One in fixed point. -/
def fxOne : Nat := 2 ^ fxBits

/-- The odd series of artanh: z + z³/3 + z⁵/5 + …, `k` terms from the term `p` of weight `i`. -/
def atanhTerms (z2 : Nat) : Nat → Nat → Nat → Nat
  | 0, _, _ => 0
  | k + 1, p, i => p / i + atanhTerms z2 k (p * z2 / fxOne) (i + 2)

/-- ln f for 1 ≤ f < 2 in fixed point: 2 artanh((f − 1) / (f + 1)). -/
def fxLn (f : Nat) : Nat :=
  let z := (f - fxOne) * fxOne / (f + fxOne)
  2 * atanhTerms (z * z / fxOne) 110 z 1

/-- ln 2 = 2 artanh(1/3). -/
def fxLn2 : Nat := 2 * atanhTerms (fxOne / 9) 110 (fxOne / 3) 1

/-- The exponential series from term `t` of index `i`. -/
def expTerms (r : Nat) : Nat → Nat → Nat → Nat
  | 0, _, _ => 0
  | k + 1, t, i => t + expTerms r k (t * r / fxOne / (i + 1)) (i + 1)

/-- e^X for a fixed-point X ≥ 0: a mantissa in fixed point and a power of two. -/
def fxExp (x : Nat) : Nat × Nat :=
  let k := x / fxLn2
  (expTerms (x - k * fxLn2) 100 fxOne 0, k)

/-- |x| in fixed point for a finite number below 2^7 in magnitude. -/
def toFx (m : Nat) (e : Int) : Nat :=
  let s := e + fxBits
  if 0 ≤ s then m * 2 ^ s.toNat else m / 2 ^ (-s).toNat

/-- VEXP: e^A, with e^−Inf = +0 and e^+Inf = +Inf. -/
def fexp (x : Word32) : Word32 :=
  match dec32 x with
  | .nan => nan32
  | .inf a => if a then zero32 false else inf32 false
  | .fin a m e =>
    if m = 0 then 0x3F800000
    else if (Nat.log2 m : Int) + e ≥ 7 then (if a then zero32 false else inf32 false)
    else
      let p := fxExp (toFx m e)
      if a then round32 false (fxOne * fxOne / p.1) (-(p.2 : Int) - fxBits) true
      else round32 false p.1 ((p.2 : Int) - fxBits) true

/-- VLOG: ln A; ln ±0 = −Inf, the log of a negative number is NaN, ln 1 = +0. -/
def flog (x : Word32) : Word32 :=
  match dec32 x with
  | .nan => nan32
  | .inf a => if a then nan32 else inf32 false
  | .fin a m e =>
    if m = 0 then inf32 true
    else if a then nan32
    else if x = 0x3F800000 then zero32 false
    else
      let l := Nat.log2 m
      let v : Int := ((l : Int) + e) * fxLn2 + fxLn (m * fxOne / 2 ^ l)
      round32 (decide (v < 0)) v.natAbs (-(fxBits : Int)) true

/-- VRCP: 1 / A. -/
def frcp (x : Word32) : Word32 := fdiv 0x3F800000 x

/-- VRSQRT: 1 / √A; of −0 it is −Inf, of a negative number NaN. -/
def frsqrt (x : Word32) : Word32 :=
  match dec32 x with
  | .nan => nan32
  | .inf a => if a then nan32 else zero32 false
  | .fin a m e =>
    if m = 0 then inf32 a
    else if a then nan32
    else
      let p := evenExp m e
      let r := isqrt (2 ^ 160 / p.1)
      round32 false r (-(p.2 / 2) - 80) (decide (r * r * p.1 ≠ 2 ^ 160))

/-- VTANH: below 2^−12 the nearest value is the argument itself. -/
def ftanh (x : Word32) : Word32 :=
  match dec32 x with
  | .nan => nan32
  | .inf a => round32 a 1 0 false
  | .fin a m e =>
    if m = 0 then x
    else
      let top := (Nat.log2 m : Int) + e
      if top < -12 then x
      else if top ≥ 4 then round32 a 1 0 false
      else
        let p := fxExp (2 * toFx m e)
        let w := p.1 * 2 ^ p.2
        round32 a ((w - fxOne) * fxOne / (w + fxOne)) (-(fxBits : Int)) true

end Sys2Proof.Machine
end

