-- ==== Sys2Proof/Machine/Vector.lean ====
section
/-! DEFINITION. The vector slot (R126 to R129). -/

namespace Sys2Proof.Machine

open Sys2Proof

/-- A lane operation of one source. -/
def map1 (f : Word32 → Word32) (a : Row) : Row := mkRow (fun q => f (lane a q))
/-- A lane operation of two sources. -/
def map2 (f : Word32 → Word32 → Word32) (a b : Row) : Row := mkRow (fun q => f (lane a q) (lane b q))
/-- A lane operation of three sources. -/
def map3 (f : Word32 → Word32 → Word32 → Word32) (a b c : Row) : Row := mkRow (fun q => f (lane a q) (lane b q) (lane c q))

/-- A vector operation of one source: the row under `f` reaches VD after `lat` cycles (R137). -/
def State.vec1 (s : State) (b : Nat) (vd va lat : Nat) (f : Word32 → Word32) : State :=
  s.slot b 4 true (fun s => (s.rawCheck b [va] []).resultV b 4 vd lat (map1 f ((s.block b).vreg va)))

/-- A vector operation of two sources. -/
def State.vec2 (s : State) (b : Nat) (vd va vb lat : Nat) (f : Word32 → Word32 → Word32) : State :=
  s.slot b 4 true (fun s => (s.rawCheck b [va, vb] []).resultV b 4 vd lat (map2 f ((s.block b).vreg va) ((s.block b).vreg vb)))

/-- A vector operation of three sources. -/
def State.vec3 (s : State) (b : Nat) (vd va vb vc lat : Nat) (f : Word32 → Word32 → Word32 → Word32) : State :=
  s.slot b 4 true (fun s => (s.rawCheck b [va, vb, vc] []).resultV b 4 vd lat
    (map3 f ((s.block b).vreg va) ((s.block b).vreg vb) ((s.block b).vreg vc)))

/-- VCMP's predicate (R127): 0 EQ, 1 LT, 2 LE, 3 UNORDERED. -/
def vcmpHolds (mode : Nat) (x y : Word32) : Bool :=
  match mode with
  | 0 => feq x y
  | 1 => flt x y
  | 2 => feq x y || flt x y
  | _ => isNan x || isNan y

/-- VCMP's lane. -/
def vcmpLane (mode : Nat) (x y : Word32) : Word32 := if vcmpHolds mode x y then 0xFFFFFFFF else 0

/-- The packed results of a narrowing convert (R129, R94): 256 elements from byte 0, and for MX codes the scale of block m
in byte 1,016 + m. -/
def narrowRow (fmt : Nat) (mode : RMode) (us : Nat → Nat) (a : Row) : Row :=
  match cvtFmt fmt with
  | some (.mx f) =>
    let blocks := (List.range 8).map (fun m => (List.range 32).map (fun j => lane a (32 * m + j)))
    let elems := (blocks.zipIdx).flatMap (fun p => mxElems f mode ((List.range 32).map (fun j => us (32 * p.2 + j))) p.1)
    let n := packElems f.bits elems
    let scales := blocks.map (fun xs => BitVec.ofNat 8 (mxScale f xs))
    bytesRow (leBytes 1016 n ++ scales)
  | some c => bytesRow (leBytes 1024 (packElems c.bits ((List.range 256).map (fun q => cvtPlain c mode (us q) (lane a q)))))
  | none => zeroRow

/-- The FP32 lanes of a widening convert (R129). -/
def wideRow (fmt : Nat) (a : Row) : Row :=
  let n := leNat (rowBytes a)
  match cvtFmt fmt with
  | some (.mx f) => mkRow (fun q => widenMx f (elemAt 8 n (1016 + q / 32)) (elemAt f.bits n q))
  | some c => mkRow (fun q => widenPlain c (elemAt c.bits n q))
  | none => zeroRow

/-- exp and log take 14 cc under LP1 and 12 cc under LP2 (R4, R137). -/
def State.expLatency (s : State) : Nat := if s.lp2 then 12 else 14

/-- VADD. -/
def execVadd (b : Fin 64) (vd va vb : Fin 32) (s : State) : Host.Outcome State Fault Refusal := .next (s.vec2 b vd va vb 4 fadd)
/-- VSUB. -/
def execVsub (b : Fin 64) (vd va vb : Fin 32) (s : State) : Host.Outcome State Fault Refusal := .next (s.vec2 b vd va vb 4 fsub)
/-- VMUL. -/
def execVmul (b : Fin 64) (vd va vb : Fin 32) (s : State) : Host.Outcome State Fault Refusal := .next (s.vec2 b vd va vb 4 fmul)
/-- VFMA: one rounding. -/
def execVfma (b : Fin 64) (vd va vb vc : Fin 32) (s : State) : Host.Outcome State Fault Refusal :=
  .next (s.vec3 b vd va vb vc 5 ffma)
/-- VMIN (R128). -/
def execVmin (b : Fin 64) (vd va vb : Fin 32) (s : State) : Host.Outcome State Fault Refusal := .next (s.vec2 b vd va vb 2 fmin)
/-- VMAX (R128). -/
def execVmax (b : Fin 64) (vd va vb : Fin 32) (s : State) : Host.Outcome State Fault Refusal := .next (s.vec2 b vd va vb 2 fmax)
/-- VCMP under its predicate; MODE 4 to 7 make the bundle illegal (R127). -/
def execVcmp (b : Fin 64) (vd va vb : Fin 32) (mode : BitVec 3) (s : State) : Host.Outcome State Fault Refusal :=
  .next (if mode.toNat ≤ 3 then s.vec2 b vd va vb 2 (vcmpLane mode.toNat) else s.slot b 4 false id)
/-- VSEL: A where the lane of C is non-zero, else B. -/
def execVsel (b : Fin 64) (vd va vb vc : Fin 32) (s : State) : Host.Outcome State Fault Refusal :=
  .next (s.vec3 b vd va vb vc 2 (fun x y z => if z = 0 then y else x))
/-- VMOV. -/
def execVmov (b : Fin 64) (vd va : Fin 32) (s : State) : Host.Outcome State Fault Refusal := .next (s.vec1 b vd va 2 id)

/-- VCVT_NARROW: FP32 lanes to FMT under MODE, with the key's random words for SR (R102 to R107, R129). -/
def execVcvtNarrow (b : Fin 64) (vd va : Fin 32) (mode : BitVec 3) (fmt : BitVec 4) (key : BitVec 8) (s : State) :
    Host.Outcome State Fault Refusal :=
  .next (s.slot b 4 (Instr.vcvtNarrow b vd va mode fmt key).wellFormed (fun s =>
    let k := s.block b
    let rk := k.tables.key.getD key.toNat {}
    let e0 := keyElement k.seq rk
    let us := fun (q : Nat) => if mode = 2 then s.draw rk.block (e0 + (q : Int)) else 0
    (s.rawCheck b [va] []).resultV b 4 vd 3 (narrowRow fmt.toNat (modeOf mode.toNat) us (k.vreg va))))

/-- VCVT_WIDE: FMT in A to FP32 lanes (R129). -/
def execVcvtWide (b : Fin 64) (vd va : Fin 32) (fmt : BitVec 4) (s : State) : Host.Outcome State Fault Refusal :=
  .next (s.slot b 4 (Instr.vcvtWide b vd va fmt).wellFormed (fun s =>
    (s.rawCheck b [va] []).resultV b 4 vd 3 (wideRow fmt.toNat ((s.block b).vreg va))))

/-- VEXP: e to the A, correctly rounded. -/
def execVexp (b : Fin 64) (vd va : Fin 32) (s : State) : Host.Outcome State Fault Refusal :=
  .next (s.vec1 b vd va s.expLatency fexp)
/-- VLOG: ln A, correctly rounded. -/
def execVlog (b : Fin 64) (vd va : Fin 32) (s : State) : Host.Outcome State Fault Refusal :=
  .next (s.vec1 b vd va s.expLatency flog)
/-- VRCP. -/
def execVrcp (b : Fin 64) (vd va : Fin 32) (s : State) : Host.Outcome State Fault Refusal := .next (s.vec1 b vd va 12 frcp)
/-- VRSQRT. -/
def execVrsqrt (b : Fin 64) (vd va : Fin 32) (s : State) : Host.Outcome State Fault Refusal := .next (s.vec1 b vd va 12 frsqrt)
/-- VTANH. -/
def execVtanh (b : Fin 64) (vd va : Fin 32) (s : State) : Host.Outcome State Fault Refusal := .next (s.vec1 b vd va 16 ftanh)
/-- VIADD: INT32, modulo 2^32. -/
def execViadd (b : Fin 64) (vd va vb : Fin 32) (s : State) : Host.Outcome State Fault Refusal :=
  .next (s.vec2 b vd va vb 4 (· + ·))

end Sys2Proof.Machine
end

