-- ==== Sys2Proof/Machine/Tree.lean ====
section
/-! DEFINITION. The tree slot (R130). -/

namespace Sys2Proof.Machine

open Sys2Proof

/-- A tree operation of two registers. -/
def State.tree2 (s : State) (b td ta tb : Nat) (f : Word32 → Word32 → Word32) : State :=
  s.slot b 5 true (fun s => (s.rawCheck b [] [ta, tb]).resultT b 5 td 4 (map2 f ((s.block b).treg ta) ((s.block b).treg tb)))

/-- TADD: FP32 addition as in R100. -/
def execTadd (b : Fin 64) (td ta tb : Fin 32) (s : State) : Host.Outcome State Fault Refusal := .next (s.tree2 b td ta tb fadd)

/-- TADDI: INT32, modulo 2^32. -/
def execTaddi (b : Fin 64) (td ta tb : Fin 32) (s : State) : Host.Outcome State Fault Refusal := .next (s.tree2 b td ta tb (· + ·))

/-- A row read by a plan operation: a suppressed or refused read delivers zeros (R116, R118). -/
def State.readRow (s : State) (b ar : Nat) : State × Row :=
  let r := s.resolveSram b ar 1
  match r.2 with
  | none => (r.1, zeroRow)
  | some off =>
    let q := (r.1.rawSram b off).takeRead b (s.blockCycle b) off
    (if q.2 then q.1 else q.1.sramCheck b off 1024, if q.2 then zeroRow else s.sramRow b off)

/-- A row written by a plan operation, readable from cycle `ready`: the write port is used in the cycle before; a
suppressed or refused write is dropped (R116, R118). -/
def State.writeRow (s : State) (b ar ready : Nat) (row : Row) : State :=
  let r := s.resolveSram b ar 1
  match r.2 with
  | none => r.1
  | some off =>
    let q := (r.1.landCheck b off 1).takeWrite b (ready - 1) off
    if q.2 then q.1 else q.1.later b ready (.sram off (rowBytes row))

/-- TLOAD: the SRAM row at address register OPD into TD. -/
def execTload (b : Fin 64) (td : Fin 32) (ar : Fin 64) (s : State) : Host.Outcome State Fault Refusal :=
  .next (s.slot b 5 true (fun s =>
    let r := (s.ranked b 5).readRow b ar
    r.1.later b (s.blockCycle b + 5) (.setT td r.2)))

/-- TSTORE: TA into the SRAM row at address register OPD. -/
def execTstore (b : Fin 64) (ar : Fin 64) (ta : Fin 32) (s : State) : Host.Outcome State Fault Refusal :=
  .next (s.slot b 5 true (fun s =>
    ((s.ranked b 5).rawCheck b [] [ta]).writeRow b ar (s.blockCycle b + 5) ((s.block b).treg ta)))

/-- TTOV: TA into a vector register. -/
def execTtov (b : Fin 64) (v ta : Fin 32) (s : State) : Host.Outcome State Fault Refusal :=
  .next (s.slot b 5 true (fun s => (s.rawCheck b [] [ta]).resultV b 5 v 2 ((s.block b).treg ta)))

/-- VTOT: a vector register into TD. -/
def execVtot (b : Fin 64) (td v : Fin 32) (s : State) : Host.Outcome State Fault Refusal :=
  .next (s.slot b 5 true (fun s => (s.rawCheck b [v] []).resultT b 5 td 2 ((s.block b).vreg v)))

end Sys2Proof.Machine
end

