-- ==== Sys2Proof/Machine/Move.lean ====
section
/-! DEFINITION. The move slots (R131): the two channels of the move engine, HBM requests, egress and XFER. -/

namespace Sys2Proof.Machine

open Sys2Proof

/-- A move starts on its channel for `cycles` cycles, unless the channel still streams an earlier one: that raises BUSY and
drops the new move (R131). -/
def State.onChannel (s : State) (b ch cycles : Nat) (f : State → State) : State :=
  let c := s.blockCycle b
  if get 0 (s.block b).channelFree ch ≤ c then
    f ((s.ranked b (6 + ch)).onBlock b (fun k => { k with channelFree := put 0 k.channelFree ch (c + cycles) }))
  else s.planFault b 2

/-- Performs the read of an operand-buffer row now: it becomes usable five cycles later (R137). -/
def State.readOpbNow (s : State) (b rank cell line off : Nat) (refused : Bool) : State :=
  let bs := if refused then List.replicate 1024 0 else s.peek (blockBase b + off) 1024
  (if refused then s else s.sramCheck b off 1024).onBlock b (fun k => { k with pend := k.pend ++ [{ cycle := s.blockCycle b + 5, rank := rank, act := .opb cell line bs }] })

/-- The physical cell of a logical cell (R149). -/
def Block.physCell (k : Block) (c : Nat) : Nat := field k.cellMap (3 * c) 3

/-- The HBM bytes that blocks reach (R118, R185): 12 stacks of 64 GiB. -/
def hbmSize : Nat := 12 * 2 ^ 36

/-- The stack region that holds an HBM address (R187). -/
def stackOf (a : Nat) : Nat := a / 2 ^ 36

/-- The bytes of a plan read of one row in the present cycle; a refused read delivers zeros (R116). -/
def State.rowNow (s : State) (b off : Nat) (refused : Bool) : List Byte :=
  if refused then List.replicate 1024 0 else s.peek (blockBase b + off) 1024

/-- The even-parity bit of a byte (R108). -/
def evenParity (x : Byte) : Byte := BitVec.ofNat 8 (((List.range 8).countP (fun i => bit x i)) % 2)

/-- The 128 FP32 elements of a vector added into memory, each rounded once (R140). -/
def looseAdd (old new : List Byte) : List Byte :=
  (List.range 128).flatMap (fun j =>
    leBytes 4 (fadd (BitVec.ofNat 32 (fieldLE old (4 * j) 4)) (BitVec.ofNat 32 (fieldLE new (4 * j) 4))).toNat)

/-- Whether an effect is a plan write of SRAM that becomes readable by a cycle: its port was used before that cycle. -/
def Due.stored (d : Due) (ready : Nat) : Bool := decide (d.cycle ≤ ready) && (match d.act with | .sram _ _ => true | _ => false)

/-- A plan write of SRAM under the bytes of a later arrival. -/
def Due.under (place : Nat) (bs : List Byte) (d : Due) : Due :=
  { d with act := match d.act with | .sram o cs => .sram o (overlaid o cs place bs) | a => a }

/-- SRAM bytes with the plan writes on them that become readable by a cycle. -/
def State.sramBytes (s : State) (b place n ready : Nat) : List Byte :=
  ((s.block b).pend.filter (fun d => d.stored ready)).foldl
    (fun bs d => match d.act with | .sram o cs => overlaid place bs o cs | _ => bs) (s.peek (blockBase b + place) n)

/-- What the arrival port of a block does with one arrival (R117, R140, R147): a loose accumulate reads its destination through
the port's own read path, checked as any read.  The plan writes that become readable by cycle `ready` have used their ports
before: the arrival lies over them. -/
def State.landOne (s : State) (b ready : Nat) (x : Arrival) : State :=
  let t := if x.loose then s.sramCheck b x.place x.bytes.length else s
  let bs := if x.loose then looseAdd (t.sramBytes b x.place x.bytes.length ready) x.bytes else x.bytes
  (t.onBlock b (fun k => { k with
    pend := k.pend.map (fun d => if d.stored ready then d.under x.place bs else d) })).poke (blockBase b + x.place) bs

/-- The arrivals of the period that ends are stored, in the order in which they came, over the plan's writes of that period and of
those before it; the period's plan reads have seen the old bytes (R117). -/
def State.landArrivals (s : State) (b : Nat) (ready : Nat) : State :=
  ((s.block b).arrivals).foldl (fun t x => t.landOne b ready x) (s.onBlock b (fun k => { k with arrivals := [] }))

/-- The checks of such a read. -/
def State.rowCheck (s : State) (b off : Nat) (refused : Bool) : State := if refused then s else s.sramCheck b off 1024

/-- Performs one due effect of a block. -/
def State.perform (s : State) (b : Nat) (d : Due) : State :=
  match d.act with
  | .setV r row => s.onBlock b (fun k => { k with v := put zeroRow k.v r row })
  | .setT r row => s.onBlock b (fun k => { k with t := put zeroRow k.t r row })
  | .sram off bs => s.poke (blockBase b + off) bs
  | .opb cell line bs =>
    s.onBlock b (fun k =>
      let pc := k.physCell cell
      let kept := bs.take (262144 - 256 * line)
      { k with
        opb := put [] k.opb pc (writeBytes (get [] k.opb pc) (256 * line) kept)
        opbParity := put [] k.opbParity pc (writeBytes (get [] k.opbParity pc) (256 * line) (kept.map evenParity)) })
  | .readOpb cell line off refused => s.readOpbNow b d.rank cell line off refused
  | .readXfer p o src rel refused dstRefused =>
    if dstRefused then s else
      (s.rowCheck b src refused).token
              { src := compRegion b, dst := compRegion p, sent := s.blockCycle b, release := rel,
                payload := .rows p o (s.rowNow b src refused) d.rank }
  | .readEgress net e src rel refused =>
    (s.rowCheck b src refused).token
      { src := compRegion b, dst := netRegion net, sent := s.blockCycle b, release := rel,
        payload := .egress (egressBase net e) (s.rowNow b src refused) }
  | .readHbmWr a src first refused line =>
    let c := s.blockCycle b
    (s.rowCheck b src refused).token
            { src := compRegion b, dst := stackRegion (stackOf a), sent := c - 1, release := c + 17,
              payload := .hbmWrite b a (first ++ s.rowNow b src refused) line }

/-- Whether an effect is a store (performed before the reads of its cycle, R116). -/
def Act.isStore : Act → Bool
  | .setV _ _ | .setT _ _ | .sram _ _ | .opb _ _ _ => true
  | _ => false

/-- An effect put behind those of no higher rank. -/
def rankIn (d : Due) : List Due → List Due
  | [] => [d]
  | e :: es => if e.rank ≤ d.rank then e :: rankIn d es else d :: e :: es

/-- Effects in rank order, those of one rank in the order in which they were started. -/
def byRank (ds : List Due) : List Due := ds.foldl (fun l d => rankIn d l) []

/-- Performs what a block has due by its present cycle: the stores in rank order, what comes `between`, then the reads (R116,
R138). -/
def State.settle (s : State) (b : Nat) (between : State → State := id) : State :=
  let c := s.blockCycle b
  let due := (s.block b).pend.filter (fun d => decide (d.cycle ≤ c))
  let s1 := s.onBlock b (fun k => { k with pend := k.pend.filter (fun d => !decide (d.cycle ≤ c)) })
  let stores := byRank (due.filter (fun d => d.act.isStore))
  let reads := byRank (due.filter (fun d => !d.act.isStore))
  reads.foldl (fun t d => t.perform b d) (between (stores.foldl (fun t d => t.perform b d) s1))

/-- Starts a list of effects, effect `m` due at cycle `c + m`; those of the present cycle are performed at once. -/
def State.laterAll (s : State) (b c : Nat) (acts : List Act) : State :=
  ((acts.zipIdx).foldl (fun t p => t.later b (c + p.2) p.1) s).settle b

/-- The operand-buffer line of a fill (R118, R464): one that would pass line 1,023 raises RANGE and keeps its lines up to
1,023. -/
def State.resolveFill (s : State) (b arx rows : Nat) : State × Option Nat :=
  let r := s.resolve b arx .opb 1 1 1024
  match r.2 with
  | some line => (if 1024 < line + 4 * rows then r.1.planFault b 4 else r.1, some line)
  | none => r

/-- LD_OPB: LEN + 1 KiB from SRAM to a logical cell's operand buffer; row m reads in cycle c + m and is usable from
c + 5 + m. -/
def execLdOpb (b : Fin 64) (ch : Fin 2) (ars arx : Fin 64) (len : BitVec 4) (cell : Fin 4) (s : State) :
    Host.Outcome State Fault Refusal :=
  .next (s.slot b (6 + ch) true (fun s => s.onChannel b ch (len.toNat + 1) (fun s =>
    let c := s.blockCycle b
    let rows := len.toNat + 1
    let src := s.resolveSram b ars rows
    let dst := src.1.resolveFill b arx rows
    match src.2, dst.2 with
    | _, none => dst.1
    | none, some line =>
      dst.1.laterAll b c ((List.range rows).map (fun m => .readOpb cell (line + 4 * m) 0 true))
    | some off, some line =>
      let t := State.takeRows (fun t c o => t.takeRead b c o) (dst.1.rawSram b off rows) c off rows
      t.1.laterAll b c ((t.2.zipIdx).map (fun p => .readOpb cell (line + 4 * p.2) (off + 1024 * p.2) p.1)))))

/-- LD_V: one SRAM row to VREG, usable from c + 5. -/
def execLdV (b : Fin 64) (ch : Fin 2) (ars : Fin 64) (vreg : Fin 32) (s : State) : Host.Outcome State Fault Refusal :=
  .next (s.slot b (6 + ch) true (fun s => s.onChannel b ch 1 (fun s =>
    let r := s.readRow b ars
    r.1.later b (s.blockCycle b + 5) (.setV vreg r.2))))

/-- ST_V: VREG to one SRAM row, readable from c + 5. -/
def execStV (b : Fin 64) (ch : Fin 2) (ars : Fin 64) (vreg : Fin 32) (s : State) : Host.Outcome State Fault Refusal :=
  .next (s.slot b (6 + ch) true (fun s => s.onChannel b ch 1 (fun s =>
    (s.rawCheck b [vreg.val] []).writeRow b ars (s.blockCycle b + 5) ((s.block b).vreg vreg))))

/-- The crossing that would answer an HBM_RD is disabled while its stack region is in reset: the read gets no data, and in
debug mode the block reports the misuse (R78, R323). -/
def State.answerCheck (s : State) (b i : Nat) : State :=
  if s.debugMode && !s.crossingOn (stackRegion i) then s.blockHazard b 5 i else s

/-- HBM_RD: 2 KiB from HBM to SRAM.  The request crosses X2 and is judged at c + 18; its rows use the write port in cycles
c + 112 and c + 113 (R137, R155). -/
def execHbmRd (b : Fin 64) (ch : Fin 2) (ars arx : Fin 64) (s : State) : Host.Outcome State Fault Refusal :=
  .next (s.slot b (6 + ch) true (fun s => s.onChannel b ch 2 (fun s =>
    let c := s.blockCycle b
    let dst := s.resolveSram b ars 2
    let src := dst.1.resolve b arx .dev 2048 2048 hbmSize
    match dst.2, src.2 with
    | some off, some a =>
      let p := State.takeRows (fun t c o => t.takeWrite b c o) (src.1.landCheck b off 2) (c + 112) off 2
      let refused := p.2.foldl (fun n r => 2 * n + b2n r) 0
      (p.1.answerCheck b (stackOf a)).token
        { src := compRegion b, dst := stackRegion (stackOf a), sent := c, release := c + 18
          payload := .hbmRead b (off + refused * 2 ^ 32) a (s.block b).seq.line (s.block b).rank }
    | some off, none =>
      let p := State.takeRows (fun t c o => t.takeWrite b c o) (src.1.landCheck b off 2) (c + 112) off 2
      (p.2.zipIdx).foldl (fun t q => if q.1 then t else
        t.later b (c + 113 + q.2) (.sram (off + 1024 * q.2) (List.replicate 1024 0))) p.1
    | none, _ => src.1)))

/-- HBM_WR: 2 KiB from SRAM, read in c and c + 1, to HBM (R137). -/
def execHbmWr (b : Fin 64) (ch : Fin 2) (ars arx : Fin 64) (s : State) : Host.Outcome State Fault Refusal :=
  .next (s.slot b (6 + ch) true (fun s => s.onChannel b ch 2 (fun s =>
    let c := s.blockCycle b
    let src := s.resolveSram b ars 2
    let dst := src.1.resolve b arx .dev 2048 2048 hbmSize
    match src.2, dst.2 with
    | _, none => dst.1
    | none, some a =>
      dst.1.token { src := compRegion b, dst := stackRegion (stackOf a), sent := c, release := c + 18
                    payload := .hbmWrite b a (List.replicate 2048 0) (s.block b).seq.line }
    | some off, some a =>
      let p := State.takeRows (fun t c o => t.takeRead b c o) (dst.1.rawSram b off 2) c off 2
      (p.1.rowCheck b off (p.2.getD 0 false)).later b (c + 1) (.readHbmWr a (off + 1024) (p.1.rowNow b off (p.2.getD 0 false)) (p.2.getD 1 false)
        (s.block b).seq.line))))

/-- EGRESS: LEN + 1 KiB from SRAM to egress entries of a network region; row m gives vectors 2m and 2m + 1, present in the
region at c + 25 + m (R137). -/
def execEgress (b : Fin 64) (ch : Fin 2) (ars arx : Fin 64) (len : BitVec 4) (s : State) : Host.Outcome State Fault Refusal :=
  .next (s.slot b (6 + ch) true (fun s => s.onChannel b ch (len.toNat + 1) (fun s =>
    let c := s.blockCycle b
    let rows := len.toNat + 1
    let net := ((s.block b).areg arx).aux % 4
    let src := s.resolveSram b ars rows
    let dst := src.1.resolve b arx .egress (2 * rows) 1 4096
    match src.2, dst.2 with
    | _, none => dst.1
    | none, some e =>
      dst.1.laterAll b c ((List.range rows).map (fun m => .readEgress net (e + 2 * m) 0 (c + 25 + m) true))
    | some off, some e =>
      let t := State.takeRows (fun t c o => t.takeRead b c o) (dst.1.rawSram b off rows) c off rows
      t.1.laterAll b c ((t.2.zipIdx).map (fun p => .readEgress net (e + 2 * p.2) (off + 1024 * p.2) (c + 25 + p.2) p.1)))))

/-- XFER: LEN + 1 KiB from SRAM to the SRAM of the remote block that ARX names; row m is readable there from c + 21 + m
(R137).  A logical block that no block holds lies outside the space (R118). -/
def execXfer (b : Fin 64) (ch : Fin 2) (ars arx : Fin 64) (len : BitVec 4) (s : State) : Host.Outcome State Fault Refusal :=
  .next (s.slot b (6 + ch) true (fun s => s.onChannel b ch (len.toNat + 1) (fun s =>
    let c := s.blockCycle b
    let rows := len.toNat + 1
    let src := s.resolveSram b ars rows
    match s.physOf ((s.block b).areg arx).aux with
    | none => src.1.planFault b 4
    | some p =>
      let dst := src.1.resolve b arx .remote (1024 * rows) 32 sramSize
      match src.2, dst.2 with
      | _, none => dst.1
      | none, some o =>
        let w := State.takeRows (fun t c o => t.takeLanding p (s.block b).rank c o) (dst.1.landCheck p o rows) (c + 20) o rows
        w.1.laterAll b c ((w.2.zipIdx).map (fun q => .readXfer p (o + 1024 * q.2) 0 (c + 20 + q.2) true q.1))
      | some off, some o =>
        let t := State.takeRows (fun t c o => t.takeRead b c o) (dst.1.rawSram b off rows) c off rows
        let w := State.takeRows (fun t c o => t.takeLanding p (s.block b).rank c o) (t.1.landCheck p o rows) (c + 20) o rows
        w.1.laterAll b c (((t.2.zip w.2).zipIdx).map (fun q =>
          .readXfer p (o + 1024 * q.2) (off + 1024 * q.2) (c + 20 + q.2) q.1.1 q.1.2)))))

end Sys2Proof.Machine
end

