-- ==== Sys2Proof/Machine/Cells.lean ====
section
/-! DEFINITION. The cells (R85 to R112): exact chunk sums, the one rounding at chunk end with the checks of R110, and the
drains. -/

namespace Sys2Proof.Machine

open Sys2Proof

/-- What the array reads of one element: a NaN, an infinity, or a number in units of the class (R91, R97). -/
inductive CellVal where
  | nan
  | inf (neg : Bool)
  | num (v : Int)
  deriving DecidableEq, Repr

/-- A chunk's class by its FMT code (R125), with the element formats of A and B. -/
inductive CellFmt where
  | fp (f : FpFmt)
  | mx (a b : FpFmt)
  | int8
  | fp32x3
  deriving DecidableEq, Repr

/-- R125's table; the reserved codes are `none`. -/
def cellFmt : Nat → Option CellFmt
  | 0x0 => some (.fp .bf16) | 0x1 => some (.fp .fp16) | 0x2 => some .int8
  | 0x3 => some (.mx .e4m3 .e4m3) | 0x4 => some (.mx .e4m3 .e5m2) | 0x5 => some (.mx .e5m2 .e4m3)
  | 0x6 => some (.mx .e5m2 .e5m2) | 0x7 => some (.mx .e3m2 .e3m2) | 0x8 => some (.mx .e3m2 .e2m3)
  | 0x9 => some (.mx .e2m3 .e3m2) | 0xA => some (.mx .e2m3 .e2m3) | 0xB => some (.mx .e2m1 .e2m1)
  | 0xC => some .fp32x3 | _ => none

/-- Element bits of the A tile and of the B tile (R90). -/
def CellFmt.bits : CellFmt → Nat × Nat
  | .fp f => (f.bits, f.bits) | .mx a b => (a.bits, b.bits) | .int8 => (8, 8) | .fp32x3 => (32, 32)

/-- The issue interval in cycles (R88). -/
def CellFmt.interval : CellFmt → Nat
  | .fp _ => 64 | .int8 => 32 | .fp32x3 => 192
  | .mx a _ => if a == .e2m1 then 16 else 32

/-- The exponent of one unit of the chunk's exact sum: R95's least significant bit, taken through the smallest scale in MX
classes. -/
def CellFmt.unit : CellFmt → Int
  | .fp .bf16 => -266 | .fp _ => -48 | .mx _ _ => -286 | .int8 => 0 | .fp32x3 => -266

/-- A decoded element in units of 2^u; a BF16 subnormal reads as zero (R91). -/
def cellVal (f : FpFmt) (u : Int) (code : Nat) : CellVal :=
  match fpDecode f code with
  | .nan => .nan
  | .inf a => .inf a
  | .fin a m e => if f == .bf16 && m < 128 then .num 0 else .num (fixedAt a m e u)

/-- One element of a tile of a plain or MX class. -/
def CellFmt.value (c : CellFmt) (isB : Bool) (code : Nat) : CellVal :=
  match c with
  | .fp .bf16 => cellVal .bf16 (-133) code
  | .fp f => cellVal f (-24) code
  | .mx a b => cellVal (if isB then b else a) (-16) code
  | .int8 => .num (signed 8 code)
  | .fp32x3 => .nan

/-- The split of R99 in units of 2^−133: hi by truncation, lo rounded to nearest even, each zero below 2^−126. -/
def splitFp32 (code : Nat) : CellVal × Int :=
  match fpDecode .fp32 code with
  | .nan => (.nan, 0)
  | .inf a => (.inf a, 0)
  | .fin a m e =>
    if m < 2 ^ 23 then (.num 0, 0) else
      let loMag := roundMag .bf16 .rne 0 (m % 2 ^ 16) e false
      let lo := if loMag < 128 then CellVal.num 0 else cellVal .bf16 (-133) (withSign .bf16 a loMag)
      (cellVal .bf16 (-133) (code / 2 ^ 16), match lo with | .num v => v | _ => 0)

/-- The residue modulo 255 of a value in units of the accumulator (R109). -/
def residueOf (v : Int) : Nat := (v % 255).toNat

/-- A flag set. -/
def Acc.flag (a : Acc) (k : Nat) : Acc := { a with flags := if (a.flags / k) % 2 = 1 then a.flags else a.flags + k }

/-- The flag of an infinite product. -/
def Acc.infinite (a : Acc) (neg : Bool) : Acc := a.flag (if neg then 4 else 2)

/-- One product added (R95, R97, R109): a NaN or infinite operand sets a flag and adds nothing; the residue path adds the product
of the operands' residues. -/
def Acc.mac (a : Acc) (x y : CellVal) : Acc :=
  match x, y with
  | .nan, _ => a.flag 1
  | _, .nan => a.flag 1
  | .inf p, .inf q => a.infinite (p != q)
  | .inf p, .num v => if v = 0 then a.flag 1 else a.infinite (p != decide (v < 0))
  | .num v, .inf q => if v = 0 then a.flag 1 else a.infinite (q != decide (v < 0))
  | .num v, .num w => { a with v := a.v + v * w, residue := (a.residue + residueOf v * residueOf w) % 255 }

/-- The exact sum of the products of two lists. -/
def dot (a : Acc) : List CellVal → List CellVal → Acc
  | x :: xs, y :: ys => dot (a.mac x y) xs ys
  | _, _ => a

/-- The three products of each K index of an FP32x3 chunk (R99): a cross product with a zero lo is not formed. -/
def dot3 (a : Acc) : List (CellVal × Int) → List (CellVal × Int) → Acc
  | (xh, xl) :: xs, (yh, yl) :: ys =>
    let a1 := a.mac xh yh
    let a2 := if yl = 0 then a1 else a1.mac xh (.num yl)
    dot3 (if xl = 0 then a2 else a2.mac (.num xl) yh) xs ys
  | _, _ => a

/-- The two flag sets together. -/
def orFlags (a b : Nat) : Nat :=
  (if a % 2 = 1 ∨ b % 2 = 1 then 1 else 0) + (if (a / 2) % 2 = 1 ∨ (b / 2) % 2 = 1 then 2 else 0) +
    (if (a / 4) % 2 = 1 ∨ (b / 4) % 2 = 1 then 4 else 0)

/-- One MX block of a row of A and a column of B (R92, R96): a block wholly at or above KV contributes nothing and its
scales are not read; a NaN scale sets NaN.  The sum is that of the elements without their scales, beside the sum of the two
scale codes. -/
def mxBlock (kv m : Nat) (xs ys : List CellVal) (sa sb : Nat) : Acc × Nat :=
  if kv ≤ 32 * m then ({}, 0) else
    if sa = 255 ∨ sb = 255 then ({ flags := 1 }, 0) else
      let k := kv - 32 * m
      (dot {} ((xs.drop (32 * m)).take (Nat.min k 32)) ((ys.drop (32 * m)).take (Nat.min k 32)), sa + sb)

/-- One output of an MX chunk. -/
def mxOutput (kv : Nat) (xs ys : List CellVal) (sa sb : Nat × Nat) : PeRun :=
  let a := mxBlock kv 0 xs ys sa.1 sb.1
  let b := mxBlock kv 1 xs ys sa.2 sb.2
  { acc := a.1, scale := a.2, acc1 := b.1, scale1 := b.2 }

/-- The exact sum that a PE rounds: each accumulator at its scale, in units of 2^−286 for an MX chunk (R96). -/
def PeRun.value (p : PeRun) : Int := p.acc.v * 2 ^ p.scale + p.acc1.v * 2 ^ p.scale1

/-- The flags of a PE. -/
def PeRun.flags (p : PeRun) : Nat := orFlags p.acc.flags p.acc1.flags

/-- Whether an accumulator's residue differs from that of its separate path; each of the two of an MX chunk alone (R109). -/
def PeRun.mismatch (p : PeRun) : Bool := residueOf p.acc.v != p.acc.residue || residueOf p.acc1.v != p.acc1.residue

/-- The K padding of R87: indices KV to 63 read as +0. -/
def padK {α : Type} (zero : α) (kv : Nat) (xs : List α) : List α :=
  xs.take kv ++ List.replicate (64 - kv) zero

/-- A byte of the operand buffer at a signed byte place; bytes outside lines 0 to 1,023 read 0x00 (R464). -/
def opbByte (m : Memory) (a : Int) : Byte := if a < 0 ∨ 262144 ≤ a then 0 else readByte m a.toNat

/-- A run of operand-buffer bytes as a number, byte 0 least significant. -/
def opbRun (m : Memory) (a : Int) (k : Nat) : Nat := leNat ((List.range k).map (fun j => opbByte m (a + j)))

/-- The 64 element codes of row (or column) x of a tile (R94). -/
def tileLine (m : Memory) (base : Int) (bits x : Nat) : List Nat :=
  let n := opbRun m (256 * base + 8 * bits * x) (8 * bits)
  (List.range 64).map (elemAt bits n)

/-- The two scales of row (or column) x (R94). -/
def tileScales (m : Memory) (base : Int) (x : Nat) : Nat × Nat :=
  ((opbByte m (256 * base + 2 * x)).toNat, (opbByte m (256 * base + 2 * x + 1)).toNat)

/-- The bases of a descriptor with its loop strides applied (R119, R124). -/
def Block.descBase (k : Block) (d : ChunkDesc) (j base : Nat) : Int :=
  (base : Int) + d.strides.getD j 0 * (k.seq.iter (d.levels.getD j 0) : Int)

/-- The 4,096 outputs of a chunk, output (i, j) at place 64i + j (R86, R113). -/
def chunkOutputs (m : Memory) (c : CellFmt) (kv : Nat) (a b sa sb : Int) : List PeRun :=
  let rows (base : Int) (bits : Nat) := (List.range 64).map (tileLine m base bits)
  let ta := rows a c.bits.1
  let tb := rows b c.bits.2
  match c with
  | .fp32x3 =>
    let xa := ta.map (fun r => padK (CellVal.num 0, (0 : Int)) kv (r.map splitFp32))
    let xb := tb.map (fun r => padK (CellVal.num 0, (0 : Int)) kv (r.map splitFp32))
    xa.flatMap (fun r => xb.map (fun q => { acc := dot3 {} r q }))
  | .mx _ _ =>
    let xa := (ta.zipIdx).map (fun r => (r.1.map (c.value false), tileScales m sa r.2))
    let xb := (tb.zipIdx).map (fun r => (r.1.map (c.value true), tileScales m sb r.2))
    xa.flatMap (fun r => xb.map (fun q => mxOutput kv r.1 q.1 r.2 q.2))
  | _ =>
    let xa := ta.map (fun r => padK (CellVal.num 0) kv (r.map (c.value false)))
    let xb := tb.map (fun r => padK (CellVal.num 0) kv (r.map (c.value true)))
    xa.flatMap (fun r => xb.map (fun q => { acc := dot {} r q }))

/-- Whether a region of `lines` lines at an effective base leaves lines 0 to 1,023 (R464). -/
def outsideOpb (base : Int) (lines : Nat) : Bool := decide (base < 0) || decide (1024 < base + lines)

/-- Whether a byte of a run of the operand buffer that the array reads has lost its parity (R108); `reads` says which offsets of
the run are read.  A byte that neither memory lists is 0x00 with parity 0. -/
def parityLost (m p : Memory) (a : Int) (n : Nat) (reads : Nat → Bool) : Bool :=
  (m ++ p).any (fun x => decide (a ≤ (x.1 : Int)) && decide ((x.1 : Int) < a + n) && reads ((x.1 : Int) - a).toNat &&
    evenParity (readByte m x.1) != readByte p x.1)

/-- The parity check of a chunk's operand reads (R87, R92, R108): the bytes that hold elements of K indices below KV, and the
scales of the MX blocks that hold one. -/
def chunkParityLost (m p : Memory) (c : CellFmt) (isMx : Bool) (kv : Nat) (a b sa sb : Int) : Bool :=
  let tile (base : Int) (bits : Nat) : Bool := parityLost m p (256 * base) (512 * bits) (fun o => decide (o % (8 * bits) < ceilDiv (kv * bits) 8))
  let scales (base : Int) : Bool := isMx && parityLost m p (256 * base) 128 (fun o => o % 2 == 0 || decide (32 < kv))
  tile a c.bits.1 || tile b c.bits.2 || scales sa || scales sb

/-- The result buffer of a physical cell as an index. -/
def rbIndex (pc : Nat) (rb : Bool) : Nat := 2 * pc + b2n rb

/-- CHUNK (R86, R88, R124, R138): the exact sums of the operands as read at issue. -/
def execChunk (b : Fin 64) (c : Fin 4) (fmt : BitVec 4) (rb : Bool) (desc : BitVec 8) (s : State) :
    Host.Outcome State Fault Refusal :=
  match cellFmt fmt.toNat with
  | none => .next (s.slot b c false id)
  | some f => .next (s.slot b c true (fun s =>
      let k := s.block b
      let now := s.blockCycle b
      if now < get 0 k.cellFree c then s.planFault b 2 else
        let d := k.tables.desc.getD desc.toNat {}
        let pc := k.physCell c
        let a := k.descBase d 0 d.a
        let bb := k.descBase d 1 d.b
        let sa := k.descBase d 2 d.sa
        let sb := k.descBase d 3 d.sb
        let isMx := match f with | .mx _ _ => true | _ => false
        let bad := outsideOpb a (2 * f.bits.1) || outsideOpb bb (2 * f.bits.2) ||
          (isMx && (outsideOpb sa 1 || outsideOpb sb 1))
        let s1 := if bad then s.planFault b 4 else s
        let s2 := if get 0 k.undrained (rbIndex pc rb) ≠ 0 then s1.blockHazard b 2 (rbIndex pc rb) else s1
        let opb := get [] k.opb pc
        let run : ChunkRun := { fmt := fmt.toNat, rb := rb, issue := now, pes := chunkOutputs opb f d.kv a bb sa sb
                                parityBad := chunkParityLost opb (get [] k.opbParity pc) f isMx d.kv a bb sa sb }
        s2.onBlock b (fun k => { k with
          cellFree := put 0 k.cellFree c (now + f.interval)
          chunks := k.chunks ++ [(c.val, run)]
          undrained := put 0 k.undrained (rbIndex pc rb) 0xFFFF })))

/-- The chunk-end rounding of one output (R97, R98). -/
def roundOutput (f : CellFmt) (v : Int) (flags : Nat) : Word32 :=
  if flags % 2 = 1 ∨ 6 ≤ flags then nan32
  else if flags = 2 then inf32 false
  else if flags = 4 then inf32 true
  else match f with
    | .int8 => BitVec.ofInt 32 v
    | f => round32Int v f.unit

/-- Whether a block's spare cell is free and passed its last self-test (R110, CELL_MAP[14:12]). -/
def Block.spareUsable (k : Block) : Bool := field k.cellMap 12 3 != 7

/-- The error report of a chunk (R110, R148): the kind bits and the physical cell's flag in BLK_ERR, one log entry, and a
step abort.  What the step boundary then does with the cell is R149's repair.  DESIGN CHOICE: the one report of a chunk carries the
code of the lowest kind that failed (R110 names one report and no code for several kinds; log entry 99). -/
def State.cellError (s : State) (b pc : Nat) (parity residue rounder : Bool) : State :=
  let kinds := (if parity then [0] else []) ++ (if residue then [1] else []) ++ (if rounder then [2] else [])
  match kinds with
  | [] => s
  | first :: _ =>
    let t := (kinds ++ [3 + pc]).foldl (fun t i => t.blockErr b i) s
    let t := t.onBlock b (fun k => { k with faulty := if k.faulty.contains pc then k.faulty else k.faulty ++ [pc] })
    t.hardError { code := BitVec.ofNat 16 (0x0101 + first), severity := 2, region := compRegion b, unit := b
                  detail := bodyOf [((t.block b).err.toNat, 0), ((t.block b).cellMap.toNat, 4)] }

/-- Takes the first chunk of a logical cell out of a block's list. -/
def takeChunk (c : Nat) : List (Nat × ChunkRun) → Option ChunkRun × List (Nat × ChunkRun)
  | [] => (none, [])
  | x :: xs => if x.1 = c then (some x.2, xs) else let r := takeChunk c xs; (r.1, x :: r.2)

/-- The first chunk of a logical cell rewritten in a block's list. -/
def onChunk (c : Nat) (r : ChunkRun) : List (Nat × ChunkRun) → List (Nat × ChunkRun)
  | [] => []
  | x :: xs => if x.1 = c then (c, r) :: xs else x :: onChunk c r xs

/-- A chunk with the faults of its physical cell that its CHUNK_END names. -/
def ChunkRun.faulted (r : ChunkRun) (parityBad residueBad : Bool) (f : RounderFaults) : ChunkRun :=
  { r with
    parityBad := r.parityBad || parityBad, residueBad := r.residueBad || residueBad
    rounders := { first := r.rounders.first ++ f.first, second := r.rounders.second ++ f.second } }

/-- The words of one rounder of the pair (R109): right but for the elements that it gets wrong. -/
def rounderWords (words : List Word32) (wrong : List (Nat × Word32)) : List Word32 := wrong.foldl (fun ws p => ws.set p.1 p.2) words

/-- The cycle in which a chunk's results are complete (R88, R137): eight after its issue interval. -/
def ChunkRun.due (r : ChunkRun) : Nat := r.issue + ((cellFmt r.fmt).getD .int8).interval + 8

/-- A chunk of a logical cell completes: each of the two rounders rounds its sums once, the first one's words go into its result
buffer, and the checks of R108 and R109 respond under R110; the rounders' words are compared element by element. -/
def State.finishChunk (s : State) (b c : Nat) (run : ChunkRun) : State :=
  let pc := (s.block b).physCell c
  let f := (cellFmt run.fmt).getD .int8
  let words := run.pes.map (fun p => roundOutput f p.value p.flags)
  let first := rounderWords words run.rounders.first
  let second := rounderWords words run.rounders.second
  let at0 := rbIndex pc run.rb * 4096
  let t := s.onBlock b (fun k => { k with
    chunks := (takeChunk c k.chunks).2
    results := (first.zipIdx).foldl (fun m p => put 0 m (at0 + p.2) p.1) k.results })
  t.cellError b pc run.parityBad (run.pes.any PeRun.mismatch || run.residueBad) (first != second)

/-- CHUNK_END: the oldest chunk of the logical cell completes, once its cycle has come.  The operands say what the physical cell gets
wrong besides what the state shows: an operand byte, its array, its two rounders; named while the chunk still runs, they wait for its
cycle. -/
def execChunkEnd (b : Fin 64) (c : Fin 4) (parityBad residueBad : Bool) (rounders : RounderFaults) (s : State) :
    Host.Outcome State Fault Refusal :=
  match (takeChunk c (s.block b).chunks).1 with
  | none => .next s
  | some run =>
    let r := run.faulted parityBad residueBad rounders
    .next (if s.blockCycle b < run.due then s.onBlock b (fun k => { k with chunks := onChunk c r k.chunks }) else s.finishChunk b c r)

/-- Chunks of some cells of a block that are due by a cycle and that no CHUNK_END has named complete of themselves (R88). -/
def State.finishChunks (s : State) (b : Nat) (cells : Nat → Bool) (cycle : Nat) : State :=
  ((s.block b).chunks.filter (fun x => cells x.1 && decide (x.2.due ≤ cycle))).foldl
    (fun t x => t.finishChunk b x.1 x.2) s

/-- A drain of one result-buffer row (R89, R113, R124): the row, with the hazard of R89 in debug mode when its chunk still
runs, and the row marked drained. -/
def State.drainRow (s : State) (b c : Nat) (rb : Bool) (row : Nat) : State × Row :=
  let s := s.finishChunks b (· == c) (s.blockCycle b)
  let k := s.block b
  let ix := rbIndex (k.physCell c) rb
  let early := k.chunks.any (fun x => x.1 == c && x.2.rb == rb)
  let t := if early then s.blockHazard b 2 ix else s
  let left := get 0 k.undrained ix
  let left := if (left / 2 ^ row) % 2 = 1 then left - 2 ^ row else left
  (t.onBlock b (fun k => { k with undrained := put 0 k.undrained ix left }),
    mkRow (fun q => get 0 k.results (ix * 4096 + 256 * row + q)))

/-- DRAIN_TREE: a result row to a T register, three cycles later (R137). -/
def execDrainTree (b : Fin 64) (c : Fin 4) (rb : Bool) (row : Fin 16) (t : Fin 32) (s : State) :
    Host.Outcome State Fault Refusal :=
  .next (s.slot b c true (fun s => let r := s.drainRow b c rb row; r.1.resultT b c t 3 r.2))

/-- DRAIN_VEC: a result row to a V register. -/
def execDrainVec (b : Fin 64) (c : Fin 4) (rb : Bool) (row : Fin 16) (v : Fin 32) (s : State) :
    Host.Outcome State Fault Refusal :=
  .next (s.slot b c true (fun s => let r := s.drainRow b c rb row; r.1.resultV b c v 3 r.2))

/-- DRAIN_SRAM: a result row to SRAM, readable from the third cycle on. -/
def execDrainSram (b : Fin 64) (c : Fin 4) (rb : Bool) (row : Fin 16) (ar : Fin 64) (s : State) :
    Host.Outcome State Fault Refusal :=
  .next (s.slot b c true (fun s =>
    let r := s.drainRow b c rb row
    (r.1.ranked b c).writeRow b ar (s.blockCycle b + 3) r.2))

end Sys2Proof.Machine
end

