-- ==== Sys2Proof/Machine/Sync.lean ====
section
/-! DEFINITION. The sync and control slots of blocks (R132 to R145): waits on arrival groups, signals, the marked reads and
the loops. -/

namespace Sys2Proof.Machine

open Sys2Proof

/-- A marked operation's outcome that differed from its reference (R145): VARIANT_CHOICES of the block rises by 1. -/
def State.variantChoice (s : State) (b : Nat) : State := s.onBlock b (fun k => { k with variant := satInc k.variant })

/-- Why a region's plan stepping stops now by its units' waits (R141, R143, R164): a waiting unit, else a stalled one. -/
def State.unitStall (s : State) (r : Nat) : Option Stall :=
  let seqs := if r < 0x10 then (List.range 4).map (fun j => (s.block (4 * r + j)).seq)
    else if 0x14 ≤ r ∧ r < 0x20 then [(s.stack (r - 0x14)).seq] else []
  if seqs.any (fun q => q.waiting.isSome) then some .arrival
  else if seqs.any (fun q => q.stalled) then some .instruction else none

/-- The region's stall follows its units'. -/
def State.restall (s : State) (r : Nat) : State := s.onRegion r (fun g => { g with stall := s.unitStall r })

/-- Whether the masked groups from `g` hold a ready one, and the relative index of the lowest (R141). -/
def Groups.firstReady (k : Groups) (g mask : Nat) : Option Nat :=
  (List.range 4).find? (fun j => mask.testBit j && k.ready (g + j))

/-- The lowest masked index, the reference outcome of WAIT_FIRST (R145). -/
def lowestMasked (mask : Nat) : Nat := ((List.range 4).find? (fun j => mask.testBit j)).getD 0

/-- What a block's wait does when it proceeds: SEL of a WAIT_FIRST (R141) and the counts of R145.  `mask` is 0 for WAIT. -/
def State.proceedBlock (s : State) (b g mask : Nat) : State :=
  let k := s.block b
  let t := s.onBlock b (fun k => { k with seq := { k.seq with waiting := none } })
  if mask = 0 then
    if bit k.groups.loose g && bit k.groups.disordered g then t.variantChoice b else t
  else
    let j := (k.groups.firstReady g mask).getD 0
    let t := t.onBlock b (fun k => { k with sel := BitVec.ofNat 2 j })
    if j ≠ lowestMasked mask then t.variantChoice b else t

/-- Whether the unit's wait may proceed in the present cycle. -/
def Groups.passes (k : Groups) (g mask : Nat) : Bool := if mask = 0 then k.ready g else (k.firstReady g mask).isSome

/-- Whether the plan lists a wait on a group as assured (R323 ASSURED_WAIT): by logical block, or 64 + a stack, and group. -/
def State.assured (s : State) (u g : Nat) : Bool :=
  match s.store.cur with
  | some p => p.body.assured.contains (u, g)
  | none => false

/-- A block's wait in the present cycle (R141, R143): it proceeds, or the bundle does not issue and the region gates. -/
def State.waitBlock (s : State) (b g mask : Nat) : State :=
  if (s.block b).groups.passes g mask then s.proceedBlock b g mask
  else
    let s1 := if s.assured (s.block b).logical.toNat g then s.blockHazard b 3 g else s
    let t := s1.onBlock b (fun k => { k with seq := { k.seq with waiting := some (g, mask) } })
    t.restall (compRegion b)

/-- A wait slot.  A block whose region already gates meets its wait in the same cycle: where the wait cannot proceed the
block waits as well, and each gated period counts for it too (R143); where it could, its bundle stands until the region runs, and so
does one whose slot offends and acts as empty (R144, R148). -/
def State.waitSlot (s : State) (b : Nat) (legal : Bool) (g mask : Nat) : State :=
  if !s.issues b && s.runsOn b then
    (if legal && !s.slotOffends b 8 && !(s.block b).groups.passes g mask then s.waitBlock b g mask else s)
  else s.slot b 8 legal (fun s => s.waitBlock b g mask)

/-- WAIT: proceeds if its group completed before the present cycle began. -/
def execWait (b : Fin 64) (group : Fin 64) (s : State) : Host.Outcome State Fault Refusal :=
  .next (s.waitSlot b true group 0)

/-- WAIT_FIRST: proceeds if any group of its mask did so, and writes SEL. -/
def execWaitFirst (b : Fin 64) (group : Fin 64) (mask : BitVec 4) (s : State) : Host.Outcome State Fault Refusal :=
  .next (s.waitSlot b (Instr.waitFirst b group mask).wellFormed group mask.toNat)

/-- SIGNAL: one count for a group of a logical block, released 16 cycles later (R137); a block outside 0 to N − 1 raises
RANGE and counts in no group (R132). -/
def execSignal (b : Fin 64) (group : Fin 64) (target : BitVec 6) (s : State) : Host.Outcome State Fault Refusal :=
  .next (s.slot b 8 true (fun s =>
    match s.physOf target.toNat with
    | some p =>
      if target.toNat < s.logicalCount then
        s.token { src := compRegion b, dst := compRegion p, sent := s.blockCycle b, release := s.blockCycle b + 16
                  payload := .signal p group }
      else s.planFault b 4
    | none => s.planFault b 4))

/-- The row of READ_T: T[47:16], T[79:48], T[15:0] (R132). -/
def timeRow (t : BitVec 80) : Row :=
  mkRow (fun q => match q with
    | 0 => t.extractLsb' 16 32 | 1 => t.extractLsb' 48 32 | 2 => BitVec.ofNat 32 (field t 0 16) | _ => 0)

/-- READ_T: network time into a vector register; always counted (R145). -/
def execReadT (b : Fin 64) (v : Fin 32) (s : State) : Host.Outcome State Fault Refusal :=
  .next (s.slot b 8 true (fun s => (s.variantChoice b).resultV b 8 v 3 (timeRow s.now)))

/-- The counter that SAMPLE names (R132). -/
def State.sampleCounter (s : State) (b index : Nat) : Word32 :=
  match index with
  | 0 => (s.block b).arrivalStalls
  | 1 => (s.block b).instrStalls
  | 2 => (s.block b).variant
  | 3 => BitVec.ofNat 32 s.sheaf.sheafCount.toNat
  | _ => s.sheaf.heldTicks

/-- SAMPLE: a counter into lane 0, the other lanes 0; indices 5 and up are reserved (R123).  The counter is read before the
sample itself is counted (log entry 21). -/
def execSample (b : Fin 64) (index : BitVec 6) (v : Fin 32) (s : State) : Host.Outcome State Fault Refusal :=
  .next (s.slot b 8 (Instr.sample b index v).wellFormed (fun s =>
    (s.variantChoice b).resultV b 8 v 3 (mkRow (fun q => if q = 0 then s.sampleCounter b index.toNat else 0))))

/-- Opens a loop level at a trip count (R135). -/
def Sequencer.openLoop (q : Sequencer) (l trip : Nat) : Sequencer :=
  { q with loops := { level := l, iter := 0, trip := trip, body := q.line + 1 } :: q.loops }

/-- Whether a loop level is active. -/
def Sequencer.active (q : Sequencer) (l : Nat) : Bool := q.loops.any (fun x => x.level == l)

/-- Ends the body of a loop level (R135): one more pass, or the level closes. -/
def Sequencer.closeLoop (q : Sequencer) (l : Nat) : Sequencer :=
  match q.loops.find? (fun x => x.level == l) with
  | none => q
  | some x =>
    if x.iter + 1 < x.trip then
      { q with loops := q.loops.map (fun y => if y.level = l then { y with iter := y.iter + 1 } else y), jump := some x.body }
    else { q with loops := q.loops.filter (fun y => y.level != l) }

/-- LOOP_BEGIN: a level already active is illegal. -/
def execLoopBegin (b : Fin 64) (level : Fin 4) (trip : BitVec 8) (s : State) : Host.Outcome State Fault Refusal :=
  .next (s.slot b 9 (!(s.block b).seq.active level) (fun s =>
    s.onBlock b (fun k => { k with seq := k.seq.openLoop level (k.tables.trip.getD trip.toNat 0) })))

/-- LOOP_END: a level not active is illegal. -/
def execLoopEnd (b : Fin 64) (level : Fin 4) (s : State) : Host.Outcome State Fault Refusal :=
  .next (s.slot b 9 ((s.block b).seq.active level) (fun s => s.onBlock b (fun k => { k with seq := k.seq.closeLoop level })))

/-- SHEAF_END: the bundles after it do not issue (R136); whether the block is finished then follows from what it has under
way and from its groups. -/
def execSheafEnd (b : Fin 64) (s : State) : Host.Outcome State Fault Refusal :=
  .next (s.slot b 9 true (fun s => s.onBlock b (fun k => { k with seq := { k.seq with ended := true } })))

/-- A block comes to its sequencer's line: past the stream's end its work ends as with an illegal bundle (R136); a line that the
fetcher has not delivered stalls it (R134); else the bundle is read from instruction memory with its check bits (R147), and an
illegal or uncorrectable one is reported (R123, R144, R148). -/
def State.beginBundle (s : State) (b : Nat) : State :=
  let k := s.block b
  let q := k.seq
  if !k.active || k.isolated || k.frozen || q.ended then s
  else if q.length ≤ q.line then (s.illegalBundle b).onBlock b (fun k => { k with seq := { k.seq with ended := true } })
  else if q.fetched ≤ q.line then
    (s.onBlock b (fun k => { k with seq := { k.seq with stalled := true } })).restall (compRegion b)
  else
    let t := (s.onBlock b (fun k => { k with seq := { k.seq with left := bundleIdle (s.bundleAt b q.line) } })).sramCorrect b (bundlePlace q.line) 32
    if (s.lostUnits (blockBase b + bundlePlace q.line) 32).isEmpty && !s.lineIllegal b then t else t.illegalBundle b

/-- An illegal bundle as the sequencer finds it (R123, R136, R144, R147, R148): ILLEGAL_BUNDLE and an abort; at the stream's
end without SHEAF_END the block's work ends too. -/
def execIllegalBundle (b : Fin 64) (cause : IllegalCause) (s : State) : Host.Outcome State Fault Refusal :=
  if s.issues b then
    let t := s.illegalBundle b
    .next (if cause == .endOfStream then t.onBlock b (fun k => { k with seq := { k.seq with ended := true } }) else t)
  else .next s

end Sys2Proof.Machine
end

