-- ==== Sys2Proof/Machine/Stack.lean ====
section
/-! DEFINITION. The stack side's shared operations (R152 to R176): slice ownership, operand places, engine reads and writes
with their times, and one group of a running operation. -/

namespace Sys2Proof.Machine

open Sys2Proof

/-! Slices (R155, R156, R310) -/

/-- Whether an entry of a slice schedule covers a bank group in a slice. -/
def sliceCovers (e : Word128) (pc bg sl : Nat) : Bool :=
  decide (field e 0 17 ≤ sl) && decide (sl ≤ field e 0 17 + field e 17 16) && bit e (33 + pc) && bit e (97 + bg)

/-- The owner of a bank group in a slice: 0 NONE, 1 WIDE, 2 IFACE, 3 REFRESH; the later entry wins (R310). -/
def sliceOwner (es : List Word128) (pc bg sl : Nat) : Nat :=
  es.foldl (fun o e => if sliceCovers e pc bg sl then field e 113 2 else o) 0

/-- The pseudo-channel of an HBM address (R187). -/
def pcOf (a : Nat) : Nat := (a / 2 ^ 30) % 64
/-- The bank group of an HBM address (R187). -/
def bankGroupOf (a : Nat) : Nat := (a / 4096) % 16

/-- The bank groups that a run of HBM bytes touches. -/
def bankGroups (a n : Nat) : List Nat := (List.range ((a % 4096 + n + 4095) / 4096)).map (fun j => bankGroupOf (a + 4096 * j))

/-- Whether the wide path owns every bank group of a run of HBM bytes in the slice of a cycle (R156). -/
def wideOk (es : List Word128) (a n cycle : Nat) : Bool :=
  (bankGroups a n).all (fun bg => sliceOwner es (pcOf a) bg (cycle / 32) == 1)

/-- Whether the interface path may use the bank groups of a run in a cycle: not in the last 8 cycles of its slice unless the
next slice is IFACE as well (R156). -/
def ifaceOk (es : List Word128) (a n cycle : Nat) : Bool :=
  (bankGroups a n).all (fun bg => sliceOwner es (pcOf a) bg (cycle / 32) == 2 &&
    (decide (cycle % 32 < 24) || sliceOwner es (pcOf a) bg (cycle / 32 + 1) == 2))

/-! Operand places (R162) -/

/-- Where egress bytes stand among the places: above every device address. -/
def egressPlace : Nat := 2 ^ 48

/-- Whether a place is an HBM address. -/
def isHbm (a : Nat) : Bool := decide (a < hbmSize)

/-- The effective address of a stack address register at given loop iterations (R162). -/
def sarEffective (a : AddrReg) (iters : List Nat) : Int :=
  (a.base : Int) + (List.range 4).foldl (fun x l => x + a.s.getD l 0 * (iters.getD l 0 : Int)) 0

/-- The place of an operand in engine `e` of stack `i`, with the kinds of plan fault that it raises (R162, R118): 3 ALIGN
rounds down to 256 B, 4 RANGE suppresses.  DESIGN CHOICE: an operand whose last group would pass its space is outside it, and
RANGE suppresses all of its groups (log entry 100); every operand in HBM or in the staging store is one of R162's line operations,
whatever its size (log entry 101). -/
def Stack.place (k : Stack) (i e : Nat) (iters : List Nat) (ar len : Nat) (write : Bool) : List Nat × Option Nat :=
  let a := k.tables.ar.getD (ar % 64) {}
  let ea := sarEffective a iters
  let off := ea.toNat / 256 * 256
  let al := if ea % 256 ≠ 0 then [3] else []
  match a.space with
  | .hbm => if 0 ≤ ea ∧ off + len ≤ 2 ^ 30 then (al, some (pcBase i e + off)) else (al ++ [4], none)
  | .staging => if 0 ≤ ea ∧ off + len ≤ 2 ^ 18 then (al, some (stageBase i e + off)) else (al ++ [4], none)
  | .egress =>
    if write = true ∧ 0 ≤ ea ∧ 512 * ea.toNat + len ≤ 4096 * 512 then
      ([], some (egressPlace + egressBase (a.aux % 4) ea.toNat)) else ([4], none)
  | _ => ([4], none)

/-- The space of a stack address register. -/
def Stack.spaceOf (k : Stack) (ar : Nat) : Space := (k.tables.ar.getD (ar % 64) {}).space

/-- The network region of an egress address register. -/
def Stack.netOf (k : Stack) (ar : Nat) : Nat := (k.tables.ar.getD (ar % 64) {}).aux % 4

/-- The latency of a crossing between a stack region and a network region (R71, R152): X6 on one die, else X7. -/
def stackNetLatency (i net : Nat) : Nat := if i / 3 = net then 16 else 26

/-! Reads and writes of engines -/

/-- Bytes overlaid by one write. -/
def overlay (a : Nat) (bs : List Byte) (w : StackWrite) : List Byte := overlaid a bs w.addr w.bytes

/-- What a read of the memory behind a stack returns at a cycle: every write visible by it (R165). -/
def State.stackBytes (s : State) (i a n cycle : Nat) : List Byte :=
  ((s.stack i).writes.filter (fun w => decide (w.cycle ≤ cycle) && decide (w.addr < a + n) &&
    decide (a < w.addr + w.bytes.length))).foldl (fun bs w => overlay a bs w) (s.peek a n)

/-- A write put behind those that become visible no later. -/
def writeIn (w : StackWrite) : List StackWrite → List StackWrite
  | [] => [w]
  | x :: xs => if x.cycle ≤ w.cycle then x :: writeIn w xs else w :: x :: xs

/-- Posts bytes that become visible in a later cycle; `owner` is the block whose HBM_WR they are. -/
def State.post (s : State) (i cycle a : Nat) (bs : List Byte) (owner : Option Nat := none) : State :=
  s.onStack i (fun k => { k with writes := writeIn { cycle := cycle, addr := a, bytes := bs, owner := owner } k.writes })

/-- Posted writes that have become visible are stored: those to the staging store at once, those to HBM once no interface
request issued before they were visible can still reach the stack (R155: 18 cycles). -/
def State.retireWrites (s : State) (i cycle : Nat) : State :=
  let due (w : StackWrite) : Bool := decide (w.cycle + (if isHbm w.addr then 18 else 0) ≤ cycle)
  let k := s.stack i
  let s1 := (k.writes.filter due).foldl (fun t w => t.poke w.addr w.bytes) s
  s1.onStack i (fun k => { k with writes := k.writes.filter (fun w => !due w) })

/-- The corrected errors of a read of stack memory (R182): each counts. -/
def State.stackCorrect (s : State) (i a n e : Nat) : State :=
  let m := s.corrections a n
  if m = 0 then s
  else
    let t := s.onStack i (fun k => { k with ceCount := satAdd k.ceCount m, err := setBit k.err 0 })
    t.log { code := 0x0301, severity := 1, region := stackRegion i, unit := e, action := 1, detail := (t.stack i).ueAddr.toNat }

/-- A row put on a list once. -/
def addRow (l : List Nat) (r : Nat) : List Nat := if l.contains r then l else l ++ [r]

/-- Uncorrectable errors of stack memory, unit by unit (R182): `wide` is the path, `requester` the region that asked.  Every row with
one is to be retired (R183). -/
def State.stackLost (s : State) (i : Nat) (units : List Nat) (wide : Bool) (requester line e : Nat) : State :=
  match units with
  | [] => s
  | p :: ps =>
    if isHbm p then
      let old := (s.stack i).err &&& 0x6
      let hi := pcOf p + (if wide then 0 else 64) + requester * 256
      let t := s.onStack i (fun k => { k with
        ueAddr := if old == 0 then BitVec.ofNat 64 (p % 2 ^ 30 + hi * 2 ^ 32) else k.ueAddr
        retire := ((p :: ps).map (· / 1024)).foldl addRow k.retire })
      let t := t.stackErr i (if wide then 1 else 2) line e
      t.hardError { code := if wide then 0x0302 else 0x0303, severity := 2, region := if wide then stackRegion i else requester
                    unit := e, detail := (t.stack i).ueAddr.toNat }
    else
      let t := s.stackErr i 3 line e
      t.hardError { code := 0x0304, severity := 2, region := stackRegion i, unit := e, detail := (t.stack i).ueAddr.toNat }

/-- The checks of a read of stack memory (R181, R182).  DESIGN CHOICE: a read that no stack instruction makes has line 0, or the line
of the block that asked, and its pseudo-channel for an engine (log entry 117). -/
def State.stackCheck (s : State) (i a n : Nat) (wide : Bool) (requester line e : Nat) : State :=
  (s.stackCorrect i a n e).stackLost i (s.lostUnits a n) wide requester line e

/-- The check of a write of HBM: a parity error of its command or address is handled as an uncorrectable error (R180).  DESIGN CHOICE:
the write is performed all the same (log entry 23). -/
def State.writeCheck (s : State) (i a n : Nat) (wide : Bool) (requester line e : Nat) : State :=
  s.stackLost i (s.parityUnits a n) wide requester line e

/-- Whether the current step has written every byte of a staging run (R159), byte by 256 B line. -/
def Stack.wrote (k : Stack) (a n : Nat) : Bool :=
  (List.range (ceilDiv n 256)).all (fun j =>
    k.written.any (fun w => decide (w.1 ≤ a + 256 * j) && decide (a + 256 * j < w.1 + w.2)))

/-- Notes a staging write of the step in debug mode (R323 UNWRITTEN). -/
def State.noteStaging (s : State) (i a n : Nat) : State :=
  if s.debugMode then s.onStack i (fun k => { k with written := k.written ++ [(a, n)] }) else s

/-- The hazards of a staging read in debug mode (R323): RAW, LANDING, UNWRITTEN. -/
def State.stagingHazard (s : State) (i a n cycle : Nat) : State :=
  if s.debugMode then
    let k := s.stack i
    if k.writes.any (fun w => decide (cycle < w.cycle) && decide (w.addr < a + n) && decide (a < w.addr + w.bytes.length))
    then s.stackHazard i 1 a
    else if k.landed.any (fun l => decide (a ≤ l.1) && decide (l.1 < a + n) && !k.groups.complete l.2)
    then s.stackHazard i 6 a
    else if !k.wrote a n then s.stackHazard i 7 a else s
  else s

/-- Whether a tier move that has begun, or whose start has come, still carries bytes into a run of HBM (R201): its group can still
receive. -/
def State.moveLands (s : State) (a n : Nat) : Bool :=
  s.ddr.any (fun x =>
    (match x.2.run with | some r => [r.move] | none => []).any (fun m => into m) ||
      x.2.queue.any (fun m => decide (m.start ≤ s.cyc ioRegion) && into m))
where
  into (m : TierMove) : Bool := m.toHbm && decide (m.hbmAddr < a + n) && decide (a < m.hbmAddr + 2048 * m.units)

/-- The LANDING hazard of a plan access to such a run in debug mode (R323). -/
def State.moveHazard (s : State) (i a n : Nat) : State := if s.debugMode && s.moveLands a n then s.stackHazard i 6 a else s

/-- The LANDING hazard of a plan write to a place where a vector has landed for a group that can still receive (R117, R323). -/
def State.stageHazard (s : State) (i a n : Nat) : State :=
  if s.debugMode && (s.stack i).landed.any (fun l => decide (l.1 < a + n) && decide (a < l.1 + 512) && !(s.stack i).groups.complete l.2)
  then s.stackHazard i 6 a else s

/-- An engine's read at a place (R156, R165): a refused or suppressed read delivers zeros. -/
def State.engineRead (s : State) (i e line : Nat) (pl : Option Nat) (n cycle : Nat) : State × List Byte :=
  match pl with
  | none => (s, List.replicate n 0)
  | some a =>
    if isHbm a then
      if wideOk (s.stack i).slices a n cycle then
        ((s.moveHazard i a n).stackCheck i a n true (stackRegion i) line e, s.stackBytes i a n cycle)
      else ((s.stackHazard i 4 a).stackFault i 1 line e, List.replicate n 0)
    else ((s.stagingHazard i a n cycle).stackCheck i a n true (stackRegion i) line e, s.stackBytes i a n cycle)

/-- The write-back term ω of a destination (R165). -/
def Stack.omega (k : Stack) (i ar : Nat) : Nat :=
  match k.spaceOf ar with
  | .hbm => 12
  | .egress => 8 + stackNetLatency i (k.netOf ar)
  | _ => 4

/-- Whether an engine's write at a place is performed: neither suppressed (R162) nor refused by its slice (R156). -/
def State.engineWrites (s : State) (i : Nat) (pl : Option Nat) (n v : Nat) : Bool :=
  match pl with
  | none => false
  | some a => !isHbm a || wideOk (s.stack i).slices a n v

/-- An engine's write at a place, visible from cycle `v + ω` on; HBM writes are judged in cycle `v` (R165).  A suppressed write is
dropped, and so is a refused one, which its stack reports in cycle `v`. -/
def State.engineWrite (s : State) (i e line ar : Nat) (pl : Option Nat) (bs : List Byte) (v : Nat) : State :=
  match pl with
  | none => s
  | some a =>
    let w := v + (s.stack i).omega i ar
    if isHbm a then
      if wideOk (s.stack i).slices a bs.length v then
        ((s.moveHazard i a bs.length).post i w a bs).writeCheck i a bs.length true (stackRegion i) line e
      else s.onStack i (fun k => { k with slips := k.slips ++ [{ cycle := v, place := a, line := line, engine := e }] })
    else if egressPlace ≤ a then
      s.token { src := stackRegion i, dst := netRegion ((s.stack i).netOf ar), sent := v + 8, release := w
                payload := .egress (a - egressPlace) bs }
    else ((s.stageHazard i a bs.length).post i w a bs).noteStaging i a bs.length

/-! What each operation reads and writes (R166 to R174) -/

/-- A source: address register, format and elements per group. -/
structure Source where
  ar : Nat
  fmt : CvtFmt
  ne : Nat

/-- What a written operand carries: the result, an optimizer's moments, its shadow copy, or TRUST_NORM's ua. -/
inductive Role where
  | main | m | v | shadow | ua
  deriving DecidableEq, Repr

/-- A destination with its role. -/
structure Dest where
  ar : Nat
  fmt : CvtFmt
  ne : Nat
  role : Role

/-- FP32 as a conversion format. -/
def fmt32 : CvtFmt := .plain .fp32

/-- A format code's format; the loader and the field rules keep reserved codes out. -/
def fmtOf (c : Nat) : CvtFmt := (cvtFmt c).getD fmt32

/-- The shadow copy's destination when the descriptor names one (R167, R170). -/
def shadowDest (kd : KDesc) (ar : Nat) : List Dest :=
  if kd.shadowFmt = 0xFF then [] else [{ ar := ar, fmt := fmtOf kd.shadowFmt, ne := 64, role := .shadow }]

/-- The sources of an operation, per group (R166 to R173).  GATHER reads by itself. -/
def sources (code : Nat) (f : SFields) (kd : KDesc) : List Source :=
  let a : Source := { ar := f.ara, fmt := fmtOf f.fmtIn.toNat, ne := 64 }
  let b : Source := { ar := f.arb, fmt := fmtOf f.fmtIn.toNat, ne := 64 }
  let w : Source := { ar := f.ara, fmt := fmt32, ne := 64 }
  let m : Source := { ar := f.arb, fmt := fmtOf kd.momFmt, ne := 64 }
  let v : Source := { ar := f.arc, fmt := fmtOf kd.momFmt, ne := 64 }
  let g : Source := { ar := f.ard, fmt := fmtOf kd.gradFmt, ne := 64 }
  match code with
  | 0x04 => [a, b, { a with ar := f.arc }]
  | 0x08 | 0x09 | 0x0B => [a]
  | 0x0C | 0x0D => [{ a with ne := 64 * (f.len.toNat + 1) }]
  | 0x0E => [a, { ar := f.ard, fmt := fmtOf f.fmtOut.toNat, ne := 64 }]
  | 0x0F => [w]
  | 0x10 => []
  | 0x11 => [{ w with ne := 128 }]
  | 0x12 => [{ a with ne := (4096 / (fmtOf f.fmtIn.toNat).bits) * (f.count.toNat + 1) }]
  | 0x13 | 0x14 | 0x16 => [w, m, v, g]
  | 0x15 => [w, m, g]
  | 0x17 => [w, { g with fmt := fmt32 }]
  | _ => [a, b]

/-- The destinations of an operation, per group (R166 to R173). -/
def dests (code : Nat) (f : SFields) (kd : KDesc) : List Dest :=
  let d : Dest := { ar := f.ard, fmt := fmtOf f.fmtOut.toNat, ne := 64, role := .main }
  let w : Dest := { ar := f.ara, fmt := fmt32, ne := 64, role := .main }
  let m : Dest := { ar := f.arb, fmt := fmtOf kd.momFmt, ne := 64, role := .m }
  let v : Dest := { ar := f.arc, fmt := fmtOf kd.momFmt, ne := 64, role := .v }
  match code with
  | 0x0C | 0x0D => [{ d with fmt := fmt32, ne := 1 }]
  | 0x0F => [{ d with fmt := fmt32 }]
  | 0x10 => []
  | 0x11 => [{ d with fmt := fmt32, ne := 128 }]
  | 0x12 => [{ d with ne := 4096 / (fmtOf f.fmtIn.toNat).bits }]
  | 0x13 | 0x14 => [w, m, v] ++ shadowDest kd (f.ard + 1)
  | 0x15 => [w, m] ++ shadowDest kd (f.ard + 1)
  | 0x16 => [m, v, { ar := f.ard + 1, fmt := fmt32, ne := 64, role := .ua }]
  | 0x17 => w :: shadowDest kd (f.ard + 1)
  | _ => [d]

/-- Bytes of `n` elements of a format. -/
def CvtFmt.bytes (c : CvtFmt) (n : Nat) : Nat := n * c.bits / 8

/-- Whether a format is an MX format, whose scales go to the next address register (R166, R167). -/
def CvtFmt.isMx : CvtFmt → Bool
  | .mx _ => true
  | _ => false

/-- Scale bytes of a destination's group: one for each block of 32 (R104). -/
def Dest.scaleBytes (d : Dest) : Nat := if d.fmt.isMx then d.ne / 32 else 0

/-- Groups of an operation (R165, R166, R173, R174).  DESIGN CHOICE: STAGE_LOCAL with COUNT > 0 copies COUNT + 1 vectors of 512 B, one
of them a group (log entry 118). -/
def groupsOf (code : Nat) (f : SFields) : Nat := if code = 0x12 then 1 else f.count.toNat + 1

/-- Whether a code is an optimizer kernel, which also reads scalars in HBM (R167). -/
def isKernel (code : Nat) : Bool := decide (0x13 ≤ code ∧ code ≤ 0x17)

/-- The compute occupancy q (R166). -/
def occupancyQ (code : Nat) (f : SFields) : Nat :=
  match code with
  | 0x0A | 0x0B => 4
  | 0x0C | 0x0D => f.len.toNat + 1
  | 0x13 | 0x14 | 0x16 => 8
  | _ => 1

/-- The operation latency λ (R166, R173). -/
def stackLatency (code : Nat) (f : SFields) (lp2 : Bool) : Nat :=
  match code with
  | 0x04 => 5
  | 0x05 => 9
  | 0x06 | 0x07 => 2
  | 0x08 => 3
  | 0x09 => 8
  | 0x0A | 0x0B => if lp2 then 20 else 28
  | 0x0C => 4 * clog2 (64 * (f.len.toNat + 1))
  | 0x0D => 2 * clog2 (64 * (f.len.toNat + 1))
  | 0x0F | 0x11 => 0
  | 0x12 => (if f.mode == 0 then 4 else 2) * clog2 (f.count.toNat + 1)
  | 0x13 | 0x14 => if lp2 then 78 else 94
  | 0x15 => 22
  | 0x16 => if lp2 then 70 else 86
  | 0x17 => 5
  | _ => 4

/-- The sides of an operation with their bytes per group: address register, bytes, whether written. -/
def sides (code : Nat) (f : SFields) (kd : KDesc) : List (Nat × Nat × Bool) :=
  (sources code f kd).map (fun x => (x.ar, x.fmt.bytes x.ne, false)) ++
    (dests code f kd).map (fun x => (x.ar, x.fmt.bytes x.ne, true)) ++
    ((dests code f kd).filter (fun x => x.fmt.isMx)).map (fun x => (x.ar + 1, x.scaleBytes, true))

/-- The sum of a side's bytes in one space. -/
def sideBytes (k : Stack) (sp : Space) (write : Option Bool) (l : List (Nat × Nat × Bool)) : Nat :=
  l.foldl (fun n x => if k.spaceOf x.1 = sp ∧ (write = none ∨ write = some x.2.2) then n + x.2.1 else n) 0

/-- The occupancy t of one group (R165, R173, R174). -/
def occupancy (k : Stack) (code : Nat) (f : SFields) (kd : KDesc) : Nat :=
  match code with
  | 0x10 => f.len.toNat + 25
  | 0x12 => 2 * (f.count.toNat + 1)
  | _ =>
    let l := sides code f kd
    max (max (ceilDiv (sideBytes k .hbm none l) 256) (ceilDiv (sideBytes k .staging (some false) l) 256))
      (max (ceilDiv (sideBytes k .staging (some true) l) 256) (occupancyQ code f))

/-- ρ (R165): 40 when any source is in HBM, else 6.  DESIGN CHOICE: the scalars lr and gs, which stand in HBM, count among the
sources of a kernel, so a kernel's ρ is 40 (log entry 102). -/
def readLatency (k : Stack) (code : Nat) (f : SFields) (kd : KDesc) : Nat :=
  if isKernel code || code == 0x10 || (sources code f kd).any (fun x => k.spaceOf x.ar == .hbm) then 40 else 6

/-! Arithmetic of one group -/

/-- An element-wise operation of up to three sources (R166). -/
def elementOp (code : Nat) (kd : KDesc) (x y z : Word32) : Word32 :=
  match code with
  | 0x01 => fadd x y
  | 0x02 => fsub x y
  | 0x03 => fmul x y
  | 0x04 => ffma x y z
  | 0x05 => ffma kd.b1 x (fmul kd.b2 y)
  | 0x06 => fmin x y
  | 0x07 => fmax x y
  | 0x0A => fdiv x y
  | 0x0B => fsqrt x
  | 0x0E => fadd y x
  | _ => x

/-- r = b^n as pow_step forms it (R168): `fuel` bounds the bits of n. -/
def powStep : Nat → Word32 → Word32 → Nat → Word32
  | 0, _, r, _ => r
  | fuel + 1, x, r, n => if n = 0 then r else powStep fuel (fmul x x) (if n % 2 = 1 then fmul r x else r) (n / 2)

/-- FP32 1.0. -/
def one32 : Word32 := 0x3F800000

/-- The per-step scalars of a descriptor at logical step `step` (R168). -/
def stepScalars (kd : KDesc) (step : Nat) : StepScalars :=
  let r (b : Word32) := fdiv one32 (fsub one32 (powStep 64 b one32 ((step + 1) % 2 ^ 64)))
  { r1 := r kd.b1, r2 := r kd.b2, c1 := fsub one32 kd.b1, c2 := fsub one32 kd.b2 }

/-- What a kernel computes for one element: W' or ua, m and v before narrowing (R169, R170). -/
structure Kernel where
  w : Word32 := 0
  m : Word32 := 0
  v : Word32 := 0
  ua : Word32 := 0

/-- ADAMW's and TRUST_NORM's gradient, and ADAM's with L2 decay (R169). -/
def kernelGrad (code : Nat) (kd : KDesc) (gs w g : Word32) : Word32 :=
  if code = 0x14 ∨ code = 0x15 then ffma kd.wd w (fmul g gs) else fmul g gs

/-- One element of an optimizer kernel (R169, R170). -/
def kernelOp (code : Nat) (kd : KDesc) (sc : StepScalars) (lr gs ratio : Word32) (w m v g : Word32) : Kernel :=
  let gg := kernelGrad code kd gs w g
  match code with
  | 0x15 =>
    let m1 := ffma kd.b1 m gg
    { w := fsub w (fmul lr m1), m := m1 }
  | 0x17 => { w := ffma (fneg (fmul lr ratio)) g w }
  | _ =>
    let m1 := ffma kd.b1 m (fmul sc.c1 gg)
    let v1 := ffma kd.b2 v (fmul sc.c2 (fmul gg gg))
    let d := fadd (fsqrt (fmul v1 sc.r2)) kd.eps
    let u := fdiv (fmul m1 sc.r1) d
    let dec := ffma kd.wd w u
    { w := fsub w (fmul lr (if code = 0x13 then dec else u)), m := m1, v := v1, ua := dec }

/-- One element position of STAGE_REDUCE: the slots' elements in slot order through the tree (R173). -/
def stageCombine (mode : Nat) (xs : List Word32) : Word32 :=
  treeCombine (if mode = 1 then fmax else if mode = 2 then fmin else fadd) 0 xs

/-- The results of one group, for a role. -/
def groupResults (r : StackRun) (x : EngineRun) (sc : StepScalars) (vals : List (List Word32)) (role : Role) : List Word32 :=
  let a := vals.getD 0 []
  let el (k j : Nat) : Word32 := (vals.getD k []).getD j 0
  if isKernel r.code then
    let out (j : Nat) : Kernel :=
      if r.code = 0x15 ∨ r.code = 0x17 then kernelOp r.code r.kd sc x.lr x.gs x.ratio (el 0 j) (el 1 j) 0
        (if r.code = 0x17 then el 1 j else el 2 j)
      else kernelOp r.code r.kd sc x.lr x.gs x.ratio (el 0 j) (el 1 j) (el 2 j) (el 3 j)
    (List.range a.length).map (fun j => match role with
      | .m => (out j).m | .v => (out j).v | .ua => (out j).ua | _ => (out j).w)
  else match r.code with
    | 0x0C => [treeCombine fadd 0 a]
    | 0x0D => [treeCombine fmax 0 a]
    | 0x12 =>
      let n := r.f.count.toNat + 1
      let ne := a.length / n
      (List.range ne).map (fun j => stageCombine r.f.mode.toNat ((List.range n).map (fun k => a.getD (k * ne + j) 0)))
    | c => (List.range a.length).map (fun j => elementOp c r.kd (el 0 j) (el 1 j) (el 2 j))

/-- The rounding mode and key of a destination (R160, R167, R169, R173). -/
def destMode (r : StackRun) : RMode × Nat :=
  if isKernel r.code then (modeOf r.kd.narrowMode, r.kd.narrowKey)
  else if r.code = 0x12 then (.rne, 0) else (modeOf r.f.mode.toNat, r.f.key.toNat)

/-- The random word of element `q` of an instruction in engine `e` under a stack rounding key (R106, R162). -/
def State.stackDraw (s : State) (i : Nat) (iters : List Nat) (key e q : Nat) : Nat :=
  let k := (s.stack i).tables.key.getD key {}
  s.draw k.block ((k.base : Int) + (List.range 4).foldl (fun x l => x + k.s.getD l 0 * (iters.getD l 0 : Int)) 0 +
    k.se * (e : Int) + (q : Int))

/-- The bytes and scale bytes of one group's results (R102 to R104). -/
def narrowGroup (d : Dest) (mode : RMode) (us : List Nat) (vals : List Word32) : List Byte × List Byte :=
  match d.fmt with
  | .mx f =>
    let blocks := (List.range (d.ne / 32)).map (fun m => (vals.drop (32 * m)).take 32)
    let elems := (blocks.zipIdx).flatMap (fun p => mxElems f mode ((us.drop (32 * p.2)).take 32) p.1)
    (leBytes (d.fmt.bytes d.ne) (packElems f.bits elems), blocks.map (fun xs => BitVec.ofNat 8 (mxScale f xs)))
  | c => (leBytes (c.bytes d.ne) (packElems c.bits ((vals.zip us).map (fun p => cvtPlain c mode p.2 p.1))), [])

/-! Running an operation -/

/-- A group's source elements, widened to FP32 (R158). -/
def State.groupRead (s : State) (i e : Nat) (r : StackRun) (x : Source) : State × List Word32 :=
  let n := x.fmt.bytes x.ne
  let pl := (s.stack i).place i e r.iters x.ar (n * r.groups) false
  let q := s.engineRead i e r.line (pl.2.map (· + n * r.next)) n (r.issue + r.next * r.t)
  let w := leNat q.2
  (q.1, (List.range x.ne).map (fun j => widenPlain x.fmt (elemAt x.fmt.bits w j)))

/-- All sources of a group. -/
def State.groupReads (s : State) (i e : Nat) (r : StackRun) : List Source → State × List (List Word32)
  | [] => (s, [])
  | x :: xs =>
    let q := s.groupRead i e r x
    let p := q.1.groupReads i e r xs
    (p.1, q.2 :: p.2)

/-- Writes one destination of a group; the bytes written to the main destination join the digest string (R175). -/
def State.groupWrite (s : State) (i : Nat) (r : StackRun) (x : EngineRun) (vals : List (List Word32)) (d : Dest) :
    State × EngineRun :=
  let sc := get {} (s.stack i).scalars r.f.kdesc.toNat
  let res := groupResults r x sc vals d.role
  let mk := destMode r
  let us := (List.range d.ne).map (fun j => if mk.1 = .sr then s.stackDraw i r.iters mk.2 x.engine (r.next * d.ne + j) else 0)
  let out := narrowGroup d mk.1 us res
  let v := r.issue + r.rho + (r.next + 1) * r.t - 1
  let n := d.fmt.bytes d.ne
  let pl := (s.stack i).place i x.engine r.iters d.ar (n * r.groups) true
  let s1 := s.engineWrite i x.engine r.line d.ar (pl.2.map (· + n * r.next)) out.1 v
  let m := d.scaleBytes
  let ps := (s.stack i).place i x.engine r.iters (d.ar + 1) (m * r.groups) true
  let s2 := if d.fmt.isMx then s1.engineWrite i x.engine r.line (d.ar + 1) (ps.2.map (· + m * r.next)) out.2 v else s1
  let wrote (pl : Option Nat) (bs : List Byte) : List Byte := if s.engineWrites i pl bs.length v then bs else []
  let x1 := if d.role = .main then { x with
      bytes := x.bytes ++ wrote (pl.2.map (· + n * r.next)) out.1
      scales := x.scales ++ wrote (ps.2.map (· + m * r.next)) out.2 } else x
  let x2 := if r.code = 0x16 ∧ d.role = .ua then
      { x1 with w2 := x1.w2 ++ (vals.getD 0 []).map (fun w => fmul w w), u2 := x1.u2 ++ res.map (fun u => fmul u u) } else x1
  (s2, x2)

/-- All destinations of a group. -/
def State.groupWrites (s : State) (i : Nat) (r : StackRun) (x : EngineRun) (vals : List (List Word32)) :
    List Dest → State × EngineRun
  | [] => (s, x)
  | d :: ds =>
    let q := s.groupWrite i r x vals d
    q.1.groupWrites i r q.2 vals ds

/-- One row of a GATHER (R174): the index read, and the table row or zeros copied to the next row of the destination.  DESIGN CHOICE:
R156 judges the read of the table row in the bank groups of that row and in every slice of the row's own L + 24 cycles, not over the
whole table in every slice of the operation (log entry 119). -/
def State.gatherRow (s : State) (i : Nat) (r : StackRun) (x : EngineRun) : State × EngineRun :=
  let e := x.engine
  let rows := r.kd.b1.toNat
  let len := 256 * (r.f.len.toNat + 1)
  let c := r.issue + r.next * r.t
  let k := s.stack i
  let pi := k.place i e r.iters r.f.ara (4 * r.groups) false
  let q := s.engineRead i e r.line (pi.2.map (· + 4 * r.next)) 4 c
  let ix := leNat q.2
  let pt := k.place i e r.iters r.f.arb (len * rows) false
  let src := pt.2.map (· + len * ix)
  let owned := match src with
    | some a => !isHbm a || (List.range (r.t / 32 + 2)).all (fun j =>
        decide (c + r.t - 1 < 32 * (c / 32 + j)) || wideOk k.slices a len (32 * (c / 32 + j)))
    | none => true
  let p :=
    if rows ≤ ix then (q.1.stackFault i 5 r.line e, List.replicate len 0)
    else if owned then q.1.engineRead i e r.line src len c
    else ((q.1.stackHazard i 4 (src.getD 0)).stackFault i 1 r.line e, List.replicate len 0)
  let pd := k.place i e r.iters r.f.ard (len * r.groups) true
  let v := r.issue + 40 + 12 + (r.next + 1) * r.t - 1 - k.omega i r.f.ard
  let at_ := pd.2.map (· + len * r.next)
  (p.1.engineWrite i e r.line r.f.ard at_ p.2 v,
    if s.engineWrites i at_ len v then { x with bytes := x.bytes ++ p.2 } else x)

/-- One group of an operation in one engine. -/
def State.engineGroup (s : State) (i : Nat) (r : StackRun) (x : EngineRun) : State × EngineRun :=
  if r.code = 0x10 then s.gatherRow i r x else
    let q := s.groupReads i x.engine r (sources r.code r.f r.kd)
    q.1.groupWrites i r x q.2 (dests r.code r.f r.kd)

/-- One group in every engine of the set, in engine order. -/
def State.enginesGroup (s : State) (i : Nat) (r : StackRun) : List EngineRun → State × List EngineRun
  | [] => (s, [])
  | x :: xs =>
    let q := s.engineGroup i r x
    let p := q.1.enginesGroup i r xs
    (p.1, q.2 :: p.2)

/-- TRUST_NORM's partial norms (R170): two words at SAR (ARD + 2), readable 4 × ⌈log₂ E⌉ cycles after the last element. -/
def State.partialNorms (s : State) (i : Nat) (r : StackRun) (x : EngineRun) : State :=
  let ar := r.f.ard.val + 2
  let pl := (s.stack i).place i x.engine r.iters ar 8 true
  let bs := leBytes 4 (treeCombine fadd 0 x.w2).toNat ++ leBytes 4 (treeCombine fadd 0 x.u2).toNat
  s.engineWrite i x.engine r.line ar pl.2 bs (r.issue + r.rho + r.groups * r.t - 1 + 4 * clog2 (64 * r.groups))

/-- What an engine does once its last group is read: the digest string is absorbed (R175), the norms are written. -/
def State.engineEnd (s : State) (i : Nat) (r : StackRun) (x : EngineRun) : State :=
  let s1 := if r.code = 0x16 then s.partialNorms i r x else s
  if r.hashed then
    let y := absorbBytes s1.assay.key (get 0 (s1.stack i).acc x.engine) (x.bytes ++ x.scales)
    s1.onStack i (fun k => { k with acc := put 0 k.acc x.engine y })
  else s1

/-- Advances one running operation to a cycle: its next group when that is due. -/
def State.advanceRun (s : State) (i cycle : Nat) (r : StackRun) : State × Option StackRun :=
  if r.groups ≤ r.next then (s, none)
  else if cycle < r.issue + r.next * r.t then (s, some r)
  else
    let q := s.enginesGroup i r r.engines
    let r1 := { r with next := r.next + 1, engines := q.2 }
    if r1.next < r.groups then (q.1, some r1)
    else (q.2.foldl (fun t x => t.engineEnd i r1 x) q.1, none)

/-- Advances the running operations of a stack in issue order. -/
def State.advanceRuns (s : State) (i cycle : Nat) : List StackRun → State × List StackRun
  | [] => (s, [])
  | r :: rs =>
    let q := s.advanceRun i cycle r
    let p := q.1.advanceRuns i cycle rs
    (p.1, match q.2 with | some r1 => r1 :: p.2 | none => p.2)

/-- The stack digest (R176): the XOR of the 64 accumulators. -/
def Stack.xorAcc (k : Stack) : Word128 := (List.range 64).foldl (fun d e => d ^^^ get 0 k.acc e) 0

/-- Whether the present sheaf is its step's last (R176). -/
def State.lastSheaf (s : State) : Bool := decide (s.stepLen ≤ s.sheaf.sheafInStep.toNat + 1)

/-- ASSAY_PARAM (R338): once all 12 stacks show DIGEST_VALID, a compute module that holds a logical position sends its
parameter digest, the XOR of the stack digests (R176), to the coordinator. -/
def State.sendParam (s : State) : State :=
  if (List.range 12).all (fun i => (s.stack i).digestValid) && !s.assay.sentParam then
    let x := (List.range 12).foldl (fun a i => a ^^^ (s.stack i).digest) 0
    let t := { s with assay := { s.assay with
      param := x, sentParam := true, step := BitVec.ofNat 48 s.sheaf.step.toNat } }
    if t.relay || t.ownSlot.isNone then t
    else
      let u := { t with assay := { t.assay with verdictPending := true } }
      u.sendKept u.coord.coordKey 0x40 24
        (bodyOf [(u.sheaf.step.toNat % 2 ^ 48, 0), (u.job.replica.toNat, 6), (x.toNat, 8)])
  else s

/-- What has landed in a staging store in the period that ends is stored, over the plan's writes of that period and of those before it,
which become visible by cycle `ready`; its plan reads have seen the old bytes (R117, R159). -/
def State.landStaged (s : State) (i ready : Nat) : State :=
  ((s.stack i).arrivals).foldl (fun t x => (t.onStack i (fun k => { k with
      writes := k.writes.map (fun w => if w.cycle ≤ ready then { w with bytes := overlaid w.addr w.bytes x.place x.bytes } else w) })).poke
        x.place x.bytes)
    (s.onStack i (fun k => { k with arrivals := [] }))

/-- Engine writes that their slice refuses are reported in the cycle in which they are judged (R156, R165). -/
def State.raiseSlips (s : State) (i cycle : Nat) : State :=
  let due (x : Slip) : Bool := decide (x.cycle ≤ cycle)
  let t := s.onStack i (fun k => { k with slips := k.slips.filter (fun x => !due x) })
  ((s.stack i).slips.filter due).foldl (fun t x => (t.stackHazard i 4 x.place).stackFault i 1 x.line x.engine) t

/-- DIGEST_VALID once the step's last sheaf has ended in the stack region (R176); a relay's stack engines hash nothing (R279). -/
def State.finishDigest (s : State) (i : Nat) : State :=
  let k := s.stack i
  if !s.relay && s.lastSheaf && k.active && k.seq.ended && k.runs.isEmpty && !k.digestValid then
    (s.onStack i (fun k => { k with digest := k.xorAcc, digestValid := true })).sendParam
  else s

/-- The stack's part of one of its cycles: writes become visible, arrivals are stored, refused writes are reported, operations
read their next groups. -/
def State.stackCycle (s : State) (i : Nat) : State :=
  let c := s.cyc (stackRegion i)
  let s1 := ((s.retireWrites i c).landStaged i c).raiseSlips i c
  let q := s1.advanceRuns i c (s1.stack i).runs
  (q.1.onStack i (fun k => { k with runs := q.2 })).finishDigest i

/-- Whether a stack issues now: its line has its issue cycle (R163) and neither a freeze, a wait, a stall nor a forced refresh
stops it (R143, R164, R178, R324). -/
def State.stackIssues (s : State) (i : Nat) : Bool :=
  let k := s.stack i
  k.active && !k.frozen && !k.seq.ended && !k.seq.issued && k.seq.waiting.isNone && !k.seq.stalled && k.gate == 0 &&
    (s.region (stackRegion i)).stall.isNone

/-- The loop iterations of a sequencer. -/
def Sequencer.iters (q : Sequencer) : List Nat := (List.range 4).map q.iter

/-- The plan faults that an operation's operands raise in an engine at issue (R162). -/
def State.operandFaults (s : State) (i e line : Nat) (code : Nat) (f : SFields) (kd : KDesc) : State :=
  let k := s.stack i
  let it := k.seq.iters
  let g := groupsOf code f
  let len := 256 * (f.len.toNat + 1)
  let all := if code = 0x10 then
      [(f.ara.val, 4 * g, false), (f.arb.val, len * kd.b1.toNat, false), (f.ard.val, len * g, true)]
    else (sides code f kd).map (fun x => (x.1, x.2.1 * g, x.2.2)) ++
      (if code = 0x16 then [(f.ard.val + 2, 8, true)] else []) ++ (if code = 0x17 then [(f.arc.val, 4, false)] else [])
  all.foldl (fun t x => ((k.place i e it x.1 x.2.1 x.2.2).1).foldl (fun t kind => t.stackFault i kind line e) t) s

/-- The scalars that an instruction reads once in each engine (R167, R170): lr, gs and the trust ratio.  DESIGN CHOICE: R156 judges
these reads, which belong to no group, in the cycle of issue (log entry 120). -/
def State.scalarReads (s : State) (i e line : Nat) (code : Nat) (f : SFields) (kd : KDesc) : State × EngineRun :=
  let c := s.cyc (stackRegion i)
  let step := s.sheaf.step.toNat
  let ix := if kd.lrLen = 0 then 0 else step % kd.lrLen
  let rd (t : State) (pl : Option Nat) : State × Word32 :=
    let q := t.engineRead i e line pl 4 c
    (q.1, BitVec.ofNat 32 (leNat q.2))
  let inPc (t : State) (off : Nat) : State × Word32 :=
    if off + 4 ≤ 2 ^ 30 then rd t (some (pcBase i e + off)) else rd (t.stackFault i 4 line e) none
  if isKernel code then
    let l := inPc s (kd.lrOff + 4 * ix)
    let g := if code = 0x17 then (l.1, (0 : Word32)) else inPc l.1 kd.gsOff
    let r := if code = 0x17 then rd g.1 (((s.stack i).place i e (s.stack i).seq.iters f.arc 4 false).2) else (g.1, 0)
    (r.1, { engine := e, lr := l.2, gs := g.2, ratio := r.2 })
  else (s, { engine := e })

/-- The scalars in every engine of a set. -/
def State.scalarsAll (s : State) (i line : Nat) (code : Nat) (f : SFields) (kd : KDesc) : List Nat → State × List EngineRun
  | [] => (s, [])
  | e :: es =>
    let q := (s.operandFaults i e line code f kd).scalarReads i e line code f kd
    let p := q.1.scalarsAll i line code f kd es
    (p.1, q.2 :: p.2)

/-- The engines of an engine set (R162). -/
def enginesOf (m : Word64) : List Nat := (List.range 64).filter (fun e => bit m e)

/-- Issues a stack operation (R163, R165): dropped with BUSY when an engine of its set still works, else started, its first
group read at once. -/
def State.stackStart (s : State) (i code : Nat) (f : SFields) : State :=
  let k := s.stack i
  let c := s.cyc (stackRegion i)
  let es := enginesOf (k.tables.eset.getD f.eset.toNat 0)
  let kd := k.tables.kdesc.getD f.kdesc.toNat {}
  match es.find? (fun e => decide (c < get 0 k.busy e)) with
  | some e => s.stackFault i 2 k.seq.line e
  | none =>
    let q := s.scalarsAll i k.seq.line code f kd es
    let t := occupancy k code f kd
    let g := groupsOf code f
    let r : StackRun := { code := code, f := f, line := k.seq.line, iters := k.seq.iters, kd := kd
                          hashed := f.hash && s.inCommit && !s.relay, issue := c, groups := g, t := t
                          rho := readLatency k code f kd + stackLatency code f s.lp2, next := 0, engines := q.2 }
    let p := q.1.advanceRun i c r
    p.1.onStack i (fun k => { k with
      busy := es.foldl (fun m e => put 0 m e (c + g * t)) k.busy
      runs := k.runs ++ (match p.2 with | some r => [r] | none => []) })

/-- The engine that an illegal instruction names: the lowest of its engine set (log entry 85). -/
def Stack.engineOf (k : Stack) (eset : Nat) : Nat := ((enginesOf (k.tables.eset.getD eset 0)).head?).getD 0

/-- The instruction of the present line, where the fetcher has delivered it. -/
def Stack.lineWord (k : Stack) : Option Word128 := if k.seq.line < k.seq.fetched then some (k.instrAt k.seq.line) else none

/-- The engine that the instruction of the present line names; 0 where the stream holds no such line. -/
def State.lineEngine (s : State) (i : Nat) : Nat :=
  match (s.stack i).lineWord with
  | some w => (s.stack i).engineOf (field w 87 7)
  | none => 0

/-- Whether an instruction of stack `i` is illegal by its word (R160, R161, R163). -/
def wordBad (i : Nat) (w : Word128) : Bool := stackWord (Fin.ofNat 12 i) w == .bad

/-- Whether the instruction of the present line is illegal. -/
def State.lineBad (s : State) (i : Nat) : Bool := match (s.stack i).lineWord with | some w => wordBad i w | none => false

/-- The stack issues its line's one instruction (R163): it acts by `f` when it keeps its rules and the line's word is no illegal
one; an illegal one has no effect and aborts the step. -/
def State.stackSlot (s : State) (i e : Nat) (legal : Bool) (f : State → State) : State :=
  if s.stackIssues i then
    let t := s.onStack i (fun k => { k with seq := { k.seq with issued := true } })
    if legal && !s.lineBad i then f t else t.illegalStack i e
  else s

/-- A stack instruction: illegal when it breaks the field rules (R160), else issued. -/
def State.stackOp (s : State) (i : Nat) (code : Nat) (f : SFields) (legal : Bool) : State :=
  s.stackSlot i ((s.stack i).engineOf f.eset.toNat) legal (fun t => t.stackStart i code f)

/-- A stack comes to its sequencer's line, as a block does (R136, R163): the stream's end, a line that the fetcher has not
delivered, or an instruction, whose IDLE cycles follow it and which is reported where it is illegal. -/
def State.beginWord (s : State) (i : Nat) : State :=
  let k := s.stack i
  let q := k.seq
  if !k.active || k.frozen || q.ended then s
  else if q.length ≤ q.line then (s.illegalStack i 0).onStack i (fun k => { k with seq := { k.seq with ended := true } })
  else if q.fetched ≤ q.line then
    (s.onStack i (fun k => { k with seq := { k.seq with stalled := true } })).restall (stackRegion i)
  else
    let w := k.instrAt q.line
    let t := s.onStack i (fun k => { k with seq := { k.seq with left := stackIdle w } })
    if wordBad i w then t.illegalStack i (s.lineEngine i) else t

end Sys2Proof.Machine
end

