-- ==== Sys2Proof/Machine/StackOps.lean ====
section
/-! DEFINITION. The stack operations by name (R166), and the stack's control instructions (R163, R164, R176 to R179). -/

namespace Sys2Proof.Machine

open Sys2Proof

/-- ADD: D = A + B. -/
def execAdd (i : Fin 12) (f : SFields) (s : State) : Host.Outcome State Fault Refusal :=
  .next (s.stackOp i 0x01 f (Instr.add i f).wellFormed)

/-- SUB: D = A − B. -/
def execSub (i : Fin 12) (f : SFields) (s : State) : Host.Outcome State Fault Refusal :=
  .next (s.stackOp i 0x02 f (Instr.sub i f).wellFormed)

/-- MUL: D = A × B. -/
def execMul (i : Fin 12) (f : SFields) (s : State) : Host.Outcome State Fault Refusal :=
  .next (s.stackOp i 0x03 f (Instr.mul i f).wellFormed)

/-- FMA: D = A × B + C with one rounding. -/
def execFma (i : Fin 12) (f : SFields) (s : State) : Host.Outcome State Fault Refusal :=
  .next (s.stackOp i 0x04 f (Instr.fma i f).wellFormed)

/-- AXPBY: D = fma(s0, A, s1 × B), s0 and s1 from the descriptor. -/
def execAxpby (i : Fin 12) (f : SFields) (s : State) : Host.Outcome State Fault Refusal :=
  .next (s.stackOp i 0x05 f (Instr.axpby i f).wellFormed)

/-- MIN: the smaller under R128. -/
def execMin (i : Fin 12) (f : SFields) (s : State) : Host.Outcome State Fault Refusal :=
  .next (s.stackOp i 0x06 f (Instr.min i f).wellFormed)

/-- MAX: the larger under R128. -/
def execMax (i : Fin 12) (f : SFields) (s : State) : Host.Outcome State Fault Refusal :=
  .next (s.stackOp i 0x07 f (Instr.max i f).wellFormed)

/-- CVT: A converted to a plain FMT_OUT under MODE. -/
def execCvt (i : Fin 12) (f : SFields) (s : State) : Host.Outcome State Fault Refusal :=
  .next (s.stackOp i 0x08 f (Instr.cvt i f).wellFormed)

/-- QUANT_MX: two MX blocks a group, scales at SAR (ARD + 1). -/
def execQuantMx (i : Fin 12) (f : SFields) (s : State) : Host.Outcome State Fault Refusal :=
  .next (s.stackOp i 0x09 f (Instr.quantMx i f).wellFormed)

/-- DIV: A / B, correctly rounded. -/
def execDiv (i : Fin 12) (f : SFields) (s : State) : Host.Outcome State Fault Refusal :=
  .next (s.stackOp i 0x0A f (Instr.div i f).wellFormed)

/-- SQRT: √A, correctly rounded. -/
def execSqrt (i : Fin 12) (f : SFields) (s : State) : Host.Outcome State Fault Refusal :=
  .next (s.stackOp i 0x0B f (Instr.sqrt i f).wellFormed)

/-- ROWSUM: one tree sum a row. -/
def execRowsum (i : Fin 12) (f : SFields) (s : State) : Host.Outcome State Fault Refusal :=
  .next (s.stackOp i 0x0C f (Instr.rowsum i f).wellFormed)

/-- ROWMAX: one maximum a row. -/
def execRowmax (i : Fin 12) (f : SFields) (s : State) : Host.Outcome State Fault Refusal :=
  .next (s.stackOp i 0x0D f (Instr.rowmax i f).wellFormed)

/-- ACCUM: D = D + A in place, the current D read in FMT_OUT. -/
def execAccum (i : Fin 12) (f : SFields) (s : State) : Host.Outcome State Fault Refusal :=
  .next (s.stackOp i 0x0E f (Instr.accum i f).wellFormed)

/-- COPY: D = A. -/
def execCopy (i : Fin 12) (f : SFields) (s : State) : Host.Outcome State Fault Refusal :=
  .next (s.stackOp i 0x0F f (Instr.copy i f).wellFormed)

/-- GATHER: indexed rows of a table in worst-case time (R174). -/
def execGather (i : Fin 12) (f : SFields) (s : State) : Host.Outcome State Fault Refusal :=
  .next (s.stackOp i 0x10 f (Instr.gather i f).wellFormed)

/-- STAGE_LOCAL: the module's own vector to its staging slot, which counts in no group (R172). -/
def execStageLocal (i : Fin 12) (f : SFields) (s : State) : Host.Outcome State Fault Refusal :=
  .next (s.stackOp i 0x11 f (Instr.stageLocal i f).wellFormed)

/-- STAGE_REDUCE: the staged slots through the fixed tree (R173). -/
def execStageReduce (i : Fin 12) (f : SFields) (s : State) : Host.Outcome State Fault Refusal :=
  .next (s.stackOp i 0x12 f (Instr.stageReduce i f).wellFormed)

/-- ADAMW (R169). -/
def execAdamw (i : Fin 12) (f : SFields) (s : State) : Host.Outcome State Fault Refusal :=
  .next (s.stackOp i 0x13 f (Instr.adamw i f).wellFormed)

/-- ADAM with L2 decay in the gradient (R169). -/
def execAdam (i : Fin 12) (f : SFields) (s : State) : Host.Outcome State Fault Refusal :=
  .next (s.stackOp i 0x14 f (Instr.adam i f).wellFormed)

/-- SGDM: momentum, which reads and writes no second moment (R169). -/
def execSgdm (i : Fin 12) (f : SFields) (s : State) : Host.Outcome State Fault Refusal :=
  .next (s.stackOp i 0x15 f (Instr.sgdm i f).wellFormed)

/-- TRUST_NORM: ua, the moments and the two partial norms (R170). -/
def execTrustNorm (i : Fin 12) (f : SFields) (s : State) : Host.Outcome State Fault Refusal :=
  .next (s.stackOp i 0x16 f (Instr.trustNorm i f).wellFormed)

/-- TRUST_APPLY: W' = fma(−(lr × ρt), ua, W) (R170). -/
def execTrustApply (i : Fin 12) (f : SFields) (s : State) : Host.Outcome State Fault Refusal :=
  .next (s.stackOp i 0x17 f (Instr.trustApply i f).wellFormed)

/-- WAIT of a stack: proceeds if its group completed before the present cycle began; else the region gates (R164). -/
def execStackWait (i : Fin 12) (group : Fin 64) (s : State) : Host.Outcome State Fault Refusal :=
  .next (s.stackSlot i (s.lineEngine i) true (fun s =>
    if (s.stack i).groups.ready group then s
    else
      let s1 := if s.assured (64 + i) group then s.stackHazard i 3 group else s
      (s1.onStack i (fun k => { k with seq := { k.seq with waiting := some (group.val, 0) } })).restall (stackRegion i)))

/-- LOOP_BEGIN of a stack, as R135. -/
def execStackLoopBegin (i : Fin 12) (level : Fin 4) (trip : BitVec 8) (s : State) : Host.Outcome State Fault Refusal :=
  .next (s.stackSlot i (s.lineEngine i) (!(s.stack i).seq.active level) (fun s =>
    s.onStack i (fun k => { k with seq := k.seq.openLoop level (k.tables.trip.getD trip.toNat 0) })))

/-- LOOP_END of a stack, as R135. -/
def execStackLoopEnd (i : Fin 12) (level : Fin 4) (s : State) : Host.Outcome State Fault Refusal :=
  .next (s.stackSlot i (s.lineEngine i) ((s.stack i).seq.active level) (fun s =>
    s.onStack i (fun k => { k with seq := k.seq.closeLoop level })))

/-- SHEAF_END of a stack: the stream ends; in the step's last sheaf the digest becomes valid once every operation has
absorbed its bytes (R176). -/
def execStackSheafEnd (i : Fin 12) (s : State) : Host.Outcome State Fault Refusal :=
  .next (s.stackSlot i (s.lineEngine i) true (fun s =>
    (s.onStack i (fun k => { k with seq := { k.seq with ended := true } })).finishDigest i))

/-- An illegal or uncorrectable stack instruction, or the stream's end without SHEAF_END (R163, R136, R182). -/
def execIllegalStackInstruction (i : Fin 12) (cause : IllegalCause) (s : State) : Host.Outcome State Fault Refusal :=
  .next (if s.stackIssues i then
    let t := (s.onStack i (fun k => { k with seq := { k.seq with issued := true } })).illegalStack i (s.lineEngine i)
    if cause == .endOfStream then t.onStack i (fun k => { k with seq := { k.seq with ended := true } }) else t
    else s)

/-- A bank group's place in the debt table. -/
def groupIndex (pc bg : Nat) : Nat := pc * 16 + bg

/-- The units of a bank group whose commands fail their parity (R180). -/
def State.groupParity (s : State) (i g : Nat) : List Nat :=
  (s.weak.filter (fun u => u.2 == 3 && isHbm u.1 && stackOf u.1 == i && groupIndex (pcOf u.1) (bankGroupOf u.1) == g)).map (·.1)

/-- A refresh of a bank group completes: its debt falls by 1 (R178); a parity error of its command is handled as an uncorrectable error
of the wide path (R180; log entry 23). -/
def State.refreshed (s : State) (i g : Nat) : State :=
  (s.onStack i (fun k => { k with debt := upd 0 k.debt g (· - 1) })).stackLost i (s.groupParity i g) true (stackRegion i) 0 (g / 16)

/-- REFRESH_DEBT_INCREMENT: the debt rises by 1; at 4 the region gates for 96 periods while the group is refreshed. -/
def execRefreshDebtIncrement (i : Fin 12) (pc : Fin 64) (bg : Fin 16) (s : State) : Host.Outcome State Fault Refusal :=
  let g := groupIndex pc bg
  let d := get 0 (s.stack i).debt g + 1
  .next (s.onStack i (fun k => { k with
    debt := put 0 k.debt g d
    debtMax := if k.debtMax.toNat < d then BitVec.ofNat 3 (Nat.min d 7) else k.debtMax
    forced := if d = 4 then k.forced ++ [g] else k.forced
    gate := if d = 4 ∧ k.gate = 0 then 96 else k.gate }))

/-- Whether a stack region runs a sheaf. -/
def State.stackRuns (s : State) (i : Nat) : Bool :=
  (s.stack i).active && !((s.stack i).seq.ended && (s.stack i).runs.isEmpty)

/-- AUTONOMOUS_REFRESH: while no sheaf runs in the region, and up to 2 µs before a tick, the base die refreshes until every
debt is 0 (R179).  The debts reach 0 at once (log entry 24). -/
def execAutonomousRefresh (i : Fin 12) (s : State) : Host.Outcome State Fault Refusal :=
  .next (if s.stackRuns i || (s.jobRuns && decide (s.tickTime < s.nowNs + 2000)) then s
    else s.onStack i (fun k => { k with debt := [], autoRefresh := true }))

/-- PLANNED_REFRESH: in a slice that gives the bank group REFRESH ownership its banks are refreshed (R177). -/
def execPlannedRefresh (i : Fin 12) (pc : Fin 64) (bg : Fin 16) (s : State) : Host.Outcome State Fault Refusal :=
  .next (if s.stackRuns i && sliceOwner (s.stack i).slices pc bg (s.cyc (stackRegion i) / 32) == 3 then
    s.refreshed i (groupIndex pc bg) else s)

/-! Events of both kinds of sequencer -/

/-- The region of a unit. -/
def unitRegion : UnitId → Nat
  | .block b => compRegion b
  | .stack i => stackRegion i

/-- The sequencer of a unit. -/
def State.unitSeq (s : State) : UnitId → Sequencer
  | .block b => (s.block b).seq
  | .stack i => (s.stack i).seq

/-- The state with a unit's sequencer rewritten. -/
def State.onSeq (s : State) (u : UnitId) (f : Sequencer → Sequencer) : State :=
  match u with
  | .block b => s.onBlock b (fun k => { k with seq := f k.seq })
  | .stack i => s.onStack i (fun k => { k with seq := f k.seq })

/-- WAIT_PROCEED: a stalled wait whose group has completed proceeds and its region resumes (R141, R143). -/
def execWaitProceed (u : UnitId) (s : State) : Host.Outcome State Fault Refusal :=
  match (s.unitSeq u).waiting with
  | none => .next s
  | some w =>
    match u with
    | .block b =>
      if (s.block b).groups.passes w.1 w.2 then .next ((s.proceedBlock b w.1 w.2).restall (unitRegion u)) else .next s
    | .stack i =>
      if (s.stack i).groups.passes w.1 w.2 then
        .next ((s.onSeq u (fun q => { q with waiting := none })).restall (unitRegion u))
      else .next s

/-- INSTRUCTION_STALL: the sequencer reaches a line that the fetcher has not delivered; the region gates (R134, R143). -/
def execInstructionStall (u : UnitId) (s : State) : Host.Outcome State Fault Refusal :=
  let q := s.unitSeq u
  if !q.ended && decide (q.fetched ≤ q.line) then
    .next ((s.onSeq u (fun q => { q with stalled := true })).restall (unitRegion u))
  else .next s

/-! The fetchers (R134, R163, R216) -/

/-- Whether an interface read of HBM may use its bank groups now: while a sheaf runs it is judged in the stack region's present
cycle (R155, R156). -/
def State.fetchOk (s : State) (a n : Nat) : Bool :=
  !s.sheaf.running || ifaceOk (s.stack (stackOf a)).slices a n (s.cyc (stackRegion (stackOf a)))

/-- A fetcher's read of a placed section, with whether it is refused: checked as any interface read, or turned away by the slice
schedule (R156, R181).  A section with no PLACE stands in no bank group.  DESIGN CHOICE: such a read has line 0 and its pseudo-channel for an engine (log
entry 117). -/
def State.fetchRead (s : State) (place off n requester : Nat) : State × Bool :=
  let a := place + off
  let i := stackOf a
  if place = 0 then (s, false)
  else if s.fetchOk a n then (s.stackCheck i a n false requester 0 (pcOf a), false)
  else ((s.stackHazard i 4 a).stackFault i 1 0 (pcOf a), true)

/-- The lines of one half of a unit's instruction memory. -/
def unitHalf : UnitId → Nat
  | .block _ => blockHalf
  | .stack _ => stackHalf

/-- The bytes of one line of a unit's stream. -/
def unitWidth : UnitId → Nat
  | .block _ => 32
  | .stack _ => 16

/-- A unit's stream in a pattern. -/
def State.unitStream (s : State) (u : UnitId) (pattern : Nat) : Option Stream :=
  match u with
  | .block b => if (s.block b).active then s.streamIn s.body.streams (s.block b).logical.toNat pattern else none
  | .stack i => if (s.stack i).active then s.streamIn s.body.stackStreams i pattern else none

/-- Bytes written into a unit's instruction memory from the place of a line on. -/
def State.putAt (s : State) (u : UnitId) (line : Nat) (bs : List Byte) : State :=
  match u with
  | .block b => s.poke (blockBase b + bundlePlace line) bs
  | .stack i => s.onStack i (fun k => { k with imem := writeBytes k.imem (16 * (line % (2 * stackHalf))) bs })

/-- Lines written into a unit's instruction memory, whose two halves follow each other in turn. -/
def State.putLines (s : State) (u : UnitId) (line : Nat) (bs : List Byte) : State :=
  let k := (2 * unitHalf u - line % (2 * unitHalf u)) * unitWidth u
  (s.putAt u line (bs.take k)).putAt u 0 (bs.drop k)

/-- Lines `first` to `first + n - 1` of a stream fetched, with its header before line 0; a refused read delivers zeros. -/
def State.fetchLines (s : State) (u : UnitId) (x : Option Stream) (first n : Nat) : State :=
  match x with
  | none => s
  | some x =>
    if n = 0 then s
    else
      let w := unitWidth u
      let lo := if first = 0 then 0 else 256 + w * first
      let r := s.fetchRead (s.placeOf x.sec) (x.offset + lo) (256 + w * (first + n) - lo) (unitRegion u)
      let word (v : Word256) : List Byte := if r.2 then List.replicate w 0 else leBytes w v.toNat
      r.1.putLines u first (((x.words.drop first).take n).flatMap word)

/-- A unit comes to its sequencer's line. -/
def State.beginLine (s : State) (u : UnitId) : State :=
  match u with
  | .block b => s.beginBundle b
  | .stack i => s.beginWord i

/-- STREAM_FETCH: the fetcher delivers lines from HBM into the half that the sequencer has left, and once the present stream is
whole those of the next sheaf's (R134, R163); a stall whose line has come ends. -/
def execStreamFetch (u : UnitId) (count : Nat) (s : State) : Host.Outcome State Fault Refusal :=
  let q := s.unitSeq u
  let next := s.nextPattern
  let x := s.unitStream u next
  let held : Sequencer := { q with ahead := if q.aheadPattern = next then q.ahead else 0 }
  let n := Nat.min count (q.room (unitHalf u))
  let m := Nat.min (count - n) (Nat.min (held.aheadRoom (unitHalf u)) ((match x with | some x => x.words.length | none => 0) - held.ahead))
  let t := (s.fetchLines u (s.unitStream u s.sheaf.pattern) q.fetched n).fetchLines u x held.ahead m
  let t := t.onSeq u (fun k => { k with
    fetched := q.fetched + n, ahead := held.ahead + m, aheadPattern := next
    stalled := k.stalled && decide (q.fetched + n ≤ k.line) })
  let t := t.restall (unitRegion u)
  .next (if q.stalled && !(t.unitSeq u).stalled then t.beginLine u else t)

end Sys2Proof.Machine
end

