-- ==== Sys2Proof/Machine/Regions.lean ====
section
/-! DEFINITION. Clock regions and crossings (R64 to R79): margin, droop, holds and the release of tokens; and the arrival
groups' failures (R142). -/

namespace Sys2Proof.Machine

open Sys2Proof

/-- MARGIN_MEASURE: the region's margin code; below 8 it sets MARGIN_LOW and writes an entry (R66). -/
def execMarginMeasure (r : Fin 33) (code : BitVec 6) (s : State) : Host.Outcome State Fault Refusal :=
  if (s.region r).active then
    let t := s.onRegion r (fun g => { g with
      margin := code
      least := if g.measured && decide (g.least.toNat ≤ code.toNat) then g.least else code
      measured := true
      marginLow := g.marginLow || decide (code.toNat < 8) })
    .next (if code.toNat < 8 then t.log { code := 0x0201, severity := 0, region := r, action := 1, detail := code.toNat }
      else t)
  else .next s

/-- Whether throttling gates a region's next period (R70, R441): the fraction G of R441 in 64ths. -/
def State.throttles (s : State) (r : Nat) : Bool :=
  gateable r && decide (64 ≤ (s.region r).phase + s.mgmt.g)

/-- DROOP_WARNING: a replica path of the region warns in the present period.  In a compute or stack region the next period, if
the clock runs in it, lasts 1.5 nominal periods, however many paths warn (R68, R70).  In a network region or the I/O region the
warning is only counted and logged (R69). -/
def execDroopWarning (r : Fin 33) (s : State) : Host.Outcome State Fault Refusal :=
  if !(s.region r).active then .next s
  else if gateable r then .next (s.onRegion r (fun g => { g with warned := true }))
  else .next ((s.onRegion r (fun g => { g with netDroop := satInc g.netDroop })).log
    { code := 0x0205, severity := 0, region := r, action := 1 })

/-- The held time in 1/65536 of a nominal period as the region holds it: network regions and the I/O region freeze whole
cycles (R76, R77). -/
def heldTime (r held : Nat) : Nat := if gateable r then held else 65536 * ceilDiv held 65536

/-- CROSSING_HOLD: the receiver waits for a token; XHOLD_CC counts whole periods, the remainder carries over (R76). -/
def execCrossingHold (r : Fin 33) (held : Nat) (s : State) : Host.Outcome State Fault Refusal :=
  if (s.region r).active then
    .next (s.onRegion r (fun g =>
      let n := g.xrem + heldTime r held
      { g with xhold := satAdd g.xhold (n / 65536), xrem := n % 65536, holdLeft := g.holdLeft + heldTime r held }))
  else .next s

/-- LEAD_HOLD: the sender waits for the receiver to take a token; LEAD_HOLD_CC counts whole periods (R76). -/
def execLeadHold (r : Fin 33) (held : Nat) (s : State) : Host.Outcome State Fault Refusal :=
  if (s.region r).active then
    .next (s.onRegion r (fun g =>
      let n := g.lrem + heldTime r held
      { g with leadHold := satAdd g.leadHold (n / 65536), lrem := n % 65536, holdLeft := g.holdLeft + heldTime r held }))
  else .next s

/-! Arrivals that break a group (R142) -/

/-- A failed arrival at a block's group: discarded, the group failed, ARRIVAL_INVALID, abort. -/
def State.badArrival (s : State) (b g dst : Nat) : State :=
  let t := s.onBlock b (fun k => { k with groups := k.groups.fail g })
  (t.blockErr b 12).stepError { code := 0x0130, severity := 2, region := compRegion b, unit := b
                                detail := bodyOf [(g, 0), (dst, 2)] }

/-- An arrival for an isolated block (R142, R413): discarded and counted, the group failed, abort. -/
def State.isolatedArrival (s : State) (b g dst : Nat) : State :=
  let t := s.onBlock b (fun k => { k with groups := k.groups.fail g, isoDiscards := satInc k.isoDiscards })
  (t.blockErr b 11).stepError { code := 0x0131, severity := 2, region := compRegion b, unit := b
                                detail := bodyOf [(g, 0), (dst, 2)] }

/-- A failed arrival at a stack group (R142, R164, R182).  DESIGN CHOICE: STK_ERR_INFO has the line that the sequencer stands at and
engine 0 (log entry 117). -/
def State.badStackArrival (s : State) (i g dst : Nat) : State :=
  let t := s.onStack i (fun k => { k with groups := k.groups.fail g, arrDiscards := satInc k.arrDiscards })
  (t.stackErr i 5 (t.stack i).seq.line 0).hardError
    { code := 0x0130, severity := 2, region := stackRegion i, unit := 0xFFFF, detail := bodyOf [(g, 0), (dst, 2)] }

/-- A transfer inside the module that an isolated block turns away (R413): nothing is written, and the requester's region
writes an error-log entry (log entry 25). -/
def State.turnedAway (s : State) (b requester : Nat) : State :=
  s.log { code := 0x0131, severity := 2, region := requester, unit := b }

/-- One count for a block's group, by a completed move (R139, R142, R202). -/
def State.countBlock (s : State) (b g requester : Nat) : State :=
  if (s.block b).isolated then s.turnedAway b requester
  else if (s.block b).groups.full g then s.badArrival b g 0
  else s.onBlock b (fun k => { k with groups := k.groups.bump g })

/-- A SIGNAL at its release cycle (R137, R139, R142). -/
def State.signalBlock (s : State) (b g requester : Nat) : State :=
  if (s.block b).isolated then s.turnedAway b requester
  else if (s.block b).groups.full g then s.badArrival b g 0
  else s.onBlock b (fun k => { k with groups := k.groups.signal g })

/-- One count for a stack's group. -/
def State.countStack (s : State) (i g : Nat) : State :=
  if (s.stack i).groups.full g then s.badStackArrival i g 0
  else s.onStack i (fun k => { k with groups := k.groups.bump g })

/-! Release of tokens (R72) -/

/-- An EGRESS row present in its network region (R137, R211). -/
def State.landEgress (s : State) (a : Nat) (bs : List Byte) : State :=
  let u := s.pokeEgress a bs
  let units := (List.range (bs.length / 256)).map (fun j => a % 2 ^ 21 / 256 + j)
  if s.debugMode then u.onNet (a / 2 ^ 21) (fun n => { n with written := n.written ++ units }) else u

/-- A token's delivery in its receiver.  DESIGN CHOICE: a plan fault of an interface request has line 0 and the pseudo-channel for an
engine (log entry 117). -/
def State.deliver (s : State) (t : Token) : State :=
  match t.payload with
  | .rows b off bs rank => if (s.block b).isolated then s.turnedAway b t.src else s.laterAs b (t.release + 1) rank (.sram off bs)
  | .signal b g => s.signalBlock b g t.src
  | .rota l seq => s.onLink l (fun k => { k with
      replay := k.replay.map (fun h => if h.seq = seq then { h with crossing := false } else h) })
  | .egress a bs => s.landEgress a bs
  | .hbmRead b sram a line rank =>
    let i := stackOf a
    let off := sram % 2 ^ 32
    let refused := sram / 2 ^ 32
    let ok := ifaceOk (s.stack i).slices a 2048 t.release
    let bs := if ok then s.stackBytes i a 2048 (t.release - 18) else List.replicate 2048 0
    let u := if ok then (s.moveHazard i a 2048).stackCheck i a 2048 false t.src line (pcOf a) else (s.stackHazard i 4 a).stackFault i 1 0 (pcOf a)
    let half (u : State) (m : Nat) : State :=
      if (refused / 2 ^ (1 - m)) % 2 = 1 then u else
        u.token { src := t.dst, dst := t.src, sent := t.release + 76 + m, release := t.release + 94 + m
                  payload := .hbmData b (off + 1024 * m) (slice bs (1024 * m) 1024) rank }
    half (half u 0) 1
  | .hbmData b off bs rank => if (s.block b).isolated then s.turnedAway b t.dst else s.laterAs b (t.release + 1) rank (.sram off bs)
  | .hbmWrite b a bs line =>
    let i := stackOf a
    if ifaceOk (s.stack i).slices a 2048 t.release then
      ((s.moveHazard i a 2048).post i (t.release + 64) a bs (some b)).writeCheck i a 2048 false t.src line (pcOf a)
    else (s.stackHazard i 4 a).stackFault i 1 0 (pcOf a)

/-- The earlier released of two tokens. -/
def earlier (a b : Token) : Token := if b.release < a.release then b else a

/-- The token that a crossing releases next: the first put into it of those whose release cycle the receiver is in. -/
def State.nextToken (s : State) (src dst : Nat) : Option Token :=
  match s.tokens.filter (fun t => t.src == src && t.dst == dst && decide (t.release ≤ s.cyc dst)) with
  | [] => none
  | t :: ts => some (ts.foldl earlier t)

/-- A token taken out of its crossing and delivered; a receiver that is not clocked takes nothing in. -/
def State.release (s : State) (t : Token) : State :=
  let s1 := { s with tokens := s.tokens.erase t }
  if (s.region t.dst).active && !(s.region t.dst).away then s1.deliver t else s1

/-- Every token that a receiver's present cycle releases and no CROSSING_RELEASE has named: its CRC is good, and it is delivered
before the cycle ends, for it is released in that cycle and in no other (R72). -/
def State.releaseDue (s : State) (r : Nat) : State :=
  (s.tokens.filter (fun t => t.dst == r && decide (t.release ≤ s.cyc r))).foldl State.release s

/-- CROSSING_RELEASE: the token is released in its receiver (R72); a CRC mismatch is counted and logged, its data is
delivered with error status, and the step aborts (R79). -/
def execCrossingRelease (src dst : Fin 33) (crcOk : Bool) (s : State) : Host.Outcome State Fault Refusal :=
  match s.nextToken src dst with
  | none => .next s
  | some t =>
    let bad (s : State) : State :=
      (s.onRegion dst (fun g => { g with xcrc := satInc g.xcrc, badData := g.badData ++ [(src.val, t.release)] })).hardError
        { code := 0x0204, severity := 2, region := dst, detail := src.val }
    .next ((if crcOk then s else bad s).release t)

end Sys2Proof.Machine
end

