-- ==== Sys2Proof/Machine/Tier.lean ====
section
/-! DEFINITION. The tier-move engines and the DDR5 channels (R194 to R204). -/

namespace Sys2Proof.Machine

open Sys2Proof

/-- The base of a channel's span (R194). -/
def ddrBase (c : Nat) : Nat := 0x100000000000 + c * 0x4000000000

/-- A run of bytes copied to another place, from the bytes that `ok` lets be read to those that `into` lets be written: a byte that
is not read, or that the list does not hold, reads 0x00. -/
def copySpan (m : Memory) (src dst n : Nat) (ok into : Nat → Bool) : Memory :=
  (m.filter (fun p => decide (src ≤ p.1) && decide (p.1 < src + n) && ok p.1 && into (dst + (p.1 - src)))).foldl
    (fun acc p => writeByte acc (dst + (p.1 - src)) p.2)
    (m.filter (fun p => !(decide (dst ≤ p.1) && decide (p.1 < dst + n) && into p.1)))

/-- A run of device memory copied; a fresh write takes the old error state of its place away. -/
def State.copyMem (s : State) (src dst n : Nat) (ok into : Nat → Bool := fun _ => true) : State :=
  { s with mem := copySpan s.mem src dst n ok into
           weak := s.weak.filter (fun u => !(decide (dst ≤ u.1) && decide (u.1 + eccWidth u.1 ≤ dst + n) && into u.1)) }

/-- Whether an engine reaches a DDR5 byte: populated, and of the engine's own channel (R194, R198). -/
def State.ddrReaches (s : State) (c a : Nat) : Bool :=
  (s.chan c).present && (s.chan c).trained && decide (ddrBase c ≤ a) && decide (a < ddrBase c + (s.chan c).capacity * 2 ^ 30)

/-- The channel of a DDR5 address. -/
def chanOf (a : Nat) : Nat := (a - 0x100000000000) / 0x4000000000

/-- The row of a DIMM that holds a DDR5 address (log entry 43). -/
def ddrRow (a : Nat) : Nat := a % 0x4000000000 / 1024

/-- An uncorrectable error of a channel (R204): DDR_STATUS.UE, the first address, the row. -/
def State.ddrUe (s : State) (c a : Nat) : State :=
  s.onChan c (fun k => { k with ueAddr := if k.ue then k.ueAddr else BitVec.ofNat 48 a, ue := true, ueRows := addRow k.ueRows (ddrRow a) })

/-- The entry of such an error. -/
def State.ddrEntry (s : State) (c : Nat) : LogArgs :=
  { code := 0x0402, severity := 2, region := ioRegion, unit := c, detail := (s.chan c).ueAddr.toNat }

/-- Corrected errors of a channel (R204): each counts. -/
def State.ddrCe (s : State) (c n : Nat) : State :=
  if n = 0 then s
  else
    let t := s.onChan c (fun k => { k with ceCount := satAdd k.ceCount n, ce := true })
    t.log { code := 0x0401, severity := 1, region := ioRegion, unit := c, action := 1, detail := (t.chan c).ueAddr.toNat }

/-- Uncorrectable units that a firmware or background read of DDR5 meets (R204): the first is told. -/
def State.ddrLost (s : State) (c : Nat) (units : List Nat) : State :=
  match units with
  | [] => s
  | u :: _ => let t := units.foldl (fun t u => t.ddrUe c u) (s.ddrUe c u); t.log (t.ddrEntry c)

/-- The checks of a firmware or background read of DDR5 (R204): corrected errors count, an uncorrectable one is told. -/
def State.ddrCheck (s : State) (a n : Nat) : State :=
  (s.ddrCe (chanOf a) (s.corrections a n)).ddrLost (chanOf a) (s.lostUnits a n)

/-- Uncorrectable units that firmware or a host meets at a device address, told by their memory (R147, R182, R204). -/
def State.memLost (s : State) (a : Nat) (units : List Nat) : State :=
  if a < 0x00C000000000 then s.stackLost (stackOf a) units false ioRegion 0 (pcOf a)
  else if a < 0x130000000000 then s.ddrLost (chanOf a) units
  else if a < 0x200020000000 then s.sramLost ((a - 0x200000000000) / 0x800000) units
  else s.stackLost ((a - 0x200100000000) / 0x1000000) units false ioRegion 0 ((a - 0x200100000000) / 0x40000 % 64)

/-- The checks of a read by firmware or a host of a run that lies in one memory (R147, R181, R182, R204). -/
def State.memCheck (s : State) (a n : Nat) : State :=
  if n = 0 then s
  else if a < 0x00C000000000 then s.stackCheck (stackOf a) a n false ioRegion 0 (pcOf a)
  else if a < 0x130000000000 then s.ddrCheck a n
  else if a < 0x200020000000 then s.sramCheck ((a - 0x200000000000) / 0x800000) ((a - 0x200000000000) % 0x800000) n
  else s.stackCheck ((a - 0x200100000000) / 0x1000000) a n false ioRegion 0 ((a - 0x200100000000) / 0x40000 % 64)

/-- A run of device addresses cut at every 256 KiB, so that no memory's or unit's boundary cuts a part. -/
def memParts (a n : Nat) : List (Nat × Nat) :=
  (List.range (ceilDiv (a % 2 ^ 18 + n) (2 ^ 18))).map (fun j =>
    let lo := Nat.max a ((a / 2 ^ 18 + j) * 2 ^ 18)
    (lo, Nat.min (a + n) ((a / 2 ^ 18 + j + 1) * 2 ^ 18) - lo))

/-- The checks of such a read of any run. -/
def State.memChecks (s : State) (a n : Nat) : State := (memParts a n).foldl (fun t x => t.memCheck x.1 x.2) s

/-- Whether a background or firmware move of a DDR5 place may run on its engine now: no planned move of the engine runs or has
reached its start, and nothing is suspended (R203). -/
def State.engineFree (s : State) (a : Nat) : Bool :=
  let k := s.chan (chanOf a)
  k.run.isNone && !k.suspended && k.queue.all (fun m => decide (s.cyc ioRegion < m.start))

/-- TIER_MOVE_START: the next planned move of the engine begins once its start cycle is reached and the engine is free
(R199); a background move under way suspends (R203).  The engines of a relay are idle (R272). -/
def execTierMoveStart (c : Fin 12) (s : State) : Host.Outcome State Fault Refusal :=
  let k := s.chan c
  match k.queue, k.run with
  | m :: rest, none =>
    if s.relay || decide (s.cyc ioRegion < m.start) then .next s
    else .next (s.onChan c (fun k => { k with
      run := some { move := m, began := s.cyc ioRegion, slot := s.cyc (stackRegion (stackOf m.hbmAddr)) }
      queue := rest
      suspended := k.suspended || k.background
      suspends := if k.background && !k.suspended then satInc k.suspends else k.suspends }))
  | _, _ => .next s

/-- The parts of a run of HBM bytes by pseudo-channel; what lies past HBM has none. -/
def hbmParts (a n : Nat) : List (Nat × Nat) :=
  let k := Nat.min n (2 ^ 30 - a % 2 ^ 30)
  [(a, k), (a + k, n - k)].filter (fun x => x.2 != 0 && isHbm x.1)

/-- The data of a planned move: from DDR5 to HBM, or from HBM as an interface read sees it to DDR5 (R199, R201).  What lies outside
HBM or outside the engine's populated channel reads as zeros and takes no write (R185, R186, R198). -/
def State.moveData (s : State) (m : TierMove) : State :=
  let n := 2048 * m.units
  if m.toHbm then s.copyMem m.ddrAddr m.hbmAddr n (s.ddrReaches m.engine) isHbm
  else
    let read (t : State) (x : Nat × Nat) : State :=
      let i := stackOf x.1
      (t.retireWrites i (t.cyc (stackRegion i) + 18)).stackCheck i x.1 x.2 false ioRegion 0 (pcOf x.1)
    ((hbmParts m.hbmAddr n).foldl read s).copyMem m.hbmAddr m.ddrAddr n isHbm (s.ddrReaches m.engine)

/-- Whether a bank group has had an IFACE slice between two cycles. -/
def ifaceSince (es : List Word128) (pc bg first last : Nat) : Bool :=
  (List.range (last / 32 + 1 - first / 32)).any (fun j => sliceOwner es pc bg (first / 32 + j) == 2)

/-- Whether a move can have ended: every bank group that its HBM range touches has had an IFACE slice since it began (R155, R201). -/
def State.moveServed (s : State) (r : MoveRun) : Bool :=
  let a := r.move.hbmAddr
  (List.range ((a % 4096 + 2048 * r.move.units + 4095) / 4096)).all (fun j =>
    let x := a + 4096 * j
    let i := stackOf x
    !isHbm x || ifaceSince (s.stack i).slices (pcOf x) (bankGroupOf x) r.slot (s.cyc (stackRegion i)))

/-- One count in a move's completion group (R202). -/
def State.moveCounts (s : State) (m : TierMove) : State :=
  if m.toStack then s.countStack m.targetUnit m.group
  else match s.physOf m.targetUnit with
    | some b => s.countBlock b m.group ioRegion
    | none => s

/-- The units of a move's DDR5 source that its engine reads and cannot correct. -/
def State.moveLost (s : State) (m : TierMove) : List Nat :=
  if m.toHbm then (s.lostUnits m.ddrAddr (2048 * m.units)).filter (s.ddrReaches m.engine) else []

/-- The corrected units of a move's DDR5 source. -/
def State.moveCorrected (s : State) (m : TierMove) : Nat :=
  if m.toHbm then ((s.badUnits m.ddrAddr (2048 * m.units)).filter (fun u => u.2 == 1 && s.ddrReaches m.engine u.1)).length else 0

/-- What a move's DDR5 errors bring (R204): corrected ones count; an uncorrectable one leaves the bits as read, aborts the step and
has its range restored.  DESIGN CHOICE: an error that the operand `ue` names at no unit stands at the move's own DDR_ADDR (log entry
121). -/
def State.moveErrors (s : State) (c : Nat) (m : TierMove) (ue : Bool) (lost : List Nat) (corrected : Nat) : State :=
  let t := s.ddrCe c corrected
  if ue || !lost.isEmpty then
    let at_ := if lost.isEmpty then [m.ddrAddr] else lost
    let t := (at_.foldl (fun t u => t.ddrUe c u) t).onChan c (fun k => { k with restore := k.restore ++ at_ })
    t.hardError (t.ddrEntry c)
  else t

/-- An uncorrectable error of a move's HBM source that the state does not show: at the source's first unit (R182). -/
def State.sourceLost (s : State) (m : TierMove) : State :=
  match hbmParts m.hbmAddr (2048 * m.units) with
  | [] => s
  | x :: _ => s.stackLost (stackOf x.1) [x.1 / 32 * 32] false ioRegion 0 (pcOf x.1)

/-- TIER_MOVE_COMPLETE: the last byte is written; the move counts in its group, and in TM_LATE after its window (R202).  A move
whose bank groups have had no IFACE slice since it began is still under way (R201).  `ue` says that the source holds an
uncorrectable error: of DDR5 (R204), or of HBM on the interface path (R182; log entry 121). -/
def execTierMoveComplete (c : Fin 12) (ue : Bool) (s : State) : Host.Outcome State Fault Refusal :=
  match (s.chan c).run with
  | none => .next s
  | some r =>
    let m := r.move
    let now := s.cyc ioRegion
    if !s.moveServed r then .next s
    else
      let t := (s.moveData m).moveErrors c m (ue && m.toHbm) (s.moveLost m) (s.moveCorrected m)
      let t := if ue && !m.toHbm then t.sourceLost m else t
      let late := now - m.stop
      let t := t.onChan c (fun k => { k with
        run := none
        moves := satInc k.moves
        late := if m.stop < now then satInc k.late else k.late
        lateMax := if m.stop < now ∧ k.lateMax.toNat < late then satAdd 0 late else k.lateMax })
      .next (t.moveCounts m)

/-- BACKGROUND_MOVE: a firmware or background move runs only while no planned move of its engine has reached its start; it
resumes after the engine's last planned move of the sheaf (R203).  What it carries is the effect of the command that
issued it. -/
def execBackgroundMove (c : Fin 12) (b : BgStep) (s : State) : Host.Outcome State Fault Refusal :=
  let k := s.chan c
  match b with
  | .start =>
    if !s.relay && k.run.isNone && k.queue.all (fun m => decide (s.cyc ioRegion < m.start)) then
      .next (s.onChan c (fun k => { k with background := true }))
    else .next s
  | .resume =>
    if k.run.isNone && k.queue.isEmpty then .next (s.onChan c (fun k => { k with suspended := false })) else .next s
  | .finish ue =>
    if k.background && !k.suspended then
      let t := s.onChan c (fun k => { k with background := false })
      if ue then
        let u := t.ddrUe c (s.firstWeak (ddrBase c) 0x4000000000)
        .next (u.log (u.ddrEntry c))
      else .next t
    else .next s

end Sys2Proof.Machine
end

