-- ==== Sys2Proof/Machine/Consensus.lean ====
section
/-! DEFINITION. Local bits and what each link direction sends of them (R34 to R39). -/

namespace Sys2Proof.Machine

open Sys2Proof

/-- The bits DONE, HOLD and ABORT. -/
structure Bits where
  done : Bool
  hold : Bool
  abort : Bool
  deriving DecidableEq, Repr

/-- Combining bits (R39): DONE is an AND, HOLD and ABORT are ORs. -/
def Bits.join (a b : Bits) : Bits := { done := a.done && b.done, hold := a.hold || b.hold, abort := a.abort || b.abort }

/-- A set of inputs combined. -/
def joinAll (l : List Bits) : Bits := l.foldl Bits.join { done := true, hold := false, abort := false }

/-- A block has ended its sheaf (R136, R142): SHEAF_END issued, every operation complete, every group complete. -/
def Block.finished (k : Block) : Bool :=
  !k.active || (k.seq.ended && k.pend.isEmpty && k.chunks.isEmpty && k.groups.completeMask == 0xFFFFFFFFFFFFFFFF)

/-- A stack region has ended its sheaf by a cycle of its own: every operation's writes are visible too (R136, R163, R165). -/
def Stack.finished (k : Stack) (cycle : Nat) : Bool :=
  !k.active || (k.seq.ended && k.runs.isEmpty && k.slips.isEmpty && k.writes.all (fun w => decide (w.cycle ≤ cycle)) &&
    k.groups.completeMask == 0xFFFFFFFFFFFFFFFF)

/-- Whether every HBM_WR of a block has been written (R136, R137). -/
def State.hbmWritten (s : State) (b : Nat) : Bool :=
  (List.range 12).all (fun i => (s.stack i).writes.all (fun w => w.owner != some b || decide (w.cycle ≤ s.cyc (stackRegion i))))

/-- A region has finished the current sheaf (R36): its units, and a network region its part, have ended. -/
def State.finished (s : State) (r : Nat) : Bool :=
  if r < 0x10 then (List.range 4).all (fun j => (s.block (4 * r + j)).finished && s.hbmWritten (4 * r + j))
  else if r < 0x14 then !(s.net (r - 0x10)).active || (s.region r).done
  else if r < 0x20 then (s.stack (r - 0x14)).finished (s.cyc r)
  else (List.range 12).all (fun c => (s.chan c).run.isNone && (s.chan c).queue.isEmpty)

/-- Whether the current sheaf is the assay gate, the last before the commit sheaves (R326, R328). -/
def State.gateSheaf (s : State) : Bool :=
  s.jobRuns && s.sheaf.begun && !s.fault.refillActive && s.sheaf.sheafInStep.toNat + s.commitLen + 1 == s.stepLen

/-- The relays of the module's twin that the current form uses (R226, R341). -/
def State.relayKeys (s : State) : List Key :=
  s.twinKeys.filter (fun k => keyRelay k && s.tables.form.toNat != keySlot k + 1)

/-- Whether twin comparison is on (R341): two twins in the map, enabled, and not suspended by TWIN_LOST. -/
def State.twinActive (s : State) : Bool :=
  (match s.store.map with | some m => m.twins == 2 | none => false) && s.assay.twinOn && !s.assay.twinLost

/-- Whether a coordinator has a TWIN_RESULT of the current step from every relay in use (R328). -/
def State.resultsIn (s : State) : Bool :=
  !s.coord.isCoord || !s.twinActive ||
    s.relayKeys.all (fun k => s.coord.twinResults.any (fun r =>
      r.1 == k && r.2.1.toNat == s.sheaf.step.toNat % 2 ^ 48 && r.2.2.1 == s.assay.attempt))

/-- Whether a compute module's twin comparison of the step is settled (R328, R341). -/
def State.twinIn (s : State) : Bool := !s.twinActive || !s.assay.twinPending

/-- The assay gate of R328: the verdict on the step before, but for the first step, and the twin comparison. -/
def State.gateOpen (s : State) : Bool :=
  (s.assay.firstStep || (match s.assay.passed with | some p => p.toNat + 1 == s.sheaf.step.toNat % 2 ^ 48 | none => false)) &&
    s.twinIn && s.resultsIn

/-- Local done (R36, R41, R328): every region finished and no transfer under way in a crossing; a board spare that holds no
logical slot is always done (R38). -/
def State.localDone (s : State) : Bool :=
  (!s.relay && s.ownSlot.isNone) ||
    ((List.range 33).all s.finished && s.tokens.isEmpty && (s.relay || !s.gateSheaf || s.gateOpen))

/-- The causes of HOLD and ABORT that stand now (R37, R46, R331).  A relay originates neither; a board spare that holds no
logical slot holds nothing, and aborts only for a fault of its own (R38; log entry 90). -/
def State.localBits (s : State) : Bits :=
  { done := s.localDone, hold := !s.relay && s.ownSlot.isSome && s.holds.any, abort := !s.relay && s.fault.abort.isSome }

/-- The bits as sampled at the last cutoff. -/
def State.sampledBits (s : State) : Bits :=
  { done := bit s.sheaf.sampled 3, hold := bit s.sheaf.sampled 4, abort := bit s.sheaf.sampled 5 }

/-- A sync field with three bits (R34).  SHEAF_MOD names the sheaf that the bits refer to, the latest started (log entry
26). -/
def State.syncOf (s : State) (b : Bits) : Byte :=
  BitVec.ofNat 8 ((s.sheaf.sheafCount.toNat + 7) % 8 + 8 * b2n b.done + 16 * b2n b.hold + 32 * b2n b.abort +
    64 * s.sheaf.syncEpoch.toNat)

/-- The local bits that the module sends (R37): between the cutoff and the tick the sampled values; before the cutoff DONE
as it stands, with HOLD and ABORT of the last sample. -/
def State.ownBits (s : State) : Bits :=
  if s.sheaf.cut then s.sampledBits else { s.sampledBits with done := s.localDone }

/-- The links to a key's module that the port table enables (R39, R219). -/
def State.linksTo (s : State) (k : Key) : List Nat :=
  (List.range 56).filter (fun l => (s.link l).peerKey == k && s.tables.ports.any (fun x => x.2.enabled && x.2.phys.toNat == l))

/-- What a link reports (R35): the bits of the matching field since the last tick; with none 0, 0, 0. -/
def Link.reports (k : Link) : Bits :=
  match k.rxSync with
  | some (d, h, a) => { done := d, hold := h, abort := a }
  | none => { done := false, hold := false, abort := false }

/-- What a key's module reports: its links are inputs of their own, combined as R39 combines every input; a module that no
enabled link reaches reports nothing done (log entry 8). -/
def State.heard (s : State) (k : Key) : Bits :=
  let b := joinAll ((s.linksTo k).map (fun l => (s.link l).reports))
  { b with done := b.done && !(s.linksTo k).isEmpty }

/-- Whether the bound machine is the one-board form (R39, R384). -/
def State.oneBoard (s : State) : Bool := match s.store.map with | some m => m.racks == 0 | none => true

/-- The keys that hold a logical slot in the installed position table and are not excluded (R39, R330), on a board. -/
def State.boardHolders (s : State) (t r b : Nat) : List Key :=
  ((List.range 16).map (fun l => posAt s.tables.positions t r b l)).filter (· ≤ 16)
    |>.map (fun p => mkKey t r b p)
    |>.filter (fun k => !s.coord.excluded.contains k)

/-- The relay indexes that the current form uses (R226). -/
def State.relaysInUse (s : State) : List Nat := (List.range 8).filter (fun k => s.tables.form.toNat != k + 1)

/-- The racks of the bound machine. -/
def State.rackCount (s : State) : Nat := match s.store.map with | some m => m.racks | none => 0

/-- A relay's rack value (R39): every present compute position of its rack. -/
def State.rackValue (s : State) : Bits :=
  let k := s.mgmt.key
  joinAll ((s.boardHolders (keyTwin k) (keyRack k) 0 ++ s.boardHolders (keyTwin k) (keyRack k) 1).map s.heard)

/-- A relay's machine value (R39): its own rack value and those of every present rack. -/
def State.machineValue (s : State) : Bits :=
  let k := s.mgmt.key
  let others := (List.range s.rackCount).filter (fun r => r != keyRack k)
  (s.rackValue).join (joinAll (others.map (fun r => s.heard (mkKey (keyTwin k) r 2 (keySlot k)))))

/-- The consensus input of the module (R39). -/
def State.consensusInput (s : State) : Bits :=
  let k := s.mgmt.key
  if s.relay then s.machineValue
  else if s.oneBoard then
    (if s.ownSlot.isSome then s.ownBits else joinAll []).join
      (joinAll (((s.boardHolders (keyTwin k) (keyRack k) (keyBoard k)).filter (· != k)).map s.heard))
  else joinAll (s.relaysInUse.map (fun i => s.heard (mkKey (keyTwin k) (keyRack k) 2 i)))

/-- The bits that the direction to a peer carries (R39). -/
def State.bitsToward (s : State) (peer : Key) : Bits :=
  if s.relay then
    if keyRelay peer && keyTwin peer == keyTwin s.mgmt.key then s.rackValue else s.machineValue
  else s.ownBits

/-- The sync field of a packet toward a peer (R34): 0x00 before the first sheaf of a job and while none runs. -/
def State.syncByte (s : State) (peer : Key) : Byte :=
  if s.jobRuns && s.sheaf.begun then s.syncOf (s.bitsToward peer) else 0

/-- A joined module that holds no logical slot takes the sheaf index of its segment from the fields that it hears (log
entry 34). -/
def State.joinIndex (s : State) (f : Byte) : State :=
  if s.job.joining && s.jobRuns && f != 0 && field f 6 2 == s.sheaf.syncEpoch.toNat && field f 0 3 != (s.sheaf.sheafCount.toNat + 7) % 8 then
    { s with sheaf := { s.sheaf with sheafCount := BitVec.ofNat 64 (field f 0 3 + 1) } }
  else s

/-- A received sync field (R35): its bits count only when its sheaf index and segment are the module's own. -/
def State.readSync (s : State) (l : Nat) (f : Byte) : State :=
  let s := s.joinIndex f
  if s.jobRuns && s.sheaf.begun && field f 0 3 == (s.sheaf.sheafCount.toNat + 7) % 8 && field f 6 2 == s.sheaf.syncEpoch.toNat
  then s.onLink l (fun k => { k with rxSync := some (bit f 3, bit f 4, bit f 5) })
  else s

end Sys2Proof.Machine
end

