-- ==== Sys2Proof/Machine/Plan.lean ====
section
/-! DEFINITION. What of the current plan concerns this module beside its streams: slices, moves, parts and index tables of a
pattern, and the port table of R217 to R219. -/

namespace Sys2Proof.Machine

open Sys2Proof

/-- A stack's slice schedule of a pattern (R310). -/
def State.sliceEntries (s : State) (i pattern : Nat) : List Word128 :=
  match s.body.slices.find? (fun x => x.stack == i && x.pattern == pattern && s.appliesNow x.sec) with
  | some x => x.entries
  | none => []

/-- The planned moves of an engine in a pattern, in table order (R311). -/
def State.movesOf (s : State) (c pattern : Nat) : List TierMove :=
  if s.relay then [] else (s.body.moves.filter (fun m => m.2.1 == pattern && m.2.2.engine == c && s.appliesNow m.1)).map (·.2.2)

/-- A part of a pattern (R214). -/
def State.partIn (s : State) (n pattern : Nat) : Option RotaPart :=
  s.body.rota.find? (fun x => x.pattern == pattern && x.part == n && s.appliesNow x.sec)

/-- The entries of a part of a pattern (R214). -/
def State.partEntries (s : State) (n pattern : Nat) : List Word128 :=
  match s.partIn n pattern with
  | some x => x.entries
  | none => []

/-- A table from the entries that sections supply, later ones over earlier; an entry not supplied reads as zeros (R466). -/
def tableOf {α : Type} (zero : α) (l : List (Nat × α)) : List α :=
  (List.range (l.foldl (fun n x => Nat.max n (x.1 + 1)) 0)).map (fun i => match l.reverse.find? (fun x => x.1 == i) with | some x => x.2 | none => zero)

/-- A block's tables from the entries of its sections, in directory order (R119, R314). -/
def blockTablesOf (l : List UnitTables) : BlockTables :=
  let of {α : Type} (zero : α) (f : TableEntries → List (Nat × α)) : List α := tableOf zero (l.flatMap (fun u => f u.entries))
  { ar := of {} TableEntries.ar, desc := of {} TableEntries.desc, trip := of 0 TableEntries.trip, key := of {} TableEntries.key }

/-- The kernel descriptor that 64 bytes spell (R167). -/
def kdescOf (x : BitVec 512) : KDesc :=
  let byte (o k : Nat) : Nat := field x (8 * o) (8 * k)
  let word (o : Nat) : Word32 := BitVec.ofNat 32 (byte o 4)
  { b1 := word 0, b2 := word 4, eps := word 8, wd := word 12, lrOff := byte 16 4, lrLen := byte 20 4, gsOff := byte 24 4
    momFmt := byte 28 1, gradFmt := byte 29 1, shadowFmt := byte 30 1, narrowMode := byte 31 1, narrowKey := byte 32 1
    resv := byte 33 31 }

/-- A stack region's tables from the entries of its sections, in directory order (R162, R314). -/
def stackTablesOf (l : List UnitTables) : StackTables :=
  let of {α : Type} (zero : α) (f : TableEntries → List (Nat × α)) : List α := tableOf zero (l.flatMap (fun u => f u.entries))
  { ar := of {} TableEntries.ar, eset := of 0 TableEntries.eset, kdesc := (of 0 TableEntries.kdesc).map kdescOf, trip := of 0 TableEntries.trip,
    key := of {} TableEntries.key }

/-- The slot of a rota entry (R209). -/
def entrySlot (e : Word128) : Nat := field e 0 18

/-- The budget of a part (R206): 10 × (last slot + 1) cycles. -/
def partBudget (es : List Word128) : Nat :=
  match es.getLast? with | some e => 10 * (entrySlot e + 1) | none => 0

/-- The staging index table of a form (R221): byte i has the index and the valid bit. -/
def State.indexTable (s : State) (form : Nat) : Sparse Byte :=
  match s.body.stageIndex.find? (fun x => formCovers x.1.form form && s.applies x.1) with
  | some x => (x.2.zipIdx).foldl (fun m p => put 0 m p.2 (BitVec.ofNat 8 p.1)) []
  | none => []

/-! Physical links (R19 to R21) -/

/-- The link of a grouped position (R19). -/
def groupedLink (p : Nat) : Nat := 14 * (p / 12) + p % 12
/-- The link of a single position (R19). -/
def singleLink (q : Nat) : Nat := 14 * (q / 2) + 12 + q % 2

/-- The port group of a link at a grouped position; `none` for a single position (R19). -/
def groupOf (l : Nat) : Option Nat := if l % 14 < 12 then some ((12 * (l / 14) + l % 14) / 3) else none

/-- The map's entry for one of the module's links, as (peer key, peer link, class), if the map lists it (R384). -/
def State.mapEntry (s : State) (l : Nat) : Option (Key × Nat × Nat) :=
  match s.store.map with
  | none => none
  | some m =>
    (m.links.findSome? (fun x =>
      if x.keyA == s.mgmt.key && x.linkA == l then some (x.keyB, x.linkB, x.cls)
      else if x.keyB == s.mgmt.key && x.linkB == l then some (x.keyA, x.linkA, x.cls) else none))

/-- Whether the map permits swaps in a port group of a key (R25, R384). -/
def State.swapOk (s : State) (k : Key) (g : Nat) : Bool :=
  match s.store.map with
  | none => false
  | some m => m.swap.any (fun x => x.1 == k && bit x.2 g)

/-! The port table (R217 to R219) -/

/-- The peer key and the physical link of a compute module's logical link, before remaps (R217, R218). -/
def computePort (k : Key) (positions : Sparse Nat) (l i : Nat) : Option (Key × Nat) :=
  if i < 45 then
    let s' := posAt positions (keyTwin k) (keyRack k) (keyBoard k) ((l + 1 + i / 3) % 16)
    if s' ≤ 16 then
      some (mkKey (keyTwin k) (keyRack k) (keyBoard k) s', groupedLink (3 * ((s' + 33 - keySlot k) % 17) + i % 3))
    else none
  else if i < 53 then some (mkKey (keyTwin k) (keyRack k) 2 (i - 45), singleLink (i - 45))
  else none

/-- The peer key and the physical link of a relay's logical link (R217, R218). -/
def relayPort (k : Key) (positions : Sparse Nat) (i : Nat) : Option (Key × Nat) :=
  if i < 32 then
    let s' := posAt positions (keyTwin k) (keyRack k) (i / 16) (i % 16)
    if s' ≤ 16 then some (mkKey (keyTwin k) (keyRack k) (i / 16) s', groupedLink (17 * (i / 16) + s')) else none
  else if i < 46 then some (mkKey (keyTwin k) ((keyRack k + 1 + (i - 32)) % 16) 2 (keySlot k), groupedLink (34 + (i - 32)))
  else if i = 46 then some (mkKey (keyTwin k) ((keyRack k + 15) % 16) 2 (keySlot k), singleLink 0)
  else if i = 47 then some (mkKey (1 - keyTwin k) (keyRack k) 2 (keySlot k), singleLink 1)
  else none

/-- The logical port of a logical link (R217). -/
def logicalPort (relay : Bool) (i : Nat) : Nat := if relay then i else if i < 45 then i / 3 else 15 + (i - 45)

/-- Whether a form leaves the links to a key, from a relay or a compute module, unused (R226). -/
def formExcludes (form : Nat) (own peer : Key) : Bool :=
  (keyRelay peer && keySlot peer + 1 == form) || (keyRelay own && keySlot own + 1 == form)

/-- The port-table entry of a logical link under a position table and a form (R217 to R219, R226). -/
def State.portEntry (s : State) (positions : Sparse Nat) (form i : Nat) : PortEntry :=
  let k := s.mgmt.key
  let place := if s.relay then relayPort k positions i
    else match logicalSlot positions k with | some l => computePort k positions l i | none => none
  let port := BitVec.ofNat 6 (if i < (if s.relay then 48 else 53) then logicalPort s.relay i else 0)
  match place with
  | none => { port := port }
  | some (peer, l) =>
    let swap := s.tables.remaps.find? (fun x => x.1 == l)
    let phys := match swap with | some x => x.2 | none => l
    let st := (s.link phys).state
    let barred := (s.link phys).declared
    { phys := BitVec.ofNat 6 phys
      enabled := s.present.contains peer && st != .quarantine && st != .failed && !barred && !formExcludes form k peer
      remapped := swap.isSome
      port := port }

/-- The whole port table. -/
def State.portTable (s : State) (positions : Sparse Nat) (form : Nat) : Sparse PortEntry :=
  (List.range 56).foldl (fun m i => put {} m i (s.portEntry positions form i)) []

/-- Installs a position table and a form with the tables that follow from them (R222). -/
def State.installTables (s : State) (gen : BitVec 16) (form : Nat) (positions : Sparse Nat) : State :=
  let t := { s with tables := { s.tables with positions := positions, form := BitVec.ofNat 8 form, gen := gen, staged := none } }
  { t with tables := { t.tables with ports := t.portTable positions form, stage := t.indexTable form }
           job := { t.job with replica := if t.relay then 0xFFFF else replicaIndex positions t.mgmt.key } }

/-- The installed entry of a logical link. -/
def State.portAt (s : State) (i : Nat) : PortEntry := get {} s.tables.ports i

/-- The logical link that a physical link serves, through the port table (R221). -/
def State.logicalLink (s : State) (l : Nat) : Option Nat :=
  (List.range 56).find? (fun i => (s.portAt i).enabled && (s.portAt i).phys.toNat == l)

/-- Whether the port table enables a physical link. -/
def State.linkEnabled (s : State) (l : Nat) : Bool := (s.logicalLink l).isSome

end Sys2Proof.Machine
end

