-- ==== Sys2Proof/Machine/TimeTree.lean ====
section
/-! DEFINITION. The time tree (R55): hops to the time master over the map's links, and the parent that a module takes. -/

namespace Sys2Proof.Machine

open Sys2Proof

/-- The neighbours of a key in the bound map. -/
def MachineMap.neighbours (m : MachineMap) (k : Key) : List Key :=
  m.links.filterMap (fun l => if l.keyA == k then some l.keyB else if l.keyB == k then some l.keyA else none)

/-- One more ring of a breadth-first search that does not pass `own`: the keys reached and the newest ring. -/
def MachineMap.ring (m : MachineMap) (own : Key) (reached last : List Key) : List Key :=
  ((last.flatMap m.neighbours).dedup).filter (fun k => k != own && !reached.contains k)

/-- The hops from a key to the master, `none` when the search of `fuel` rings does not meet it. -/
def MachineMap.hops (m : MachineMap) (own target : Key) : Nat → List Key → List Key → Option Nat
  | 0, _, _ => none
  | fuel + 1, reached, last =>
    if last.contains target then some 0
    else if last.isEmpty then none
    else
      let next := m.ring own reached last
      (m.hops own target fuel (reached ++ next) next).map (· + 1)

/-- Whether the port table bars a physical link: it has an entry for the link, and none that is enabled. -/
def State.linkBarred (s : State) (l : Nat) : Bool :=
  s.tables.ports.any (fun x => x.2.phys.toNat == l) && !s.linkEnabled l

/-- The hops to the master through a link that is UP and that the port table does not bar: over the map's links, of which the
module knows its own states only (log entry 27). -/
def State.hopsVia (s : State) (l : Nat) : Option Nat :=
  match s.store.map with
  | some m =>
    let k := (s.link l).peerKey
    if (s.link l).state == .up && k != 0xFFFF && !s.linkBarred l then m.hops s.mgmt.key s.servo.master 64 [k] [k] else none
  | none => none

/-- The parent's link (R55): fewest hops, then the lowest link. -/
def State.parent (s : State) : Option Nat :=
  ((List.range 56).filterMap (fun l => (s.hopsVia l).map (fun h => (l, h)))).foldl
    (fun best x => match best with
      | some (b : Nat × Nat) => if x.2 < b.2 then some x else some b
      | none => some x) none |>.map (·.1)

/-- The module takes its parent afresh (R55); with none reachable a servo that acquires or is locked returns to UNLOCKED (R56). -/
def State.takeParent (s : State) : State :=
  match s.parent with
  | some l => { s with servo := { s.servo with parentLink := BitVec.ofNat 6 l } }
  | none =>
    let lost := s.servo.state == .acquire || s.servo.state == .locked
    { s with servo := { s.servo with
        parentLink := 0x3F, lockRun := 0, missRun := 0, state := if lost then .unlocked else s.servo.state } }

/-- A link has left UP: where it led to the parent, the next parent in the order of R55 is taken at once; RATE stays. -/
def State.leaveParent (s : State) (l : Nat) : State := if s.servo.parentLink.toNat = l then s.takeParent else s

end Sys2Proof.Machine
end

