-- ==== Sys2Proof/Machine/Rota.lean ====
section
/-! DEFINITION. The rota (R206 to R230): reading an entry, latching its vector, the freezes of a part, and table updates. -/

namespace Sys2Proof.Machine

open Sys2Proof

/-- The freeze of a network region by its rota (R216, R225, R260). -/
def Net.stallOf (n : Net) : Option Stall :=
  if n.windowStall then some .window else if n.fwdHold then some .forward else if n.rotaHold then some .rotaHold else none

/-- A network part rewritten, its region's freeze following it. -/
def State.onPart (s : State) (n : Nat) (f : Net → Net) : State :=
  let t := s.onNet n f
  t.onRegion (netRegion n) (fun g => { g with stall := (t.net n).stallOf })

/-- Whether a network region's part reads entries now: it runs a plan's part and nothing freezes it (R77, R216). -/
def State.partRuns (s : State) (n : Nat) : Bool :=
  (s.net n).active && !(s.net n).frozen && (s.net n).stallOf.isNone && decide ((s.region (netRegion n)).holdLeft = 0)

/-- Entries that a refused fetch delivered as zeros name no slot and are inactive (R156, R209): the part passes them. -/
def Net.pass (k : Net) : Net := k.blank.foldl (fun k x => if x = k.read then { k with read := k.read + 1 } else k) k

/-- The entry that a region's part reads next, as the plan's image has it; none past the part's end (R214, R215). -/
def State.nextEntry (s : State) (n : Nat) : Option Word128 := (s.partEntries n s.sheaf.pattern)[(s.net n).read]?

/-- Whether a word is the part's next entry as it stands in the window: the plan's entry, at worst with bit errors (R213), read
in the sheaf cycle of its slot (R211). -/
def State.readsEntry (s : State) (n : Nat) (word : Word128) : Bool :=
  match s.nextEntry n with
  | none => false
  | some e =>
    decide (10 * entrySlot e = s.cyc (netRegion n) + 24) &&
      (match rotaRead word with
       | .bad => true
       | .clean x | .corrected x => x.toNat % 2 ^ 120 == e.toNat % 2 ^ 120)

/-- The entry just read is left behind. -/
def State.entryDone (s : State) (n : Nat) : State := s.onNet n (fun k => ({ k with read := k.read + 1 } : Net).pass)

/-- DARK_SKIPS (R228): an active entry on a disabled logical link sends nothing; abort from the next cutoff. -/
def State.darkSkip (s : State) (n i : Nat) : State :=
  let t := s.onNet n (fun k => { k with darkSkips := satInc k.darkSkips })
  t.stepError { code := 0x0508, severity := 2, region := netRegion n, unit := i, detail := bodyOf [((s.net n).read, 0), (i, 4)] }

/-- The entries of a replay buffer (R245). -/
def replayCapacity : Nat := 1024

/-- Latches a packet of part `n` into its link's replay buffer with the next sequence number (R238, R245).  It passes the X8
crossing to the region of its link, or the same latency inside its own region, before it can leave (R215). -/
def State.latch (s : State) (n l : Nat) (d : Latched) : State :=
  let c := s.cyc (netRegion n)
  (s.onLink l (fun k => { k with
    replay := k.replay ++ [{ seq := k.nextSeq, data := d, crossing := true, sent := 0, lastSent := 0 }]
    nextSeq := k.nextSeq + 1
    counters := { k.counters with fillMax := max k.counters.fillMax (k.replay.length + 1) } })).token
    { src := netRegion n, dst := netRegion (l / 14), sent := c, release := c + 14, payload := .rota l (s.link l).nextSeq }

/-- A vector as its 512 bytes. -/
def vecBytes (v : Vec512) : List Byte := leBytes 512 v.toNat
/-- A vector from bytes. -/
def vecOf (bs : List Byte) : Vec512 := BitVec.ofNat 4096 (leNat bs)

/-- The egress buffer of a region as a read of the present cycle sees it (R137, R211): with the EGRESS rows that the cycle releases,
whether or not their release has been named yet. -/
def State.egressNow (s : State) (n : Nat) : State :=
  (s.tokens.filter (fun t => t.dst == netRegion n && decide (t.release ≤ s.cyc t.dst))).foldl
    (fun u t => match t.payload with | .egress a bs => u.landEgress a bs | _ => u) s

/-- The vector of an egress entry (R211). -/
def State.egressVec (s : State) (n e : Nat) : Vec512 := vecOf (readBytes (s.egressNow n).egress (egressBase n e) 512)

/-- A read of an egress entry that the step has not written whole (R211, R323 UNWRITTEN). -/
def State.egressHazard (s : State) (n e : Nat) : State :=
  if s.debugMode && !([2 * e, 2 * e + 1].all (fun u => ((s.egressNow n).net n).written.contains u)) then s.netHazard n 7 e else s

/-- A vector's term of the contribution digest (R337). -/
def State.contribTerm (s : State) (v : Vec512) : Word128 :=
  let pre : Word128 := BitVec.ofNat 128 (s.sheaf.step.toNat % 2 ^ 48 + 0xFF * 2 ^ 48)
  absorbBytes s.assay.key (absorb s.assay.key 0 pre) (vecBytes v)

/-- What an entry of a sending kind does once it is active and its link enabled: flushed from the link's declared failure to the
next boundary, whose tables disable it (R261), a rota hold while its link's buffer is full (R260), else latched. -/
def State.sendEntry (s : State) (n : Nat) (e : Word128) (phys : Nat) (v : Vec512) (read : State → State) : State :=
  let k := s.link phys
  let d : Latched := { part := n, slot := entrySlot e, dst := BitVec.ofNat 32 (field e 61 32), dgrp := BitVec.ofNat 12 (field e 93 12)
                       op := BitVec.ofNat 4 (field e 105 4), payload := v }
  if k.declared then
    (read (s.onLink phys (fun k => { k with counters := { k.counters with flushed := satInc k.counters.flushed } }))).entryDone n
  else if replayCapacity ≤ k.replay.length then
    s.onPart n (fun k => { k with rotaHold := true, heldLink := BitVec.ofNat 6 phys })
  else (read (s.latch n phys d)).entryDone n

/-- The part reaches an entry that the fetcher has not delivered: a window stall (R216). -/
def State.windowStalls (s : State) (n : Nat) : State := s.onPart n (fun k => { k with windowStall := true })

/-- One entry of a part (R209 to R216, R226, R228): it stands next in the part and its read cycle has come; one not yet
fetched stalls the window; then the check code, the form and the port table.  `f` says what an active entry of this kind does
on its physical link.  A corrected error counts once, when the entry is left behind. -/
def State.entry (s : State) (n : Nat) (word : Word128) (kind : Nat) (f : State → Word128 → Nat → State) : State :=
  if s.partRuns n && s.readsEntry n word then
    if (s.net n).fetched ≤ (s.net n).read then s.windowStalls n
    else match rotaRead word with
      | .bad =>
        let t := (s.onNet n (fun k => { k with uncorrected := inc16 k.uncorrected })).entryDone n
        t.hardError { code := 0x0506, severity := 2, region := netRegion n, detail := bodyOf [((s.net n).read, 0)] }
      | .clean e => go s e
      | .corrected e =>
        let t := go s e
        if (t.net n).read = (s.net n).read then t else t.onNet n (fun k => { k with corrected := inc16 k.corrected })
  else s
where
  go (s : State) (e : Word128) : State :=
    let i := field e 18 6
    let p := s.portAt i
    if field e 24 3 ≠ kind then s
    else if !bit e (109 + s.tables.form.toNat) then s.entryDone n
    else if p.enabled then f s e p.phys.toNat
    else (s.darkSkip n i).entryDone n

/-- SEND: the egress vector is latched for its slot and link. -/
def execSend (n : Fin 4) (entry : Word128) (s : State) : Host.Outcome State Fault Refusal :=
  .next (s.entry n entry 0 (fun s e phys =>
    (s.egressHazard n (field e 27 12)).sendEntry n e phys (s.egressVec n (field e 27 12)) id))

/-- CUT: a valid forward-store entry is forwarded and becomes invalid; an invalid one freezes the region (R225). -/
def execCut (n : Fin 4) (entry : Word128) (s : State) : Host.Outcome State Fault Refusal :=
  .next (s.entry n entry 1 (fun s e phys =>
    let ix := field e 27 12
    match get none s.forward ix with
    | none => s.onPart n (fun k => { k with fwdHold := true, heldEntry := BitVec.ofNat 12 ix })
    | some v => s.sendEntry n e phys v (fun s =>
        { s with forward := put none s.forward ix none, role := { s.role with fwdCut := satInc s.role.fwdCut } })))

/-- STAGE_FWD: a contribution is latched; its term joins the contribution digest once (R210, R337). -/
def execStageFwd (n : Fin 4) (entry : Word128) (s : State) : Host.Outcome State Fault Refusal :=
  .next (s.entry n entry 2 (fun s e phys =>
    let v := s.egressVec n (field e 27 12)
    (s.egressHazard n (field e 27 12)).sendEntry n e phys v (fun s =>
      s.onNet n (fun k => { k with digest := k.digest + s.contribTerm v }))))

/-- MAINT: the slot acts as a maintenance window of its physical link, whichever region owns it (R208, R210, R215). -/
def execMaint (n : Fin 4) (entry : Word128) (s : State) : Host.Outcome State Fault Refusal :=
  .next (s.entry n entry 3 (fun s e phys =>
    (s.onLink phys (fun k => { k with maint := k.maint ++ [entrySlot e] })).entryDone n))

/-- WINDOW_STALL: the next entry has not been fetched; the region freezes (R216). -/
def execWindowStall (n : Fin 4) (s : State) : Host.Outcome State Fault Refusal :=
  let k := s.net n
  if k.active && decide (k.read < k.length) && decide (k.fetched ≤ k.read) then .next (s.windowStalls n) else .next s

/-- The entries that a part may still take into its window of two halves of 32,768 (R216): a half is filled once the region has
left it. -/
def Net.room (k : Net) : Nat := Nat.min k.length (32768 * (k.read / 32768 + 2)) - k.fetched

/-- The entries of the next sheaf's part, of `length` entries in a pattern, that fit a half: the present part is whole in the window,
and the region has left the half that follows the part's last (R216). -/
def Net.aheadRoom (k : Net) (pattern length : Nat) : Nat :=
  if k.length ≤ k.fetched + k.room ∧ ceilDiv k.length 32768 ≤ k.read / 32768 + 1 then Nat.min length 32768 - (if k.aheadPattern = pattern then k.ahead else 0) else 0

/-- Entries delivered to the window (R216): `n` of the present part, `m` of the next sheaf's; of a refused read they are blank. -/
def Net.fetch (k : Net) (n m pattern : Nat) (refused refusedNext : Bool) : Net :=
  let held := if k.aheadPattern = pattern then k.ahead else 0
  let heldBlank := if k.aheadPattern = pattern then k.blankAhead else []
  let k := { k with
    fetched := k.fetched + n, ahead := held + m, aheadPattern := pattern
    blank := if refused then k.blank ++ (List.range n).map (k.fetched + ·) else k.blank
    blankAhead := if refusedNext then heldBlank ++ (List.range m).map (held + ·) else heldBlank }
  let k := k.pass
  { k with windowStall := k.windowStall && decide (k.fetched ≤ k.read) }

/-- Entries `first` to `first + n - 1` of a part read from HBM (R155, R156); whether the read is refused. -/
def State.fetchPart (s : State) (p pattern first n : Nat) : State × Bool :=
  match s.partIn p pattern with
  | none => (s, false)
  | some x => if n = 0 then (s, false) else s.fetchRead (s.placeOf x.sec) (x.offset + 16 * first) (16 * n) (netRegion p)

/-- ROTA_FETCH: the fetcher delivers entries from HBM; a stall whose entry has come ends (R216). -/
def execRotaFetch (n : Fin 4) (count : Nat) (s : State) : Host.Outcome State Fault Refusal :=
  let next := s.nextPattern
  let k := s.net n
  let a := Nat.min count k.room
  let m := Nat.min (count - a) (k.aheadRoom next (s.partEntries n next).length)
  let r := s.fetchPart n s.sheaf.pattern k.fetched a
  let q := r.1.fetchPart n next (if k.aheadPattern = next then k.ahead else 0) m
  .next (q.1.onPart n (fun k => k.fetch a m next r.2 q.2))

/-- FORWARD_HOLD: a CUT whose entry is not valid freezes the region until the vector arrives (R225, R276). -/
def execForwardHold (n : Fin 4) (entry : BitVec 12) (s : State) : Host.Outcome State Fault Refusal :=
  if (s.net n).active && (get none s.forward entry.toNat).isNone then
    .next (s.onPart n (fun k => { k with fwdHold := true, heldEntry := entry }))
  else .next s

/-! Rota hold (R260) -/

/-- ROTA_HOLD: the part reaches an entry whose link's replay buffer is full. -/
def execRotaHold (n : Fin 4) (link : Fin 56) (s : State) : Host.Outcome State Fault Refusal :=
  if (s.net n).active && decide (replayCapacity ≤ (s.link link).replay.length) && (s.link link).state != .failed then
    .next (s.onPart n (fun k => { k with rotaHold := true, heldLink := BitVec.ofNat 6 link }))
  else .next s

/-- ROTA_HOLD_END: the buffer has a free entry, or the link is declared failed. -/
def execRotaHoldEnd (n : Fin 4) (s : State) : Host.Outcome State Fault Refusal :=
  let k := s.link (s.net n).heldLink.toNat
  if decide (k.replay.length < replayCapacity) || k.state == .failed then
    .next (s.onPart n (fun k => { k with rotaHold := false }))
  else .next s

/-! Table updates (R222) -/

/-- The content of a table update (log entry 20): generation, form, and the 1,024 entries of R220 from byte 4. -/
def tableContent (t : TableSet) : List Byte :=
  leBytes 2 t.gen.toNat ++ leBytes 2 t.form ++ t.positions.map (BitVec.ofNat 8)

/-- A table update on its way to a module, as a series of packets (R222, R247). -/
def State.sendTable (s : State) (dest : Key) (t : TableSet) : State := s.sendSeries dest 0x30 (tableContent t)

/-- Whether a generation is newer than another: it follows it in the half-space of its 16 bits (log entry 86). -/
def genNewer (a b : BitVec 16) : Bool := a != b && decide ((a - b).toNat < 32768)

/-- Whether a position table obeys R220. -/
def positionsOk (l : List Nat) : Bool :=
  l.length == 1024 && l.all (fun p => decide (p ≤ 16) || p == 0x1F) &&
    (List.range 64).all (fun b => (((l.drop (16 * b)).take 16).filter (· ≤ 16)).Nodup)

/-- The modules whose acknowledgement a coordinator waits for: those of its twin that hold a position, and its relays. -/
def State.members (s : State) : List Key := s.twinKeys.filter (fun k => !s.coord.excluded.contains k && !s.coord.failed.contains k)

/-- TABLE_ACKNOWLEDGEMENT: the coordinator records it, and commits once every module has acknowledged; a module that
acknowledges after that gets the commit again (R222). -/
def execTableAcknowledgement (src : Key) (gen : BitVec 16) (s : State) : Host.Outcome State Fault Refusal :=
  match s.tables.offered with
  | some t =>
    if s.coord.isCoord && t.gen == gen then
      let a := if s.tables.ackedBy.contains src then s.tables.ackedBy else s.tables.ackedBy ++ [src]
      let u := { s with tables := { s.tables with ackedBy := a } }
      if s.members.all a.contains && !t.committed then
        let v := { u with tables := { u.tables with offered := some { t with committed := true } } }
        .next (v.sendAll s.members 0x32 2 (bodyOf [(gen.toNat, 0)]))
      else if t.committed then .next (u.send src 0x32 2 (bodyOf [(gen.toNat, 0)]))
      else .next u
    else .next s
  | none => .next s

/-- TABLE_COMMIT: a module that holds the generation marks it committed and clears its HOLD at the next cutoff; one that
does not hold it keeps HOLD and asks for the update again (R222). -/
def execTableCommit (gen : BitVec 16) (s : State) : Host.Outcome State Fault Refusal :=
  match s.tables.staged with
  | some t =>
    if t.gen == gen && !t.localOnly then
      .next { s with tables := { s.tables with staged := some { t with committed := true } } }
    else .next (s.send s.coord.coordKey 0x33 2 (bodyOf [(gen.toNat, 0)]))
  | none =>
    if s.tables.gen == gen then .next s
    else .next (s.send s.coord.coordKey 0x33 2 (bodyOf [(gen.toNat, 0)]))

/-- TABLE_RESEND_REQUEST: the coordinator sends the update again (R222). -/
def execTableResendRequest (src : Key) (gen : BitVec 16) (s : State) : Host.Outcome State Fault Refusal :=
  match s.tables.offered with
  | some t => if s.coord.isCoord && t.gen == gen then .next (s.sendTable src t) else .next s
  | none => .next s

/-! Graces (R259) -/

/-- The grace of a link that was UP starts when it leaves UP, while the module holds a coordinate and the port table
enables the link (R259). -/
def State.startGrace (s : State) (l : Nat) : State :=
  if s.mgmt.key != 0xFFFF && s.linkEnabled l && (s.link l).grace.isNone then
    s.onLink l (fun k => { k with grace := some s.nowNs })
  else s

/-- The graces follow a change of the port table (R259): a link that it no longer enables has none; one that it newly enables, that
was UP and is not, starts its own. -/
def State.graceFollows (s : State) : State :=
  (List.range 56).foldl (fun t l =>
    let k := t.link l
    if !t.linkEnabled l then (if k.grace.isSome then t.onLink l (fun k => { k with grace := none }) else t)
    else if k.wasUp && k.state != .up && k.state != .failed && k.state != .dark then t.startGrace l
    else t) s

/-- Tables installed, the graces following them. -/
def State.setTables (s : State) (gen : BitVec 16) (form : Nat) (positions : Sparse Nat) : State :=
  (s.installTables gen form positions).graceFollows

/-! Local updates (R222) -/

/-- A change of the module's own port table, staged as a local update that needs no commit (R222). -/
def State.stageLocalTable (s : State) : State :=
  match s.tables.staged with
  | some _ => { s with tables := { s.tables with remapWaits := true } }
  | none =>
    { s with tables := { s.tables with
        staged := some { gen := s.tables.gen, form := s.tables.form.toNat, positions := [], committed := true, localOnly := true } } }

/-- What a discovery or a failed link changes of the module's own port table: during a job a local update; in the start wait, whose
START_JOB has installed the tables, it is installed directly (R219, R222). -/
def State.tablesChanged (s : State) : State :=
  if s.jobRuns then s.stageLocalTable
  else if s.job.phase == .starting then
    let staged := s.tables.staged
    let t := s.setTables s.tables.gen s.tables.form.toNat s.tables.positions
    { t with tables := { t.tables with staged := staged } }
  else s

end Sys2Proof.Machine
end

