-- ==== Sys2Proof/Machine/Link.lean ====
section
/-! DEFINITION. The link layer (R231 to R268): sequence numbers and replay, filling the wire, the bypass channel, link states,
lane swaps, grace and probing.  Discovery is in `Discovery`. -/

namespace Sys2Proof.Machine

open Sys2Proof

/-- Bench mode (R265): CLK_MODE 0b10. -/
def State.bench (s : State) : Bool := s.rst.clkMode == 2

/-- The network region of a link (R19). -/
def netOf (l : Nat) : Nat := l / 14

/-- Whether `a` is `b` or follows it by the half-space rule (R246). -/
def seqFrom (a b : BitVec 16) : Bool := decide ((a - b).toNat < 32768)

/-- Whether a link carries the packets whose headers the receiver uses: UP, and DISCOVER and QUARANTINE (R252). -/
def LinkState.open_ (x : LinkState) : Bool := x == .up || x == .discover || x == .quarantine

/-- The state's code in LINK_STATUS (R252). -/
def LinkState.code : LinkState → Nat
  | .dark => 0 | .seek => 1 | .adapt => 2 | .align => 3 | .discover => 4 | .up => 5 | .quarantine => 6
  | .fastRetrain => 7 | .failed => 8

/-- Whether any transmitter of a link is lit (R268, R270). -/
def Link.lit (k : Link) : Bool := k.laserOn && k.txOff != 15

/-- Whether a link is in one of the training states (R252). -/
def LinkState.training (x : LinkState) : Bool := x == .adapt || x == .align || x == .discover || x == .fastRetrain

/-! Messages about links -/

/-- LINK_EVENT to the coordinator, kept until it is acknowledged (R345). -/
def State.tellLink (s : State) (l event : Nat) : State :=
  s.sendKept s.coord.coordKey 0x03 11 (bodyOf [(l, 0), (event, 1), ((s.link l).peerKey.toNat, 2),
    (s.sheaf.step.toNat % 2 ^ 48, 4), ((s.logicalLink l).getD 0x3F, 10)])

/-- Whether the current plan has an entry, active in the current form, on a link (R261). -/
def State.formUses (s : State) (l : Nat) : Bool :=
  match s.logicalLink l with
  | none => false
  | some i => s.body.rota.any (fun p => s.appliesNow p.sec &&
      p.entries.any (fun e => field e 18 6 == i && bit e (109 + s.tables.form.toNat)))

/-! Lanes (R231, R256, R271) -/

/-- The region lane of a link's own link lane (R231): 15 × engine index + engine lane. -/
def ownLane (l i : Nat) : Nat :=
  let p := l % 14
  if p < 12 then 15 * (p / 3) + 4 * (p % 3) + i else 15 * (2 * (p - 12) + i / 2) + 13 + i % 2

/-- LANE_MAP with the link's own four lanes, the spare's last adaptation kept (R271). -/
def ownLanes (l : Nat) (old : Word32) : Word32 :=
  pack [(ownLane l 0, 0), (ownLane l 1, 6), (ownLane l 2, 12), (ownLane l 3, 18), (field old 29 1, 29)]

/-- LANE_MAP after link lane `i` moves to the group's spare lane, engine lane 12 (R256). -/
def spareLanes (l i : Nat) : Word32 :=
  let at_ (j : Nat) : Nat := if j = i then 15 * (l % 14 / 3) + 12 else ownLane l j
  pack [(at_ 0, 0), (at_ 1, 6), (at_ 2, 12), (at_ 3, 18), (1, 24)]

/-- Whether the spare lane of a link's port group is free and passed its last adaptation (R256). -/
def State.spareFree (s : State) (l : Nat) : Bool :=
  match groupOf l with
  | none => false
  | some g => !bit (s.link l).laneMap 29 &&
      ((List.range 56).filter (fun k => groupOf k == some g)).all (fun k => !bit (s.link k).laneMap 24)

/-! Leaving UP and training (R252 to R259) -/

/-- The start of a retrain at the bypass channel (R250): the undelivered packets that came by this link are discarded, and
the places they held are given back by the retrain itself. -/
def State.dropVia (s : State) (l : Nat) : State :=
  (List.range 56).foldl (fun t k =>
    if (t.link k).queue.any (fun q => q.via == some l) then
      t.onLink k (fun x => { x with queue := x.queue.filter (fun q => q.via != some l) }) else t)
    (s.onLink l (fun k => { k with owed := 0 }))

/-- A fast retrain (R253, R255). -/
def State.startFast (s : State) (l : Nat) : State :=
  let t := (s.dropVia l).startGrace l
  (t.onLink l (fun k => { k with
    state := .fastRetrain
    maintWanted := false
    counters := { k.counters with fastRetrains := inc16 k.counters.fastRetrains } })).leaveParent l

/-- A full training, from ADAPT (R253); its TRAIN packets ask the peer for it (R257); discovery follows it (R255). -/
def State.startFull (s : State) (l : Nat) : State :=
  let t := s.dropVia l
  let t := if (s.link l).state == .up then t.startGrace l else t
  (t.onLink l (fun k => { k with
    state := .adapt
    discoverAfter := true
    full := true
    asked := some .full
    maintWanted := false
    counters := { k.counters with fullTrainings := inc16 k.counters.fullTrainings } })).leaveParent l

/-- A link-down condition (R258): the link leaves UP and asks for a retrain (R257); discovery follows when two or more lanes lost light
(R255). -/
def State.linkDown (s : State) (l : Nat) (light : Bool) : State :=
  if (s.link l).state == .up then
    let t := s.onLink l (fun k => { k with err := setBit k.err 4, discoverAfter := k.discoverAfter || light, asked := some .fast })
    (t.startFast l).log { code := 0x0501, severity := 0, region := netRegion (netOf l), unit := l, action := 1
                          detail := bodyOf [((t.link l).err.toNat, 0), ((t.link l).laneMap.toNat, 4)] }
  else s

/-- Receive lanes without light: LOS shows them (R271), and their transmitters turn off (R268). -/
def Link.darkLanes (k : Link) (lanes : BitVec 4) : Link := { k with lostLanes := k.lostLanes ||| lanes, txOff := k.txOff ||| lanes }

/-- LINK_DOWN: a link-down condition holds; the lanes that lost light are noted in any state in which the lasers are lit. -/
def execLinkDown (link : Fin 56) (cause : DownCause) (s : State) : Host.Outcome State Fault Refusal :=
  let st := (s.link link).state
  match cause with
  | .lightLost lanes =>
    .next ((if st == .up || st.training then s.onLink link (fun k => k.darkLanes lanes) else s).linkDown link true)
  | .replayLimit => .next ((if st == .up then s.onLink link (fun k => { k with err := setBit k.err 7 }) else s).linkDown link false)
  | _ => .next (s.linkDown link false)

/-- A lane of a link has failed (R256): both directions move to the spare lane of the group where it is free, and a fast
retrain follows; else it is a link-down condition.  A lane that lost light has its transmitter off until the next probe (R268);
the spare lane's transmitter lights for the retrain. -/
def State.laneFailed (s : State) (l lane : Nat) (lightLost : Bool) : State :=
  let note (s : State) : State := s.onLink l (fun k =>
    let lost := setBitIf lightLost k.lostLanes lane
    { k with err := setBit k.err 3, lostLanes := lost, txOff := setBitIf lightLost k.txOff lane
             discoverAfter := k.discoverAfter || decide (2 ≤ ((List.range 4).filter (fun i => bit lost i)).length) })
  match (s.link l).state with
  | .up =>
    if s.spareFree l then
      let t := (note s).onLink l (fun k => { k with
        laneMap := spareLanes l lane, txOff := clearBit k.txOff lane, asked := some (.swap (Fin.ofNat 4 lane)) })
      (t.startFast l).log { code := 0x0503, severity := 1, region := netRegion (netOf l), unit := l, action := 5
                            detail := bodyOf [((t.link l).err.toNat, 0), ((t.link l).laneMap.toNat, 4)] }
    else (note s).linkDown l false
  | .dark | .seek | .failed => s
  | _ => note s

/-- LANE_FAILURE: this end finds the failure. -/
def execLaneFailure (link : Fin 56) (lane : Fin 4) (lightLost : Bool) (s : State) : Host.Outcome State Fault Refusal :=
  .next (s.laneFailed link lane lightLost)

/-- MAINTENANCE_RETRAIN: a link whose credits fell below 8 retrains fast once its region has finished its part, or at once
if no sheaf runs (R250). -/
def execMaintenanceRetrain (link : Fin 56) (s : State) : Host.Outcome State Fault Refusal :=
  let k := s.link link
  if k.state == .up && k.maintWanted && (!s.sheaf.running || s.finished (netRegion (netOf link))) then
    let t := s.onLink link (fun k => { k with
      asked := some .fast, counters := { k.counters with maintRetrains := satInc k.counters.maintRetrains } })
    .next (t.startFast link)
  else .next s

/-- LIGHT_DETECTED: a probing link that sees light and TRAIN packets on its four link lanes begins a full training
(R252, R261, R267).  A training from FAILED starts with fresh sequence state (R254). -/
def execLightDetected (link : Fin 56) (s : State) : Host.Outcome State Fault Refusal :=
  let k := s.link link
  if !s.role.fatal && (k.state == .seek || k.state == .failed) then
    let t := s.onLink link (fun k => { k with
      freshSeq := k.freshSeq || k.state == .failed, laserOn := true, lostLanes := 0, txOff := 0 })
    .next (t.startFull link)
  else .next s

/-- FAILED_LINK_RETRY: a FAILED link whose receive lanes stay lit starts a full training every 1 s (R261); the lasers of a relay with
a fatal fault stay off (R280). -/
def execFailedLinkRetry (link : Fin 56) (s : State) : Host.Outcome State Fault Refusal :=
  if !s.role.fatal && (s.link link).state == .failed then
    .next ((s.onLink link (fun k => { k with freshSeq := true, laserOn := true, txOff := 0 })).startFull link)
  else .next s

/-- FEC_LOCK: FEC lock on all four lanes takes a training link to ALIGN (R252). -/
def execFecLock (link : Fin 56) (s : State) : Host.Outcome State Fault Refusal :=
  let k := s.link link
  if k.state == .adapt || k.state == .fastRetrain then
    .next (s.onLink link (fun k => { k with state := .align, trainedOnce := true }))
  else .next s

/-- TRAINING_TIMEOUT: a full training that has not reached ALIGN at its limit starts again (R253). -/
def execTrainingTimeout (link : Fin 56) (s : State) : Host.Outcome State Fault Refusal :=
  if (s.link link).state == .adapt then .next (s.startFull link) else .next s

/-- FAST_RETRAIN_TIMEOUT: a fast retrain that has not reached ALIGN at 4 µs becomes a full training (R253). -/
def execFastRetrainTimeout (link : Fin 56) (s : State) : Host.Outcome State Fault Refusal :=
  if (s.link link).state == .fastRetrain then .next (s.startFull link) else .next s

/-- LIGHT_LOSS_TIMEOUT: light lost on two or more lanes for 1 ms takes a training link to SEEK (R252, R258).  The lanes are those
reported before; where fewer than two were, the further ones are a free value (log entry 113). -/
def execLightLossTimeout (link : Fin 56) (s : State) : Host.Outcome State Fault Refusal :=
  let k := s.link link
  if k.state.training then
    let known := decide (2 ≤ ((List.range 4).filter (fun i => bit k.lostLanes i)).length)
    let t := s.onLink link (fun k => { k with
      state := .seek, laserOn := false, discoverAfter := true
      lostLanes := if known then k.lostLanes else k.lostLanes ||| Config.freeLanes s.free })
    .next { t with free := if known then s.free else s.free + 1 }
  else .next s

/-- PROBE: a SEEK or FAILED link lights its transmitters for 0.5 ms; a probe that sees light keeps them on (R267). -/
def execProbe (link : Fin 56) (lit : Bool) (s : State) : Host.Outcome State Fault Refusal :=
  let k := s.link link
  if !s.role.fatal && (k.state == .seek || k.state == .failed) then .next (s.onLink link (fun k => { k with laserOn := lit, txOff := 0 }))
  else .next s

/-- Steps 3 and 4 of R261, for a link declared failed and for a latency over its class (R317): abort if the current form
uses the link, and LINK_EVENT. -/
def State.linkLost (s : State) (l event : Nat) : State :=
  let t := if s.jobRuns && s.formUses l then s.abortFor .linkFailed else s
  t.tellLink l event

/-- A link is declared failed (R261): its replay buffer is flushed, rota holds on it end, it goes to FAILED and its port-table
entry is disabled from the next boundary. -/
def State.declareLink (s : State) (l : Nat) : State :=
  let t := s.onLink l (fun k => { k with
    state := .failed, grace := none, declared := true, laserOn := false, err := setBit k.err 5
    replay := [], replayAt := none, replayFrom := none
    counters := { k.counters with flushed := satAdd k.counters.flushed k.replay.length } })
  let t := (List.range 4).foldl (fun t n =>
    if (t.net n).rotaHold && (t.net n).heldLink.toNat == l then t.onPart n (fun x => { x with rotaHold := false }) else t) t
  let t := t.log { code := 0x0502, severity := 2, region := netRegion (netOf l), unit := l
                   action := if s.jobRuns && s.formUses l then s.abortAction else 1
                   detail := bodyOf [((t.link l).err.toNat, 0), ((t.link l).laneMap.toNat, 4)] }
  (t.linkLost l 1).tablesChanged

/-- GRACE_EXPIRED: the link is declared failed (R261). -/
def execGraceExpired (link : Fin 56) (s : State) : Host.Outcome State Fault Refusal :=
  let k := s.link link
  if k.grace.isSome && k.state != .up then .next (s.declareLink link) else .next s

/-! Replay at the sender (R243 to R245) -/

/-- The next packet of the replay under way: the first held one at or after the pointer; a packet never transmitted there
ends the replay (R243). -/
def Link.nextReplay (k : Link) : Option Held :=
  match k.replayAt with
  | none => none
  | some p =>
    match k.replay.find? (fun h => seqFrom h.seq p) with
    | some h => if h.sent = 0 then none else some h
    | none => none

/-- A replay that has reached its end is over (R243). -/
def Link.endReplay (k : Link) : Link :=
  if k.nextReplay.isSome then k else { k with replayAt := none, replayFrom := none }

/-- The earlier slot of two held packets. -/
def earlierSlot (a b : Held) : Held := if b.data.slot < a.data.slot then b else a

/-- The packet that leaves next of those latched, past their crossing and never transmitted: the one of the earliest slot
(R208, R215, R240). -/
def Link.nextNew (k : Link) : Option Held :=
  match k.replay.filter (fun h => h.sent == 0 && !h.crossing) with
  | [] => none
  | h :: hs => some (hs.foldl earlierSlot h)

/-- The replay limit (R244): a 17th transmission fell due; the link leaves UP as for a link-down condition. -/
def State.replayLimit (s : State) (l : Nat) : State :=
  (s.onLink l (fun k => { k with err := setBit k.err 7, replayAt := none, replayFrom := none })).linkDown l false

/-- Starts a replay from a number whose packet is held. -/
def State.startReplay (s : State) (l : Nat) (h : Held) : State :=
  if 16 ≤ h.sent then s.replayLimit l
  else s.onLink l (fun k => { k with replayAt := some h.seq, replayFrom := some h.seq })

/-- Frees every entry up to and including an acknowledged number (R243). -/
def Link.free (k : Link) (ack : BitVec 16) : Link :=
  ({ k with replay := k.replay.filter (fun h => !seqFrom ack h.seq) } : Link).endReplay

/-- The held packet from which a negative acknowledgement that names `n` starts a replay at FRC `now` (R243): none for a number
not yet transmitted, while a replay from it is in progress, and when its latest transmission began less than a round trip ago
(2 × LINK_LATENCY + 60 ns). -/
def Link.nakStart (k : Link) (now : Nat) (n : BitVec 16) : Option Held :=
  match k.replay.find? (fun h => h.seq == n) with
  | none => none
  | some h =>
    let running := k.replayFrom == some n && k.nextReplay.isSome
    let recent := decide (40 * (now - h.lastSent) < 21 * (k.latency.toNat + 120))
    if h.sent == 0 || running || recent then none else some h

/-- A negative acknowledgement that names `n`. -/
def State.nakFor (s : State) (l : Nat) (n : BitVec 16) : State :=
  match (s.link l).nakStart s.time.frc.toNat n with
  | none => s
  | some h => s.startReplay l h

/-- REPLAY_TIMEOUT: 3 µs since the oldest packet's last transmission without an ACK that covers it (R244). -/
def execReplayTimeout (link : Fin 56) (s : State) : Host.Outcome State Fault Refusal :=
  if (s.link link).state == .up then
    match (s.link link).replay with
    | [] => .next s
    | h :: _ => .next (if h.sent == 0 then s else s.startReplay link h)
  else .next s

/-! The receiver (R241, R242) -/

/-- A negative acknowledgement becomes pending (R242), counted when it is raised (NAKS_SENT). -/
def Link.nak (k : Link) (cause : Nat) : Link :=
  if k.naking then k
  else { k with naking := true, nakCause := cause, counters := { k.counters with naksSent := satInc k.counters.naksSent } }

/-- What a received header does (R242, R243, R250, R35): the sync field, the acknowledgement, the credits, the count of the codewords
corrected with it (R269), and the loss that a packet other than DATA shows when its SEQ is beyond the base. -/
def State.header (s : State) (l : Nat) (h : PktHdr) (isData : Bool) : State :=
  if (s.link l).state.open_ then
    let t := if (s.link l).state == .up then s.readSync l h.sync else s
    let t := t.onLink l (fun k =>
      let k := k.free h.ack
      let k := { k with
        credits := Nat.min 32 (k.credits + h.credit.toNat)
        counters := { k.counters with fecCorrected := satAdd k.counters.fecCorrected h.corrected.toNat } }
      if !isData && h.seq != k.base && seqFrom h.seq k.base then k.nak 2 else k)
    if h.nak then t.nakFor l (h.ack + 1) else t
  else s

/-- The base after it passes every marked number (R241); fuel is the map's 1,024 numbers. -/
def slide : Nat → BitVec 16 → Sparse Bool → BitVec 16 × Sparse Bool
  | 0, b, m => (b, m)
  | n + 1, b, m => if get false m b.toNat then slide n (b + 1) (drop m b.toNat) else (b, m)

/-- A DATA packet with a good CRC (R241): accepted and delivered for landing, a duplicate, or beyond the window. -/
def State.takeData (s : State) (l : Nat) (seq : BitVec 16) (d : Latched) : State :=
  let k := s.link l
  let off := (seq - k.base).toNat
  if off < 1024 then
    if get false k.seen seq.toNat then s.onLink l (fun k => { k with counters := { k.counters with dups := satInc k.counters.dups } })
    else
      s.onLink l (fun k =>
        let top := if seqFrom seq k.highest then seq else k.highest
        if seq == k.base then
          let r := slide 1024 (seq + 1) k.seen
          { k with base := r.1, seen := r.2, naking := false, highest := top, landing := k.landing ++ [d] }
        else ({ k with seen := put false k.seen seq.toNat true, highest := top, landing := k.landing ++ [d] } : Link).nak 2)
  else if 32768 ≤ off then s.onLink l (fun k => { k with counters := { k.counters with dups := satInc k.counters.dups } })
  else
    let t := s.onLink l (fun k => { k with err := setBit k.err 1, asked := some .fast })
    t.startFast l

/-- DATA: a received DATA packet. -/
def execData (link : Fin 56) (h : PktHdr) (dgrp : BitVec 12) (dst : Word32) (op : BitVec 4) (payload : Vec512) (s : State) :
    Host.Outcome State Fault Refusal :=
  if (s.link link).state == .up then
    let t := s.header link h true
    .next (if (t.link link).state == .up then
      t.takeData link h.seq { part := 0, slot := 0, dst := dst, dgrp := dgrp, op := op, payload := payload } else t)
  else .next s

/-- IDLE: a received IDLE packet's header fields are used. -/
def execIdle (link : Fin 56) (h : PktHdr) (s : State) : Host.Outcome State Fault Refusal := .next (s.header link h false)

/-- NAKREC: the header, and the loss record's first missing number as a negative acknowledgement names it (R237, R243). -/
def execNakrec (link : Fin 56) (h : PktHdr) (first _highest : BitVec 16) (_cause : BitVec 8) (s : State) :
    Host.Outcome State Fault Refusal :=
  let t := s.header link h false
  .next (if (t.link link).state.open_ then t.nakFor link first else t)

/-- RESERVED_TYPE_PACKET: the header fields are used, the packet is discarded and PROTOCOL set (R237). -/
def execReservedTypePacket (link : Fin 56) (h : PktHdr) (s : State) : Host.Outcome State Fault Refusal :=
  if (s.link link).state.open_ then
    .next ((s.header link h false).onLink link (fun k => { k with err := setBit k.err 2 }))
  else .next s

/-- PACKET_CRC_FAILURE: the packet is discarded in full, a negative acknowledgement becomes pending (R241, R242), the codewords that
FEC could not correct count (R269), and an entry is written (R331). -/
def execPacketCrcFailure (packet : BadPacket) (s : State) : Host.Outcome State Fault Refusal :=
  let link := packet.link
  if (s.link link).state.open_ then
    let t := s.onLink link (fun k =>
      let k := k.nak 1
      { k with err := setBit k.err 0, counters := { k.counters with
          crc := satInc k.counters.crc, fecUncorrectable := satAdd k.counters.fecUncorrectable packet.codewords.toNat } })
    .next (t.logOpen { code := 0, severity := 1, region := netRegion (netOf link), unit := link, action := 1
                       detail := bodyOf [((t.link link).err.toNat, 0), ((t.link link).laneMap.toNat, 4)] })
  else .next s

/-! Training control (R253, R256, R257) -/

/-- The depth of a request (R257): full training, swap, fast retrain. -/
def reqDepth : TrainReq → Nat
  | .none => 0 | .fast => 1 | .swap _ => 2 | .full => 3 | .lossOfLock _ => 0

/-- Whether this end leads when two requests meet (R257): the lower (coordinate key, link index). -/
def State.leads (s : State) (l : Nat) (peerKey peerLink : Nat) : Bool :=
  decide (s.mgmt.key.toNat < peerKey ∨ (s.mgmt.key.toNat = peerKey ∧ l < peerLink))

/-- What a peer's request does in a link that is UP or that retrains by its own request.  A swap whose spare lane is in use or
failed is a link-down condition (R256). -/
def State.doRequest (s : State) (l : Nat) (r : TrainReq) : State :=
  match r with
  | .full => (s.startFull l).onLink l (fun k => { k with asked := none })
  | .swap lane =>
    let up := (s.link l).state == .up
    if s.spareFree l || (!up && bit (s.link l).laneMap 24) then
      let t := s.onLink l (fun k => { k with laneMap := spareLanes l lane, txOff := clearBit k.txOff lane })
      if up then t.startFast l else t
    else s.linkDown l false
  | .fast => if (s.link l).state == .up then s.startFast l else s
  | _ => s

/-- TRAIN: training control; the header counts in the states in which the receiver uses headers, DISCOVER and QUARANTINE among them
(R250, R252).  A request is accepted; when it meets this end's own, the deeper is performed, and of two
swaps of different lanes the leader's (R257); a report of loss of lock is a lane failure (R256); any other packet
accepts. -/
def execTrain (link : Fin 56) (h : PktHdr) (req : TrainReq) (peerKey : Key) (peerLink : BitVec 6) (s : State) :
    Host.Outcome State Fault Refusal :=
  let s1 := s.header link h false
  let k := s1.link link
  let settle (t : State) : State := t.onLink link (fun k => { k with asked := none })
  match req with
  | .none => .next (settle s1)
  | .lossOfLock lane => .next (s1.laneFailed link lane false)
  | r =>
    if k.state == .up then .next (s1.doRequest link r)
    else if k.state == .fastRetrain then
      match k.asked with
      | none => .next (if 2 ≤ reqDepth r then s1.doRequest link r else s1)
      | some own =>
        let theirs := decide (reqDepth own < reqDepth r) ||
          (reqDepth own == reqDepth r && !s1.leads link peerKey.toNat peerLink.toNat)
        .next (settle (if theirs then s1.doRequest link r else s1))
    else .next s1

/-! The bypass channel at the receiver (R247 to R251) -/

/-- Whether an MTYPE is listed by R248. -/
def mtypeKnown (m : Nat) : Bool :=
  decide (1 ≤ m ∧ m ≤ 3) || m == 0x10 || m == 0x11 || decide (0x20 ≤ m ∧ m ≤ 0x22) || decide (0x30 ≤ m ∧ m ≤ 0x33) ||
    decide (0x40 ≤ m ∧ m ≤ 0x5F) || m == 0x60

/-- Whether a link in this state may carry a message (R249, R252). -/
def LinkState.carries (x : LinkState) (m : BypMsg) : Bool :=
  match x with
  | .up => true
  | .discover => m.mtype == 1 || m.mtype == 2
  | .quarantine => m.dest == 0xFFFF && (m.mtype == 1 || m.mtype == 2 || m.mtype == 0x60)
  | _ => false

/-- A place of the receiver's buffer is freed: its credit is owed to the sender (R250). -/
def State.freePlace (s : State) (l : Nat) : State := s.onLink l (fun k => { k with owed := k.owed + 1 })

/-- A bypass packet discarded and counted (R248, R249, R251). -/
def State.dropBypass (s : State) (l : Nat) : State :=
  s.onLink l (fun k => { k with err := setBit k.err 8, counters := { k.counters with bypDrops := satInc k.counters.bypDrops } })

/-- How far number `a` lies above `b` in the half-space of 24 bits; `none` when it lies below. -/
def above24 (a b : Nat) : Option Nat :=
  let d := (a + 2 ^ 24 - b) % 2 ^ 24
  if d < 2 ^ 23 then some d else none

/-- Whether a source's record refuses a number: one it lists, or one below every number of the record (R251). -/
def SourceRec.refuses (r : SourceRec) (n : Nat) : Bool :=
  r.have_.contains n || (!r.have_.isEmpty && r.have_.all (fun x => (above24 n x).isNone))

/-- The record with a number added, the lowest leaving a full one. -/
def SourceRec.note (r : SourceRec) (n : Nat) : SourceRec :=
  let top := match above24 n r.top with | some _ => n | none => r.top
  let all := r.have_ ++ [n]
  let far (x : Nat) : Nat := (top + 2 ^ 24 - x) % 2 ^ 24
  let low := all.foldl (fun m x => if far m < far x then x else m) n
  { r with top := top, have_ := if all.length ≤ 256 then all else all.erase low }

/-- Delivery to firmware with the duplicate filter (R251): a request that was answered gets its stored answer again. -/
def State.deliverMsg (s : State) (l : Nat) (m : BypMsg) : State :=
  let start : Byte := BitVec.ofNat 8 (m.msgId.toNat / 2 ^ 24)
  let n := m.msgId.toNat % 2 ^ 24
  let old := get { start := start, top := n, have_ := [] } s.bypass.sources m.src.toNat
  let r : SourceRec := if old.start == start then old else { start := start, top := n, have_ := [] }
  let s := s.freePlace l
  if r.refuses n then
    let t := { s with bypass := { s.bypass with dups := satInc s.bypass.dups } }
    match s.bypass.answers.find? (fun a => a.1 == m.src && a.2.1 == m.msgId) with
    | none => t
    | some a => if a.2.2.dest == 0xFFFF then t.enqueue l a.2.2 else t.queueFor a.2.2
  else
    { s with bypass := { s.bypass with sources := insert s.bypass.sources m.src.toNat (r.note n)
                                       inbox := s.bypass.inbox ++ [m] } }

/-- The hop count of a bypass packet (R247). -/
def hopsOf (m : BypMsg) : Nat := field m.flags 0 4

/-- LINK_EVENT by which a relay names itself failed (R280, R345). -/
def namesRelay (m : BypMsg) : Bool := m.mtype == 3 && keyRelay m.src && field m.body 8 8 == 1 && field m.body 16 16 == m.src.toNat

/-- One bypass packet as it arrives (R248, R249): delivered here, forwarded, or discarded.  A relay's own LINK_EVENT that names it
failed has the link to that relay declared failed at once (R280; log entry 114). -/
def State.takeBypass (s : State) (l : Nat) (m : BypMsg) : State :=
  let k := s.link l
  if !mtypeKnown m.mtype.toNat || !k.state.carries m then (s.freePlace l).dropBypass l
  else if m.dest == 0xFFFF || m.dest == s.mgmt.key then
    let t := s.deliverMsg l m
    if namesRelay m && m.src == k.peerKey && k.state == .up then t.declareLink l else t
  else
  let s := if namesRelay m && m.src == k.peerKey && k.state == .up then s.declareLink l else s
  if 8 < hopsOf m + 1 then (s.freePlace l).dropBypass l
  else match s.route m.dest with
    | none => (s.freePlace l).dropBypass l
    | some (out, _) => s.onLink out (fun k => { k with queue := k.queue ++ [{ msg := m, since := s.frcUs, via := some l }] })

/-- BYPASS: the header, and each bypass packet in its place. -/
def execBypass (link : Fin 56) (h : PktHdr) (msgs : List BypMsg) (s : State) : Host.Outcome State Fault Refusal :=
  if (s.link link).state.open_ then
    let t := (s.header link h false).onLink link (fun k => { k with
      counters := { k.counters with bypReceived := satAdd k.counters.bypReceived (msgs.take 8).length } })
    .next ((msgs.take 8).foldl (fun t m => t.takeBypass link m) t)
  else .next s

/-- The links by which a packet may leave: its own queue's link, and for a routed one the primary and second of its
destination (R249). -/
def State.linksFor (s : State) (l : Nat) (m : BypMsg) : List Nat :=
  if m.dest == 0xFFFF then [l]
  else match s.bypass.routes.find? (fun x => x.1 == m.dest.toNat) with
    | some x => [x.2.1, x.2.2]
    | none => [l]

/-- Whether a link could carry a packet now: it is in a state that carries it and has a credit. -/
def Link.canCarry (k : Link) (m : BypMsg) : Bool := k.state.carries m && decide (0 < k.credits)

/-- BYPASS_FORWARD_TIMEOUT: the oldest waiting bypass packet of a link's queue, which could not be forwarded for 1 ms because
neither of its links is UP or has a credit, is discarded and counted (R251). -/
def execBypassForwardTimeout (link : Fin 56) (s : State) : Host.Outcome State Fault Refusal :=
  let k := s.link link
  match k.queue with
  | [] => .next s
  | q :: rest =>
    if (s.linksFor link q.msg).any (fun l => (s.link l).canCarry q.msg) then .next s
    else
      let t := (s.onLink link (fun k => { k with queue := rest })).dropBypass link
      .next (match q.via with | some v => t.freePlace v | none => t)

/-! The transmitter (R207, R208, R238 to R240) -/

/-- The 96 header bits of a packet (R236). -/
def Sent.header (p : Sent) : BitVec 96 :=
  BitVec.ofNat 96 (p.seq.toNat + p.ack.toNat * 2 ^ 16 + p.type.toNat * 2 ^ 32 + b2n p.nak * 2 ^ 35 + p.sync.toNat * 2 ^ 36 +
    p.credit.toNat * 2 ^ 44 + p.dgrp.toNat * 2 ^ 48 + p.dst.toNat * 2 ^ 60 + p.op.toNat * 2 ^ 92)

/-- The header and payload bytes of a packet (R235, R236). -/
def Sent.body (p : Sent) : List Byte := leBytes 12 p.header.toNat ++ leBytes 512 p.payload.toNat

/-- The packet with the CRC of its present header and payload (R235, R238). -/
def Sent.sealed (p : Sent) : Sent := { p with crc := crc32 p.body }

/-- The 528 bytes of a packet on the wire (R235). -/
def Sent.image (p : Sent) : List Byte := p.body ++ leBytes 4 p.crc.toNat

/-- The 64 bytes of a bypass packet as a number, byte 0 least significant (R247). -/
def bypPlace (m : BypMsg) : Nat :=
  bodyOf [(m.mtype.toNat, 0), (m.flags.toNat, 1), (m.dest.toNat, 2), (m.src.toNat, 4), (m.msgId.toNat, 6), (m.series.toNat, 10),
          (m.len.toNat, 11), (m.body.toNat, 12)]

/-- The payload of a BYPASS packet: up to eight 64 B places, unused ones zeros (R239). -/
def bypassPayload (msgs : List BypMsg) : Vec512 :=
  BitVec.ofNat 4096 (bodyOf (msgs.zipIdx.map (fun x => (bypPlace x.1, 64 * x.2))))

/-- Puts a packet on the wire with fresh ACK, NAK, SYNC and CREDIT, its CRC computed afresh (R238, R242, R250). -/
def State.transmit (s : State) (l : Nat) (type : BitVec 3) (seq : BitVec 16) (d : Latched) (msgs : List BypMsg) : State :=
  let sync := s.syncByte (s.link l).peerKey
  s.onLink l (fun k =>
    let c := Nat.min k.owed 15
    let p : Sent := { type := type, seq := seq, ack := k.base - 1, nak := k.naking, sync := sync
                      credit := BitVec.ofNat 4 c, dgrp := d.dgrp, dst := d.dst, op := d.op, payload := d.payload
                      crc := 0, msgs := msgs }
    { k with wire := k.wire ++ [p.sealed], owed := k.owed - c })

/-- A packet with no DATA fields. -/
def noData : Latched := { part := 0, slot := 0, dst := 0, dgrp := 0, op := 0, payload := 0 }

/-- A packet of a type other than DATA: its SEQ is the next number to be assigned (R237). -/
def State.transmitOther (s : State) (l : Nat) (type : BitVec 3) (payload : Vec512) (msgs : List BypMsg) : State :=
  s.transmit l type (s.link l).nextSeq { noData with payload := payload } msgs

/-- The loss record of a NAKREC packet (R237). -/
def Link.lossRecord (k : Link) : Vec512 :=
  BitVec.ofNat 4096 (bodyOf [(k.base.toNat, 0), (k.highest.toNat, 2), (k.nakCause, 4)])

/-- NAKREC while a negative acknowledgement is pending, IDLE if not; a link in QUARANTINE sends IDLE alone (R252). -/
def State.transmitRest (s : State) (l : Nat) : State :=
  if (s.link l).naking && (s.link l).state != .quarantine then s.transmitOther l 3 (s.link l).lossRecord []
  else s.transmitOther l 2 0 []

/-- A training request's code and lane in the control block (log entry 87). -/
def reqCode : TrainReq → Nat × Nat
  | .none => (0, 0) | .fast => (1, 0) | .full => (2, 0) | .swap i => (3, i.val) | .lossOfLock i => (4, i.val)

/-- The training control block (R237; log entry 87): the request, this end's key and link, the lanes that lost light, and, as
R254 has the two ends exchange them, the next number to assign and the receive base. -/
def State.trainBlock (s : State) (l : Nat) : Vec512 :=
  let k := s.link l
  let q := reqCode (k.asked.getD .none)
  BitVec.ofNat 4096 (bodyOf [(q.1, 0), (q.2, 1), (s.mgmt.key.toNat, 2), (l, 4), (k.lostLanes.toNat, 5), (k.nextSeq.toNat, 6),
                             (k.base.toNat, 8)])

/-- A transmission of a packet of the replay buffer: a first one counts in ROTA_SENT of its part, a replay in REPLAYED. -/
def State.transmitHeld (s : State) (l : Nat) (h : Held) : State :=
  let t := s.transmit l 0 h.seq h.data []
  let t := t.onLink l (fun k => { k with
    replay := k.replay.map (fun x => if x.seq = h.seq then { x with sent := x.sent + 1, lastSent := s.time.frc.toNat } else x)
    replayAt := if h.sent = 0 then k.replayAt else some (h.seq + 1)
    counters := if h.sent = 0 then k.counters else { k.counters with replayed := satInc k.counters.replayed } })
  let t := t.onLink l Link.endReplay
  if h.sent = 0 then t.onNet h.data.part (fun n => { n with sent := satInc n.sent }) else t

/-- A replay packet, or the replay limit where this would be its 17th transmission (R244). -/
def State.transmitReplay (s : State) (l : Nat) (h : Held) : State :=
  if 16 ≤ h.sent then s.replayLimit l else s.transmitHeld l h

/-- Whether a packet that waits leaves by a link (R249): one for the neighbour does, a routed one where its primary, or for want of
that its second link is this one, one with no route left where it waits. -/
def State.leavesBy (s : State) (l : Nat) (m : BypMsg) : Bool :=
  m.dest == 0xFFFF || (match s.route m.dest with | some r => r.1 == l | none => true)

/-- The bypass packets that a BYPASS packet of a link would carry now: up to eight, within the credits (R239, R250). -/
def State.sendable (s : State) (l : Nat) : List Queued :=
  let k := s.link l
  (k.queue.filter (fun q => k.state.carries q.msg && s.leavesBy l q.msg)).take (Nat.min 8 k.credits)

/-- A bypass packet as it leaves by a link (R249): its hop count rises by 1, and FLAGS[4] is set where the link is the
destination's second. -/
def State.leaving (s : State) (l : Nat) (m : BypMsg) : BypMsg :=
  let second := m.dest != 0xFFFF && (match s.bypass.routes.find? (fun x => x.1 == m.dest.toNat) with | some x => x.2.1 != l | none => false)
  { m with flags := setBitIf second (m.flags + 1) 4 }

/-- A BYPASS packet: it spends a credit for each bypass packet; below 8 the link asks for a maintenance retrain (R250). -/
def State.transmitBypass (s : State) (l : Nat) : State :=
  let qs := s.sendable l
  let msgs := qs.map (fun q => s.leaving l q.msg)
  let t := s.transmitOther l 1 (bypassPayload msgs) msgs
  let t := qs.foldl (fun t q => match q.via with | some v => t.freePlace v | none => t) t
  t.onLink l (fun k =>
    let c := k.credits - qs.length
    { k with
      queue := qs.foldl (fun l q => l.erase q) k.queue
      credits := c
      err := setBitIf (decide (c < 8)) k.err 6
      maintWanted := k.maintWanted || decide (c < 8)
      counters := { k.counters with bypSent := satAdd k.counters.bypSent qs.length, creditMin := Nat.min k.counters.creditMin c } })

/-- A maintenance window (R239): replay and bypass in turn when both wait. -/
def State.window (s : State) (l : Nat) : State :=
  let k := s.link l
  let by_ := !(s.sendable l).isEmpty
  match k.nextReplay with
  | some h =>
    if by_ && k.lastWindowReplay then (s.transmitBypass l).onLink l (fun k => { k with lastWindowReplay := false })
    else (s.transmitReplay l h).onLink l (fun k => { k with lastWindowReplay := true })
  | none =>
    let t := if by_ then s.transmitBypass l else s.transmitRest l
    t.onLink l (fun k => { k with lastWindowReplay := false })

/-- Whether the region's sheaf cycle counter has reached the start of a slot (R206, R208). -/
def State.slotReached (s : State) (l slot : Nat) : Bool := decide (10 * slot ≤ s.cyc (netRegion (netOf l)))

/-- The first MAINT slot of a link not yet passed. -/
def Link.maintSlot (k : Link) : Option Nat := match k.maint with | [] => none | m :: ms => some (ms.foldl Nat.min m)

/-- A scheduled position (R208, R239): the next unsent slot whose start is reached, where a MAINT slot acts as a window; else
a replay packet, a NAKREC or an IDLE packet. -/
def State.scheduled (s : State) (l : Nat) : State :=
  let k := s.link l
  let rest : State := match k.nextReplay with | some h => s.transmitReplay l h | none => s.transmitRest l
  let asMaint (m : Nat) : State :=
    if s.slotReached l m then (s.onLink l (fun k => { k with maint := k.maint.erase m })).window l else rest
  match k.nextNew, k.maintSlot with
  | some h, some m =>
    if m < h.data.slot then asMaint m
    else if s.slotReached l h.data.slot then s.transmitHeld l h else rest
  | some h, none => if s.slotReached l h.data.slot then s.transmitHeld l h else rest
  | none, some m => asMaint m
  | none, none => rest

/-- A position between a part's end and the next tick, in held ticks and while no job runs (R240).  A packet whose slot has not
begun, latched by a part that still runs, waits for it (R207). -/
def State.backToBack (s : State) (l : Nat) : State :=
  let k := s.link l
  let rest : State := if (s.sendable l).isEmpty then s.transmitRest l else s.transmitBypass l
  match k.nextReplay with
  | some h => s.transmitReplay l h
  | none => match k.nextNew with
    | some h => if !s.sheaf.running || s.slotReached l h.data.slot then s.transmitHeld l h else rest
    | none => rest

/-- The routed packets that wait at other links and whose link is now `l` (R249): a packet leaves by its primary link when that
is UP, else by its second. -/
def State.gather (s : State) (l : Nat) : State :=
  (List.range 56).foldl (fun t k =>
    if k = l then t
    else
      let mine (q : Queued) : Bool := q.msg.dest != 0xFFFF && (match s.route q.msg.dest with | some r => r.1 == l | none => false)
      let qs := (t.link k).queue.filter mine
      if qs.isEmpty then t
      else (t.onLink k (fun x => { x with queue := x.queue.filter (fun q => !mine q) })).onLink l (fun x => { x with queue := x.queue ++ qs })) s

/-- What a link sends at one position, by its state (R252). -/
def State.sendPosition (s : State) (l : Nat) (maintenance : Bool) : State :=
  let k := s.link l
  let train : State := s.transmitOther l 4 (s.trainBlock l) []
  match k.state with
  | .dark => s
  | .seek | .failed => if k.laserOn then train else s
  | .adapt | .align | .fastRetrain => train
  | .discover => if (s.sendable l).isEmpty then train else s.transmitBypass l
  | .quarantine => if (s.sendable l).isEmpty then s.transmitRest l else s.transmitBypass l
  | .up =>
    if s.sheaf.running && !s.finished (netRegion (netOf l)) then
      if maintenance then s.window l else s.scheduled l
    else s.backToBack l

/-- The lasers of a relay with a fatal fault turn off, and its links are down, once its LINK_EVENT has left (R280). -/
def State.settleFatal (s : State) : State :=
  if s.role.fatal && !(List.range 56).any (fun l => (s.link l).queue.any (fun q => namesRelay q.msg && q.msg.src == s.mgmt.key)) then
    let t := (List.range 56).foldl (fun t l => t.onLink l (fun k => { k with
      laserOn := false, state := if k.state == .dark then .dark else .failed })) s
    t.leaveParent t.servo.parentLink.toNat
  else s

/-- PACKET_POSITION: what a link sends at one position of its wire (R239, R240, R252). -/
def execPacketPosition (link : Fin 56) (maintenance : Bool) (s : State) : Host.Outcome State Fault Refusal :=
  .next ((if (s.link link).state == .up then s.gather link else s).sendPosition link maintenance).settleFatal

end Sys2Proof.Machine
end

