-- ==== Sys2Proof/Machine/Discovery.lean ====
section
/-! DEFINITION. Alignment, discovery and what enters UP (R254, R255, R262 to R265), and the links' answer to a new coordinate
or a new map (R15, R252). -/

namespace Sys2Proof.Machine

open Sys2Proof

/-- The Krytast revision and the plan ABI of the module (R262, R307). -/
def kryRevision : BitVec 16 := 0x0100
/-- The plan ABI version that the firmware accepts. -/
def planAbi : BitVec 16 := 0x0100

/-- The module's own map hash: zeros if no map is bound (R262). -/
def State.mapHash (s : State) : Hash := match s.store.map with | some m => m.hash | none => 0

/-- The body of IDENTITY (R262). -/
def State.identityBody (s : State) (l : Nat) : Nat :=
  bodyOf [(s.rst.serial.toNat, 0), (s.mgmt.key.toNat, 8), (b2n s.relay, 10), (l, 11), (kryRevision.toNat, 12),
          (s.rst.fwVersion.toNat, 14), (planAbi.toNat, 18), (leNat (hashBytes s.mapHash), 20)]

/-- IDENTITY to the module at the other end of a link; its repeats keep its MSG_ID (R251). -/
def State.sendIdentity (s : State) (l : Nat) : State :=
  (s.sendLink l 0x01 52 (s.identityBody l)).onLink l (fun k => { k with idMsg := s.msgId })

/-- A link enters UP: its grace ends (R259). -/
def State.goUp (s : State) (l : Nat) : State :=
  s.onLink l (fun k => { k with state := .up, grace := none, rxSync := none, full := false, wasUp := true })

/-- The class bound of R27 in units of 0.25 ns. -/
def classBound (c : Nat) : Nat := match c with | 0 => 698 | 1 => 992 | 2 => 1580 | _ => 2560

/-- A latency over its class bound after a retrain during a job (R317): handled under steps 3 and 4 of R261. -/
def State.latencyOver (s : State) (l : Nat) : State :=
  let t := s.onLink l (fun k => { k with err := setBit k.err 10 })
  if s.jobRuns then
    let t := t.log { code := 0x0504, severity := 2, region := netRegion (netOf l), unit := l
                     action := if s.formUses l then s.abortAction else 1, detail := (s.link l).latency.toNat }
    t.linkLost l 3
  else t

/-- How the spare lane of a link's port group adapted (R253): SPARE_BAD of every link of the group; a single link has none. -/
def State.noteSpare (s : State) (l : Nat) (good : Bool) : State :=
  match groupOf l with
  | none => s
  | some g => ((List.range 56).filter (fun k => groupOf k == some g)).foldl (fun t k =>
      t.onLink k (fun x => { x with laneMap := setBitIf (!good) (x.laneMap &&& 0xDFFFFFFF) 29, full := x.full && k != l })) s

/-- The latency class that the bound map gives a link, and whether the measured latency lies over its bound (R27), which
LATENCY_OVER shows too (R271). -/
def State.classify (s : State) (l : Nat) : State :=
  let e := s.mapEntry l
  let cls := match e with | some e => e.2.2 | none => 0
  s.onLink l (fun k =>
    let over_ := e.isSome && k.trainedOnce && decide (classBound cls < k.latency.toNat)
    { k with cls := BitVec.ofNat 2 cls, overBound := over_, err := setBitIf over_ k.err 10 })

/-- ALIGN_COMPLETE: lanes deskewed, latency measured and checked, sequence state exchanged (R254); the bypass credits are 32
again (R250); DISCOVER follows, or UP after a retrain that needs no discovery (R255).  A full training has also adapted the
spare lane of the link's port group, for every link of the group (R253, R271).  The replay from the peer's base starts as if a
NAK had named it (R254): the one under way before the retrain has ended. -/
def execAlignComplete (link : Fin 56) (latency : BitVec 14) (_peerNext peerBase : BitVec 16) (lanes : LaneResult)
    (s : State) : Host.Outcome State Fault Refusal :=
  let k := s.link link
  if k.state == .align then
    let t := s.onLink link (fun k =>
      let k := { k with
        latency := latency, credits := 32, owed := 0, asked := none
        lostLanes := 0, trainedOnce := true, ownCode := 0, peerCode := 0
        laneMap := if (k.freshSeq && lanes.ownPass) || k.laneMap == 0 then ownLanes link k.laneMap else k.laneMap }
      if k.freshSeq then
        { k with nextSeq := 0, base := 0, seen := [], highest := 0xFFFF, replay := [], replayAt := none, replayFrom := none
                 naking := false, freshSeq := false }
      else
        let k := ({ k with replayAt := none, replayFrom := none } : Link).free (peerBase - 1)
        match k.nakStart s.time.frc.toNat peerBase with
        | some h => { k with replayAt := some h.seq, replayFrom := some h.seq }
        | none => k)
    let t := if k.full then t.noteSpare link lanes.spareAdapted else t
    let t := t.classify link
    let t := if (t.link link).overBound then t.latencyOver link else t
    .next (if k.discoverAfter then
      (t.onLink link (fun k => { k with state := .discover, discoverAfter := false })).sendIdentity link
    else t.goUp link)
  else .next s

/-- IDENTITY_REPEAT: IDENTITY again every 10 µs until a result arrives (R262), under the MSG_ID of the first (R251). -/
def execIdentityRepeat (link : Fin 56) (s : State) : Host.Outcome State Fault Refusal :=
  let k := s.link link
  if k.state == .discover && k.peerCode == 0 then
    .next (s.enqueue link (s.packet 0xFFFF 0x01 52 (s.identityBody link) k.idMsg 0 true))
  else .next s

/-- The link of the module that the map pairs with a peer's link (R263). -/
def State.pairedWith (s : State) (peer : Key) (peerLink : Nat) : Option Nat :=
  (List.range 56).find? (fun l => match s.mapEntry l with | some e => e.1 == peer && e.2.1 == peerLink | none => false)

/-- This end's outcome for a peer's identity (R263; R265 in bench mode). -/
def State.discoveryCode (s : State) (l : Nat) (id : IdBlock) : BitVec 4 :=
  if s.bench then (if id.serial == s.rst.serial then 0xA else 0x1)
  else match s.store.map with
    | none => 0x8
    | some m =>
      let listed := (List.range 56).any (fun k => match s.mapEntry k with | some e => e.1 == id.key | none => false)
      let roleBad := m.coords.any (fun c => c.1 == id.key && c.2 != id.role)
      if !listed || roleBad then 0x1
      else if id.kryRev != kryRevision then 0x2
      else if id.mapHash != m.hash then 0x3
      else if id.planAbi != planAbi then 0x4
      else match s.mapEntry l with
        | none => 0x7
        | some e =>
          if e.1 == id.key && e.2.1 == id.link.toNat then 0x5
          else match groupOf l, s.pairedWith id.key id.link.toNat with
            | some g, some l' =>
              if e.1 == id.key && groupOf l' == some g && s.swapOk s.mgmt.key g then 0x6 else 0x7
            | _, _ => 0x7

/-- A discovery that ended other than with MATCH or REMAP (R264, R269): logged, LINK_ERR.DISCOVERY, and told to the
management controller; the quarantined link's port-table entry is disabled, during a job by a local update (R219, R222). -/
def State.discoveryBad (s : State) (l : Nat) (goal : LinkState) : State :=
  let t := s.onLink l (fun k => { k with
    state := goal, laserOn := k.laserOn && goal != .dark, barred := goal == .dark, err := setBit k.err 9 })
  let t := (t.log { code := 0x0505, severity := 0, region := netRegion (netOf l), unit := l, action := 1
                    detail := (s.link l).ownCode.toNat }).platform "DISCOVERY" l
  if goal == .quarantine && t.linkEnabled l then t.tablesChanged else t

/-- The physical link on which the exchanges run what the map puts on link `a`, and the link whose traffic runs on `b`. -/
def placedOn (m : List (Nat × Nat)) (a : Nat) : Nat := match m.find? (fun x => x.1 == a) with | some x => x.2 | none => a
/-- The link whose traffic the exchanges run on `b`. -/
def placedAs (m : List (Nat × Nat)) (b : Nat) : Nat := match m.find? (fun x => x.2 == b) with | some x => x.1 | none => b

/-- Exchanges such that what the map puts on link `a` runs on `b`: what ran on `b` runs where `a` did (R218). -/
def exchange (m : List (Nat × Nat)) (a b : Nat) : List (Nat × Nat) :=
  let c := placedAs m b
  let d := placedOn m a
  ((m.filter (fun x => x.1 != a && x.1 != c)) ++ [(a, b), (c, d)]).dedup.filter (fun x => x.1 != x.2)

/-- The exchange that a discovery asks for (R218, R222), with the tables that follow from it. -/
def State.exchangeLinks (s : State) (a b : Nat) : State :=
  if placedOn s.tables.remaps a = b then s
  else ({ s with tables := { s.tables with remaps := exchange s.tables.remaps a b } } : State).tablesChanged

/-- The exchange of a REMAP outcome (R218, R222): the physical links of the map's other link and of this one. -/
def State.remapTo (s : State) (l : Nat) : State :=
  match s.pairedWith (s.link l).peerKey (s.link l).peerLink.toNat with
  | none => s
  | some l' => s.exchangeLinks l' l

/-- A peer found in its own position ends an exchange that an earlier discovery has put on the link (R218). -/
def State.unmap (s : State) (l : Nat) : State := s.exchangeLinks l l

/-- What both ends' codes decide (R264, R265). -/
def State.settleDiscovery (s : State) (l : Nat) : State :=
  let k := s.link l
  let a := k.ownCode
  let b := k.peerCode
  let good (c : BitVec 4) : Bool := c == 0x5 || c == 0x6
  if k.state != .discover || a == 0 || b == 0 then s
  else if a == 0x1 || b == 0x1 then s.discoveryBad l .dark
  else if a == 0x8 || b == 0x8 then s
  else if (good a && good b) || (s.bench && a == 0xA && b == 0xA) then
    let t := if a == 0x6 then s.remapTo l else if a == 0x5 then s.unmap l else s
    let t := t.goUp l
    if k.declared then t.tellLink l 2 else t
  else s.discoveryBad l .quarantine

/-- This end's evaluation of a peer's identity, sent as IDENTITY_RESULT. -/
def State.evaluate (s : State) (l : Nat) (id : IdBlock) : State :=
  let c := s.discoveryCode l id
  let t := s.onLink l (fun k => { k with
    peerId := some id, peerKey := id.key, peerSerial := id.serial, peerLink := id.link, peerRole := id.role
    peerRev := id.kryRev, peerFw := id.fwVersion, ownCode := c, disc := c })
  (t.answerLink l id.key 0x01 0x02 1 c.toNat).settleDiscovery l

/-- An UP link whose peer has begun discovery again joins it (log entry 93); its grace starts (R259). -/
def State.rediscover (s : State) (l : Nat) : State :=
  (((s.startGrace l).onLink l (fun k => { k with state := .discover, ownCode := 0, peerCode := 0 })).leaveParent l).sendIdentity l

/-- IDENTITY: the peer's identity is evaluated and answered (R263). -/
def execIdentity (link : Fin 56) (id : IdBlock) (s : State) : Host.Outcome State Fault Refusal :=
  match (s.link link).state with
  | .discover => .next (s.evaluate link id)
  | .up => .next ((s.rediscover link).evaluate link id)
  | _ => .next s

/-- IDENTITY_RESULT: the peer's code (R264). -/
def execIdentityResult (link : Fin 56) (code : BitVec 4) (s : State) : Host.Outcome State Fault Refusal :=
  if (s.link link).state == .discover then
    .next ((s.onLink link (fun k => { k with peerCode := code })).settleDiscovery link)
  else .next s

/-- LINK_MISSING_TIMEOUT: a listed link that has not reached ALIGN within 1 s is reported MISSING and keeps probing (R264). -/
def execLinkMissingTimeout (link : Fin 56) (s : State) : Host.Outcome State Fault Refusal :=
  let k := s.link link
  let aligned := k.trainedOnce || k.state == .discover || k.state == .up || k.state == .quarantine
  if (s.mapEntry link).isSome && !aligned && k.state != .dark then
    .next ((s.onLink link (fun k => { k with disc := 9 })).platform "MISSING" link)
  else .next s

/-! A new coordinate or a new map (R15, R252, R264) -/

/-- Whether a link may leave DARK: bench mode, or a coordinate and a map that lists the link (R252, R265). -/
def State.mayTrain (s : State) (l : Nat) : Bool := s.bench || (s.mgmt.key != 0xFFFF && (s.mapEntry l).isSome)

/-- A link that is DARK and may train goes to SEEK; a training from DARK starts with fresh sequence state (R254).  A link that
UNEXPECTED took DARK stays so (R264, R265). -/
def State.leaveDark (s : State) (l : Nat) : State :=
  if (s.link l).state == .dark && !(s.link l).barred && s.mayTrain l then
    s.onLink l (fun k => { k with state := .seek, freshSeq := true, discoverAfter := true, trainedOnce := false, wasUp := false, disc := 0 })
  else s

/-- A link under a new coordinate or map: DARK to SEEK, QUARANTINE to ADAPT, a link the map no longer lists to DARK, a link
in DISCOVER evaluates its peer again, and every other link runs discovery again: under a new coordinate by a full training (R15),
under a new map by the retrain by which a link leaves UP (R252, R383).  In bench mode a coordinate retrains the links that train, and
neither it nor a map changes which do (R265).  The 1 s of MISSING counts anew (R264). -/
def State.renewLink (s : State) (newKey : Bool) (l : Nat) : State :=
  let k := s.link l
  if s.bench then
    if !newKey || k.state == .seek || k.state == .failed then s
    else if k.state == .dark then s.leaveDark l else s.startFull l
  else if !s.mayTrain l then
    (s.onLink l (fun k => { k with
      state := .dark, laserOn := false, grace := none, peerKey := 0xFFFF, disc := 0, peerId := none, barred := false })).leaveParent l
  else
    let s := s.onLink l (fun k => { k with barred := false, trainedOnce := false })
    match k.state with
    | .dark => s.leaveDark l
    | .quarantine => (s.onLink l (fun k => { k with disc := 0 })).startFull l
    | .discover =>
      if newKey then s.startFull l else match k.peerId with | some id => s.evaluate l id | none => s
    | .seek | .failed => s
    | .up => if newKey then s.startFull l else (s.onLink l (fun k => { k with discoverAfter := true })).startFast l
    | _ => if newKey then s.startFull l else s.onLink l (fun k => { k with discoverAfter := true })

/-- Every link under a new coordinate or map. -/
def State.renewLinks (s : State) (newKey : Bool) : State := (List.range 56).foldl (fun t l => t.renewLink newKey l) s

end Sys2Proof.Machine
end

