-- ==== Sys2Proof/Machine/Landing.lean ====
section
/-! DEFINITION. The landing of vectors from the network (R117, R139 to R142, R171, R172, R212, R225) and the relay's own
requests (R38, R280). -/

namespace Sys2Proof.Machine

open Sys2Proof

/-- The sender's logical position of a logical link (R145, R217, R221): its logical slot on a board, 16 + k for a relay. -/
def State.senderPos (s : State) (i : Nat) : Nat :=
  if i < 45 then ((s.ownSlot.getD 0) + 1 + i / 3) % 16 else 16 + (i - 45)

/-- A vector whose target names no block or stack: discarded, the step aborts (R142). -/
def State.strayArrival (s : State) (l : Nat) (d : Latched) : State :=
  s.stepError { code := 0x0130, severity := 2, region := netRegion (netOf l), unit := l
                detail := bodyOf [(d.dgrp.toNat, 0), (d.dst.toNat, 2)] }

/-- A landing in block SRAM: DST counts vectors of 512 B (R212); WRITE, or LOOSE_ACC into a loose group (R140, R142).  The
vector counts in its group at once; the arrival port stores it in the present period (R117). -/
def State.landBlock (s : State) (l b : Nat) (d : Latched) : State :=
  let g := field d.dgrp 0 6
  let n := field d.dst 0 30
  let k := s.block b
  let legal := decide (n < 12288) && (d.op == 0 || (d.op == 1 && bit k.groups.loose g))
  if k.isolated then s.isolatedArrival b g d.dst.toNat
  else if !legal || k.groups.full g then s.badArrival b g d.dst.toNat
  else
    s.onBlock b (fun k => { k with
      arrivals := k.arrivals ++ [{ place := 512 * n, loose := d.op == 1, bytes := vecBytes d.payload }]
      groups := (k.groups.noteSender g (s.senderPos ((s.logicalLink l).getD 0))).bump g
      landed := if s.debugMode then k.landed ++ [(512 * n, g)] else k.landed })

/-- A landing in a staging store (R171, R172, R221): WRITE at its destination; a staging vector at b + 512 × x inside its
partition, x the staging index of the logical link; stored as in a block (R159). -/
def State.landStaging (s : State) (l i : Nat) (d : Latched) : State :=
  let g := field d.dgrp 0 6
  let n := field d.dst 0 30
  let index : Byte := match s.logicalLink l with | some x => get 0 s.tables.stage x | none => 0
  let staged := d.op == 2 || d.op == 3
  let x := if staged then field index 0 6 else 0
  let legal := decide (n < 32768) && (d.op == 0 || (staged && bit index 7 && decide (n % 512 + x < 512)))
  if !legal || (s.stack i).groups.full g then s.badStackArrival i g d.dst.toNat
  else
    let a := stageBase i 0 + 512 * (n + x)
    (s.noteStaging i a 512).onStack i (fun k => { k with
      arrivals := k.arrivals ++ [{ place := a, bytes := vecBytes d.payload }]
      groups := k.groups.bump g
      landed := if s.debugMode then k.landed ++ [(a, g)] else k.landed })

/-- A vector for the forward store (R212, R225): it is stored at the end of its period, after the reads of that period (R276). -/
def State.landForward (s : State) (l : Nat) (d : Latched) : State :=
  let e := field d.dst 0 30
  if d.op != 0 || d.dgrp != 0 || decide (4096 ≤ e) then s.strayArrival l d
  else { s with fwdArrivals := s.fwdArrivals ++ [{ link := l, entry := e, vec := d.payload }] }

/-- One arrival stored (R225, R276): its entry becomes valid, which ends a forward hold on it; a valid entry collides. -/
def State.storeForward (s : State) (a : FwdArrival) : State :=
  match get none s.forward a.entry with
  | some _ =>
    let t := s.onNet (netOf a.link) (fun n => { n with collides := satInc n.collides })
    t.stepError { code := 0x0507, severity := 2, region := netRegion (netOf a.link), unit := a.link
                  detail := bodyOf [(a.entry, 0), (a.link, 4)] }
  | none =>
    let t := { s with forward := put none s.forward a.entry (some a.vec), role := { s.role with fwdStored := satInc s.role.fwdStored } }
    (List.range 4).foldl (fun t n =>
      if (t.net n).fwdHold && (t.net n).heldEntry.toNat == a.entry then t.onPart n (fun x => { x with fwdHold := false }) else t) t

/-- The arrivals of the period stored. -/
def State.settleForward (s : State) : State := s.fwdArrivals.foldl State.storeForward { s with fwdArrivals := [] }

/-- One accepted vector lands by its destination (R212); the reserved space fails its group. -/
def State.land (s : State) (l : Nat) (d : Latched) : State :=
  let u := field d.dgrp 6 6
  match field d.dst 30 2 with
  | 1 => if u < 12 then s.landStaging l u d else s.strayArrival l d
  | 2 => s.landForward l d
  | sp => match s.physOf u with
    | none => s.strayArrival l d
    | some b =>
      if s.logicalCount ≤ u then s.strayArrival l d
      else if sp = 0 then s.landBlock l b d
      else s.badArrival b (field d.dgrp 0 6) d.dst.toNat

/-- VECTOR_LANDING: a vector that its link has accepted lands (R241). -/
def execVectorLanding (link : Fin 56) (dgrp : BitVec 12) (dst : Word32) (op : BitVec 4) (payload : Vec512) (s : State) :
    Host.Outcome State Fault Refusal :=
  let d : Latched := { part := 0, slot := 0, dst := dst, dgrp := dgrp, op := op, payload := payload }
  if (s.link link).landing.contains d then
    .next ((s.onLink link (fun k => { k with landing := k.landing.erase d })).land link d)
  else .next s

/-- RELAY_HOLD_REQUEST: the coordinator sets HOLD or ABORT in its own bits (R38, R274); a HOLD stands until the next cutoff has
sampled it (R37; log entry 11). -/
def execRelayHoldRequest (src : Key) (isAbort : Bool) (s : State) : Host.Outcome State Fault Refusal :=
  if s.coord.isCoord then
    if isAbort then .next (s.abortFor .consensus)
    else .next { s with
      coord := { s.coord with relayHold := if s.coord.relayHold.contains src then s.coord.relayHold else s.coord.relayHold ++ [src] }
      holds := { s.holds with relayRequest := true } }
  else .next s

/-- A relay that has failed (R280): it names itself in LINK_EVENT and, once that has left, turns off its lasers, so its peers declare
their links failed at once. -/
def State.relayFails (s : State) : State :=
  let t := s.sendKept s.coord.coordKey 0x03 11 (bodyOf [(0x3F, 0), (1, 1), (s.mgmt.key.toNat, 2),
    (s.sheaf.step.toNat % 2 ^ 48, 4), (0x3F, 10)])
  ({ t with role := { t.role with fatal := true } } : State).settleFatal

/-- RELAY_FATAL_FAULT: a relay detects its own fatal fault (R280). -/
def execRelayFatalFault (s : State) : Host.Outcome State Fault Refusal := .next (if s.relay then s.relayFails else s)

end Sys2Proof.Machine
end

