-- ==== Sys2Proof/Machine/Recovery.lean ====
section
/-! DEFINITION. The coordinator and the machine's recovery (R18, R24, R226, R330 to R336, R343, R345, R460): reports, failed
modules, the choice of form and spares, the table update that carries them, beats and succession. -/

namespace Sys2Proof.Machine

open Sys2Proof

/-- ASSAY_ACK of a message to its sender (R345). -/
def State.ack (s : State) (src : Key) (msgId : Word32) : State := s.answerTo src msgId 0x4F 4 (bodyOf [(msgId.toNat, 0)])

/-! Failed modules and links (R333, R334, R226) -/

/-- The physical slots of a key's board that are present, hold no logical slot and have not failed: its spares (R18). -/
def State.spares (s : State) (positions : Sparse Nat) (k : Key) : List Nat :=
  (List.range 17).filter (fun p =>
    let q := mkKey (keyTwin k) (keyRack k) (keyBoard k) p
    s.present.contains q && (logicalSlot positions q).isNone && !s.coord.failed.contains q && !s.coord.excluded.contains q)

/-- The log entry of a module or relay failure (R331): the spec lists no code for it, so its code is a free value (log entry 80). -/
def State.logFailed (s : State) (k : Key) : State := s.logOpen { code := 0, severity := 3, action := 5, detail := k.toNat }

/-- Declares a module failed (R331, R333): a compute module by its key, a relay by its key too. -/
def State.declareFailed (s : State) (k : Key) : State :=
  if keyRelay k then
    if s.coord.failedRelays.contains k then s
    else (({ s with coord := { s.coord with failedRelays := s.coord.failedRelays ++ [k] } }).platform "RELAY_FAILED" k.toNat).logFailed k
  else if s.coord.failed.contains k then s
  else (({ s with
    coord := { s.coord with failed := s.coord.failed ++ [k] }
    fault := { s.fault with recoveryActive := true } }).platform "MODULE_FAILED" k.toNat).logFailed k

/-- At a boundary the coordinator declares failed what its commit excluded (R330) and what asked for it within the step (R340). -/
def State.declareDue (s : State) : State :=
  if s.coord.isCoord then
    let t := (s.coord.excluded ++ s.coord.failDue).foldl State.declareFailed s
    { t with coord := { t.coord with failDue := [] } }
  else s

/-- Whether a report tells of a failed link: declared failed, or over its class (R317). -/
def LinkReport.bad (r : LinkReport) : Bool := r.event == 1 || r.event == 3

/-- The distinct modules that report a failed link to a key (R333). -/
def State.accusers (s : State) (k : Key) : List Key :=
  ((s.coord.reports.filter (fun r => r.bad && r.peer == k && r.src != k)).map (·.src)).dedup

/-- The reports that no declared module failure explains (R333). -/
def State.unexplained (s : State) : List LinkReport :=
  s.coord.reports.filter (fun r => r.bad && !s.coord.failed.contains r.src && !s.coord.failed.contains r.peer)

/-- The relay index of a report about a link at a relay (R226). -/
def LinkReport.relayIndex (r : LinkReport) : Option Nat :=
  if keyRelay r.src then some (keySlot r.src) else if keyRelay r.peer then some (keySlot r.peer) else none

/-- The relay indexes that have failed (R226). -/
def State.failedIndexes (s : State) : List Nat :=
  ((s.unexplained.filterMap LinkReport.relayIndex) ++ s.coord.failedRelays.map keySlot).dedup

/-- Whether the current plan has alternate forms (R226, FLAGS[4]). -/
def State.hasForms (s : State) : Bool := match s.store.cur with | some p => bit p.flags 4 | none => false

/-- The form that the failures call for, and whether they are uncovered (R24, R226): the alternate form of the one index that
failed, whatever form an index since replaced had called for; a plan with no other form, or a second index, is uncovered. -/
def State.wantedForm (s : State) : Nat × Bool :=
  let f := s.tables.form.toNat
  match s.failedIndexes with
  | [] => (f, false)
  | [k] => if s.hasForms then (k + 1, false) else (f, true)
  | _ => (f, true)

/-- The number of failed links that a module reported in the current step (R334). -/
def State.reportCount (s : State) (k : Key) : Nat :=
  (s.coord.reports.filter (fun r => r.bad && r.src == k && r.step.toNat == s.sheaf.step.toNat % 2 ^ 48)).length

/-- R334: of the two modules of a failed board link that nothing else explains, the one that reported more failed links
fails; on a tie the one of higher logical slot. -/
def State.declareByLink (s : State) (r : LinkReport) : State :=
  if keyRelay r.src || keyRelay r.peer || s.coord.failed.contains r.src || s.coord.failed.contains r.peer then s
  else
    let a := s.reportCount r.src
    let b := s.reportCount r.peer
    let sa := (logicalSlot s.tables.positions r.src).getD 0
    let sb := (logicalSlot s.tables.positions r.peer).getD 0
    s.declareFailed (if b < a ∨ (a = b ∧ sb < sa) then r.src else r.peer)

/-- Whether a report tells of a link between two compute modules of a board (R334). -/
def LinkReport.board (r : LinkReport) : Bool := !keyRelay r.src && !keyRelay r.peer

/-- R334 over the board links that no module failure explains. -/
def State.attributeLinks (s : State) : State :=
  if s.coord.isCoord then s.unexplained.foldl (fun t r => t.declareByLink r) s else s

/-! The vote within a machine (R338, R339) -/

/-- Whether two of the indexes lie on one board (R336). -/
def sameBoard (l : List (BitVec 16)) : Bool := decide (¬ (l.map (fun x => x.toNat / 16)).Nodup)

/-- The compute modules whose digests the coordinator awaits: those that hold a logical position, neither excluded nor declared
failed. -/
def State.voters (s : State) : List Key :=
  s.members.filter (fun k => (logicalSlot s.tables.positions k).isSome)

/-- The digests that count (R338): of every position that is not excluded, also of a module that was declared failed after it had
reported. -/
def State.countedDigests (s : State) : List (Key × BitVec 16 × Word128) :=
  s.coord.digests.filter (fun x => (logicalSlot s.tables.positions x.1).isSome && !s.coord.excluded.contains x.1)

/-- How many of a list carry a digest. -/
def votesFor (l : List (Key × BitVec 16 × Word128)) (d : Word128) : Nat := (l.filter (fun x => x.2.2 == d)).length

/-- The value of a strict majority, if one exists. -/
def majority (l : List (Key × BitVec 16 × Word128)) : Option Word128 :=
  (l.find? (fun x => decide (l.length < 2 * votesFor l x.2.2))).map (·.2.2)

/-- The verdict on a full count (R339): its code, the majority digest and the minority. -/
def verdictOf (l : List (Key × BitVec 16 × Word128)) : Nat × Word128 × List (Key × BitVec 16 × Word128) :=
  match majority l with
  | none => (3, 0, [])
  | some d =>
    let minor := l.filter (fun x => x.2.2 != d)
    if minor.isEmpty then (1, d, [])
    else if sameBoard (minor.map (·.2.1)) then (3, d, []) else (2, d, minor)

/-- ASSAY_VERDICT to one module (R345). -/
def State.sendVerdict (s : State) (v : Nat × Word128 × List (Key × BitVec 16 × Word128)) (k : Key) : State :=
  s.sendKept k 0x41 24 (bodyOf [(s.coord.voteStep.toNat, 0), (v.1, 6), (b2n (v.2.2.any (fun x => x.1 == k)), 7), (v.2.1.toNat, 8)])

/-- The vote once every counted digest is in: the verdict goes to every compute module of the twin (R338). -/
def State.vote (s : State) : State :=
  let counted := s.countedDigests
  if s.coord.isCoord && s.voters.all (fun k => counted.any (fun x => x.1 == k)) && !counted.isEmpty then
    let v := verdictOf counted
    let t := (s.members.filter (fun k => !keyRelay k)).foldl (fun t k => t.sendVerdict v k) s
    let t := { t with coord := { t.coord with digests := [], wanted := (t.coord.wanted ++ v.2.2.map (·.2.1)).dedup } }
    if v.1 = 3 then { t with holds := { t.holds with split := true } } else t
  else s

/-! The reports (R333, R345) -/

/-- LINK_EVENT at the coordinator (R333): recorded, a module with two accusers is declared failed, a relay that names itself
or has two accusers likewise, and the form follows (R226). -/
def execLinkEvent (src : Key) (_phys : BitVec 6) (event : BitVec 8) (peer : Key) (step : BitVec 48) (logical : BitVec 6)
    (msgId : Word32) (s : State) : Host.Outcome State Fault Refusal :=
  if s.coord.isCoord then
    let r : LinkReport := { src := src, event := event, logical := logical.toNat, peer := peer, step := step }
    let keep := if event == 2 then s.coord.reports.filter (fun x => !(x.src == src && x.logical == logical.toNat))
      else s.coord.reports.filter (fun x => x != r)
    let t : State := { s with
      coord := { s.coord with reports := keep ++ [r] }
      fault := { s.fault with recoveryActive := s.fault.recoveryActive || (s.jobRuns && r.bad) } }
    let t := if r.bad && (decide (2 ≤ (t.accusers peer).length) || (src == peer && keyRelay src)) then t.declareFailed peer else t
    let t : State := { t with coord := { t.coord with form := BitVec.ofNat 8 t.wantedForm.1 } }
    .next (t.vote.ack src msgId)
  else .next s

/-- FAILING: the coordinator declares the sending module failed (R333); a fatal fault or a second suspect mark, within a step, at the
next boundary (R340; log entry 109). -/
def execFailing (src : Key) (cause : BitVec 8) (_seq : Word32) (msgId : Word32) (s : State) : Host.Outcome State Fault Refusal :=
  if !s.coord.isCoord then .next s
  else if cause == 3 && s.jobRuns && s.sheaf.begun && !s.sheaf.atBoundary then
    .next (({ s with coord := { s.coord with failDue := (s.coord.failDue ++ [src]).dedup } } : State).ack src msgId)
  else .next ((s.declareFailed src).vote.ack src msgId)

/-- The coordinator declares a leaving module failed (R460); with no free spare the second of a board waits (R463). -/
def State.takeRemoval (s : State) (key : Key) : State :=
  let pendingFail := s.coord.failed.filter (fun k => (logicalSlot s.tables.positions k).isSome && !keyRelay k &&
    keyRack k == keyRack key && keyBoard k == keyBoard key && keyTwin k == keyTwin key && k != key)
  let served := keyRelay key || decide (pendingFail.length < (s.spares s.tables.positions key).length) ||
    (logicalSlot s.tables.positions key).isNone
  let t := if served then s.declareFailed key
    else { s with coord := { s.coord with removals := if s.coord.removals.contains key then s.coord.removals else s.coord.removals ++ [key] } }
  { t with coord := { t.coord with form := BitVec.ofNat 8 t.wantedForm.1 } }

/-- REMOVAL: taken and acknowledged. -/
def execRemoval (key : Key) (msgId : Word32) (s : State) : Host.Outcome State Fault Refusal :=
  if s.coord.isCoord then .next ((s.takeRemoval key).vote.ack key msgId) else .next s

/-- The removals that waited, judged again. -/
def State.servedRemovals (s : State) : State :=
  let l := s.coord.removals
  l.foldl (fun t k => t.takeRemoval k) { s with coord := { s.coord with removals := [] } }

/-- RECOVERY_DONE: the coordinator records a module's completed repairs or refill (R335, R345); one with both bits names a module
that set COMMIT_FAULT, which is to be refilled (log entry 110). -/
def execRecoveryDone (src : Key) (_step : BitVec 48) (gen : BitVec 16) (repairs refill : Bool) (msgId : Word32) (s : State) :
    Host.Outcome State Fault Refusal :=
  if s.coord.isCoord then
    .next (({ s with coord := { s.coord with
      recoveries := s.coord.recoveries.filter (fun x => x.1 != src) ++ [(src, gen, repairs, refill)]
      wanted := if repairs && refill && (logicalSlot s.tables.positions src).isSome
        then (s.coord.wanted ++ [replicaIndex s.tables.positions src]).dedup else s.coord.wanted } } : State).ack src msgId)
  else .next s

/-- RECOVERY_TIMEOUT: RECOVERY_STALLED and a hold (R343). -/
def execRecoveryTimeout (s : State) : Host.Outcome State Fault Refusal :=
  if s.fault.recoveryActive then
    let t := { s with fault := { s.fault with recoveryStalled := true }, holds := { s.holds with stalled := true } }
    .next (t.log { code := 0x070E, severity := 4, action := 6, detail := s.sheaf.step.toNat })
  else .next s

/-! The table update of a recovery (R335) -/

/-- The position table after each failed compute module's board spare takes its place (R335), and the keys switched in with
their replica indexes; `none` in the flag where a board has no spare left (R18). -/
def State.switchIns (s : State) : Sparse Nat × List (BitVec 16) × Bool :=
  s.coord.failed.foldl (fun acc k =>
    match logicalSlot acc.1 k with
    | none => acc
    | some l =>
      match s.spares acc.1 k with
      | [] => (acc.1, acc.2.1, true)
      | p :: _ =>
        (put 0x1F acc.1 (posIndex (keyTwin k) (keyRack k) (keyBoard k) l) p,
         acc.2.1 ++ [BitVec.ofNat 16 (keyRack k * 32 + keyBoard k * 16 + l)], acc.2.2))
    (s.tables.positions, [], false)

/-- The 1,024 entries of a position table. -/
def positionList (t : Sparse Nat) : List Nat := (List.range 1024).map (get 0x1F t)

/-- What REFILL_ORDER carries (R345). -/
def refillBody (step : Nat) (gen : BitVec 16) (l : List (BitVec 16)) : Nat :=
  bodyOf ([(step % 2 ^ 48, 0), (gen.toNat, 6), (l.length, 8)] ++ ((l.take 16).zipIdx).map (fun x => (x.1.toNat, 10 + 2 * x.2)))

/-- The replica indexes to be refilled beside those of switched-in spares (R335): the minorities and the modules that set
COMMIT_FAULT, this one among them unless its refill is ordered. -/
def State.wantedRefills (s : State) : List (BitVec 16) :=
  let own := replicaIndex s.tables.positions s.mgmt.key
  if s.fault.commitFault && s.ownSlot.isSome && !s.coord.refill.contains own then (s.coord.wanted ++ [own]).dedup else s.coord.wanted

/-- What a coordinator owes the machine: a form or positions that the tables do not have, or a refill (R335). -/
def State.updateDue (s : State) : Bool :=
  let w := s.switchIns
  (w.1 != s.tables.positions || s.wantedForm.1 != s.tables.form.toNat || !s.wantedRefills.isEmpty || w.2.2 || s.wantedForm.2)

/-- A list in pieces of at most `n`. -/
def pieces {α : Type} (n : Nat) (l : List α) : List (List α) :=
  (List.range (ceilDiv l.length n)).map (fun i => (l.drop (n * i)).take n)

/-- REFILL_ORDER to the modules, 16 indexes a message (R345). -/
def State.sendRefill (s : State) (dests : List Key) (gen : BitVec 16) (l : List (BitVec 16)) : State :=
  (pieces 16 l).foldl (fun t p => t.sendAll dests 0x52 (10 + 2 * p.length) (refillBody t.sheaf.step.toNat gen p)) s

/-- The coordinator's update for every cause reported so far (R335): spares chosen, the update and its refill order sent to every
module of the twin, its own tables staged.  A refill that an abort has broken off is ordered again (R336).  A cause that nothing
covers holds the machine (R18, R24, R336). -/
def State.offerUpdate (s : State) : State :=
  let w := s.switchIns
  let refill := (w.2.1 ++ s.wantedRefills ++ s.coord.refill).dedup
  let uncovered := w.2.2 || s.wantedForm.2
  let unique := !refill.isEmpty && s.body.hasUnique
  if uncovered then { s with holds := { s.holds with spareMissing := true } }
  else if sameBoard refill then
    ({ s with holds := { s.holds with split := true } }).log
      { code := 0x0702, severity := 4, action := 6, detail := s.assay.param.toNat }
  else if unique then
    ({ s with fault := { s.fault with restoreNeeded := true }, holds := { s.holds with restore := true } }).log
      { code := 0x0710, severity := 4, action := 6, detail := s.sheaf.step.toNat }
  else
    let s := { s with holds := { s.holds with spareMissing := false } }
    let base := match s.tables.offered with | some t => t.gen | none => s.tables.gen
    let u : TableSet := { gen := base + 1, form := s.wantedForm.1, positions := positionList w.1, committed := false, localOnly := false }
    let others := s.members.filter (· != s.mgmt.key)
    let t := { s with
      tables := { s.tables with offered := some u, ackedBy := [s.mgmt.key], staged := some u }
      coord := { s.coord with form := BitVec.ofNat 8 u.form, refill := refill, refillGen := u.gen } }
    let t := others.foldl (fun t k => t.sendTable k u) t
    t.sendRefill others u.gen refill

/-- REFILL_ORDER: the module learns which replica indexes are refilled from the installing tick (R336); messages of one generation
make one order. -/
def execRefillOrder (_step : BitVec 48) (gen : BitVec 16) (replicas : List (BitVec 16)) (s : State) :
    Host.Outcome State Fault Refusal :=
  let before := if gen == s.coord.refillGen then s.coord.refill else []
  .next { s with coord := { s.coord with refill := (before ++ replicas.take 16).dedup, refillGen := gen } }

/-- The excluded positions count as not present until the next table install (R330). -/
def State.applyExclude (s : State) (keys : List Key) : State :=
  let t := { s with
    coord := { s.coord with excluded := (s.coord.excluded ++ keys).dedup }
    fault := { s.fault with excluded := s.fault.excluded || keys.contains s.mgmt.key } }
  (pieces 8 keys).foldl (fun t p =>
    t.log { code := 0x070D, severity := 3, action := 7, detail := bodyOf (p.zipIdx.map (fun x => (x.1.toNat, 2 * x.2))) }) t

/-- EXCLUDE to the modules, 16 keys a message (R345). -/
def State.sendExclude (s : State) (dests : List Key) (keys : List Key) : State :=
  (pieces 16 keys).foldl (fun t p => t.sendAll dests 0x53 (8 + 2 * p.length)
    (bodyOf ([(t.sheaf.step.toNat % 2 ^ 48, 0), (p.length, 6)] ++ p.zipIdx.map (fun x => (x.1.toNat, 8 + 2 * x.2))))) s

/-- EXCLUDE (R330). -/
def execExclude (_step : BitVec 48) (keys : List Key) (s : State) : Host.Outcome State Fault Refusal :=
  .next (s.applyExclude (keys.take 16)).vote

/-- HELD_TICK_LIMIT at the coordinator (R44, R322, R330): outside commit sheaves an ABORT; inside them EXCLUDE names every
missing module, which the boundary declares failed.  The limit is 100 consecutive mid-step held ticks, or 200 ms of network
time since the first of them. -/
def execHeldTickLimit (missing : List Key) (s : State) : Host.Outcome State Fault Refusal :=
  let h := s.sheaf
  let reached := decide (100 ≤ h.heldCount) ||
    (match h.heldSince with | some t => decide (t + h.heldPaused + 200000000 ≤ s.nowNs) | none => false)
  if !s.coord.isCoord || !s.jobRuns || !reached then .next s
  else if s.inCommit then
    .next ((s.sendExclude (s.members.filter (· != s.mgmt.key)) missing).applyExclude missing).vote
  else
    let t := s.log { code := 0x0603, severity := 2, action := 2, detail := s.servoDetail }
    .next (t.abortFor .heldLimit)

/-! Beats and succession (R332) -/

/-- The succession order of the module's twin (R332): the named coordinator, then the compute modules that hold a logical
position, in ascending key. -/
def State.succession (s : State) : List Key :=
  let named : Key := match s.store.map with
    | some m => BitVec.ofNat 16 (m.coord.toNat % 2 ^ 15 + keyTwin s.mgmt.key * 2 ^ 15)
    | none => 0xFFFF
  let held := s.twinKeys.filter (fun k => (logicalSlot s.tables.positions k).isSome && k != named)
  named :: held

/-- Whether a message not yet acknowledged goes to a new coordinator (R332): LINK_EVENT, ASSAY_PARAM, TWIN_RESULT,
RECOVERY_DONE. -/
def Unacked.moves (u : Unacked) : Bool := u.mtype == 0x03 || u.mtype == 0x40 || u.mtype == 0x43 || u.mtype == 0x54

/-- A kept message sent again under its own MSG_ID. -/
def State.resend (s : State) (u : Unacked) : State := s.sendWith u.dest u.mtype.toNat u.len.toNat u.body.toNat u.msgId

/-- The messages for a new coordinator sent again (R332). -/
def State.resendMoved (s : State) : State := (s.coord.unacked.filter Unacked.moves).foldl State.resend s

/-- A report as a message (log entry 20): the first 16 bytes of the plan hash, the mode, step, seed and key check. -/
def reportBody (r : StartReport) : Nat :=
  bodyOf [(leNat ((hashBytes r.planHash).take 16), 0), (b2n r.replay, 16), (r.firstStep.toNat, 17), (r.seed.toNat, 23), (r.keyCheck.toNat, 31)]

/-- The next plan's hash and switch step reported to the coordinator, which collects them (R380); as the spec lists no message for it,
in the form of a readiness report (DESIGN CHOICE; log entry 122). -/
def State.tellNext (s : State) (x : Plan) (switchStep : Word64) : State :=
  if s.coord.isCoord then s
  else s.send s.coord.coordKey 0x58 39 (reportBody
    { planHash := x.hash, replay := s.job.replayMode, firstStep := BitVec.ofNat 48 switchStep.toNat, seed := s.job.seed
      keyCheck := BitVec.ofNat 64 (leNat (keyCheck s.assay.key)) })

/-- Takes a coordinator, of which no beat has been heard; what it must hear and has not been acknowledged is addressed to it, and it
collects the next plans anew. -/
def State.follow (s : State) (k : Key) : State :=
  if s.coord.coordKey == k then s
  else
    let un := s.coord.unacked.map (fun u => if u.moves then { u with dest := k } else u)
    let t := { s with coord := { s.coord with coordKey := k, unacked := un, isCoord := k == s.mgmt.key, heardAt := none } }
    let t := match t.store.next, t.store.switchStep with | some x, some w => t.tellNext x w | _, _ => t
    t.log { code := 0x070C, severity := 2, action := 1, detail := bodyOf [(s.coord.coordKey.toNat, 0), (k.toNat, 2)] }

/-- The logical step that a beat carries: all ones while no job runs (log entry 34). -/
def State.beatStep (s : State) : Nat := if s.jobRuns then s.sheaf.step.toNat % 2 ^ 48 else 2 ^ 48 - 1

/-- COORD_BEAT_SEND: every 1 ms (R332, R345). -/
def execCoordBeatSend (s : State) : Host.Outcome State Fault Refusal :=
  if s.coord.isCoord then
    let t := { s with coord := { s.coord with beat := s.coord.beat + 1 } }
    .next (t.sendAll (s.twinKeys.filter (· != s.mgmt.key)) 0x50 12
      (bodyOf [(s.coord.beat.toNat, 0), (s.beatStep, 4), (s.tables.gen.toNat, 10)]))
  else .next s

/-- A joined module that holds no logical slot takes its place in the job from the beats (log entry 34). -/
def State.joinStep (s : State) (step : BitVec 48) : State :=
  if s.job.joining && s.jobRuns && step != 0xFFFFFFFFFFFF && s.sheaf.step.toNat != step.toNat then
    { s with sheaf := { s.sheaf with step := BitVec.ofNat 64 step.toNat, sheafInStep := 0 } }
  else s

/-- COORD_BEAT: the earliest in the order is accepted; the first beat of a new coordinator has it sent what it must hear (R332). -/
def execCoordBeat (src : Key) (_number : Word32) (step : BitVec 48) (_gen : BitVec 16) (s : State) :
    Host.Outcome State Fault Refusal :=
  let order := s.succession
  let place (k : Key) : Nat := order.idxOf k
  if order.contains src && decide (place src ≤ place s.coord.coordKey) then
    let t := s.follow src
    let t := if t.coord.heardAt.isNone then t.resendMoved else t
    .next (({ t with coord := { t.coord with heardAt := some s.frcUs, heardStep := step } } : State).joinStep step)
  else .next s

/-- COORD_BEAT_TIMEOUT: 5 ms without a beat: the next module of the order; the one that finds itself next starts beating and
treats the old one as failed (R332). -/
def execCoordBeatTimeout (s : State) : Host.Outcome State Fault Refusal :=
  if s.coord.isCoord || s.coord.coordKey == 0xFFFF then .next s
  else
    let order := s.succession
    match order[order.idxOf s.coord.coordKey + 1]? with
    | none => .next s
    | some k =>
      let t := s.follow k
      .next (if k == s.mgmt.key then (t.resendMoved.declareFailed s.coord.coordKey).vote else t)

/-! Retries (R345) -/

/-- ASSAY_ACK: the sender stops retrying the message. -/
def execAssayAck (msgId : Word32) (s : State) : Host.Outcome State Fault Refusal :=
  .next { s with coord := { s.coord with unacked := s.coord.unacked.filter (fun u => u.msgId != msgId) } }

/-- MESSAGE_RETRY: every 1 ms each message not yet acknowledged goes again; JOIN has its own interval. -/
def execMessageRetry (s : State) : Host.Outcome State Fault Refusal :=
  .next ((s.coord.unacked.filter (fun u => u.mtype != 0x56)).foldl (fun t u => t.resend u) s)

/-- JOIN_RETRY: every 10 ms a joining module sends JOIN again until it is answered (R345). -/
def execJoinRetry (s : State) : Host.Outcome State Fault Refusal :=
  .next ((s.coord.unacked.filter (fun u => u.mtype == 0x56)).foldl (fun t u => t.resend u) s)

/-- JOIN at the coordinator (R459): both hashes match and the slot holds no logical slot, or the relay is one declared
failed; a duplicate gets its stored answer (R251). -/
def execJoin (key : Key) (planHash mapHash : Word128) (_start : BitVec 8) (msgId : Word32) (s : State) :
    Host.Outcome State Fault Refusal :=
  if !s.coord.isCoord then .next s
  else match s.bypass.answers.find? (fun a => a.1 == key && a.2.1 == msgId) with
    | some a => .next (s.queueFor a.2.2)
    | none =>
      let head (h : Hash) : Word128 := BitVec.ofNat 128 (leNat ((hashBytes h).take 16))
      let plan : Hash := match s.store.cur with | some p => p.hash | none => 0
      let outcome : Nat :=
        if planHash != head plan || mapHash != head s.mapHash then 2
        else if keyRelay key then (if s.coord.failedRelays.contains key then 1 else 4)
        else if (logicalSlot s.tables.positions key).isSome then 3 else 1
      let body := bodyOf [(outcome, 0), (s.tables.gen.toNat, 2)]
      let t := s.answerTo key msgId 0x57 4 body
      if outcome = 1 then
        let t := { t with
          coord := { t.coord with
            failed := t.coord.failed.filter (· != key), failedRelays := t.coord.failedRelays.filter (· != key)
            reports := t.coord.reports.filter (fun r => r.src != key && r.peer != key) }
          holds := { t.holds with spareMissing := false } }
        let seg := bodyOf [(t.time.epoch.toNat, 0), (t.time.period.toNat, 8), (t.sheaf.syncEpoch.toNat, 12)]
        let cur : TableSet := { gen := t.tables.gen, form := t.tables.form.toNat, positions := positionList t.tables.positions
                                committed := true, localOnly := false }
        .next ((t.send key 0x20 13 seg).sendTable key cur)
      else .next t

/-! Neighbours (R457) -/

/-- The hot-plug state's code (R458). -/
def HotPlug.code : HotPlug → Nat
  | .off => 0 | .powered => 1 | .placed => 2 | .spare => 3 | .active => 4 | .leaving => 5 | .safe => 6

/-- The body of MGMT for a link. -/
def State.mgmtBody (s : State) (l : Nat) : Nat :=
  bodyOf [(s.rst.serial.toNat, 0), (s.mgmt.key.toNat, 8), (b2n s.relay, 10), (l, 11), ((s.link l).state.code, 12),
          ((s.link l).disc.toNat, 13), (s.mgmt.tag.toNat, 14), (s.mgmt.hotplug.code, 18)]

/-- MGMT: the last body received on each link is kept (R457). -/
def execMgmt (link : Fin 56) (body : BitVec 160) (s : State) : Host.Outcome State Fault Refusal :=
  .next { s with mgmt := { s.mgmt with neighbours := put 0 s.mgmt.neighbours link body } }

/-- MGMT_SEND: every 1 s on each link whose lasers are lit. -/
def execMgmtSend (s : State) : Host.Outcome State Fault Refusal :=
  .next (((List.range 56).filter (fun l => (s.link l).lit)).foldl (fun t l => t.sendLink l 0x60 20 (t.mgmtBody l)) s)

end Sys2Proof.Machine
end

