-- ==== Sys2Proof/Machine/Assay.lean ====
section
/-! DEFINITION. The assay (R328, R337 to R342): the vote over parameter digests, the comparison of contribution digests between
twins, suspects. -/

namespace Sys2Proof.Machine

open Sys2Proof

/-! Suspects (R340) -/

/-- A suspect mark on this module (R340): a SUSPECT entry with the SEQ of its cause; on the second within 168 h the module asks
to be replaced where its board has a free spare, and else tells the management controller. -/
def State.markSuspect (s : State) (causeSeq : Word32) : State :=
  let marks := s.recentMarks ++ [s.granary.powerMinutes]
  let t := { s with fault := { s.fault with suspect := true, suspectAt := marks } }
  let t := t.log { code := 0x0708, severity := 3, action := 7, detail := causeSeq.toNat }
  if marks.length < 2 then t
  else if (t.spares t.tables.positions t.mgmt.key).isEmpty then t.platform "SUSPECT" marks.length
  else t.sendKept t.coord.coordKey 0x51 5 (bodyOf [(3, 0), (causeSeq.toNat, 1)])

/-! The vote's messages (R338, R339) -/

/-- Both digests of a log entry: the low halves of both (R347 gives 16 bytes). -/
def bothDigests (a b : Word128) : Nat := a.toNat % 2 ^ 64 + (b.toNat % 2 ^ 64) * 2 ^ 64

/-- ASSAY_PARAM: one digest for each position of the step (R338); an older step's is acknowledged alone. -/
def execAssayParam (src : Key) (step : BitVec 48) (replica : BitVec 16) (digest : Word128) (msgId : Word32) (s : State) :
    Host.Outcome State Fault Refusal :=
  if s.coord.isCoord then
    let c := s.coord
    let old := if step == c.voteStep then c.digests else []
    let t : State := if step.toNat < c.voteStep.toNat then s
      else { s with coord := { c with voteStep := step, digests := old.filter (fun x => x.1 != src) ++ [(src, replica, digest)] } }
    .next ((if step.toNat < c.voteStep.toNat then t else t.vote).ack src msgId)
  else .next s

/-- ASSAY_VERDICT at a compute module (R339): PASS opens the gate; REFILL aborts, and a minority module marks itself suspect;
SPLIT aborts and holds the machine.  A board spare, which sent no digest, keeps the verdict for the gate of the redo that it may
be switched into (R328). -/
def execAssayVerdict (step : BitVec 48) (verdict : BitVec 8) (minority : Bool) (digest : Word128) (src : Key) (msgId : Word32)
    (s : State) : Host.Outcome State Fault Refusal :=
  let t := s.ack src msgId
  let a := t.assay
  let u : State := { t with assay := { a with
    verdict := BitVec.ofNat 2 verdict.toNat, passed := if verdict == 3 then a.passed else some step } }
  if s.ownSlot.isNone then .next u
  else if !a.verdictPending || a.step != step then .next t
  else
    let t : State := { u with assay := { u.assay with verdictPending := false, refillOwed := a.refillOwed || verdict == 2 } }
    if verdict == 2 then
      let seq := t.fault.nextSeq
      let t := t.stepError { code := 0x0701, severity := 3, detail := bothDigests a.param digest }
      .next (if minority then t.markSuspect seq else t)
    else if verdict == 3 then
      let t := t.stepError { code := 0x0702, severity := 4, detail := bothDigests a.param digest }
      .next { t with holds := { t.holds with split := true } }
    else .next t

/-! The twin assay (R341, R342) -/

/-- The counterpart of a module in the other twin (R341). -/
def State.counterpart (s : State) : Option Key :=
  let k := s.mgmt.key
  if s.relay then some (mkKey (1 - keyTwin k) (keyRack k) 2 (keySlot k))
  else match s.ownSlot with
    | none => none
    | some l =>
      let p := posAt s.tables.positions (1 - keyTwin k) (keyRack k) (keyBoard k) l
      if p ≤ 16 then some (mkKey (1 - keyTwin k) (keyRack k) (keyBoard k) p) else none

/-- A record of a step and attempt. -/
def findDigest (l : List DigestRec) (step : BitVec 48) (attempt : Byte) : Option DigestRec :=
  l.find? (fun d => d.step == step && d.attempt == attempt)

/-- Records of the last four steps (R341). -/
def keepFour (l : List DigestRec) (step : BitVec 48) : List DigestRec := l.filter (fun d => decide (step.toNat < d.step.toNat + 4))

/-- TWIN_CONTRIB of one record to the counterpart (R341, R345). -/
def State.sendContrib (s : State) (d : DigestRec) : State :=
  match s.counterpart with
  | none => s
  | some k => s.send k 0x42 24 (bodyOf [(d.step.toNat, 0), (d.attempt.toNat, 6), (d.form.toNat, 7), (d.digest.toNat, 8)])

/-- A relay's outcome to its coordinator (R341, R345): match, mismatch or SKIPPED. -/
def State.tellOutcome (s : State) (d : DigestRec) (outcome : Nat) : State :=
  if s.relay then
    let o := if outcome = 4 ∨ outcome = 5 then 1 else if outcome = 6 then 2 else outcome
    s.sendKept s.coord.coordKey 0x43 8 (bodyOf [(d.step.toNat, 0), (d.attempt.toNat, 6), (o, 7)])
  else s

/-- A settled comparison: the outcome is shown, the gate no longer waits for it, a hold for it ends (R328, R341). -/
def State.twinSettled (s : State) (d : DigestRec) (outcome : Nat) : State :=
  ({ s with
    assay := { s.assay with twinPending := false, twinLost := false, twinOutcome := BitVec.ofNat 3 outcome }
    holds := { s.holds with twin := false } } : State).tellOutcome d outcome

/-- A mismatch: both modules abort; a relay asks its coordinator (R342, R274). -/
def State.twinMismatch (s : State) (own peer : DigestRec) (code : BitVec 16) (severity outcome : Nat) : State :=
  let t := s.stepError { code := code, severity := severity, detail := bothDigests own.digest peer.digest }
  ({ t with assay := { t.assay with twinOutcome := BitVec.ofNat 3 outcome } } : State).tellOutcome own outcome

/-- The comparison of two digests of one step and attempt (R341, R342).  At the third attempt a compute module holds by its own HOLD:
no message tells its coordinator of it (log entry 111). -/
def State.twinCompare (s : State) (own peer : DigestRec) : State :=
  let origOwn := findDigest s.assay.kept own.step 0
  let origPeer := findDigest s.assay.heard own.step 0
  if s.relay && own.form != peer.form then s.twinSettled own 3
  else if own.digest == peer.digest then
    match origOwn, origPeer with
    | some o, some p =>
      if own.attempt == 0 || o.digest == p.digest || own.digest == o.digest then s.twinSettled own 1
      else if own.digest == p.digest then
        let seq := s.fault.nextSeq
        let t := s.log { code := 0x0704, severity := 3, detail := bothDigests o.digest p.digest }
        (t.markSuspect seq).twinSettled own 4
      else
        (s.log { code := 0x0705, severity := 4, detail := bothDigests o.digest p.digest }).twinSettled own 5
    | _, _ => s.twinSettled own 1
  else if 2 ≤ own.attempt.toNat then
    let t := s.twinMismatch own peer 0x0706 4 6
    if t.relay then t else { t with holds := { t.holds with split := true } }
  else s.twinMismatch own peer 0x0703 2 2

/-- Compares the current step's digests once both are there. -/
def State.twinTry (s : State) (step : BitVec 48) (attempt : Byte) : State :=
  match findDigest s.assay.kept step attempt, findDigest s.assay.heard step attempt with
  | some o, some p => if s.assay.twinPending || s.assay.twinLost then s.twinCompare o p else s
  | _, _ => s

/-- The contribution digest becomes final when the parts of the gate sheaf end (R337): it is shown, kept, sent to the
counterpart and compared (R341). -/
def State.finalizeContrib (s : State) : State :=
  let step : BitVec 48 := BitVec.ofNat 48 s.sheaf.step.toNat
  if s.gateSheaf && (List.range 4).all (fun n => s.finished (netRegion n)) &&
      (findDigest s.assay.kept step s.assay.attempt).isNone then
    let d := (List.range 4).foldl (fun a n => a + (s.net n).digest) 0
    let r : DigestRec := { step := step, attempt := s.assay.attempt, form := s.tables.form, digest := d }
    let on := (match s.store.map with | some m => m.twins == 2 | none => false) && s.assay.twinOn && s.counterpart.isSome
    let t := { s with assay := { s.assay with
      contrib := d, kept := keepFour s.assay.kept step ++ [r], twinPending := on && !s.assay.twinLost } }
    if on then (t.sendContrib r).twinTry step s.assay.attempt else t
  else s

/-- TWIN_CONTRIB: the counterpart's digest is kept and compared; a counterpart that runs behind is answered from the kept
digests (R341). -/
def execTwinContrib (src : Key) (step : BitVec 48) (attempt form : BitVec 8) (digest : Word128) (s : State) :
    Host.Outcome State Fault Refusal :=
  if s.counterpart == some src then
    let r : DigestRec := { step := step, attempt := attempt, form := form, digest := digest }
    let t := { s with assay := { s.assay with
      twin := digest
      heard := (keepFour s.assay.heard step).filter (fun d => !(d.step == step && d.attempt == attempt)) ++ [r] } }
    match findDigest s.assay.kept step attempt with
    | some own =>
      if own.step.toNat < s.sheaf.step.toNat % 2 ^ 48 then .next (t.sendContrib own) else .next (t.twinTry step attempt)
    | none => .next t
  else .next s

/-- TWIN_RESULT: the coordinator records a relay's outcome (R341) and holds where the third attempt differs (R342). -/
def execTwinResult (src : Key) (step : BitVec 48) (attempt outcome : BitVec 8) (msgId : Word32) (s : State) :
    Host.Outcome State Fault Refusal :=
  if s.coord.isCoord then
    let l := s.coord.twinResults.filter (fun r => r.1 != src)
    let t : State := { s with
      coord := { s.coord with twinResults := l ++ [(src, step, attempt, outcome)] }
      holds := { s.holds with split := s.holds.split || (outcome == 2 && decide (2 ≤ attempt.toNat)) } }
    let t := if t.resultsIn && t.twinIn then { t with holds := { t.holds with twin := false } } else t
    .next (t.ack src msgId)
  else .next s

/-- TWIN_WAIT_EXPIRED: TWIN_LOST, comparison stops and the gate passes (R341). -/
def execTwinWaitExpired (s : State) : Host.Outcome State Fault Refusal :=
  if s.holds.twin then
    let last := match s.assay.kept.filter (fun d => (findDigest s.assay.heard d.step d.attempt).isSome) with
      | [] => 0
      | l => ((l.getLast?).map (fun d => d.step.toNat)).getD 0
    let t := { s with
      assay := { s.assay with twinLost := true, twinPending := false }
      holds := { s.holds with twin := false } }
    .next (t.log { code := 0x0707, severity := 0, action := 1, detail := last })
  else .next s

end Sys2Proof.Machine
end

