-- ==== Sys2Proof/Machine/Flags.lean ====
section
/-! DEFINITION. What each register of BAR0 reads as (R353): the maps of the register chapters over the state.  A reserved
offset or field reads 0 (R12, R354). -/

namespace Sys2Proof.Machine

open Sys2Proof

/-- The low 32 bits of a number from a bit upward. -/
def wordAt (n lo : Nat) : Word32 := BitVec.ofNat 32 (n / 2 ^ lo)

/-! The time block (R62, R63) -/

/-- SYNC_STATE (R63). -/
def Servo.code : Servo → Nat
  | .unlocked => 0 | .acquire => 1 | .locked => 2 | .holdover => 3 | .master => 4

/-- TIME_STATUS. -/
def State.timeStatus (s : State) : Word32 :=
  pack [(s.servo.state.code, 0), (b2n s.time.nextPending, 3), (b2n s.time.nextLate, 4), (b2n s.servo.holdoverExpired, 5),
        (b2n s.jobRuns, 6), (b2n s.time.nextRange, 7), (s.servo.parentLink.toNat, 8), (s.sheaf.syncEpoch.toNat, 14)]

/-- TPULSEn_CTRL. -/
def Pulse.ctrl (p : Pulse) : Word32 := pack [(b2n p.enable, 0), (b2n p.polarity, 1), (p.mode.toNat, 2), (b2n p.armed, 4)]

/-- A pulse output's registers by offset. -/
def Pulse.reg (p : Pulse) (o : Nat) : Word32 :=
  match o with
  | 0x00 => p.ctrl
  | 0x04 => wordAt p.start.toNat 0
  | 0x08 => wordAt p.start.toNat 32
  | 0x0C => wordAt p.period.toNat 0
  | 0x10 => wordAt p.period.toNat 32
  | 0x14 => p.width
  | _ => 0

/-- CAPn_FRAC. -/
def CapEntry.frac (c : CapEntry) : Word32 := pack [(field c.t 0 16, 0), (b2n c.rising, 16)]

/-- The time block's registers; a word that never captures shows the captured copy. -/
def State.timeReg (s : State) (o : Nat) : Word32 :=
  let t := s.time
  let c := t.copies
  match o with
  | 0x000 => s.timeStatus
  | 0x004 => BitVec.ofNat 32 (field t.now 0 16)
  | 0x008 => wordAt c.t.toNat 16
  | 0x00C => wordAt c.t.toNat 48
  | 0x010 => wordAt t.frc.toNat 0
  | 0x014 => wordAt c.frc.toNat 32
  | 0x018 => wordAt t.anchor.toNat 0
  | 0x01C => wordAt c.anchor.toNat 32
  | 0x020 => BitVec.ofNat 32 (field t.offset 0 16)
  | 0x024 => wordAt c.offset.toNat 16
  | 0x028 => wordAt c.offset.toNat 48
  | 0x02C => wordAt t.rate.toNat 0
  | 0x030 => wordAt c.rate.toNat 32
  | 0x040 => wordAt t.nextAnchor.toNat 0
  | 0x044 => wordAt t.nextAnchor.toNat 32
  | 0x048 => BitVec.ofNat 32 (field t.nextOffset 0 16)
  | 0x04C => wordAt t.nextOffset.toNat 16
  | 0x050 => wordAt t.nextOffset.toNat 48
  | 0x054 => wordAt t.nextRate.toNat 0
  | 0x058 => wordAt t.nextRate.toNat 32
  | 0x05C => pack [(b2n t.nextPending, 0)]
  | 0x060 => wordAt t.epoch.toNat 0
  | 0x064 => wordAt t.epoch.toNat 32
  | 0x068 => t.period
  | 0x06C => s.sheaf.tick
  | 0x070 => wordAt s.sheaf.sheafCount.toNat 0
  | 0x074 => wordAt c.sheafCount.toNat 32
  | 0x078 => wordAt s.sheaf.step.toNat 0
  | 0x07C => wordAt c.step.toNat 32
  | 0x080 => pack [(s.sheaf.sheafInStep.toNat, 0)]
  | 0x084 => s.sheaf.heldTicks
  | 0x088 => s.sheaf.heldConsec
  | 0x08C => pack [(s.sheaf.sampled.toNat, 0), (s.sheaf.latched.toNat, 8)]
  | 0x090 => s.servo.holdoverBudget
  | 0x094 => s.servo.servoOffset
  | 0x140 => pack [(b2n t.capEnable, 0), (t.capEdge.toNat, 1)]
  | 0x144 => pack [(b2n t.valid0, 0), (b2n t.valid1, 1)]
  | 0x148 => t.cap0.frac
  | 0x14C => wordAt t.cap0.t.toNat 16
  | 0x150 => wordAt t.cap0.t.toNat 48
  | 0x154 => t.cap1.frac
  | 0x158 => wordAt t.cap1.t.toNat 16
  | 0x15C => wordAt t.cap1.t.toNat 48
  | 0x160 => t.capOverrun
  | _ => if 0x100 ≤ o ∧ o < 0x118 then t.pulse0.reg (o - 0x100) else if 0x120 ≤ o ∧ o < 0x138 then t.pulse1.reg (o - 0x120) else 0

/-- The capture that a read of an offset makes (R62). -/
def State.captureAt (s : State) (o : Nat) : State :=
  let t := s.time
  let c := t.copies
  let set (x : Captures) : State := { s with time := { t with copies := x } }
  match o with
  | 0x004 => set { c with t := t.now }
  | 0x010 => set { c with frc := t.frc }
  | 0x018 => set { c with anchor := t.anchor }
  | 0x020 => set { c with offset := t.offset }
  | 0x02C => set { c with rate := t.rate }
  | 0x070 => set { c with sheafCount := s.sheaf.sheafCount }
  | 0x078 => set { c with step := s.sheaf.step }
  | _ => s

/-! Regions (R84), blocks (R150, R151), stacks (R184), DDR5 (R205) -/

/-- Whether a region is in crossing hold or lead hold. -/
def Region.inHold (g : Region) : Bool := decide (0 < g.holdLeft)

/-- A region's registers. -/
def Region.reg (g : Region) (o : Nat) : Word32 :=
  match o with
  | 0x00 => pack [(b2n g.active, 0), (b2n g.calFail, 1), (b2n g.marginLow, 2), (b2n g.temperEol, 3), (b2n g.inHold, 4)]
  | 0x04 => pack [(g.margin.toNat, 0), (g.least.toNat, 8), (g.margin.toNat - 6, 16)]
  | 0x08 => g.stretches
  | 0x0C => g.throttled
  | 0x10 => g.xhold
  | 0x14 => g.leadHold
  | 0x18 => g.xcrc
  | 0x1C => pack [(g.guard.toNat, 0), (g.guardSender.toNat, 8)]
  | 0x20 => pack [(g.temper % 16, 0), (b2n g.scheduled, 4)]
  | 0x24 => g.netDroop
  | _ => 0

/-- GRP_COMPLETE of a block or stack: 0 while it holds no place in a loaded plan. -/
def shownComplete (active : Bool) (k : Groups) : Word64 := if active then k.completeMask else 0

/-- The mask of active loop levels, and SEQ_STATE (R150). -/
def Block.seqState (k : Block) : Word32 :=
  pack ([(k.seq.line % 2 ^ 14, 0), (k.sel.toNat, 18)] ++ (List.range 4).map (fun l => (b2n (k.seq.active l), 14 + l)))

/-- A block's registers. -/
def Block.reg (k : Block) (o : Nat) : Word32 :=
  match o with
  | 0x00 => pack [(b2n k.active, 0), (b2n k.isolated, 1), (b2n k.failed, 2), (b2n k.fused, 3),
                  (b2n (k.seq.waiting.isSome || k.seq.stalled), 4), (b2n k.spareInUse, 5), (b2n k.frozen, 6), (k.logical.toNat, 8)]
  | 0x04 => k.err
  | 0x08 => k.errInfo
  | 0x0C => k.cellMap
  | 0x10 => k.arrivalStalls
  | 0x14 => k.instrStalls
  | 0x18 => k.variant
  | 0x1C => k.sramCe
  | 0x20 => k.sramUeAddr
  | 0x24 => k.isoDiscards
  | 0x28 => k.planFaults
  | 0x2C => k.planFaultInfo
  | 0x30 => wordAt (shownComplete k.active k.groups).toNat 0
  | 0x34 => wordAt (shownComplete k.active k.groups).toNat 32
  | 0x38 => wordAt k.groups.failed.toNat 0
  | 0x3C => wordAt k.groups.failed.toNat 32
  | 0x40 => k.seqState
  | _ => 0

/-- REG_VARIANT of a compute region (R151). -/
def State.regVariant (s : State) (m : Nat) : Nat := (List.range 4).foldl (fun a j => a + (s.block (4 * m + j)).variant.toNat) 0

/-- MODULE_VARIANT (R289). -/
def State.moduleVariant (s : State) : Nat := (List.range 16).foldl (fun a m => a + s.regVariant m) 0
/-- STEP_VARIANT: the count since the step began, saturating (R305). -/
def State.stepVariant (s : State) : Word32 := satAdd 0 (s.moduleVariant - s.glean.varBase)

/-- The block register block: blocks, then the regions' summaries. -/
def State.blockReg (s : State) (o : Nat) : Word32 :=
  if o < 0x4000 then (s.block (o / 0x100)).reg (o % 0x100)
  else if o < 0x4200 then
    let m := (o - 0x4000) / 0x20
    let bits (f : Block → Bool) (lo : Nat) : List (Nat × Nat) := (List.range 4).map (fun j => (b2n (f (s.block (4 * m + j))), lo + j))
    match o % 0x20 with
    | 0x00 => wordAt (s.regVariant m) 0
    | 0x04 => wordAt (s.regVariant m) 32
    | 0x08 => (s.region m).gatedCc
    | 0x0C => pack (bits (fun k => k.err != 0) 0 ++ bits (fun k => k.isolated) 4)
    | _ => 0
  else 0

/-- Whether a stack region gates for a wait, a stall or a forced refresh. -/
def Stack.gates (k : Stack) : Bool := k.seq.waiting.isSome || k.seq.stalled || decide (0 < k.gate)

/-- A stack region's registers. -/
def Stack.reg (k : Stack) (o : Nat) : Word32 :=
  match o with
  | 0x00 => pack [(b2n k.active, 0), (b2n k.gates, 1), (b2n k.autoRefresh, 2), (b2n k.degraded, 3), (b2n k.digestValid, 4)]
  | 0x04 => k.err
  | 0x08 => k.errInfo
  | 0x0C => k.ceCount
  | 0x10 => wordAt k.ueAddr.toNat 0
  | 0x14 => wordAt k.ueAddr.toNat 32
  | 0x18 => k.arrivalStalls
  | 0x1C => k.instrStalls
  | 0x20 => k.planFaults
  | 0x24 => k.planFaultInfo
  | 0x28 => wordAt (shownComplete k.active k.groups).toNat 0
  | 0x2C => wordAt (shownComplete k.active k.groups).toNat 32
  | 0x30 => wordAt k.groups.failed.toNat 0
  | 0x34 => wordAt k.groups.failed.toNat 32
  | 0x38 => k.refreshForced
  | 0x3C => pack [(k.debtMax.toNat, 0)]
  | 0x40 => k.ppr
  | 0x44 => wordAt k.digest.toNat 0
  | 0x48 => wordAt k.digest.toNat 32
  | 0x4C => wordAt k.digest.toNat 64
  | 0x50 => wordAt k.digest.toNat 96
  | 0x54 => k.arrDiscards
  | _ => 0

/-- A channel's registers. -/
def Ddr.reg (k : Ddr) (o : Nat) : Word32 :=
  match o with
  | 0x00 => pack [(b2n k.present, 0), (b2n k.trained, 1), (b2n k.fromStore, 2), (b2n k.mrdimm, 3), (b2n k.ce, 4), (b2n k.ue, 5),
                  (b2n (k.run.isSome || (k.background && !k.suspended)), 6), (b2n k.mixed, 7)]
  | 0x04 => pack [(k.capacity % 2 ^ 16, 0)]
  | 0x08 => pack [(if k.trained then k.speed % 2 ^ 16 else 0, 0)]
  | 0x0C => k.ceCount
  | 0x10 => wordAt k.ueAddr.toNat 0
  | 0x14 => wordAt k.ueAddr.toNat 32
  | 0x18 => k.moves
  | 0x1C => k.late
  | 0x20 => k.lateMax
  | 0x24 => k.suspends
  | _ => 0

/-! Rota (R229, R230), links (R270, R271), role (R283) -/

/-- A network region's rota registers. -/
def Net.reg (n : Net) (frozen : Bool) (o : Nat) : Word32 :=
  match o with
  | 0x00 => pack [(b2n n.active, 0), (b2n frozen, 1), (b2n n.windowStall, 2), (b2n n.fwdHold, 3), (b2n n.rotaHold, 4)]
  | 0x04 => n.sent
  | 0x08 => n.stallCc
  | 0x0C => n.fwdHoldCc
  | 0x10 => n.darkSkips
  | 0x14 => n.collides
  | 0x18 => pack [(n.corrected.toNat, 0), (n.uncorrected.toNat, 16)]
  | 0x1C => pack [((n.fetched - n.read + n.ahead) % 2 ^ 17, 0)]
  | _ => 0

/-- A port-table entry as its register. -/
def PortEntry.word (p : PortEntry) : Word32 :=
  pack [(p.phys.toNat, 0), (b2n p.enabled, 6), (b2n p.remapped, 7), (p.port.toNat, 8)]

/-- ARRIVAL_MARGIN: M and S of the plan, 2,000 ns and 50 ns without one; its reset value 0x0064_07D0 gives S in [26:17]. -/
def State.marginReg (s : State) : Word32 :=
  match s.store.cur with | some p => pack [(p.margin % 2 ^ 17, 0), (p.skew % 2 ^ 10, 17)] | none => pack [(2000, 0), (50, 17)]

/-- The rota register block. -/
def State.rotaReg (s : State) (o : Nat) : Word32 :=
  if o < 0x80 then (s.net (o / 0x20)).reg (s.region (netRegion (o / 0x20))).inHold (o % 0x20)
  else if o = 0x100 then pack [(field s.tables.form 0 4, 0), (s.tables.gen.toNat, 16)]
  else if o = 0x104 then
    match s.tables.staged with
    | some t => pack [(1, 0), (b2n t.committed, 1), (b2n t.localOnly, 2), (t.gen.toNat, 16)]
    | none => 0
  else if o = 0x108 then
    pack [(s.sheaf.pattern % 2 ^ 12, 0), (if s.jobRuns then s.nextPattern % 2 ^ 12 else 0, 16)]
  else if o = 0x10C then s.marginReg
  else if 0x200 ≤ o ∧ o < 0x2E0 then (s.portAt ((o - 0x200) / 4)).word
  else if 0x300 ≤ o ∧ o < 0x338 then
    BitVec.ofNat 32 (leNat ((List.range 4).map (fun q => get 0 s.tables.stage (o - 0x300 + q) &&& 0xBF)))
  else if 0x400 ≤ o ∧ o < 0x800 then
    BitVec.ofNat 32 (leNat ((List.range 4).map (fun q => BitVec.ofNat 8 (get 0x1F s.tables.positions (o - 0x400 + q)))))
  else 0

/-- GRACE_ELAPSED_US (R270). -/
def State.graceUs (s : State) (l : Nat) : Nat := match (s.link l).grace with | some g => (s.nowNs - g) / 1000 | none => 0

/-- A link's registers. -/
def State.linkReg (s : State) (l o : Nat) : Word32 :=
  let k := s.link l
  let c := k.counters
  match o with
  | 0x00 => pack [(k.state.code, 0), (b2n k.grace.isSome, 4), (b2n k.lit, 5), (b2n s.bench, 6), (k.disc.toNat, 8),
                  (k.peerKey.toNat, 16)]
  | 0x04 => k.err
  | 0x08 => pack [(k.laneMap.toNat % 2 ^ 25, 0), (k.lostLanes.toNat, 25), (field k.laneMap 29 1, 29)]
  | 0x0C => pack [(k.latency.toNat, 0), (k.cls.toNat, 14), (b2n k.overBound, 16)]
  | 0x10 => pack [(k.nextSeq.toNat, 0), (k.base.toNat, 16)]
  | 0x14 => pack [(k.replay.length % 2 ^ 11, 0), (c.fillMax % 2 ^ 11, 16)]
  | 0x18 => c.crc
  | 0x1C => c.fecCorrected
  | 0x20 => c.fecUncorrectable
  | 0x24 => c.naksSent
  | 0x28 => c.replayed
  | 0x2C => c.dups
  | 0x30 => pack [(k.credits % 2 ^ 6, 0), (c.creditMin % 2 ^ 6, 8)]
  | 0x34 => c.bypSent
  | 0x38 => c.bypReceived
  | 0x3C => c.bypDrops
  | 0x40 => pack [(c.fastRetrains.toNat, 0), (c.fullTrainings.toNat, 16)]
  | 0x44 => c.maintRetrains
  | 0x48 => c.rotaHoldCc
  | 0x4C => BitVec.ofNat 32 (s.graceUs l)
  | 0x50 => c.flushed
  | 0x54 => wordAt k.peerSerial.toNat 0
  | 0x58 => wordAt k.peerSerial.toNat 32
  | 0x5C => pack [(k.peerLink.toNat, 0), (b2n k.peerRole, 6), (k.peerRev.toNat, 16)]
  | 0x60 => k.peerFw
  | _ => 0

/-- The link register block. -/
def State.linkBlockReg (s : State) (o : Nat) : Word32 :=
  if o < 0x1C00 then s.linkReg (o / 0x80) (o % 0x80)
  else match o with
    | 0x1C00 => pack [(kryRevision.toNat, 0)]
    | 0x1C04 => s.bypass.graceLimit
    | 0x1C08 => s.bypass.dups
    | 0x1C0C => pack [(s.granary.startCount.toNat, 0)]
    | _ => 0

/-- The role register block. -/
def State.roleReg (s : State) (o : Nat) : Word32 :=
  let r := s.role
  match o with
  | 0x00 => pack [(b2n s.relay, 0), (b2n r.computeGated, 1), (b2n r.ddrOff, 2), (b2n (r.secondCopy && s.copiesWhole), 3), (s.mgmt.key.toNat, 8)]
  | 0x04 => r.fwdStored
  | 0x08 => r.fwdCut
  | 0x0C => r.fwdUnread
  | 0x10 => pack [(r.holdReqs.toNat, 0), (r.abortReqs.toNat, 16)]
  | 0x14 => pack [(r.inputPower.toNat, 0)]
  | _ => 0

/-! Determinism (R305), hazards (R325), faults (R349, R350), reset (R415, R416), granary (R434, R435) -/

/-- Whether the current plan is loose (FLAGS[0]). -/
def State.loosePlan (s : State) : Bool := match s.store.cur with | some p => bit p.flags 0 | none => false

/-- The determinism register block. -/
def State.detReg (s : State) (o : Nat) : Word32 :=
  let g := s.glean
  let r := g.replay
  match o with
  | 0x00 => pack [(b2n s.loosePlan, 0), (b2n s.debugMode, 1), (b2n (g.on && !r.active), 2), (b2n g.broken, 3), (b2n g.held, 4),
                  (b2n r.active, 5), (b2n r.diverged, 6), (b2n r.planWait, 7), (b2n g.feedChanged, 8)]
  | 0x04 => wordAt s.moduleVariant 0
  | 0x08 => wordAt s.moduleVariant 32
  | 0x0C => s.stepVariant
  | 0x10 => wordAt g.rseq.toNat 0
  | 0x14 => wordAt g.rseq.toNat 32
  | 0x18 => wordAt g.spilledSeq.toNat 0
  | 0x1C => wordAt g.spilledSeq.toNat 32
  | 0x20 => if g.on then BitVec.ofNat 32 ((g.length - g.used) / 2 ^ 20) else 0
  | 0x24 => g.holds
  | 0x28 => g.gaps
  | 0x2C => wordAt r.step.toNat 0
  | 0x30 => wordAt r.step.toNat 32
  | 0x34 => wordAt r.divStep.toNat 0
  | 0x38 => wordAt r.divStep.toNat 32
  | 0x3C => r.feedMismatch
  | _ => 0

/-- The hazard register block. -/
def State.hazardReg (s : State) (o : Nat) : Word32 :=
  let h := s.hazard
  match o with
  | 0x00 => pack [(b2n h.recorded, 0), (b2n (s.debugMode && s.jobRuns), 1), (h.kind.toNat, 2)]
  | 0x04 => h.whereW
  | 0x08 => h.sheaf
  | 0x0C => h.step
  | 0x10 => wordAt h.addr.toNat 0
  | 0x14 => wordAt h.addr.toNat 32
  | 0x18 => h.count
  | _ => 0

/-- FAULT_STATUS. -/
def State.faultStatus (s : State) : Word32 :=
  let f := s.fault
  pack [(b2n f.recoveryActive, 0), (b2n f.refillActive, 1), (b2n f.commitFault, 2), (b2n f.suspect, 3), (b2n f.excluded, 4),
        (b2n s.coord.isCoord, 5), (b2n f.recoveryStalled, 6), (b2n f.planSuspect, 7), (b2n f.restoreNeeded, 8)]

/-- ASSAY_STATUS. -/
def State.assayStatus (s : State) : Word32 :=
  let a := s.assay
  pack [(b2n a.keySet, 0), (b2n a.twinOn, 1), (b2n a.twinLost, 2), (b2n a.verdictPending, 3), (b2n a.twinPending, 4),
        (a.verdict.toNat, 5), (a.twinOutcome.toNat, 7), (a.attempt.toNat, 16)]

/-- COORD_STATUS: the milliseconds since the last beat saturate. -/
def State.coordStatus (s : State) : Word32 :=
  let ms := match s.coord.heardAt with | some t => Nat.min 255 ((s.frcUs - t) / 1000) | none => 0
  pack [(s.coord.coordKey.toNat, 0), (ms, 16)]

/-- The reach of an episode's sources (R396, R415): the widest wins. -/
def ResetSource.reach : ResetSource → Nat
  | .powerGood | .supply => 1
  | .rstPin | .mgmtCold | .thermal => 2
  | .mgmtWarm | .hostWarm | .watchdog => 3
  | .hostJob | .forcedAbort => 4
  | .fwRegion => 5
  | .fwBlock => 6

/-- The reset registers. -/
def State.resetReg (s : State) (o : Nat) : Word32 :=
  let r := s.rst
  match o with
  | 0x800 => r.cause
  | 0x804 => r.lastCause
  | 0x808 => r.target
  | 0x80C => pack [(r.bootSrc.toNat, 0), (r.clkMode.toNat, 2), (b2n r.role, 4), (b2n r.strapInvalid, 5), (r.booted.toNat, 6),
                   (b2n r.bootFail, 8)]
  | 0x810 => pack [(b2n r.factoryValid, 0), (b2n r.fusesProgrammed, 1), (b2n r.fuseConflict, 2), (b2n r.gradeB, 3)]
  | 0x814 => r.episodes
  | 0x818 => pack [(r.startupMs.toNat, 0)]
  | _ => 0

/-- The granary registers. -/
def State.granaryReg (s : State) (o : Nat) : Word32 :=
  let g := s.granary
  match o with
  | 0xC00 => pack [(b2n g.nor0, 0), (b2n g.nor1, 1), (b2n g.mram, 2), (b2n g.holdupOk, 3), (b2n g.pfActive, 4), (b2n g.restored, 5),
                   (b2n g.writeFail, 6), (b2n g.foldPending, 7)]
  | 0xC04 => g.eol
  | 0xC08 => BitVec.ofNat 32 (g.powerMinutes / 60)
  | 0xC0C => g.powerLosses
  | 0xC10 => g.commits
  | 0xC14 => g.deferred
  | 0xC18 => g.writeFails
  | 0xC1C => pack [((g.recs.foldl (fun m r => Nat.max m r.2.eraseMax) 0) % 2 ^ 17, 0)]
  | 0xC20 => pack [(g.delta.length % 2 ^ 12, 0), (g.lastFolded % 2 ^ 16, 16)]
  | 0xC24 => pack [(g.holdupTime.toNat, 0)]
  | _ => 0

/-- The fault register block with the reset and granary registers. -/
def State.faultReg (s : State) (o : Nat) : Word32 :=
  let f := s.fault
  let a := s.assay
  if o < 0x800 then
    match o with
    | 0x00 => s.faultStatus
    | 0x04 => f.nextSeq
    | 0x08 => f.stepAborts
    | 0x0C => f.abortConsec
    | 0x10 => f.spareSwitches
    | 0x14 => f.refillSheaves
    | 0x18 => BitVec.ofNat 32 s.recentMarks.length
    | 0x1C => s.coordStatus
    | 0x20 => s.assayStatus
    | 0x24 => wordAt a.step.toNat 0
    | 0x28 => wordAt a.step.toNat 32
    | 0x2C => a.twinWait
    | _ =>
      if 0x30 ≤ o ∧ o < 0x40 then wordAt a.param.toNat (8 * (o - 0x30))
      else if 0x40 ≤ o ∧ o < 0x50 then wordAt a.contrib.toNat (8 * (o - 0x40))
      else if 0x50 ≤ o ∧ o < 0x60 then wordAt a.twin.toNat (8 * (o - 0x50))
      else 0
  else if o < 0xC00 then s.resetReg o
  else s.granaryReg o

/-! The port block (R355) -/

/-- A role's code (R355). -/
def PortRole.code : PortRole → Nat
  | .none => 0 | .observer => 1 | .feeder => 2 | .owner => 3

/-- A mailbox state's code, the recovery shown where its command waits on it (R355, R360). -/
def MbxState.code (recovery : Bool) : MbxState → Nat
  | .idle => 0 | .posted => 1 | .inProgress => if recovery then 3 else 2 | .done => 4

/-- The mailboxes whose commands act on the running job. -/
def State.jobBoxes (s : State) : List (Nat × Nat) :=
  s.job.hostMbx.map (fun x => (x.1, x.2.1)) ++ s.job.resumeMbx ++ s.job.stopMbx ++
    (if s.save.phase == .armed || s.save.phase == .capturing then [(s.save.port, s.save.mbx)] else [])

/-- Whether a mailbox's command waits on a recovery (R360): one that a boundary completes, or one that waits for its response. -/
def State.waitsOnRecovery (s : State) (p m : Nat) : Bool :=
  s.fault.recoveryActive &&
    (s.jobBoxes.contains (p, m) || (s.mbx p m).follows.any (fun n => s.jobBoxes.contains (p, n.val)))

/-- Whether the machine rests at a step boundary. -/
def State.held (s : State) : Bool := s.jobRuns && s.sheaf.begun && s.sheaf.atBoundary

/-- PORT_STATUS. -/
def State.portStatus (s : State) : Word32 :=
  pack [(b2n s.owner.isSome, 0), (b2n s.store.cur.isSome, 1), (b2n (s.jobRuns && s.sheaf.begun), 2), (b2n s.fault.recoveryActive, 3),
        (b2n s.held, 4), (b2n s.relay, 5), (s.owner.getD 0, 8)]

/-- A mailbox's registers. -/
def Mailbox.reg (m : Mailbox) (recovery : Bool) (o : Nat) : Word32 :=
  match o with
  | 0x00 => m.postLo
  | 0x08 => pack [(m.state.code recovery, 0), (b2n m.dup, 3), (b2n m.overpost, 4), (m.status.toNat, 16)]
  | 0x0C => pack [(b2n m.cplEn, 0)]
  | 0x10 => wordAt m.cplAddr.toNat 0
  | 0x14 => wordAt m.cplAddr.toNat 32
  | _ => 0

/-- The port register block of a port. -/
def State.portReg (s : State) (p o : Nat) : Word32 :=
  let q := s.port p
  let c := s.counts
  match o with
  | 0x000 => pack [(p, 0), (q.role.code, 2)]
  | 0x004 => s.portStatus
  | 0x008 => q.events
  | 0x00C => q.mask
  | 0x014 => pack [(b2n q.abortPending, 0), (b2n q.abortDone, 1), (b2n q.abortForced, 2), (b2n q.jobAborted, 3), (q.abortCount.toNat, 8)]
  | 0x018 => pack [(q.bar2Base.toNat, 0)]
  | 0x01C => pack [(q.bar2Cause.toNat, 0), (q.bar2Fails.toNat, 8)]
  | 0x020 => c.feedHolds
  | 0x024 => c.feedPulls
  | 0x028 => c.feedRejects
  | 0x02C => c.resultWrites
  | 0x030 => c.resultHolds
  | 0x034 => c.resultOverruns
  | 0x038 => c.dupHits
  | 0x03C => c.hostUnavail
  | _ => if 0x100 ≤ o ∧ o < 0x200 then (s.mbx p ((o - 0x100) / 0x20)).reg (s.waitsOnRecovery p ((o - 0x100) / 0x20)) ((o - 0x100) % 0x20) else 0

/-! BAR0 as a whole (R353) -/

/-- A word of a mailbox area. -/
def State.mailboxWord (s : State) (p o : Nat) : Word32 :=
  let m := s.mbx p (o / 0x2000)
  let i := o % 0x2000
  BitVec.ofNat 32 (leNat (if i < 0x1000 then readBytes m.cmd i 4 else readBytes m.resp (i - 0x1000) 4))

/-- What an aligned word of BAR0 reads as through a port. -/
def State.bar0 (s : State) (p off : Nat) : Word32 :=
  let block := off / 0x10000
  let o := off % 0x10000
  match block with
  | 0x00 =>
    if o < 0x1000 then s.portReg p o
    else if o < 0x1400 then get (if ((o - 0x1000) / 4) % 4 = 3 then 1 else 0) (s.port p).msix ((o - 0x1000) / 4)
    else if o = 0x1400 then wordAt (s.port p).pba.toNat 0
    else if o = 0x1404 then wordAt (s.port p).pba.toNat 32
    else 0
  | 0x01 => s.mailboxWord p o
  | 0x10 => if o < 0x1000 then s.timeReg o else 0
  | 0x11 => if o < 33 * 0x40 then (s.region (o / 0x40)).reg (o % 0x40) else 0
  | 0x12 => s.blockReg o
  | 0x13 => if o < 12 * 0x100 then (s.stack (o / 0x100)).reg (o % 0x100) else 0
  | 0x14 => if o < 12 * 0x80 then (s.chan (o / 0x80)).reg (o % 0x80) else 0
  | 0x15 => s.rotaReg o
  | 0x16 => s.linkBlockReg o
  | 0x17 => s.roleReg o
  | 0x18 => s.detReg o
  | 0x19 => s.hazardReg o
  | 0x1A => if o < 0x1000 then s.faultReg o else 0
  | _ => 0

/-- A read of an aligned word with the capture it makes (R62, R354). -/
def State.readBar0 (s : State) (p off : Nat) : State × Word32 :=
  (if off / 0x10000 = 0x10 then s.captureAt (off % 0x10000) else s, s.bar0 p off)

end Sys2Proof.Machine
end

