-- ==== Sys2Proof/Machine/Time.lean ====
section
/-! DEFINITION. Segments and network time (R29 to R31, R49 to R63): epochs, the staged update, the time tree, the servo,
pulses and captures. -/

namespace Sys2Proof.Machine

open Sys2Proof

/-! Segments (R31) -/

/-- The first whole millisecond of network time that lies at least 10 ms ahead of T (R31), in ns. -/
def State.newEpoch (s : State) : Nat := ceilDiv (s.now.toNat + 10000000 * 2 ^ 16) (1000000 * 2 ^ 16) * 1000000

/-- A segment announced to this module: EPOCH_NS shows it at once; P and the sync epoch apply from its tick 0. -/
def State.takeSegment (s : State) (e : Word64) (p : Word32) (se : BitVec 2) : State :=
  { s with time := { s.time with epoch := e }, sheaf := { s.sheaf with nextSeg := some (e, p, se) } }

/-- The coordinator chooses an epoch, sends it to every module of the machine and takes it itself (R31; log entry 20). -/
def State.chooseEpoch (s : State) (p : Word32) (se : BitVec 2) : State :=
  let e : Word64 := BitVec.ofNat 64 s.newEpoch
  let t := s.sendAll (s.members.filter (· != s.mgmt.key)) 0x20 13 (bodyOf [(e.toNat, 0), (p.toNat, 8), (se.toNat, 12)])
  let t := { t with coord := { t.coord with segEpoch := e, segOpen := true, segAcks := [s.mgmt.key] } }
  t.takeSegment e p se

/-- SEGMENT_ANNOUNCEMENT: taken from the coordinator and acknowledged (R31). -/
def execSegmentAnnouncement (src : Key) (epoch : Word64) (p : Word32) (syncEpoch : BitVec 2) (s : State) :
    Host.Outcome State Fault Refusal :=
  if src == s.coord.coordKey then .next ((s.takeSegment epoch p syncEpoch).answer src 0x20 0x21 8 epoch.toNat) else .next s

/-- Whether every module has acknowledged the open epoch. -/
def State.epochAcked (s : State) : Bool := s.members.all s.coord.segAcks.contains

/-- SEGMENT_ACKNOWLEDGEMENT: the coordinator records it (R31). -/
def execSegmentAcknowledgement (src : Key) (epoch : Word64) (s : State) : Host.Outcome State Fault Refusal :=
  if s.coord.isCoord && s.coord.segOpen && s.coord.segEpoch == epoch && !s.coord.segAcks.contains src then
    let t := { s with coord := { s.coord with segAcks := s.coord.segAcks ++ [src] } }
    .next { t with coord := { t.coord with segOpen := !t.epochAcked } }
  else .next s

/-- EPOCH_NOT_ACKNOWLEDGED: the coordinator chooses a new epoch by the same rule (R31). -/
def execEpochNotAcknowledged (s : State) : Host.Outcome State Fault Refusal :=
  match s.sheaf.nextSeg with
  | some (_, p, se) => if s.coord.isCoord && s.coord.segOpen && !s.epochAcked then .next (s.chooseEpoch p se) else .next s
  | none => .next s

/-! The staged update (R50 to R53) -/

/-- The nominal RATE (R51). -/
def nominalRate : BitVec 48 := 0x00F3CF3CF3CF
/-- The band of R52 around the nominal RATE. -/
def rateBand : Nat := 0x40000000
/-- The band of R53 while a job runs: 100 ppm of nominal. -/
def jobBand : Nat := 0x00F3CF3CF3CF / 10000

/-- Whether a RATE lies within a band of the nominal one. -/
def inBand (band : Nat) (r : BitVec 48) : Bool :=
  decide (nominalRate.toNat ≤ r.toNat + band) && decide (r.toNat ≤ nominalRate.toNat + band)

/-- Setting NEXT_ARM (R52): armed, unless it comes late or its RATE is out of range, each with a flag of its own. -/
def TimeBlock.arm (t : TimeBlock) : TimeBlock :=
  let late := !decide (t.frc.toNat < t.nextAnchor.toNat)
  let range := !inBand rateBand t.nextRate
  { t with nextPending := !late && !range, nextLate := t.nextLate || late, nextRange := t.nextRange || range }

/-- NEXT_ARM_WRITE: writing 1 arms, writing 0 has no effect (R11, R52). -/
def execNextArmWrite (v : Word32) (s : State) : Host.Outcome State Fault Refusal :=
  .next (if bit v 0 then { s with time := s.time.arm } else s)

/-- The load of R52, in the FRC cycle in which FRC equals NEXT_ANCHOR. -/
def TimeBlock.load (t : TimeBlock) : TimeBlock :=
  if t.nextPending && t.frc == t.nextAnchor then
    { t with offset := t.nextOffset, rate := t.nextRate, anchor := t.nextAnchor, nextPending := false }
  else t

/-- STAGED_TIME_LOAD (R52). -/
def execStagedTimeLoad (s : State) : Host.Outcome State Fault Refusal := .next { s with time := s.time.load }

/-- The offset in BAR0's time block of a capture register (R62). -/
def captureOffset : CaptureReg → Nat
  | .tFrac => 0x004 | .frcLo => 0x010 | .anchorLo => 0x018 | .offsetFrac => 0x020 | .rateLo => 0x02C
  | .sheafCountLo => 0x070 | .stepNumberLo => 0x078

/-- CAPTURE_READ (R62). -/
def execCaptureRead (r : CaptureReg) (s : State) : Host.Outcome State Fault Refusal := .next (s.captureAt (captureOffset r))

/-- Firmware stages an update for the next FRC cycle (R53): a RATE, and the OFFSET that the current values give there plus a
phase step. -/
def State.stageTime (s : State) (rate : BitVec 48) (phase : BitVec 80) : State :=
  let t := s.time
  let next : TimeBlock := { t with frc := t.frc + 1 }
  { s with time := ({ t with nextAnchor := t.frc + 1, nextOffset := next.now + phase, nextRate := rate } : TimeBlock).arm }

/-! The exchange (R54 to R59) -/

/-- TIME_EXCHANGE, every 1 ms (R54, R58): a master raises its sequence number, and clears the HOLD of a change of master (R59);
any other module takes its parent and asks it; with none reachable the servo is UNLOCKED (R56). -/
def execTimeExchange (s : State) : Host.Outcome State Fault Refusal :=
  if s.servo.state == .master then
    .next { s with servo := { s.servo with masterSeq := s.servo.masterSeq + 1 }, holds := { s.holds with timeSync := false } }
  else
    let t := s.takeParent
    .next (match s.parent with
      | some l => (({ t with servo := { t.servo with t1 := s.now } } : State).sendLink l 0x10 10 s.now.toNat)
      | none => t)

/-- TIME_EXCHANGE_REQUEST: stamped and answered with the master's key and sequence number (R54, R58; log entry 20). -/
def execTimeExchangeRequest (link : Fin 56) (src : Key) (_msgId : Word32) (s : State) : Host.Outcome State Fault Refusal :=
  .next (s.answerLink link src 0x10 0x11 26
    (bodyOf [(s.now.toNat, 0), (s.now.toNat, 10), (s.servo.master.toNat, 20), (s.servo.masterSeq.toNat, 22)]))

/-- A signed reading of a difference of two times. -/
def timeDiff (a b : BitVec 80) : Int := signed 80 (a - b).toNat

/-- Twice the offset of R54, in units of 2^-16 ns: (t4 − t3) − (t2 − t1). -/
def twiceOffset (t1 t2 t3 t4 : BitVec 80) : Int := timeDiff t4 t3 - timeDiff t2 t1

/-- The path delay of R54, in units of 2^-16 ns: half of (t2 − t1) + (t4 − t3). -/
def pathDelay (t1 t2 t3 t4 : BitVec 80) : BitVec 80 := BitVec.ofInt 80 ((timeDiff t2 t1 + timeDiff t4 t3) / 2)

/-- A free RATE folded into the band that binds it (R52, R53; log entry 13). -/
def State.freeRate (s : State) : BitVec 48 :=
  let band := if s.jobRuns then jobBand else rateBand
  BitVec.ofNat 48 (nominalRate.toNat - band + (Config.freeRate s.free).toNat % (2 * band + 1))

/-- Whether a phase step is permitted (R53): no job runs, or the machine holds at a boundary for resynchronization. -/
def State.phaseFree (s : State) : Bool := !s.jobRuns || (s.holds.timeSync && s.sheaf.atBoundary)

/-- The servo steers RATE (R56); the amount, and that of a permitted phase step, are free values (log entry 13).  Nothing is
staged while an update is armed. -/
def State.steer (s : State) : State :=
  if s.time.nextPending then s
  else
    let step := s.servo.state == .acquire && s.phaseFree
    let t := s.stageTime s.freeRate (if step then Config.freePhase s.free else 0)
    { t with free := t.free + 1 }

/-- A job begins (R53): firmware brings a RATE that stands outside the band of a job back into it, and replaces an update that is
still armed, with T continuous. -/
def State.rateForJob (s : State) : State :=
  if inBand jobBand s.time.rate && !s.time.nextPending then s
  else
    let t := s.stageTime s.freeRate 0
    { t with free := t.free + 1 }

/-- The servo's state after an exchange with `d` twice the offset (R56): 10 ns on 8 exchanges locks, 50 ns on 3 unlocks.
SERVO_OFFSET takes the offset's whole units of 1/256 ns, toward minus infinity: R62 names no rounding (DESIGN CHOICE, log
entry 91). -/
def TimeServo.judge (v : TimeServo) (d : Int) : TimeServo :=
  let near := d.natAbs ≤ 20 * 65536
  let far := 100 * 65536 < d.natAbs
  let v := { v with lockRun := if near then v.lockRun + 1 else 0, missRun := if far then v.missRun + 1 else 0
                    servoOffset := BitVec.ofInt 32 (d / 512) }
  match v.state with
  | .locked => if 3 ≤ v.missRun then { v with state := .acquire, lockRun := 0, missRun := 0 } else v
  | _ => if 8 ≤ v.lockRun then { v with state := .locked, missRun := 0 } else { v with state := .acquire }

/-- A budget that TIME_CONFIG set in holdover applies at the exit from it (R390). -/
def TimeServo.settle (v : TimeServo) : TimeServo :=
  match v.budgetNext with
  | some b => if v.state == .holdover then v else { v with holdoverBudget := b, budgetNext := none }
  | none => v

/-- Entering HOLDOVER (R58): RATE stays; the module will hold at the next step boundary. -/
def State.enterHoldover (s : State) : State :=
  { s with servo := { s.servo with state := .holdover, resync := s.jobRuns, lockRun := 0, missRun := 0 } }

/-- TIME_EXCHANGE_RESPONSE (R54, R56, R58): a changed master enters HOLDOVER; in HOLDOVER only an advanced sequence number
counts as an answer; otherwise the exchange is judged and RATE steered.  A module that reports LOCKED clears its HOLD
(R59). -/
def execTimeExchangeResponse (link : Fin 56) (t2 t3 : BitVec 80) (master : Key) (masterSeq : Word32) (s : State) :
    Host.Outcome State Fault Refusal :=
  if s.servo.state == .master || s.servo.parentLink.toNat != link.val then .next s
  else if s.servo.master != 0xFFFF && master != s.servo.master then
    .next ({ s with servo := { s.servo with master := master, masterSeq := masterSeq } } : State).enterHoldover
  else if s.servo.state == .holdover && masterSeq == s.servo.masterSeq then .next s
  else
    let d := twiceOffset s.servo.t1 t2 t3 s.now
    let v := ({ s.servo with
      master := master, masterSeq := masterSeq, delay := pathDelay s.servo.t1 t2 t3 s.now } : TimeServo).judge d |>.settle
    let t := { s with servo := v, holds := { s.holds with timeSync := s.holds.timeSync && v.state != Servo.locked } }
    let t := if s.servo.state == .locked && v.state == .acquire then
        t.log { code := 0x0601, severity := 0, action := 1, detail := t.servoDetail }
      else t
    .next t.steer

/-- MASTER_SEQUENCE_TIMEOUT: 5 ms without an advance of the sequence (R58), on any module that knows a master and is not the
master. -/
def execMasterSequenceTimeout (s : State) : Host.Outcome State Fault Refusal :=
  let v := s.servo.state
  if v == .locked || v == .acquire || (v == .unlocked && s.servo.master != 0xFFFF) then .next s.enterHoldover else .next s

/-- HOLDOVER_EXPIRED: the flag and an entry; the coordinator sets ABORT unless the machine holds at the boundary already (R58,
R63). -/
def execHoldoverExpired (s : State) : Host.Outcome State Fault Refusal :=
  if s.servo.state == .holdover then
    let t := { s with servo := { s.servo with holdoverExpired := true } }
    let aborts := s.coord.isCoord && s.jobRuns && !(s.holds.timeSync && s.sheaf.atBoundary)
    let t := t.log { code := 0x0602, severity := 2, action := if aborts then s.abortAction else 1, detail := s.servoDetail }
    .next (if aborts then t.abortFor .holdover else t)
  else .next s

/-! Pulses and captures (R60, R61) -/

/-- The level of an output: driven while enabled, low otherwise. -/
def Pulse.drive (p : Pulse) : Pulse := { p with high := p.enable && (p.active != p.polarity) }

/-- The edge of a pulse output that is due at network time `now` in ns (R60): the end of the pulse under way, or the rising edge
of a pending one; a train's next edge follows by PERIOD. -/
def Pulse.edge (p : Pulse) (now : Nat) : Pulse :=
  if !p.enable then p
  else if p.active then (if p.fall ≤ now then ({ p with active := false } : Pulse).drive else p)
  else match p.rise with
    | none => p
    | some r =>
      if r ≤ now then
        ({ p with active := true, begun := p.begun + 1, fall := r + p.width.toNat, armed := p.mode != 0
                  rise := if p.mode = 1 then some (r + p.period.toNat) else none } : Pulse).drive
      else p

/-- A sheaf has started at `now` (R60): in mode 2 a pulse begins. -/
def Pulse.sheafStart (p : Pulse) (now : Nat) : Pulse := if p.enable && p.mode == 2 then { p with rise := some now } else p

/-- A pulse output of the time block. -/
def TimeBlock.pulse (t : TimeBlock) (i : Nat) : Pulse := if i = 0 then t.pulse0 else t.pulse1

/-- The time block with a pulse output rewritten. -/
def TimeBlock.onPulse (t : TimeBlock) (i : Nat) (p : Pulse) : TimeBlock :=
  if i = 0 then { t with pulse0 := p } else { t with pulse1 := p }

/-- The edges of both outputs that the present T brings. -/
def State.pulseEdges (s : State) : State :=
  let now := s.nowNs
  { s with time := { s.time with pulse0 := s.time.pulse0.edge now, pulse1 := s.time.pulse1.edge now } }

/-- PULSE_EDGE (R60): an edge occurs once T has reached it. -/
def execPulseEdge (out : Fin 2) (s : State) : Host.Outcome State Fault Refusal :=
  .next { s with time := s.time.onPulse out ((s.time.pulse out).edge s.nowNs) }

/-- The limits of R60 on a control write, with the reserved MODE taken as one of them (log entry 28). -/
def Pulse.limits (p : Pulse) (mode : Nat) : Bool :=
  decide (10 ≤ p.width.toNat) && mode != 3 &&
    (mode != 1 || (decide (20 ≤ p.period.toNat) && decide (p.width.toNat < p.period.toNat)))

/-- The first instant of an output enabled at `now` (R60): START if it is to come; past it a train's next, and none in
single-pulse mode.  A START equal to the present T counts as passed, a point that R60 leaves open (DESIGN CHOICE, log entry
92). -/
def Pulse.firstRise (p : Pulse) (mode now : Nat) : Option Nat :=
  let start := p.start.toNat
  if mode = 2 then none
  else if now < start then some start
  else if mode = 1 then some (start + ((now - start) / p.period.toNat + 1) * p.period.toNat)
  else none

/-- A write of TPULSEn_CTRL at network time `now` in ns (R60). -/
def Pulse.write (p : Pulse) (v : Word32) (now : Nat) : Pulse :=
  let mode := field v 2 2
  let on := bit v 0 && p.limits mode
  let rise := if on then p.firstRise mode now else none
  ({ p with enable := on, polarity := bit v 1, mode := BitVec.ofNat 2 mode, active := p.active && on, rise := rise
            armed := on && (mode == 2 || rise.isSome) } : Pulse).drive

/-- TPULSE_CTRL_WRITE (R60). -/
def execTpulseCtrlWrite (out : Fin 2) (v : Word32) (s : State) : Host.Outcome State Fault Refusal :=
  .next { s with time := s.time.onPulse out ((s.time.pulse out).write v s.nowNs) }

/-- TCAPTURE_EDGE (R61): the first free entry, or an overrun. -/
def execTcaptureEdge (rising : Bool) (s : State) : Host.Outcome State Fault Refusal :=
  let t := s.time
  let e : CapEntry := { t := s.now, rising := rising }
  if !t.capEnable || !(if rising then bit t.capEdge 0 else bit t.capEdge 1) then .next s
  else if !t.valid0 then .next { s with time := { t with valid0 := true, cap0 := e } }
  else if !t.valid1 then .next { s with time := { t with valid1 := true, cap1 := e } }
  else .next { s with time := { t with capOverrun := satInc t.capOverrun } }

end Sys2Proof.Machine
end

