-- ==== Sys2Proof/Machine/Completion.lean ====
section
/-! DEFINITION. How firmware takes and completes the commands of the mailboxes (R358 to R363, R375 to R378), the end of a
job, and the registered buffers of the host ports (R190, R378). -/

namespace Sys2Proof.Machine

open Sys2Proof

/-! The two areas of a mailbox (R358) -/

/-- The bytes of a posted command. -/
def Mailbox.bytes (k : Mailbox) : List Byte := readBytes k.cmd 0 k.len
/-- A little-endian field of the command body: body byte n is byte 16 + n (R375). -/
def Mailbox.field (k : Mailbox) (o n : Nat) : Nat := leNat (readBytes k.cmd (16 + o) n)
/-- The opcode of the command area. -/
def Mailbox.opcode (k : Mailbox) : Nat := leNat (readBytes k.cmd 0 2)
/-- Whether a command of the mailbox is posted or runs. -/
def Mailbox.busy (k : Mailbox) : Bool := k.state != .idle && k.state != .done

/-- The response area's bytes (R358): RESP_LEN covers header and body. -/
def responseBytes (id : Word32) (op status detail : Nat) (body : List Byte) : List Byte :=
  leBytes 4 id.toNat ++ leBytes 2 status ++ leBytes 2 op ++ leBytes 4 (16 + body.length) ++ leBytes 2 detail ++ [0, 0] ++ body

/-- The completion word (R361). -/
def completionWord (id : Word32) (status m : Nat) (dup : Bool) : Nat :=
  id.toNat + status * 2 ^ 32 + m * 2 ^ 48 + b2n dup * 2 ^ 51 + 2 ^ 63

/-- The four steps of a completion, in R361's order. -/
def State.respond (s : State) (p m status : Nat) (resp : Memory) (dup : Bool) : State :=
  let k := s.mbx p m
  let t := s.onMbx p m (fun k => { k with resp := resp, state := .done, status := BitVec.ofNat 16 status, dup := dup, follows := none, waits := false })
  let t := if k.cplEn then t.hostWrite p k.cplAddr.toNat (leBytes 8 (completionWord k.id status m dup)) else t
  t.event p m

/-- The command-area bytes that a duplicate record hashes (R362). -/
def Mailbox.hash (k : Mailbox) : Hash := hashOf k.bytes

/-- Whether a completed command enters the duplicate records (R362). -/
def recorded (status : Nat) : Bool := status != 6 && status != 2 && status != 1

/-- The record of a completed command, the oldest of 256 leaving (R362). -/
def State.recordDup (s : State) (p m status : Nat) : State :=
  let k := s.mbx p m
  if recorded status then
    s.onPort p (fun q => { q with dups := newest 256 (q.dups ++
      [{ id := k.id, hash := k.hash, status := BitVec.ofNat 16 status, resp := k.resp }]) })
  else s

/-- The mailboxes that wait for this one's response (R362) complete with it. -/
def State.completeFollowers (s : State) (p m status : Nat) : State :=
  let resp := (s.mbx p m).resp
  (List.range 8).foldl (fun t f =>
    if (t.mbx p f).busy && (t.mbx p f).follows.map (·.val) == some m then t.respond p f status resp true else t) s

/-- Completes a command (R361, R362). -/
def State.complete (s : State) (p m status detail : Nat) (body : List Byte) : State :=
  let k := s.mbx p m
  let resp := writeBytes [] 0 (responseBytes k.id k.opcode status detail body)
  ((s.respond p m status resp false).recordDup p m status).completeFollowers p m status

/-- A transfer with host memory that ends with HOST_UNAVAILABLE (R191, R355, R374). -/
def State.hostAway (s : State) : State := { s with counts := { s.counts with hostUnavail := satInc s.counts.hostUnavail } }

/-- A refusal without a body; one that tells of a transfer that ended with HOST_UNAVAILABLE counts it. -/
def State.refuse (s : State) (p m status detail : Nat) : State :=
  let t := s.complete p m status detail []
  if status = 0x0108 then t.hostAway else t

/-- A success. -/
def State.succeed (s : State) (p m : Nat) (body : List Byte) : State := s.complete p m 0 0 body

/-- A command that has started and waits for the end of a scrub (R397). -/
def State.waitScrub (s : State) (p m : Nat) : State := s.onMbx p m (fun k => { k with state := .inProgress, waits := true })

/-- A command that goes on while others are served. -/
def State.running (s : State) (p m : Nat) : State := s.onMbx p m (fun k => { k with state := .inProgress, waits := false })

/-! Taking a command (R356, R375, R376) -/

/-- The ports that R376 permits. -/
inductive Permit where
  | any | ownerOnly | ownerOrFree | feeders | readers
  deriving DecidableEq, Repr

/-- The status of a port that a command does not permit: OWNED where another port owns the module and any port could take a
free one, else NOT_PERMITTED (R376, R377). -/
def State.permission (s : State) (p : Nat) (a : Permit) : Option Nat :=
  let r := (s.port p).role
  match a with
  | .any => none
  | .ownerOnly => if r == .owner then none else some 4
  | .ownerOrFree => if r == .owner || s.owner.isNone then none else some 0x0104
  | .feeders => if r == .owner || r == .feeder then none else some 4
  | .readers => if r == .none then some 4 else none

/-- One row of R376 with the body size: opcode, body bytes, ports, relay role.  A body that is not a whole number of 4 B
units is padded to one, since R359 takes no other length (log entry 29). -/
structure CmdRule where
  op : Nat
  size : Nat
  permit : Permit
  relayOk : Bool
  deriving DecidableEq, Repr

/-- The first reserved byte of the header, bytes 4 to 15, that is not 0, by its offset in the command area (R358). -/
def Mailbox.reservedHead (k : Mailbox) : Option Nat := ((List.range 12).map (· + 4)).find? (fun o => readByte k.cmd o != 0)

/-- The first reserved byte of the body that is not 0 (R375), of spans given by first byte and length: with those that fill a rule's
body to whole 4 B units. -/
def Mailbox.reservedBody (k : Mailbox) (r : CmdRule) (spans : List (Nat × Nat)) : Option Nat :=
  ((spans ++ [(r.size, 4 * ceilDiv r.size 4 - r.size)]).flatMap (fun x => (List.range x.2).map (· + x.1))).find? (fun o => k.field o 1 != 0)

/-- The checks before the command's own (log entry 29 fixes their order): CMD_VERSION, the length, the port, relay role, the
acceptance state, then the header's reserved bytes; a status with its DETAIL. -/
def State.vet (s : State) (p m : Nat) (r : CmdRule) (state : Option Nat) : Option (Nat × Nat) :=
  let k := s.mbx p m
  if leNat (readBytes k.cmd 2 2) != 1 then some (3, 0)
  else if k.len != 16 + 4 * ceilDiv r.size 4 then some (2, 0)
  else match s.permission p r.permit with
    | some x => some (x, 0)
    | none =>
      if s.relay && !r.relayOk then some (0x0105, 0)
      else match state with
        | some x => some (x, 0)
        | none => k.reservedHead.map (fun o => (0x0106, o))

/-- Whether a mailbox's command has ended with BAD_PARAM at a body byte before `o` (R377). -/
def State.badBefore (s : State) (p m o : Nat) : Bool :=
  let k := s.mbx p m
  k.state == .done && k.status == 0x0106 && decide (leNat (readBytes k.resp 12 2) < o)

/-- The command's own work, or BAD_PARAM with its first offending body byte (R377): a reserved byte, or one before it that the
command's own checks refuse. -/
def State.runBody (s : State) (p m : Nat) (r : CmdRule) (reserved : List (Nat × Nat)) (run : State → Mailbox → State) : State :=
  let k := s.mbx p m
  match k.reservedBody r reserved with
  | none => run s k
  | some o => let t := run s k; if t.badBefore p m o then t else s.refuse p m 0x0106 o

/-- The opcodes of R376. -/
def opcodes : List Nat :=
  [0x01, 0x02, 0x10, 0x11, 0x12, 0x20, 0x30, 0x31, 0x32, 0x33, 0x40, 0x41, 0x42, 0x50, 0x51, 0x60, 0x61, 0x70, 0x80, 0x81,
   0x90, 0x91, 0xA0, 0xB0, 0xF0]

/-- Another mailbox of the port whose own command with the same ID has started and still runs (R362). -/
def State.runningTwin (s : State) (p m : Nat) : Option (Fin 8) :=
  (List.finRange 8).find? (fun n => n.val != m && (s.mbx p n).state == .inProgress && (s.mbx p n).follows.isNone &&
    (s.mbx p n).id == (s.mbx p m).id)

/-- Whether a command's length is none that R359 allows. -/
def Mailbox.badLength (k : Mailbox) : Bool := decide (k.len < 16) || decide (4096 < k.len) || k.len % 4 != 0

/-- What firmware does with a posted command before its opcode's own checks (R359, R362, R363): BAD_LENGTH, an answer from a
duplicate record, a wait for the same ID in another mailbox, UNKNOWN_OPCODE.  Nothing before Birtur runs (R405). -/
def State.sort (s : State) (p m : Nat) : State :=
  let k := s.mbx p m
  if !s.rst.birtur || k.state != .posted then s
  else if k.badLength then s.refuse p m 2 0
  else match (s.port p).dups.find? (fun d => d.id == k.id) with
    | some d =>
      if d.hash == k.hash then
        let t := s.respond p m d.status.toNat d.resp true
        { t with counts := { t.counts with dupHits := satInc t.counts.dupHits } }
      else s.respond p m 5 (writeBytes [] 0 (responseBytes k.id k.opcode 5 0 [])) false
    | none =>
      match s.runningTwin p m with
      | some n => s.onMbx p m (fun k => { k with state := .inProgress, follows := some n })
      | none => if opcodes.contains k.opcode then s else s.refuse p m 1 0

/-- The mailbox of a port whose command firmware starts next: the one posted first of those still POSTED (R360). -/
def State.nextOf (s : State) (p : Nat) : Option Nat := (s.port p).posted.find? (fun m => (s.mbx p m).state == .posted)

/-- What firmware does with the posted commands of a port, in their order, up to the first whose opcode has work to do; one with a bad
length completes at once (R359). -/
def State.sortPort (s : State) (p : Nat) : State :=
  (s.port p).posted.foldl (fun t m => if t.nextOf p == some m || (t.mbx p m).badLength then t.sort p m else t) s

/-- The command that firmware starts next: of the ports in round robin from the one whose turn it is (R360). -/
def State.nextServed (s : State) : Option (Nat × Nat) :=
  ((List.range 4).map (fun i => (s.turn.toNat + i) % 4)).findSome? (fun p => (s.nextOf p).map (fun m => (p, m)))

/-- Firmware starts the posted command of a mailbox when it comes next (R360) and its opcode is the rule's; the checks, then the
command's own work.  A command that has started and waits goes on whenever it can. -/
def State.serve (s : State) (p m : Nat) (r : CmdRule) (state : Option Nat) (reserved : List (Nat × Nat))
    (run : State → Mailbox → State) : State :=
  let s := s.sortPort p
  let k := s.mbx p m
  let fresh := s.nextServed == some (p, m)
  if s.rst.birtur && (fresh || k.waits) && k.opcode == r.op then
    let s : State := if fresh then { s with turn := BitVec.ofNat 2 (p + 1) } else s
    (match s.vet p m r state with
     | some x => s.refuse p m x.1 x.2
     | none => s.runBody p m r reserved run).sortPort p
  else s

/-- Acceptance states of R376. -/
def State.needPlan (s : State) : Option Nat := if s.store.cur.isSome then none else some 0x0100
/-- No job on the module. -/
def State.needNoJob (s : State) : Option Nat := if s.job.phase == .none then none else some 0x0102
/-- A running job. -/
def State.needJob (s : State) : Option Nat := if s.jobRuns then none else some 0x0103
/-- The first of two. -/
def firstOf (a b : Option Nat) : Option Nat := match a with | some x => some x | none => b

/-- The COMMAND record of a command that acts on the running job (R293, R294). -/
def State.journalCommand (s : State) (p : Nat) (k : Mailbox) : State :=
  if s.jobRuns then
    s.journalNow 3 (padBody 64 ([BitVec.ofNat 8 p, 0] ++ leBytes 2 k.opcode ++ leBytes 4 k.id.toNat ++ leBytes 4 (k.len - 16) ++
      leBytes 4 0 ++ leBytes 8 s.sheaf.sheafCount.toNat ++ hashBytes (hashOf (k.bytes.drop 16))))
  else s

/-! Registered buffers (R190, R378) -/

/-- Device bytes of a buffer. -/
def HostBuffer.size (b : HostBuffer) : Nat := b.pieces.foldl (fun a x => a + x.2) 0

/-- The translation-table entries that a port holds. -/
def Port.ranges (q : Port) : Nat := q.windows.foldl (fun a b => a + b.pieces.length) 0

/-- The base of a port's host window (R190). -/
def hostBase (p : Nat) : Nat := 0x300000000000 + p * 0x10000000000

/-- The first free window address of a port: above every registered buffer (log entry 30). -/
def State.freeWindow (s : State) (p : Nat) : Nat :=
  (s.port p).windows.foldl (fun a b => Nat.max a (b.window + b.size)) (hostBase p)

/-- The buffers that a range table spells, or the index of the entry at fault (R378): pages at a 4 KiB aligned address, in
ascending buffer index, every index below the count present.  An entry whose reserved bytes are not 0 is at fault too (DESIGN CHOICE; log
entry 30). -/
def buffersOf (count : Nat) (l : List TableEntry) : Except Nat (List (List (Nat × Nat))) :=
  let step (acc : Except Nat (Nat × List (List (Nat × Nat)))) (e : TableEntry) : Except Nat (Nat × List (List (Nat × Nat))) :=
    match acc with
    | .error i => .error i
    | .ok (i, bs) =>
      let piece := (e.addr, 4096 * e.pages)
      if e.addr % 4096 != 0 || e.pages == 0 || e.reserved != 0 then .error i
      else if e.index + 1 == bs.length then .ok (i + 1, bs.dropLast ++ [bs.getLastD [] ++ [piece]])
      else if e.index == bs.length && decide (bs.length < count) then .ok (i + 1, bs ++ [[piece]])
      else .error i
  match l.foldl step (.ok (0, [])) with
  | .error i => .error i
  | .ok (i, bs) => if bs.length == count then .ok bs else .error i

/-- A buffer reference in a body: 8 B aligned table, 1 to 4,096 entries, the buffer count that the command needs. -/
def Mailbox.refOk (k : Mailbox) (o count : Nat) : Bool :=
  k.field o 8 % 8 == 0 && decide (1 ≤ k.field (o + 8) 4) && decide (k.field (o + 8) 4 ≤ 4096) && k.field (o + 12) 4 == count

/-- The status with which a table that could not be read ends: HOST_UNAVAILABLE for a port that is down, else BUFFER. -/
def State.unreadable (s : State) (p : Nat) : Nat := if (s.port p).up then 0x0107 else 0x0108

/-- The first range-table entry of a buffer. -/
def entryOf (bs : List (List (Nat × Nat))) (i : Nat) : Nat := ((bs.take i).map List.length).foldl (· + ·) 0

/-- Assigns window ranges to buffers in index order. -/
def windowsFrom (p : Nat) : Nat → List (List (Nat × Nat)) → List HostBuffer
  | _, [] => []
  | a, b :: bs =>
    let h : HostBuffer := { port := p, window := a, pieces := b }
    h :: windowsFrom p (a + h.size) bs

/-- The buffers of a reference, its range table read once (R378): as many entries as the body names, all of which must have been read; a
port that is down gives none (R191). -/
def State.takeTable (s : State) (p : Nat) (k : Mailbox) (o count : Nat) (table : Option (List TableEntry)) :
    Except (Nat × Nat) (List (List (Nat × Nat))) :=
  let n := k.field (o + 8) 4
  if !k.refOk o count then .error (0x0107, 0)
  else if !(s.port p).up then .error (0x0108, 0)
  else match table with
    | none => .error (0x0107, 0)
    | some l =>
      if l.length < n then .error (0x0107, Nat.min l.length 0xFFFF)
      else match buffersOf count (l.take n) with
        | .error i => .error (0x0107, Nat.min i 0xFFFF)
        | .ok bs => .ok bs

/-- The buffers of a reference with their windows, or a status and DETAIL (R378): each at least `least` bytes. -/
def State.takeBuffers (s : State) (p : Nat) (k : Mailbox) (o count least : Nat) (ranges : Option (List TableEntry)) :
    Except (Nat × Nat) (List HostBuffer) :=
  match s.takeTable p k o count ranges with
  | .error x => .error x
  | .ok bs =>
    let hs := windowsFrom p (s.freeWindow p) bs
    match (hs.zipIdx).find? (fun h => decide (h.1.size < least)) with
    | some h => .error (0x0107, Nat.min (entryOf bs h.2) 0xFFFF)
    | none => if 4096 < (s.port p).ranges + k.field (o + 8) 4 then .error (0x0109, 0) else .ok hs

/-- What the buffers of a command's reference hold, or a status (R378, R191). -/
def State.takeImage (s : State) (p : Nat) (k : Mailbox) (o count : Nat) {α : Type} (image : Pulled α) : Except (Nat × Nat) α :=
  match s.takeTable p k o count image.table with
  | .error x => .error x
  | .ok _ =>
    if 4096 < (s.port p).ranges + k.field (o + 8) 4 then .error (0x0109, 0)
    else match image.content with
      | none => .error (0x0107, 0)
      | some x => .ok x

/-- Registers buffers at a port. -/
def State.addWindows (s : State) (p : Nat) (bs : List HostBuffer) : State :=
  s.onPort p (fun q => { q with windows := q.windows ++ bs })

/-- Deregisters buffers. -/
def State.dropWindows (s : State) (bs : List HostBuffer) : State :=
  bs.foldl (fun t b => t.onPort b.port (fun q => { q with windows := q.windows.filter (· != b) })) s

/-- The window bases of buffers, 8 B each. -/
def windowBytes (bs : List HostBuffer) : List Byte := bs.flatMap (fun b => leBytes 8 b.window)

/-- A write of bytes at an offset of a registered buffer: one transfer for each piece that it touches. -/
def State.bufferWrite (s : State) (b : HostBuffer) (o : Nat) (bs : List Byte) : State :=
  (b.pieces.foldl (fun (acc : State × Nat) x =>
    let (t, at_) := acc
    let lo := Nat.max o at_
    let hi := Nat.min (o + bs.length) (at_ + x.2)
    (if lo < hi then t.hostWrite b.port (x.1 + (lo - at_)) ((bs.drop (lo - o)).take (hi - lo)) else t, at_ + x.2)) (s, 0)).1

/-! The end of a job -/

/-- The last committed logical step; before the first commit, the step before the job's first. -/
def State.lastStep (s : State) : Nat :=
  match s.job.lastCommit with
  | some c => c.toNat
  | none => (s.job.firstStep.toNat + 2 ^ 48 - 1) % 2 ^ 48

/-- What the fetchers hold of a coming sheaf is no longer its plan's (R134, R163, R216). -/
def State.dropAhead (s : State) : State :=
  let drop (q : Sequencer) : Sequencer := { q with ahead := 0 }
  { s with
    blocks := s.blocks.map (fun (x : Nat × Block) => (x.1, { x.2 with seq := drop x.2.seq }))
    stks := s.stks.map (fun (x : Nat × Stack) => (x.1, { x.2 with seq := drop x.2.seq }))
    nets := s.nets.map (fun (x : Nat × Net) => (x.1, { x.2 with ahead := 0, blankAhead := [] })) }

/-- Every unit at rest: nothing issues, no group waits, every crossing empty. -/
def State.restUnits (s : State) : State :=
  let blocks := s.blocks.map (fun x => (x.1, { x.2 with
    seq := { x.2.seq with ended := true, stalled := false, waiting := none, loops := [], jump := none }
    pend := [], chunks := [], groups := {} }))
  let stks := s.stks.map (fun x => (x.1, { x.2 with
    seq := { x.2.seq with ended := true, stalled := false, waiting := none, loops := [], jump := none }
    active := false, runs := [], groups := {}, gate := 0, forced := [] }))
  let regions := s.regions.map (fun x => (x.1, { x.2 with stall := none, done := true }))
  let ddr := s.ddr.map (fun x => (x.1, { x.2 with run := none, queue := [] }))
  let nets := s.nets.map (fun x => (x.1, { x.2 with active := false, length := 0, read := 0, fetched := 0, blank := []
                                                    windowStall := false, fwdHold := false, rotaHold := false }))
  let links := s.links.map (fun x => (x.1, { x.2 with maint := [], replay := x.2.replay.map (fun h => { h with crossing := false }) }))
  ({ s with blocks := blocks, stks := stks, regions := regions, ddr := ddr, nets := nets, links := links, tokens := [] } : State).dropAhead

/-- Completes mailboxes of a list that still run. -/
def State.completeAll (s : State) (l : List (Nat × Nat)) (status : Nat) (body : State → List Byte) : State :=
  l.foldl (fun t x => if (t.mbx x.1 x.2).busy then t.complete x.1 x.2 status 0 (body t) else t) s

/-- STOP_JOB's response (R386). -/
def State.stopBody (s : State) : List Byte := leBytes 6 s.lastStep

/-- A feed ring with nothing in feed staging and no pull under way. -/
def Feed.drop (f : Feed) : Feed := { f with pulling := none, validated := none, prior := none, lost := [], heldFor := none }

/-- The job ends on the module: the JOB_END record with its cause (R293), every command that waits on the job completed
(R386, R387), every hold, unit and machine-wide record of the job at rest.  The plan stays loaded. -/
def State.endJob (s : State) (cause : Nat) : State :=
  if s.job.phase == .none then s
  else
    let ran := s.jobRuns
    let body := padBody 32 (leBytes 8 s.lastStep ++ [BitVec.ofNat 8 cause])
    let t := if ran then s.journalNow 0x0C body else s
    let hold := t.job.hostMbx.map (fun x => (x.1, x.2.1))
    let t := t.completeAll hold 0x0309 (fun _ => [])
    let t := t.completeAll t.job.resumeMbx 0x0309 (fun _ => [])
    let t := t.completeAll t.job.stopMbx 0 State.stopBody
    let t := if t.save.phase == .armed || t.save.phase == .capturing then
        t.completeAll [(t.save.port, t.save.mbx)] 0x0309 (fun _ => []) else t
    let u : Save := if t.save.phase == .uploading then t.save else {}
    let t := t.restUnits
    let fresh := { t.job with phase := .none, reported := false, joining := false, lastCommit := none, hostArm := none
                              hostMbx := [], resumeMbx := [], stopMode := none, stopMbx := [] }
    let links := t.links.map (fun x => (x.1, { x.2 with rxSync := none }))
    let t := { t with
      job := fresh, save := u, holds := {}, links := links
      store := { t.store with switchStep := none }
      sheaf := { t.sheaf with running := false, begun := false, atBoundary := false, cut := false, sampled := 0, latched := 0
                              nextSeg := none, awaitSeg := false, heldConsec := 0, heldSince := none, heldCount := 0, heldPaused := 0, refillLeft := 0 }
      fault := { t.fault with recoveryActive := false, refillActive := false, abort := none, deferred := none }
      assay := { t.assay with verdictPending := false, twinPending := false, heard := [], kept := [], refillOwed := false }
      coord := { t.coord with segOpen := false, refill := [], wanted := [], failDue := [], starts := [], nextPlans := [], recoveries := [], digests := []
                              twinResults := [], reports := [], failed := [], failedRelays := [], excluded := [] }
      feed := t.feed.drop
      glean := { t.glean with held := false, replay := { t.glean.replay with active := false, planWait := false } } }
    if ran then t.eventAll 12 else t

/-- FAILING with cause 3 to the coordinator (R364, R393). -/
def State.sendFailing (s : State) : State :=
  s.sendKept s.coord.coordKey 0x51 5 (bodyOf [(3, 0), ((s.fault.nextSeq - 1).toNat, 1)])

end Sys2Proof.Machine
end

