-- ==== Sys2Proof/Machine/Host.lean ====
section
/-! DEFINITION. What hosts and the control processor do at the ports (R353 to R374): posts, aborts, feed pulls, results, BAR2,
port loss and reset, and the writes of registers. -/

namespace Sys2Proof.Machine

open Sys2Proof

/-! Posts and aborts (R359, R364 to R366) -/

/-- A write of MBX_POST_HI (R359): accepted when the mailbox is idle or done, otherwise ignored with OVERPOST. -/
def State.postMbx (s : State) (p m : Nat) (v : Word32) : State :=
  if (s.mbx p m).busy then s.onMbx p m (fun k => { k with overpost := true })
  else
    let t := s.onMbx p m (fun k => { k with
      state := .posted, overpost := false, dup := false, status := 0, resp := [], len := field v 0 13, id := k.postLo, follows := none })
    (t.onPort p (fun q => { q with posted := q.posted.filter (· != m) ++ [m] })).sortPort p

/-- MBX_POST. -/
def execMbxPost (p : Fin 4) (m : Fin 8) (v : Word32) (s : State) : Host.Outcome State Fault Refusal := .next (s.postMbx p m v)

/-- The job awaits no mailbox of a port any longer: what it would complete there is another command's. -/
def Job.forget (j : Job) (p : Nat) : Job :=
  { j with
    hostMbx := j.hostMbx.filter (fun x => x.1 != p), resumeMbx := j.resumeMbx.filter (fun x => x.1 != p)
    stopMbx := j.stopMbx.filter (fun x => x.1 != p), mbx := if j.port = p then noMailbox else j.mbx }

/-- Every command of a port that runs completes with ABORTED (R364, R374). -/
def State.abortPort (s : State) (p : Nat) : State :=
  let t := s.completeAll ((List.range 8).map (fun m => (p, m))) 6 (fun _ => [])
  let t := { t with job := t.job.forget p }
  if t.save.port == p && t.save.phase != .idle && !(t.mbx p t.save.mbx).busy then
    { t with save := {}, holds := { t.holds with save := false } } else t

/-- A write of ABORT (R364): PENDING, and the effects of the abort; DONE follows when firmware finishes (log entry 32). -/
def State.abortWrite (s : State) (p : Nat) (v : Word32) : State :=
  if v != 0xA5 || (s.port p).abortPending then s
  else
    let t := s.onPort p (fun q => { q with abortPending := true, abortDone := false, abortForced := false, jobAborted := false })
    let t := t.abortPort p
    if (t.port p).role == .owner && t.job.phase != .none then
      let ran := t.jobRuns
      ((t.completeAll t.jobBoxes 6 (fun _ => [])).endJob 2).onPort p (fun q => { q with jobAborted := ran })
    else t

/-- ABORT. -/
def execAbort (p : Fin 4) (v : Word32) (s : State) : Host.Outcome State Fault Refusal := .next (s.abortWrite p v)

/-- Firmware, or the hardware at 5 ms, finishes an abort (R365, R366).  FAILING goes out with firmware's end of it, since a
forced abort sends none (log entry 32). -/
def State.abortFinish (s : State) (p : Nat) (forced : Bool) : State :=
  (s.onPort p (fun q => { q with abortPending := false, abortDone := true, abortForced := forced, abortCount := q.abortCount + 1 })).event p 8

/-- The hardware's own end of a mailbox of a port that is not the owner (R366): a 16 B header, STATE DONE. -/
def State.hardAbort (s : State) (p m : Nat) : State :=
  let k := s.mbx p m
  if k.busy then s.onMbx p m (fun k => { k with
    resp := writeBytes [] 0 (responseBytes k.id k.opcode 6 0 []), state := .done, status := 6, follows := none, waits := false })
  else s

/-! The feed (R367 to R369, R294, R297) -/

/-- The journal's FEED record of a step, in replay. -/
def Replay.feedOf (r : Replay) (step : Nat) : Option JournalRec :=
  r.records.find? (fun x => x.rtype == 2 && x.step.toNat == step % 2 ^ 48)

/-- The feed of a step that feed staging holds (R294). -/
def Feed.find (f : Feed) (step : Word64) : Option FeedBytes := (f.validated.toList ++ f.prior.toList).find? (fun x => x.step == step)
/-- Whether the bytes of a step's feed stand in feed staging undamaged. -/
def Feed.has (f : Feed) (step : Word64) : Bool := (f.find step).isSome && !f.lost.contains step
/-- The steps whose feed feed staging holds. -/
def Feed.staged (f : Feed) : List Word64 := (f.validated.toList ++ f.prior.toList).map (·.step)

/-- Where the feed of a step stands (R197): the plan's feed-staging ranges in table order, a step in the range of its number
modulo their count (log entry 31). -/
def State.feedPlace (s : State) (step : Nat) : Option Nat :=
  let l := s.body.ranges.filter (fun r => r.space == 2)
  if l.isEmpty then none else (l[step % l.length]?).map (·.base)

/-- A body of the FEED record (R293). -/
def feedBody (step : Nat) (payload : List Byte) (index : Nat) (full : Bool) (retention : Word128) : List Byte :=
  padBody 96 (leBytes 8 step ++ leBytes 8 payload.length ++ leBytes 2 index ++ [if full then 1 else 0] ++ List.replicate 13 0 ++
    hashBytes (hashOf payload) ++ leBytes 16 retention.toNat ++ List.replicate 16 0 ++ (if full then payload else []))

/-- The bytes of a step's feed written to feed staging (R294): those of the step before stay there where their place is another one,
and a damaged feed is whole again. -/
def State.stageFeed (s : State) (step : Word64) (bytes : List Byte) : State :=
  let t := match s.feedPlace step.toNat with | some a => s.poke a bytes | none => s
  let f := t.feed
  let x : FeedBytes := { step := step, length := bytes.length, digest := hashOf bytes }
  if (f.find step).isSome then { t with feed := { f with pulling := none, lost := f.lost.filter (· != step) } }
  else
    let prior := f.validated.filter (fun y => s.feedPlace y.step.toNat != s.feedPlace step.toNat)
    { t with feed := { f with pulling := none, validated := some x, prior := prior
                              lost := f.lost.filter (fun y => y != step && prior.any (fun z => z.step == y)) } }

/-- The pull for a step begins, unless its bytes stand in feed staging; a damaged feed comes first, and the journal of a replay
supplies what it holds in full (R197, R297). -/
def State.beginPull (s : State) (step : Word64) : State :=
  if s.body.feedLength = 0 || s.feed.has step then s
  else
    let full := if s.glean.replay.active then
        (s.glean.replay.feedOf step.toNat).bind (fun r => if fieldLE r.body 18 1 = 1 then some (slice r.body 96 (fieldLE r.body 8 8)) else none)
      else none
    match full with
    | some bytes => s.stageFeed step bytes
    | none => { s with feed := { s.feed with pulling := some (if s.feed.lost.contains step then s.feed.lost.headD step else step) } }

/-- A feed header refused (R369). -/
def State.feedReject (s : State) : State := { s with counts := { s.counts with feedRejects := satInc s.counts.feedRejects } }

/-- The pulled bytes stand in feed staging and the feed is validated (R368): the FEED record, CONSUMED, FEED_PULLS; a feed pulled again
must have the digest that it had, and the next damaged one follows (R294). -/
def State.feedValid (s : State) (step : Word64) (payload : List Byte) (retention : Word128) : State :=
  let n := s.feed.ring.length
  let ix := step.toNat % n
  let old := s.feed.find step
  if old.any (fun f => f.digest != hashOf payload) then
    { s with glean := { s.glean with feedChanged := true }, holds := { s.holds with feed := true } }
  else
    let full := s.glean.full && decide (4 * payload.length ≤ s.glean.length)
    let flags : Byte := if s.glean.full && !full then 1 else 0
    let t := s.stageFeed step payload
    let t := if old.isSome then t else t.journal 2 flags (BitVec.ofNat 48 step.toNat) 0 (feedBody step.toNat payload ix full retention)
    let t := { t with
      feed := { t.feed with pulling := t.feed.lost.head?, retention := retention }
      glean := { t.glean with feedChanged := false }
      counts := { t.counts with feedPulls := satInc t.counts.feedPulls } }
    let t := match t.feed.ring[ix]? with | some b => t.bufferWrite b 32 (leBytes 8 step.toNat) | none => t
    t.event t.feed.port 11

/-- What replay makes of a pulled feed (R297): bytes whose digest differs from the record, or with no record, are refused; the feed of a
step past the last is a live job's. -/
def State.replayAccepts (s : State) (step : Nat) (payload : List Byte) : Bool :=
  !s.glean.replay.active || decide (s.glean.replay.last.toNat < step) ||
    (match s.glean.replay.feedOf step with
     | some r => slice r.body 32 32 == hashBytes (hashOf payload)
     | none => false)

/-- Whether the background move of a step's pull may run on the engine of its place now (R203). -/
def State.pullRuns (s : State) (step : Nat) : Bool := match s.feedPlace step with | some a => s.engineFree a | none => true

/-- FEED_POLL (R368, R369): a port that is down ends it (R191), and a pull waits while its engine belongs to planned moves (R203). -/
def execFeedPoll (sight : FeedSight) (s : State) : Host.Outcome State Fault Refusal :=
  match s.feed.pulling with
  | none => .next s
  | some step =>
    if s.feed.ring.isEmpty || !s.pullRuns step.toNat then .next s
    else if !(s.port s.feed.port).up then .next s.hostAway
    else match sight with
      | .transferFailed => .next s.hostAway
      | .header seq length retention payload second =>
        if seq != step then
          .next (if seq == 0xFFFFFFFFFFFFFFFF || seq == step - BitVec.ofNat 64 s.feed.ring.length then s else s.feedReject)
        else if s.body.feedLength < length then
          let t := { s.feedReject with free := s.free + 1 }
          .next (t.log { code := Config.freeCode s.free, severity := 0, region := ioRegion, action := 1, detail := length })
        else if second != step then .next s.feedReject
        else
          let bytes := slice payload 0 length
          if s.replayAccepts step.toNat bytes then .next (s.feedValid step bytes retention)
          else
            let r := s.glean.replay
            .next { s with glean := { s.glean with replay := { r with feedMismatch := satInc r.feedMismatch } } }

/-! Results (R370 to R372) -/

/-- Whether a slot is free (R372). -/
def ResultStream.free (r : ResultStream) (slot : Nat) : Bool :=
  let g := r.gens.getD slot 0
  g == 0 || r.acked.getD slot 0 == g

/-- A list of numbers with one entry set, the list grown with zeros to reach it. -/
def setAt (l : List Nat) (i v : Nat) : List Nat :=
  let m := if i < l.length then l else l ++ List.replicate (i + 1 - l.length) 0
  m.set i v

/-- Header bytes 12 to 31 (R370). -/
def resultHead (len step overruns : Nat) : List Byte := leBytes 4 len ++ leBytes 6 step ++ [0, 0] ++ leBytes 8 overruns

/-- The four writes of a result into its slot (R371); FLAGS goes with STATE. -/
def State.writeResult (s : State) (i : Nat) (r : ResultStream) (w : Waiting) : State :=
  let slot := w.q % r.slots.length
  match r.slots[slot]? with
  | none => s
  | some b =>
    let lostHere := !r.free slot
    let flag : Byte := if lostHere || r.lost.contains slot then 1 else 0
    let n := r.overruns + b2n lostHere
    let t := s.bufferWrite b 8 [1, flag]
    let t := t.bufferWrite b 64 w.data
    let t := t.bufferWrite b 0 (leBytes 8 (w.q + 1))
    let t := t.bufferWrite b 12 (resultHead w.data.length w.step.toNat n)
    let t := t.bufferWrite b 8 [2, flag]
    let r2 : ResultStream := { r with waiting := r.waiting.drop 1, gens := setAt r.gens slot (w.q + 1), overruns := 0
                                      lost := if lostHere && !r.lost.contains slot then r.lost ++ [slot] else r.lost }
    let c := t.counts
    let t := { t with
      results := put {} t.results i r2
      counts := { c with resultWrites := satInc c.resultWrites, resultOverruns := satAdd c.resultOverruns (b2n lostHere) } }
    t.event b.port 10

/-- Whether the background move of a stream's result may run on the engine of its source now (R203, R372). -/
def State.resultRuns (s : State) (stream : Nat) : Bool :=
  match s.body.results.find? (fun x => x.1 == stream) with | some x => s.engineFree x.2.source | none => true

/-- RESULT_WRITE: the oldest waiting result goes to its slot when the slot is free, or in an overwrite stream whenever it
comes to the front; a port that is down leaves it waiting (R372, R374), and the engine's planned moves hold it back (R203). -/
def execResultWrite (stream : Fin 64) (s : State) : Host.Outcome State Fault Refusal :=
  let r := get {} s.results stream
  match r.waiting with
  | [] => .next s
  | w :: _ =>
    if r.slots.isEmpty then .next s
    else if !(r.free (w.q % r.slots.length) || r.overwrite) || !s.resultRuns stream then .next s
    else if !(s.port r.port).up then .next s.hostAway
    else .next (s.writeResult stream r w)

/-! BAR2 (R185, R186, R188, R373) -/

/-- Whether BAR2 reaches a device byte: HBM, populated DDR5, windows of blocks and staging stores. -/
def State.bar2Reaches (s : State) (a : Nat) : Bool :=
  if a < 0x00C000000000 then true
  else if 0x100000000000 ≤ a ∧ a < 0x130000000000 then
    let c := (a - 0x100000000000) / 0x4000000000
    !s.relay && (s.chan c).present && (s.chan c).trained && decide ((a - 0x100000000000) % 0x4000000000 < (s.chan c).capacity * 2 ^ 30)
  else if 0x200000000000 ≤ a ∧ a < 0x200020000000 then
    !s.relay && !(s.block ((a - 0x200000000000) / 0x800000)).fused && decide ((a - 0x200000000000) % 0x800000 < 0x680000)
  else decide (0x200100000000 ≤ a ∧ a < 0x20010C000000)

/-- Whether a sheaf runs on the module: not with no job, at a held tick or at a hold at a step boundary (R189, R373). -/
def State.sheafRuns (s : State) : Bool := s.sheaf.running && !s.sheaf.held

/-- A recovery wait for an image over P0 (R408, R456). -/
def State.recoveryP0 (s : State) (p : Nat) : Bool := s.rst.recoveryWait && s.rst.bootSrc == 2 && p == 0

/-- Whether BAR2 serves a port (R373): the owner; in a recovery wait over P0 the ROM treats P0 as owner (R456). -/
def State.bar2Owner (s : State) (p : Nat) : Bool := (s.port p).role == .owner || s.recoveryP0 p

/-- The device address of a BAR2 offset; BAR2_BASE is 0 in a recovery wait. -/
def State.bar2Place (s : State) (p : Nat) (offset : BitVec 36) : Nat :=
  (if s.recoveryP0 p then 0 else (s.port p).bar2Base.toNat) * 2 ^ 36 + offset.toNat

/-- Whether a window byte belongs to a unit that the hazard detector has frozen (R189, R324): its window is served. -/
def State.windowFrozen (s : State) (a : Nat) : Bool :=
  if 0x200000000000 ≤ a ∧ a < 0x200020000000 then (s.block ((a - 0x200000000000) / 0x800000)).frozen
  else decide (0x200100000000 ≤ a) && (s.stack ((a - 0x200100000000) / 0x1000000)).frozen

/-- The cause of one byte's failure (R373): 1 UNMAPPED, 2 BUSY. -/
def State.bar2Cause (s : State) (a : Nat) : Option Nat :=
  if !s.bar2Reaches a then some 1
  else if (s.sheafRuns && !s.windowFrozen a) || s.rst.scrubHbm || s.rst.scrubDdr then some 2 else none

/-- A failed BAR2 access in BAR2_STATUS. -/
def State.bar2Fail (s : State) (p cause : Nat) : State :=
  s.onPort p (fun q => { q with bar2Cause := BitVec.ofNat 3 cause, bar2Fails := BitVec.ofNat 24 (satIncN 24 q.bar2Fails.toNat) })

/-- The bytes of a BAR2 read, zeros for every byte not served, and the first failing cause. -/
def State.bar2Read (s : State) (a len : Nat) : List Byte × Option Nat :=
  let at_ := (List.range len).map (a + ·)
  (at_.map (fun x => if (s.bar2Cause x).isNone then readByte s.mem x else 0), at_.findSome? s.bar2Cause)

/-- The bytes of a BAR2 write that are served. -/
def State.bar2Write (s : State) (a : Nat) : List Byte → State
  | [] => s
  | b :: bs => (if (s.bar2Cause a).isNone then s.poke a [b] else s).bar2Write (a + 1) bs

/-- Whether a byte that BAR2 serves lies in a unit that its memory cannot correct. -/
def State.bar2Lost (s : State) (a : Nat) : Bool := (s.bar2Cause a).isNone && !(s.lostUnits a 1).isEmpty

/-- The checks of a BAR2 read, by runs that lie in one memory, of those that are served. -/
def State.bar2Checks (s : State) (a n : Nat) : State :=
  (memParts a n).foldl (fun t x => if (t.bar2Cause x.1).isSome then t else t.memCheck x.1 x.2) s

/-- BAR2_ACCESS (R373): `ue` says that a served piece holds an uncorrectable error besides those that the state shows; it stands in the
unit of the first byte served (log entry 121). -/
def execBar2Access (p : Fin 4) (offset : BitVec 36) (op : Bar2Op) (ue : Bool) (s : State) : Host.Outcome State Fault Refusal :=
  let a := s.bar2Place p offset
  if !s.bar2Owner p then
    let t := s.bar2Fail p 4
    .next (match op with | .read _ => { t with out := t.out ++ [.unsupported p] } | .write _ => t)
  else match op with
    | .read len =>
      let r := s.bar2Read a len
      let at_ := (List.range len).map (a + ·)
      let seen := at_.any s.bar2Lost
      let other := if ue && !seen then at_.find? (fun x => (s.bar2Cause x).isNone) else none
      let cause (x : Nat) : Option Nat := if s.bar2Lost x || other == some x then some 3 else s.bar2Cause x
      let t := s.bar2Checks a len
      let t := match other with | some x => t.memLost x [x / eccWidth x * eccWidth x] | none => t
      let t := match at_.findSome? cause with | some c => t.bar2Fail p c | none => t
      .next { t with out := t.out ++ [if seen || other.isSome then .completion p false [] else .completion p true r.1] }
    | .write data =>
      let c := ((List.range data.length).map (a + ·)).findSome? s.bar2Cause
      let t := s.bar2Write a data
      .next (match c with | some x => t.bar2Fail p x | none => t)

/-! Port loss and port reset (R374) -/

/-- An entry of severity 0 whose code the spec does not list. -/
def State.logUncoded (s : State) (unit : Nat) : State :=
  let t := { s with free := s.free + 1 }
  t.log { code := Config.freeCode s.free, severity := 0, region := ioRegion, unit := unit, action := 1 }

/-- PORT_LINK_DOWN: transfers end with HOST_UNAVAILABLE; mailboxes, roles and the job stay. -/
def execPortLinkDown (p : Fin 4) (s : State) : Host.Outcome State Fault Refusal :=
  if (s.port p).up then .next ((s.onPort p (fun q => { q with up := false })).logUncoded p) else .next s

/-- PORT_LINK_UP: waiting transfers resume; a JOB_STATE event that came while the port was away raises its vector. -/
def execPortLinkUp (p : Fin 4) (s : State) : Host.Outcome State Fault Refusal :=
  let q := s.port p
  if q.up then .next s
  else
    let t := s.onPort p (fun q => { q with up := true })
    .next (if bit q.events 12 && bit q.mask 12 then t.vector p 12 else t)

/-- The port's buffers deregistered: the feed ring, result slots, the spill ring and a save's image (R374). -/
def State.deregisterPort (s : State) (p : Nat) : State :=
  let keep (r : ResultStream) : ResultStream := if r.port == p then { r with slots := [] } else r
  let spill := match s.glean.spill with | some b => if b.port == p then none else some b | none => none
  let t := { s with
    feed := if s.feed.port == p then { s.feed with ring := [] } else s.feed
    results := s.results.map (fun (x : Nat × ResultStream) => (x.1, keep x.2))
    glean := { s.glean with spill := spill } }
  t.onPort p (fun q => { q with windows := [] })

/-- PORT_RESET: PERST_N, hot reset or FLR (R374). -/
def execPortReset (p : Fin 4) (s : State) : Host.Outcome State Fault Refusal :=
  let t := (s.abortPort p).deregisterPort p
  let t := t.onPort p (fun q => { q with
    dups := [], mask := 0, msix := [], pba := 0
    boxes := q.boxes.map (fun x => (x.1, { x.2 with cplEn := false, cplAddr := 0 })) })
  let r := t.rst
  .next (({ t with rst := if s.relay then r else { r with cause := setBit r.cause (12 + p.val) } } : State).logUncoded p)

/-! Register writes (R11, R354) -/

/-- A number with `w` of its bits from `lo` upward replaced. -/
def splice (x lo w v : Nat) : Nat := x - (x / 2 ^ lo % 2 ^ w) * 2 ^ lo + (v % 2 ^ w) * 2 ^ lo

/-- A pulse output's registers (R62). -/
def Pulse.store (p : Pulse) (o : Nat) (v : Word32) (now : Nat) : Pulse :=
  match o with
  | 0x00 => p.write v now
  | 0x04 => { p with start := BitVec.ofNat 64 (splice p.start.toNat 0 32 v.toNat) }
  | 0x08 => { p with start := BitVec.ofNat 64 (splice p.start.toNat 32 32 v.toNat) }
  | 0x0C => { p with period := BitVec.ofNat 64 (splice p.period.toNat 0 32 v.toNat) }
  | 0x10 => { p with period := BitVec.ofNat 64 (splice p.period.toNat 32 32 v.toNat) }
  | 0x14 => { p with width := v }
  | _ => p

/-- A write of TCAP_STATUS frees the entries whose bit is 1 (R62). -/
def State.writeCapStatus (s : State) (v : Word32) : State :=
  { s with time := { s.time with valid0 := s.time.valid0 && !bit v 0, valid1 := s.time.valid1 && !bit v 1 } }

/-- A write of the time block by the control processor (R62, R63). -/
def State.writeTime (s : State) (o : Nat) (v : Word32) : State :=
  let t := s.time
  let set (x : TimeBlock) : State := { s with time := x }
  match o with
  | 0x000 => { s with time := { t with nextLate := t.nextLate && !bit v 4, nextRange := t.nextRange && !bit v 7 }
                      servo := { s.servo with holdoverExpired := s.servo.holdoverExpired && !bit v 5 } }
  | 0x040 => set { t with nextAnchor := BitVec.ofNat 64 (splice t.nextAnchor.toNat 0 32 v.toNat) }
  | 0x044 => set { t with nextAnchor := BitVec.ofNat 64 (splice t.nextAnchor.toNat 32 32 v.toNat) }
  | 0x048 => set { t with nextOffset := BitVec.ofNat 80 (splice t.nextOffset.toNat 0 16 v.toNat) }
  | 0x04C => set { t with nextOffset := BitVec.ofNat 80 (splice t.nextOffset.toNat 16 32 v.toNat) }
  | 0x050 => set { t with nextOffset := BitVec.ofNat 80 (splice t.nextOffset.toNat 48 32 v.toNat) }
  | 0x054 => set { t with nextRate := BitVec.ofNat 48 (splice t.nextRate.toNat 0 32 v.toNat) }
  | 0x058 => set { t with nextRate := BitVec.ofNat 48 (splice t.nextRate.toNat 32 16 v.toNat) }
  | 0x05C => if bit v 0 then set t.arm else s
  | 0x060 => set { t with epoch := BitVec.ofNat 64 (splice t.epoch.toNat 0 32 v.toNat) }
  | 0x064 => set { t with epoch := BitVec.ofNat 64 (splice t.epoch.toNat 32 32 v.toNat) }
  | 0x068 => set { t with period := v }
  | 0x090 => { s with servo := { s.servo with holdoverBudget := v } }
  | 0x140 => set { t with capEnable := bit v 0, capEdge := BitVec.ofNat 2 (field v 1 2) }
  | 0x144 => s.writeCapStatus v
  | _ =>
    if 0x100 ≤ o ∧ o < 0x118 then set { t with pulse0 := t.pulse0.store (o - 0x100) v s.nowNs }
    else if 0x120 ≤ o ∧ o < 0x138 then set { t with pulse1 := t.pulse1.store (o - 0x120) v s.nowNs }
    else s

/-- A write of the fault block, with the reset and granary registers, by the control processor. -/
def State.writeFault (s : State) (o : Nat) (v : Word32) : State :=
  match o with
  | 0x2C => { s with assay := { s.assay with twinWait := v } }
  | 0x800 => { s with rst := { s.rst with cause := w1c s.rst.cause v } }
  | 0xC00 => { s with granary := { s.granary with writeFail := s.granary.writeFail && !bit v 6 } }
  | _ => s

/-- A write by the control processor: what a register's access type allows; every other register ignores it.  DESIGN CHOICE: a
GRACE_LIMIT_MS outside its 1 to 50 (R270) is ignored (log entry 129). -/
def State.writeProcessor (s : State) (off : Nat) (v : Word32) : State :=
  let o := off % 0x10000
  match off / 0x10000 with
  | 0x10 => if o < 0x1000 then s.writeTime o v else s
  | 0x11 => if o < 33 * 0x40 && o % 0x40 == 0 then s.onRegion (o / 0x40) (fun g => { g with marginLow := g.marginLow && !bit v 2 }) else s
  | 0x12 => if o < 0x4000 && o % 0x100 == 4 then s.onBlock (o / 0x100) (fun k => { k with err := w1c k.err v }) else s
  | 0x13 => if o < 12 * 0x100 && o % 0x100 == 4 then s.onStack (o / 0x100) (fun k => { k with err := w1c k.err v }) else s
  | 0x14 => if o < 12 * 0x80 && o % 0x80 == 0 then
      s.onChan (o / 0x80) (fun k => { k with ce := k.ce && !bit v 4, ue := k.ue && !bit v 5 }) else s
  | 0x16 =>
    if o < 0x1C00 && o % 0x80 == 4 then s.onLink (o / 0x80) (fun k => { k with err := w1c k.err v })
    else if o == 0x1C04 && decide (1 ≤ v.toNat) && decide (v.toNat ≤ 50) then { s with bypass := { s.bypass with graceLimit := v } } else s
  | 0x1A => if o < 0x1000 then s.writeFault o v else s
  | _ => s

/-- A mailbox's writable registers (R355, R359).  Bits [2:0] of MBX_CPL_ADDR_LO, which must be 0, are stored as 0 whatever is written
(DESIGN CHOICE; log entry 123). -/
def State.writeMailbox (s : State) (p m o : Nat) (v : Word32) : State :=
  match o with
  | 0x00 => s.onMbx p m (fun k => { k with postLo := v })
  | 0x04 => s.postMbx p m v
  | 0x0C => s.onMbx p m (fun k => { k with cplEn := bit v 0 })
  | 0x10 => s.onMbx p m (fun k => { k with cplAddr := BitVec.ofNat 64 (splice k.cplAddr.toNat 0 32 (v.toNat / 8 * 8)) })
  | 0x14 => s.onMbx p m (fun k => { k with cplAddr := BitVec.ofNat 64 (splice k.cplAddr.toNat 32 32 v.toNat) })
  | _ => s

/-- The port register block as its host writes it (R355). -/
def State.writePort (s : State) (p o : Nat) (v : Word32) : State :=
  match o with
  | 0x008 => s.onPort p (fun q => { q with events := w1c q.events v })
  | 0x00C => s.onPort p (fun q => { q with mask := v &&& 0x00003FFF })
  | 0x010 => s.abortWrite p v
  | 0x018 => if (s.port p).role == .owner then s.onPort p (fun q => { q with bar2Base := BitVec.ofNat 12 v.toNat }) else s
  | _ => if 0x100 ≤ o ∧ o < 0x200 then s.writeMailbox p ((o - 0x100) / 0x20) ((o - 0x100) % 0x20) v else s

/-- A write of the MSI-X table (R351; log entry 33): a vector that pends goes once its entry is no longer masked. -/
def State.writeMsix (s : State) (p i : Nat) (v : Word32) : State :=
  let dflt : Word32 := if i % 4 = 3 then 1 else 0
  let w := if i % 4 = 3 then v &&& 1 else v
  let t := s.onPort p (fun q => { q with msix := put dflt q.msix i w })
  if i % 4 == 3 && w == 0 && bit (s.port p).pba (i / 4) then
    (t.onPort p (fun q => { q with pba := clearBit q.pba (i / 4) })).vector p (i / 4)
  else t

/-- A write of a command area (R354, R359): a busy mailbox keeps its bytes and sets OVERPOST. -/
def State.writeArea (s : State) (p o : Nat) (v : Word32) : State :=
  let m := o / 0x2000
  if 0x1000 ≤ o % 0x2000 then s
  else if (s.mbx p m).busy then s.onMbx p m (fun k => { k with overpost := true })
  else s.onMbx p m (fun k => { k with cmd := writeBytes k.cmd (o % 0x2000) (leBytes 4 v.toNat) })

/-- A write by a host port (R354): its port block, its command areas, its MSI-X table, and TCAP_STATUS from the owner. -/
def State.writeHost (s : State) (p off : Nat) (v : Word32) : State :=
  if off < 0x1000 then s.writePort p off v
  else if off < 0x1400 then s.writeMsix p ((off - 0x1000) / 4) v
  else if 0x10000 ≤ off ∧ off < 0x20000 then s.writeArea p (off - 0x10000) v
  else if off = 0x100144 && (s.port p).role == .owner then s.writeCapStatus v
  else s

/-- The words of a write with their offsets, the lower address first (R354). -/
def wordsAt (offset : Nat) (data : List Byte) : List (Nat × Word32) :=
  (List.range (data.length / 4)).map (fun i => (offset + 4 * i, BitVec.ofNat 32 (leNat (slice data (4 * i) 4))))

/-- Whether BAR0 takes a write (R354): 4 B or 8 B and naturally aligned, in the mailbox areas any whole number of words. -/
def bar0Takes (offset n : Nat) : Bool :=
  if 0x10000 ≤ offset ∧ offset < 0x20000 then n % 4 == 0 && offset % 4 == 0 else (n == 4 || n == 8) && offset % n == 0

/-- REGISTER_WRITE (R11, R354): word by word; from a host any other access is an Unsupported Request, and so is one to the mailbox areas
that is no whole number of words (DESIGN CHOICE; log entry 33).  The control processor writes whole words at a multiple of 4 (DESIGN CHOICE;
log entry 125). -/
def execRegisterWrite (w : Writer) (offset : BitVec 24) (data : List Byte) (s : State) : Host.Outcome State Fault Refusal :=
  match w with
  | .host p =>
    if bar0Takes offset.toNat data.length then .next ((wordsAt offset.toNat data).foldl (fun t x => t.writeHost p x.1 x.2) s)
    else .next { s with out := s.out ++ [.unsupported p] }
  | .processor =>
    if offset.toNat % 4 = 0 then .next ((wordsAt offset.toNat data).foldl (fun t x => t.writeProcessor x.1 x.2) s) else .next s

end Sys2Proof.Machine
end

