-- ==== Sys2Proof/Machine/Checks.lean ====
section
/-! DEFINITION. The plan image as bytes (R307, R308) and the load-time checks of R317, each under its status and with the
record that a refusal returns (R381). -/

namespace Sys2Proof.Machine

open Sys2Proof

/-! What the module offers (R1, R2, R4, R74) -/

/-- The good blocks of the module, no more than its grade provides. -/
def State.goodBlocks (s : State) : Nat :=
  let n := ((List.range 64).filter (fun b =>
    !(s.block b).fused && !(s.block b).failed && !(s.region (compRegion b)).calFail)).length
  Nat.min n (if s.rst.gradeB then 56 else 64)

/-- Whether the module accepts plans at all: no network, stack or I/O region is failed (R74). -/
def State.acceptsPlans (s : State) : Bool := (List.range 33).all (fun r => decide (r < 0x10) || !(s.region r).calFail)

/-- The cell counts offered, as CELL_MASK gives them (R2, R74). -/
def State.offers (s : State) : Nat :=
  if !s.acceptsPlans then 0 else b2n (decide (48 ≤ s.goodBlocks)) + 2 * b2n (decide (56 ≤ s.goodBlocks)) + 4 * b2n (decide (64 ≤ s.goodBlocks))

/-- The bit of a cell count in CELL_MASK. -/
def maskBit (cells : Nat) : Nat := if cells = 192 then 0 else if cells = 224 then 1 else 2

/-- The cell counts that a mask sets, smallest first. -/
def maskCounts (m : Nat) : List Nat := [192, 224, 256].filter (fun c => m.testBit (maskBit c))

/-- Whether a profile is offered (R4): LP1 by both steppings, LP2 by B1. -/
def State.profileOffered (s : State) (p : Nat) : Bool := p == 1 || (p == 2 && s.rst.stepping == 0xB1)

/-! The image (R307, R308) -/

/-- A directory entry. -/
structure DirEntry where
  type : Nat
  variant : Nat
  form : Nat
  target : Nat
  offset : Nat
  length : Nat
  place : Nat
  place2 : Nat
  crc : Nat
  clean : Bool
  deriving DecidableEq, Repr

/-- The directory entry at a byte offset. -/
def dirEntry (image : List Byte) (o : Nat) : DirEntry :=
  let b := slice image o 48
  { type := fieldLE b 0 2, variant := fieldLE b 2 1, form := fieldLE b 3 1, target := fieldLE b 4 2, offset := fieldLE b 8 8
    length := fieldLE b 16 8, place := fieldLE b 24 8, place2 := fieldLE b 32 8, crc := fieldLE b 40 4
    clean := fieldLE b 6 2 == 0 && fieldLE b 44 4 == 0 }

/-- The directory of an image: no more entries than the image has room for. -/
def directory (image : List Byte) : List DirEntry :=
  let o := fieldLE image 76 4
  (List.range (Nat.min (fieldLE image 72 4) (image.length / 48))).map (fun i => dirEntry image (o + 48 * i))

/-- The section that an item stands in, as the directory has it (R308): its VARIANT, FORM and TARGET, if its TYPE is the item's. -/
def readSection (d : List DirEntry) (type : Nat) (x : SectionRef) : Option SectionRef :=
  match d[x.index]? with
  | some e => if e.type == type then some { x with variant := e.variant, form := e.form, target := e.target } else none
  | none => none

/-- The planned move that a 40 B entry spells (R311); bytes 2 and 3, which the rule lists no field for, and a DIR above 1 count with its
reserved bytes. -/
def moveOf (b : List Byte) : TierMove :=
  let target := fieldLE b 32 2
  { engine := fieldLE b 0 1, toHbm := fieldLE b 1 1 == 0, units := fieldLE b 4 4, ddrAddr := fieldLE b 8 8, hbmAddr := fieldLE b 16 8
    start := fieldLE b 24 4, stop := fieldLE b 28 4, toStack := target.testBit 15, targetUnit := target / 64 % 512, group := target % 64
    resv := fieldLE b 34 6 + fieldLE b 2 2 + fieldLE b 1 1 / 2 }

/-- How many entries a RANGE section has: they end where its first element order map begins, or with the section; no map lies before
the end of its own entry (DESIGN CHOICE: the rule gives no count; log entry 126). -/
def rangeCount (sec : List Byte) : Nat :=
  let n := sec.length / 32
  let maps := (List.range n).filterMap (fun i =>
    let o := fieldLE sec (32 * i + 24) 4
    if 32 * (i + 1) ≤ o then some o else none)
  (maps.foldl Nat.min (32 * n)) / 32

/-- The range that a 32 B entry of a RANGE section spells, with its element order map (R313): LENGTH / 4 KiB numbers of 4 B each (DESIGN
CHOICE: the rule gives the map's place and no width, and an ORDER among the entries themselves names no map; log entry 126). -/
def rangeOf (sec : List Byte) (i : Nat) : RangeEntry :=
  let b := slice sec (32 * i) 32
  let at_ := fieldLE b 24 4
  let order := if at_ < 32 * rangeCount sec then 0 else at_
  let length := fieldLE b 16 8
  { id := fieldLE b 0 4, cls := fieldLE b 4 1, space := fieldLE b 5 1, block := fieldLE b 6 2, base := fieldLE b 8 8, length := length
    order := if order = 0 then [] else (List.range (Nat.min (ceilDiv length 4096) ((sec.length - order) / 4))).map (fun j => fieldLE sec (order + 4 * j) 4)
    resv := fieldLE b 28 4 }

/-- How many entries a list's earlier items have in the section of item `k`. -/
def entriesBefore {α : Type} (sec : α → SectionRef) (size : α → Nat) (l : List α) (k : Nat) : Nat :=
  match l[k]? with
  | some x => ((l.take k).filter (fun y => (sec y).index == (sec x).index)).foldl (fun n y => n + size y) 0
  | none => 0

/-- A plan's content tied to its image (R308, R311, R313): each item's section as the directory describes it, an item whose section has
another TYPE left out; the planned moves and the ranges as their entries' bytes spell them. -/
def readBody (b : PlanBody) (image : List Byte) : PlanBody :=
  let d := directory image
  let tied {α : Type} (type : Nat) (sec : α → SectionRef) (put : α → SectionRef → α) (l : List α) : List α :=
    l.filterMap (fun x => (readSection d type (sec x)).map (put x))
  let bytes (i : Nat) : List Byte := match d[i]? with | some e => slice image e.offset e.length | none => []
  let moves := b.moves.zipIdx.map (fun x =>
    (x.1.1, x.1.2.1, moveOf (slice (bytes x.1.1.index) (40 * entriesBefore (·.1) (fun _ => 1) b.moves x.2) 40)))
  let ranges := (d.filter (fun e => e.type == 0x0B)).flatMap (fun e =>
    let sec := slice image e.offset e.length
    (List.range (rangeCount sec)).map (rangeOf sec))
  { b with
    streams := tied 0x01 Stream.sec (fun x s => { x with sec := s }) b.streams
    stackStreams := tied 0x03 Stream.sec (fun x s => { x with sec := s }) b.stackStreams
    blockTables := tied 0x02 UnitTables.sec (fun x s => { x with sec := s }) b.blockTables
    stackTables := tied 0x04 UnitTables.sec (fun x s => { x with sec := s }) b.stackTables
    slices := tied 0x05 SliceSched.sec (fun x s => { x with sec := s }) b.slices
    rota := tied 0x06 RotaPart.sec (fun x s => { x with sec := s }) b.rota
    stageIndex := tied 0x08 (·.1) (fun x s => (s, x.2)) b.stageIndex
    moves := tied 0x0A (·.1) (fun x s => (s, x.2)) moves
    ranges := ranges
    init := tied 0x0C (·.1) (fun x s => (s, x.2)) b.init
    budgets := tied 0x0E (·.1) (fun x s => (s, x.2)) b.budgets }

/-- A span of a list taken as zeros. -/
def zeroBytes (bs : List Byte) (o k : Nat) : List Byte := bs.take o ++ List.replicate k 0 ++ bs.drop (o + k)

/-- The plan that an image spells, with its sections' content. -/
def planOf (image : List Byte) (body : PlanBody) : Plan :=
  { hash := hashOf image, profile := fieldLE image 8 1, cellMask := fieldLE image 9 1, flags := BitVec.ofNat 8 (fieldLE image 10 1)
    period := fieldLE image 12 4, stepLen := fieldLE image 16 2, commit := fieldLE image 18 2, margin := fieldLE image 20 4
    skew := fieldLE image 24 2, grace := fieldLE image 26 2, envelope := fieldLE image 28 2, relayEnvelope := fieldLE image 30 2
    mapHash := BitVec.ofNat 256 (beNat (slice image 32 32)), seed := BitVec.ofNat 64 (fieldLE image 64 8)
    length := fieldLE image 80 8
    sections := (directory image).map (fun d => [d.type, d.variant, d.form, d.target, d.offset, d.length, d.place, d.place2])
    digest := sha256 (zeroBytes image 256 64), signature := slice image 256 64, keyId := slice image 320 32
    image := image, body := readBody body image }

/-- One failed check (R381). -/
structure CheckFail where
  status : Nat
  section_ : Nat := 0xFFFF
  entry : Nat := 0
  region : Nat := 0x3F
  link : Nat := 0x3F
  cells : Nat := 0
  value : Nat := 0
  limit : Nat := 0
  deriving DecidableEq, Repr

/-- A failed check as its 32 B record (R381). -/
def CheckFail.bytes (f : CheckFail) : List Byte :=
  leBytes 2 f.status ++ leBytes 2 f.section_ ++ leBytes 4 f.entry ++ leBytes 1 f.region ++ leBytes 1 f.link ++ leBytes 2 f.cells ++
    leBytes 4 f.value ++ leBytes 4 f.limit ++ List.replicate 12 0

/-- The directory index of the first section of a type. -/
def Plan.sectionOf (p : Plan) (type : Nat) : Nat :=
  match p.sections.findIdx? (fun x => x.headD 0 == type) with | some i => i | none => 0xFFFF

/-- A check that fails on the first bad item of a list. -/
def failAt {α : Type} (l : List α) (bad : α → Bool) (f : α → Nat → CheckFail) : Option CheckFail :=
  (l.zipIdx.find? (fun x => bad x.1)).map (fun x => f x.1 x.2)

/-- A check of one condition. -/
def failUnless (ok : Bool) (f : CheckFail) : Option CheckFail := if ok then none else some f

/-- IMAGE_BAD: the header, the directory, every section's place and CRC, and no reserved type, field or bit (R307 to R309). -/
def checkImage (image : List Byte) : Option CheckFail :=
  let d := directory image
  let len := fieldLE image 80 8
  let zero (o k : Nat) : Bool := (slice image o k).all (· == 0)
  let head := fieldLE image 0 4 == 0x504C5A47 && fieldLE image 6 2 == 512 && len == image.length && decide (512 ≤ len) &&
    decide (len ≤ 8 * 2 ^ 30) && zero 11 1 && zero 92 164 && zero 352 160 && fieldLE image 9 1 / 8 == 0 && fieldLE image 10 1 / 32 == 0 &&
    (crc32c (zeroBytes (zeroBytes (image.take 512) 88 4) 256 96)).toNat == fieldLE image 88 4 &&
    decide (fieldLE image 76 4 + 48 * fieldLE image 72 4 ≤ len)
  let sectionOk (x : DirEntry) : Bool := x.clean && decide (1 ≤ x.type) && decide (x.type ≤ 14) && decide (x.variant ≤ 3) &&
    (decide (x.form ≤ 8) || x.form == 0xFF) && (x.target == 0xFFFF || decide (x.target ≤ 0x3FF) || (decide (0x8000 ≤ x.target) && decide (x.target ≤ 0x807F))) &&
    decide (x.offset + x.length ≤ len) && (crc32c (slice image x.offset x.length)).toNat == x.crc
  if !head then some { status := 0x0201 }
  else failAt d (fun x => !sectionOk x) (fun _ i => { status := 0x0201, section_ := i })

/-- ABI (R307). -/
def checkAbi (image : List Byte) : Option CheckFail :=
  failUnless (fieldLE image 4 2 == planAbi.toNat) { status := 0x0202, value := fieldLE image 4 2, limit := planAbi.toNat }

/-- A public key's KEY_ID: SHA-256 of its uncompressed form (R307), the octet 4 and then x and y, most significant byte first
as that form has them (log entry 35). -/
def keyId (key : List Byte) : List Byte := sha256 (0x04 :: ((slice key 0 32).reverse ++ (slice key 32 32).reverse))

/-- The keys under which a signature counts (R319): the granary's plan keys, else the owner's registered key. -/
def State.acceptedKeys (s : State) : List (List Byte) :=
  if s.granary.planKeys.isEmpty then s.store.ownerKey.toList else s.granary.planKeys.map (fun k => leBytes 64 k.toNat)

/-- SIGNATURE (R318, R319): with keys held every plan is signed under one of them; a signed plan's KEY_ID matches one. -/
def checkSignature (keys : List (List Byte)) (p : Plan) : Option CheckFail :=
  let signed := p.signature.any (· != 0)
  let key := keys.find? (fun k => keyId k == p.keyId)
  let good := match key with | some k => signed && ecdsaVerify k p.digest p.signature | none => !signed && keys.isEmpty
  failUnless (good && bit p.flags 2 == signed) { status := 0x0203 }

/-- PROFILE (R4). -/
def State.checkProfile (s : State) (p : Plan) : Option CheckFail :=
  failUnless (s.profileOffered p.profile) { status := 0x0204, value := p.profile }

/-- GRADE at load: a set cell count within the offer (R2, R74). -/
def State.checkGrade (s : State) (p : Plan) : Option CheckFail :=
  failUnless (if s.relay then s.acceptsPlans && p.cellMask != 0 else p.cellMask &&& s.offers != 0) { status := 0x0205, value := p.cellMask, limit := s.offers }

/-- GRADE at start: the bound map's cell count is set and offered. -/
def State.checkMapGrade (s : State) (p : Plan) : Option CheckFail :=
  match s.store.map with
  | none => none
  | some m => failUnless (p.cellMask.testBit (maskBit m.cells) && (if s.relay then s.acceptsPlans else s.offers.testBit (maskBit m.cells)))
      { status := 0x0205, cells := m.cells, limit := s.offers }

/-- MAP_MISMATCH (R26, R307). -/
def State.checkMap (s : State) (p : Plan) : Option CheckFail :=
  failUnless (match s.store.map with | some m => m.hash == p.mapHash | none => true) { status := 0x0206 }

/-- PARAM: P (R30), L and C (R45), M and S (R223), GRACE (R259). -/
def checkParam (p : Plan) : Option CheckFail :=
  failUnless (decide (20000 ≤ p.period) && decide (p.period ≤ 2000000) && decide (2 ≤ p.stepLen) && decide (1 ≤ p.commit) &&
    decide (p.commit < p.stepLen) && decide (500 ≤ p.margin) && decide (p.margin ≤ 100000) && decide (50 ≤ p.skew) &&
    decide (p.skew ≤ 1000) && decide (1 ≤ p.grace) && decide (p.grace ≤ 50)) { status := 0x0207 }

/-! Streams (R122, R134 to R136, R144, R163, R466) -/

/-- What one line of a stream does to the sequencer: IDLE, the control operation (0 none, 1 LOOP_BEGIN, 2 LOOP_END,
3 SHEAF_END), the level and the trip-count index. -/
structure LineOp where
  idle : Nat
  ctl : Nat
  level : Nat
  trip : Nat
  deriving DecidableEq, Repr

/-- A bundle's line (R121, R133). -/
def bundleLine (w : Word256) : LineOp :=
  { idle := field w 247 8, ctl := field w 220 3, level := field w 223 2, trip := field w 225 8 }

/-- A stack instruction's line (R160, R166). -/
def stackLine (w : Word256) : LineOp :=
  let op := field w 0 6
  { idle := field w 96 8, ctl := if op = 0x31 then 1 else if op = 0x32 then 2 else if op = 0x33 then 3 else 0
    level := field w 94 2, trip := field w 78 8 }

/-- An open loop of a walk: level, first line of the body, cycle at which the body begins, trip count. -/
structure WalkLoop where
  level : Nat
  line : Nat
  start : Nat
  trip : Nat
  deriving DecidableEq, Repr

/-- Walks a stream whose instruction memory halves hold `half` lines: the cycle at which each line first issues, and the
stream's cycle count; `none` where loops or SHEAF_END break R135 or R136.  DESIGN CHOICE: lines after an early SHEAF_END never
issue (R136), so the loop rules do not bind them and the walk ends there (log entry 103). -/
def walk (half : Nat) (trips : List Nat) : List LineOp → Nat → Nat → List WalkLoop → Option (List Nat × Nat)
  | [], _, _, _ => none
  | x :: xs, line, c, open_ =>
    let e := c + 1 + x.idle
    let next (d : Nat) (st : List WalkLoop) : Option (List Nat × Nat) :=
      (walk half trips xs (line + 1) d st).map (fun r => (c :: r.1, r.2))
    match x.ctl with
    | 0 => next e open_
    | 1 =>
      if open_.any (fun l => decide (x.level ≤ l.level)) then none
      else next e ({ level := x.level, line := line + 1, start := e, trip := trips.getD x.trip 0 } :: open_)
    | 2 =>
      match open_ with
      | [] => none
      | l :: rest =>
        if l.level != x.level || l.line / half != line / half then none
        else next (l.start + l.trip * (e - l.start)) rest
    | 3 => if open_.isEmpty then some ([c], e) else none
    | _ => none

/-- The lines of a stream. -/
def streamLines (stack : Bool) (x : Stream) : List LineOp := x.words.map (if stack then stackLine else bundleLine)

/-- Whether a section is of relay role (R308). -/
def secOfRelay (x : SectionRef) : Bool := if x.target == 0xFFFF then x.relay else decide (0x8000 ≤ x.target)

/-- Whether two sections can apply to one module at a cell count. -/
def secsMeet (v : Nat) (x y : SectionRef) : Bool :=
  secOfRelay x == secOfRelay y && (x.variant == 0 || x.variant == v) && (y.variant == 0 || y.variant == v) &&
    (x.target == 0xFFFF || y.target == 0xFFFF || x.target == y.target) && (x.form == 0xFF || y.form == 0xFF || x.form == y.form)

/-- The sections that together make a unit's tables for a stream, in directory order: one list for each TARGET that they name. -/
def tableLists (l : List UnitTables) (v : Nat) (x : Stream) : List (List UnitTables) :=
  let own := l.filter (fun e => e.unitIx == x.unitIx && secsMeet v e.sec x.sec)
  match ((own.map (fun e => e.sec.target)).filter (· != 0xFFFF)).dedup with
  | [] => [own]
  | ts => ts.map (fun t => own.filter (fun e => e.sec.target == 0xFFFF || e.sec.target == t))

/-- The block tables that a stream may meet at a cell count (R314, R466). -/
def blockTablesFor (b : PlanBody) (v : Nat) (x : Stream) : List BlockTables := (tableLists b.blockTables v x).map blockTablesOf

/-- The stack tables that a stream may meet at a cell count. -/
def stackTablesFor (b : PlanBody) (v : Nat) (x : Stream) : List StackTables := (tableLists b.stackTables v x).map stackTablesOf

/-- A stream's walks at a cell count, one for each tables that it may meet. -/
def streamWalks (b : PlanBody) (stack : Bool) (v : Nat) (x : Stream) : List (Option (List Nat × Nat)) :=
  let trips := if stack then (stackTablesFor b v x).map (·.trip) else (blockTablesFor b v x).map (·.trip)
  trips.map (fun t => walk (if stack then 4096 else 8192) t (streamLines stack x) 0 0 [])

/-- The budget limit of R33 in cc. -/
def budgetLimit (period : Nat) : Nat := Nat.min (966 * period / 1000) (21 * (period - 5500) / 20)

/-- Whether a stream is one of those that run at a cell count: its section's VARIANT covers the count, and its logical block
exists (R114, R314). -/
def runsAt (stack : Bool) (cells : Nat) (x : Stream) : Bool :=
  (x.sec.variant == 0 || x.sec.variant == variantOf cells) && (stack || decide (x.unitIx < cells / 4))

/-- A stream's longest cycle count at a cell count; 0 where it does not run. -/
def streamCycles (b : PlanBody) (stack : Bool) (cells : Nat) (x : Stream) : Nat :=
  if runsAt stack cells x then ((streamWalks b stack (variantOf cells) x).filterMap (fun w => w.map (·.2))).foldl Nat.max 0 else 0

/-- The first of some budgets, each with its region, cell count and section, over a plan's limit (R33). -/
def overBudget (p : Plan) (l : List (Nat × Nat × Nat × Nat)) : Option CheckFail :=
  (l.find? (fun x => decide (budgetLimit p.period < x.2.2.1))).map (fun x =>
    { status := 0x0208, section_ := x.2.2.2, region := x.1, cells := x.2.1, value := x.2.2.1, limit := budgetLimit p.period })

/-- BUDGET (R33, R136, R163, R200, R206): every stream, every part and the declared budget of the I/O region, at every set count. -/
def checkBudget (p : Plan) : Option CheckFail :=
  overBudget p ((maskCounts p.cellMask).flatMap (fun c =>
    p.body.streams.map (fun x => (x.unitIx / 4, c, streamCycles p.body false c x, x.sec.index)) ++
      p.body.stackStreams.map (fun x => (stackRegion x.unitIx, c, streamCycles p.body true c x, x.sec.index)) ++
      (p.body.rota.filter (fun x => x.sec.variant == 0 || x.sec.variant == variantOf c)).map
        (fun x => (netRegion x.part, c, partBudget x.entries, x.sec.index)) ++
      (p.body.budgets.filter (fun b => b.2.1 == ioRegion && (b.1.variant == 0 || b.1.variant == variantOf c))).map
        (fun b => (ioRegion, c, b.2.2.2, b.1.index))))

/-- The module's budget of a region in a pattern at a cell count (R136, R163, R206): the longest of the streams that the region's
number names, by logical block or stack, or the part's (log entry 58). -/
def State.regionBudget (s : State) (p : Plan) (pos : Sparse Nat) (cells region pattern : Nat) : Nat :=
  let most (stack : Bool) (l : List Stream) : Nat :=
    ((l.filter (fun x => x.pattern == pattern && secNames x.sec pos s.mgmt.key)).map (streamCycles p.body stack cells)).foldl Nat.max 0
  if region < 0x10 then most false (p.body.streams.filter (fun x => x.unitIx / 4 == region))
  else if region < 0x14 then
    ((p.body.rota.filter (fun x => x.pattern == pattern && x.part == region - 0x10 && (x.sec.variant == 0 || x.sec.variant == variantOf cells) &&
      secNames x.sec pos s.mgmt.key)).map (fun x => partBudget x.entries)).foldl Nat.max 0
  else most true (p.body.stackStreams.filter (fun x => x.unitIx == region - 0x14))

/-- The initial position table (R17, R220): the bound map's; without a map the plan's POSITION section stands for it (DESIGN CHOICE: the
two are not compared; log entry 127). -/
def State.planPositions (s : State) (p : Plan) : Sparse Nat :=
  positionsOf (match s.store.map with | some m => m.positions | none => p.body.positions)

/-- Every (region, pattern) of a plan that a stream, a part or a declared budget names; the I/O region, which R136 and R163 give no IDLE
fields and no trip counts to compute from, apart. -/
def Plan.budgetKeys (p : Plan) : List (Nat × Nat) :=
  let streams : List (Nat × Nat) := p.body.streams.map (fun x => (x.unitIx / 4, x.pattern))
  let besides : List (Nat × Nat) := p.body.stackStreams.map (fun x => (stackRegion x.unitIx, x.pattern))
  let parts : List (Nat × Nat) := p.body.rota.map (fun x => (netRegion x.part, x.pattern))
  let declared : List (Nat × Nat) := p.body.budgets.map (fun b => (b.2.1, b.2.2.1))
  ((streams ++ besides ++ parts ++ declared).filter (fun k => decide (k.1 < ioRegion))).dedup

/-- The budget that the plan declares for the module's region and pattern at a cell count; 0 where it declares none. -/
def State.declaredBudget (s : State) (p : Plan) (pos : Sparse Nat) (cells region pattern : Nat) : Nat :=
  match p.body.budgets.find? (fun b => b.2.1 == region && b.2.2.1 == pattern &&
      (b.1.variant == 0 || b.1.variant == variantOf cells) && secNames b.1 pos s.mgmt.key) with
  | some b => b.2.2.2
  | none => 0

/-- BUDGET_MISMATCH (R314) under a position table: the recomputed budgets equal the BUDGET section for the machine's cell count. -/
def State.checkBudgetsAt (s : State) (p : Plan) (pos : Sparse Nat) : Option CheckFail :=
  match s.store.map with
  | none => none
  | some m =>
    let got (k : Nat × Nat) : Nat := s.regionBudget p pos m.cells k.1 k.2
    let want (k : Nat × Nat) : Nat := s.declaredBudget p pos m.cells k.1 k.2
    (p.budgetKeys.find? (fun k => got k != want k)).map (fun k =>
      { status := 0x0209, section_ := p.sectionOf 0x0E, region := k.1, cells := m.cells, value := got k, limit := want k })

/-- BUDGET_MISMATCH at a start. -/
def State.checkBudgetMatch (s : State) (p : Plan) : Option CheckFail := s.checkBudgetsAt p (s.planPositions p)

/-- POWER (R282, R320): the cap has no effect on a relay. -/
def State.checkPower (s : State) (p : Plan) : Option CheckFail :=
  if !s.relay && decide (s.mgmt.cap < p.envelope) then some { status := 0x020A, section_ := p.sectionOf 0x0D, value := p.envelope, limit := s.mgmt.cap }
  else failUnless (decide (p.relayEnvelope ≤ 900)) { status := 0x020A, section_ := p.sectionOf 0x0D, value := p.relayEnvelope, limit := 900 }

/-- Whether a bundle holds a marked operation (R144). -/
def marked (loose : Word64) (w : Word256) : Bool :=
  let op := field w 204 3
  op == 2 || op == 4 || op == 5 || (op == 1 && bit loose (field w 207 6))

/-- The chunk descriptors that a bundle names (R124). -/
def descsNamed (w : Word256) : List Nat :=
  ((List.range 4).filter (fun c => field w (20 * c) 3 == 1)).map (fun c => field w (20 * c + 8) 8)

/-- A chunk descriptor within R119. -/
def chunkDescOk (d : ChunkDesc) : Bool :=
  decide (1 ≤ d.kv) && decide (d.kv ≤ 64) && decide (d.a < 1024) && decide (d.b < 1024) && decide (d.sa < 1024) && decide (d.sb < 1024)

/-- A trip count within R119. -/
def tripOk (t : Nat) : Bool := decide (1 ≤ t) && decide (t ≤ 16777215)

/-- A bundle against its stream and tables (R144, R466). -/
def bundleOk (loosePlan : Bool) (loose : Word64) (t : BlockTables) (w : Word256) : Bool :=
  let l := bundleLine w
  bit w 255 == marked loose w && (!marked loose w || loosePlan) && (descsNamed w).all (fun d => chunkDescOk (t.desc.getD d {})) &&
    (l.ctl != 1 || tripOk (t.trip.getD l.trip 0))

/-- A stack instruction's formats (R160, R166). -/
def stackFormatsOk (w : Word256) : Bool :=
  let f := stackFields w
  let op := field w 0 6
  if op = 0 then true
  else if op = 0x09 then modeOk f && plainIn f.fmtIn && mxOut f.fmtOut
  else if op ≤ 0x0E then arithOk f
  else if op = 0x12 then modeOk f && wideFmt f.fmtIn && wideFmt f.fmtOut
  else if op ≤ 0x17 || (0x30 ≤ op && op ≤ 0x33) then moveOk f
  else false

/-- A kernel descriptor within R167: its fields, its reserved bytes and the alignment of its learning-rate table. -/
def kdescOk (k : KDesc) : Bool :=
  (k.momFmt == 0xB || k.momFmt == 0) && (k.gradFmt == 0xB || k.gradFmt == 0) && (decide (k.shadowFmt ≤ 9) || k.shadowFmt == 0xFF) &&
    (k.narrowMode == 0 || k.narrowMode == 2) && decide (1 ≤ k.lrLen) && decide (k.lrLen ≤ 1048576) &&
    k.lrOff % 256 == 0 && k.resv == 0

/-- A stack instruction against its tables (R161, R162, R167). -/
def stackWordOk (t : StackTables) (w : Word256) : Bool :=
  let op := field w 0 6
  !bit w 127 && stackFormatsOk w && (op != 0x31 || tripOk (t.trip.getD (field w 78 8) 0)) &&
    (!(decide (0x13 ≤ op) && decide (op ≤ 0x17)) || kdescOk (t.kdesc.getD (field w 78 8) {}))

/-- The first line of a stream, where one stands, that breaks a check at a cell count: the walk's or the last line's failure
counts at the last line. -/
def Plan.streamBreak (p : Plan) (stack : Bool) (cells : Nat) (x : Stream) : Option Nat :=
  let v := variantOf cells
  let last := match x.words.getLast? with | some w => (if stack then stackLine w else bundleLine w).ctl == 3 | none => false
  let walks := (streamWalks p.body stack v x).all Option.isSome
  let bad := if stack then (stackTablesFor p.body v x).findSome? (fun t => x.words.findIdx? (fun w => !stackWordOk t w))
    else (blockTablesFor p.body v x).findSome? (fun t => x.words.findIdx? (fun w => !bundleOk (bit p.flags 0) x.loose t w))
  if !runsAt stack cells x then none
  else match bad with
    | some i => some i
    | none => if walks && last && (!stack || x.loose == 0) then none else some (x.words.length - 1)

/-- The index within its section of a line of a list's stream `k` (R381). -/
def lineIn (l : List Stream) (k line : Nat) : Nat := entriesBefore Stream.sec (fun x => x.words.length) l k + line

/-- STREAM (R135, R136, R144, R160, R161, R163, R167, R466), at every set count. -/
def checkStream (p : Plan) : Option CheckFail :=
  let first (stack : Bool) (l : List Stream) : Option CheckFail :=
    (maskCounts p.cellMask).findSome? (fun c => l.zipIdx.findSome? (fun x => (p.streamBreak stack c x.1).map (fun i =>
      { status := 0x020B, section_ := x.1.sec.index, entry := lineIn l x.2 i, cells := c
        region := if stack then stackRegion x.1.unitIx else x.1.unitIx / 4 })))
  match first false p.body.streams with
  | some f => some f
  | none => first true p.body.stackStreams

/-! Rota entries (R209 to R214, R228) -/

/-- LINK, KIND, SRC, DST, DGRP, OP and ALT_MASK of an entry. -/
def entryLink (e : Word128) : Nat := field e 18 6
/-- KIND. -/
def entryKind (e : Word128) : Nat := field e 24 3
/-- SRC. -/
def entrySrc (e : Word128) : Nat := field e 27 34
/-- DST. -/
def entryDst (e : Word128) : Nat := field e 61 32
/-- DGRP. -/
def entryGroup (e : Word128) : Nat := field e 93 12
/-- OP. -/
def entryOp (e : Word128) : Nat := field e 105 4
/-- ALT_MASK. -/
def entryMask (e : Word128) : Nat := field e 109 9

/-- The source of an entry by its kind (R210, R211). -/
def sourceOk (e : Word128) : Bool :=
  let s := entrySrc e
  if entryKind e = 3 then s == 0
  else field e (27 + 12) 20 == 0 && (if entryKind e = 1 then s / 2 ^ 32 == 3 else s / 2 ^ 32 == 0)

/-- The destination of an entry by its kind (R210, R212), for a plan of `n` logical blocks. -/
def destOk (n : Nat) (e : Word128) : Bool :=
  let d := entryDst e % 2 ^ 30
  let t := entryGroup e / 64
  let space := entryDst e / 2 ^ 30
  if entryKind e = 3 then entryDst e == 0 && entryGroup e == 0
  else if entryKind e = 2 then space == 1 && decide (d < 32768) && decide (t < 12)
  else if space = 0 then decide (d ≤ 12287) && decide (t < n) && decide (entryOp e ≤ 1)
  else if space = 1 then decide (d < 32768) && decide (t < 12) && entryOp e != 1
  else space == 2 && decide (d < 4096) && entryGroup e == 0 && entryOp e == 0

/-- The operation of an entry by its kind (R210). -/
def opOk (e : Word128) : Bool :=
  match entryKind e with | 0 => decide (entryOp e ≤ 1) | 1 => decide (entryOp e ≤ 3) | 2 => entryOp e == 2 || entryOp e == 3 | _ => entryOp e == 0

/-- One entry of a part (R209 to R212, R228, R312). -/
def entryOk (n : Nat) (x : RotaPart) (e : Word128) : Bool :=
  rotaCheck e == field e 120 8 && field e 118 2 == 0 && decide (3 ≤ entrySlot e) && decide (entryLink e ≤ 55) &&
    entryLink e / 14 == x.part && decide (entryKind e ≤ 3) && sourceOk e && destOk n e && opOk e &&
    (!secOfRelay x.sec || entryLink e != 47 || entryKind e == 3)

/-- Whether a part is sorted by SLOT and LINK, with disjoint ALT_MASKs where both agree (R214). -/
def sortedPart : List Word128 → Bool
  | [] => true
  | [_] => true
  | a :: b :: l =>
    let ka := entrySlot a * 64 + entryLink a
    let kb := entrySlot b * 64 + entryLink b
    decide (ka ≤ kb) &&
      ((b :: l).takeWhile (fun e => entrySlot e * 64 + entryLink e == ka)).all (fun e => entryMask a &&& entryMask e == 0) && sortedPart (b :: l)

/-- The first entry of a part out of R214's order, or not disjoint from an earlier one. -/
def orderBreak : List Word128 → Nat → Option Nat
  | [], _ => none
  | a :: l, i => if sortedPart (a :: l) then none else
      (if sortedPart (a :: l.take 1) then orderBreak l (i + 1) else some (i + 1))

/-- The number of logical blocks against which a part's targets are checked (R212): its own VARIANT's, else that of the
smallest count that CELL_MASK sets (log entry 76). -/
def targetBlocks (p : Plan) (x : RotaPart) : Nat :=
  (if x.sec.variant = 0 then (maskCounts p.cellMask).headD 256 else 160 + 32 * x.sec.variant) / 4

/-- The patterns of a step's commit sheaves (R45, R326). -/
def Plan.commitPatterns (p : Plan) : List Nat := (p.body.stepPatterns.take p.stepLen).drop (p.stepLen - p.commit)

/-- Whether a pattern runs anywhere but in pre-commit sheaves, where alone R327 lets STAGE_FWD stand: in commit sheaves or in a
refill. -/
def Plan.bareOfContributions (p : Plan) (n : Nat) : Bool :=
  p.commitPatterns.contains n || p.body.refillLists.any (fun l => l.2.contains n)

/-- The first entry of a part that breaks a rule (R209 to R214, R228, R312, R327). -/
def Plan.partBreak (p : Plan) (x : RotaPart) : Option Nat :=
  match x.entries.findIdx? (fun e => !entryOk (targetBlocks p x) x e || (entryKind e == 2 && p.bareOfContributions x.pattern)) with
  | some i => some i
  | none => match orderBreak x.entries 0 with
    | some i => some i
    | none => if 4096 ≤ x.pattern then some 0 else none

/-- The waits of a stream with the cycle of their first issue: (group, cycle, line). -/
def waitsOf (stack : Bool) (x : Stream) (cycles : List Nat) : List (Nat × Nat × Nat) :=
  ((x.words.zip cycles).zipIdx).flatMap (fun w =>
    let (word, cycle) := w.1
    if stack then (if field word 0 6 == 0x30 then [(field word 72 6, cycle, w.2)] else [])
    else
      let g := field word 207 6
      match field word 204 3 with
      | 1 => [(g, cycle, w.2)]
      | 2 => ((List.range 4).filter (fun j => (field word 213 4).testBit j)).map (fun j => (g + j, cycle, w.2))
      | _ => [])

/-- The waits of a stream at a cell count. -/
def Plan.waitsAt (p : Plan) (stack : Bool) (cells : Nat) (x : Stream) : List (Nat × Nat × Nat) :=
  if runsAt stack cells x then
    (streamWalks p.body stack (variantOf cells) x).flatMap (fun w => match w with | some r => waitsOf stack x r.1 | none => [])
  else []

/-- The waits of a stream at the set cell counts. -/
def Plan.waits (p : Plan) (stack : Bool) (x : Stream) : List (Nat × Nat × Nat) :=
  (maskCounts p.cellMask).flatMap (fun c => p.waitsAt stack c x)

/-- The line of the first wait of a commit sheaf's stream on a group that a rota entry feeds, which R327 forbids. -/
def Plan.fedWait (p : Plan) (stack : Bool) (x : Stream) : Option Nat :=
  let fed (g : Nat) : Bool := p.body.rota.any (fun r => r.pattern == x.pattern && r.entries.any (fun e =>
    entryKind e != 3 && entryDst e / 2 ^ 30 == (if stack then 1 else 0) && entryGroup e == 64 * x.unitIx + g))
  if p.commitPatterns.contains x.pattern then ((p.waits stack x).find? (fun w => fed w.1)).map (fun w => w.2.2) else none

/-- ROTA_ENTRY (R209 to R214, R228, R312, R327). -/
def checkRota (p : Plan) : Option CheckFail :=
  let total := p.body.rota.foldl (fun a x => a + x.entries.length) 0
  if 16777216 < total then some { status := 0x020C, section_ := p.sectionOf 0x06, value := total, limit := 16777216 }
  else
    let waits (stack : Bool) (l : List Stream) : Option CheckFail := l.zipIdx.findSome? (fun x => (p.fedWait stack x.1).map (fun i =>
      { status := 0x020C, section_ := x.1.sec.index, entry := lineIn l x.2 i, region := if stack then stackRegion x.1.unitIx else x.1.unitIx / 4 }))
    match p.body.rota.zipIdx.findSome? (fun x => (p.partBreak x.1).map (fun i => ({
        status := 0x020C, section_ := x.1.sec.index, region := netRegion x.1.part
        entry := entriesBefore RotaPart.sec (fun y => y.entries.length) p.body.rota x.2 + i } : CheckFail))) with
    | some f => some f
    | none => match waits false p.body.streams with
      | some f => some f
      | none => waits true p.body.stackStreams

/-! Links that the plan names (R218, R226, R223 to R225, R27) -/

/-- The forms of a plan (R226): 0, and with FLAGS[4] the alternate forms 1 to 8. -/
def Plan.forms (p : Plan) : List Nat := if bit p.flags 4 then List.range 9 else [0]

/-- The logical links that this module's active entries name in a form; a spare that holds no logical slot names none (R315). -/
def State.namedLinks (s : State) (p : Plan) (form : Nat) : List Nat :=
  let pos := s.planPositions p
  if !s.relay && (logicalSlot pos s.mgmt.key).isNone then []
  else ((p.body.rota.filter (fun x => secNames x.sec pos s.mgmt.key)).flatMap (fun x =>
    (x.entries.filter (fun e => (entryMask e).testBit form)).map entryLink)).dedup

/-- ROTA_LINK: every link named by an active entry is in the map and enabled in the form that it serves. -/
def State.checkLinks (s : State) (p : Plan) : Option CheckFail :=
  let pos := s.planPositions p
  let bad (x : Nat × Nat) : Bool :=
    let e := s.portEntry pos x.1 x.2
    !(e.enabled && (s.mapEntry e.phys.toNat).isSome)
  let all := p.forms.flatMap (fun f => (s.namedLinks p f).map (fun l => (f, l)))
  if s.store.map.isNone then none
  else (all.find? bad).map (fun x => { status := 0x020D, section_ := p.sectionOf 0x06, link := (s.portEntry pos x.1 x.2).phys.toNat, value := x.2 })

/-- LATENCY: every link that the plan names is UP and within its class bound (R27), in ns. -/
def State.checkLatency (s : State) (p : Plan) : Option CheckFail :=
  let pos := s.planPositions p
  let form := s.tables.form.toNat
  let bad (l : Nat) : Bool :=
    let k := s.link (s.portEntry pos form l).phys.toNat
    !(k.state == .up && decide (k.latency.toNat ≤ classBound k.cls.toNat))
  ((s.namedLinks p form).find? bad).map (fun l =>
    let k := s.link (s.portEntry pos form l).phys.toNat
    { status := 0x020F, link := (s.portEntry pos form l).phys.toNat, value := k.latency.toNat / 4, limit := classBound k.cls.toNat / 4 })

/-- The peer of a key's logical link with the class of the wire between them. -/
def State.wire (s : State) (pos : Sparse Nat) (k : Key) (i : Nat) : Option (Key × Nat) :=
  let place := if keyRelay k then relayPort k pos i else match logicalSlot pos k with | some l => computePort k pos l i | none => none
  match place, s.store.map with
  | some (peer, phys), some m =>
    (m.links.find? (fun x => (x.keyA == k && x.linkA == phys) || (x.keyB == k && x.linkB == phys))).map (fun x => (peer, x.cls))
  | _, _ => none

/-- A_c of R223. -/
def transit (c : Nat) : Nat := match c with | 0 => 204 | 1 => 281 | 2 => 435 | _ => 692

/-- Whether a section serves a cell count and a form (R308). -/
def servesAt (cells form : Nat) (x : SectionRef) : Bool := (x.variant == 0 || x.variant == variantOf cells) && formCovers x.form form

/-- Every vector that the machine's parts send in a pattern at a cell count and in a form (R226): sender, receiver, class and entry. -/
def State.sentIn (s : State) (p : Plan) (pos : Sparse Nat) (pattern cells form : Nat) : List (Key × Key × Nat × Word128) :=
  (p.body.rota.filter (fun x => x.pattern == pattern && servesAt cells form x.sec)).flatMap (fun x =>
    ((s.twinKeys.filter (fun k => secNames x.sec pos k)).flatMap (fun k =>
      (x.entries.filter (fun e => entryKind e != 3 && (entryMask e).testBit form)).filterMap (fun e =>
        (s.wire pos k (entryLink e)).map (fun w => (k, w.1, w.2, e))))))

/-- ⌈1.05 × n⌉ for nanoseconds. -/
def cyclesUp (n : Nat) : Nat := ceilDiv (105 * n) 100

/-- The cell counts and forms in which a plan runs. -/
def Plan.settings (p : Plan) : List (Nat × Nat) := (maskCounts p.cellMask).flatMap (fun c => p.forms.map (fun f => (c, f)))

/-- The first wait placed before R223's cycle for some vector that completes its group at a cell count and in a form: its line, its cycle
and that cycle. -/
def State.waitEarlyAt (s : State) (p : Plan) (stack : Bool) (x : Stream) (cells form : Nat) : Option (Nat × Nat × Nat) :=
  let pos := s.planPositions p
  let sent := s.sentIn p pos x.pattern cells form
  let due (g : Nat) : Nat := ((sent.filter (fun v =>
    entryGroup v.2.2.2 == 64 * x.unitIx + g && entryDst v.2.2.2 / 2 ^ 30 == (if stack then 1 else 0) && secNames x.sec pos v.2.1)).map
      (fun v => 10 * entrySlot v.2.2.2 + transit v.2.2.1 + cyclesUp (p.margin + p.skew) + 26)).foldl Nat.max 0
  if !formCovers x.sec.form form then none
  else ((p.waitsAt stack cells x).find? (fun w => decide (w.2.1 < due w.1))).map (fun w => (w.2.2, w.2.1, due w.1))

/-- The first such wait of a stream in any of the plan's settings. -/
def State.waitEarly (s : State) (p : Plan) (stack : Bool) (x : Stream) : Option (Nat × Nat × Nat) :=
  p.settings.findSome? (fun y => s.waitEarlyAt p stack x y.1 y.2)

/-- A CUT placed before R225's cycle for the latest vector that it can forward, at a cell count and in a form. -/
def State.cutEarlyAt (s : State) (p : Plan) (pattern cells form : Nat) : Bool :=
  let pos := s.planPositions p
  let sent := s.sentIn p pos pattern cells form
  sent.any (fun c => entryKind c.2.2.2 == 1 &&
    (let into := sent.filter (fun v => v.2.1 == c.1 && entryDst v.2.2.2 / 2 ^ 30 == 2 &&
        entryDst v.2.2.2 % 4096 == entrySrc c.2.2.2 % 4096 && decide (entrySlot v.2.2.2 < entrySlot c.2.2.2))
     let due := into.foldl (fun m v => Nat.max m (10 * entrySlot v.2.2.2 + transit v.2.2.1)) 0
     into.isEmpty || decide (10 * entrySlot c.2.2.2 < due + cyclesUp p.skew + 189)))

/-- A CUT placed too early in any of the plan's settings. -/
def State.cutEarly (s : State) (p : Plan) (pattern : Nat) : Bool := p.settings.any (fun y => s.cutEarlyAt p pattern y.1 y.2)

/-- MARGIN (R223, R225), with a bound map. -/
def State.checkMargin (s : State) (p : Plan) : Option CheckFail :=
  let waits (stack : Bool) (l : List Stream) : Option CheckFail := l.zipIdx.findSome? (fun x => (s.waitEarly p stack x.1).map (fun w =>
    { status := 0x020E, section_ := x.1.sec.index, entry := lineIn l x.2 w.1
      region := if stack then stackRegion x.1.unitIx else x.1.unitIx / 4, value := w.2.1, limit := w.2.2 }))
  if s.store.map.isNone then none
  else match waits false p.body.streams with
    | some f => some f
    | none => match waits true p.body.stackStreams with
      | some f => some f
      | none => ((p.body.rota.map (·.pattern)).dedup.find? (s.cutEarly p)).map (fun n =>
          { status := 0x020E, section_ := p.sectionOf 0x06, value := n })

/-! Memory and moves (R177, R194 to R200, R313) -/

/-- REFRESH: every bank group has REFRESH in at least 3 of the 64 slices of every frame that the stack's stream runs through whole
(log entry 76); where no schedule covers the stack every bank group is NONE (R310). -/
def checkRefresh (p : Plan) : Option CheckFail :=
  let lists (c : Nat) (x : Stream) : List (List Word128) :=
    match p.body.slices.filter (fun y => y.stack == x.unitIx && y.pattern == x.pattern && secsMeet (variantOf c) y.sec x.sec) with
    | [] => [[]]
    | l => l.map (·.entries)
  let short (es : List Word128) (f : Nat) : Bool := (List.range 64).any (fun pc => (List.range 16).any (fun bg =>
    decide (((List.range 64).filter (fun sl => sliceOwner es pc bg (64 * f + sl) == 3)).length < 3)))
  (maskCounts p.cellMask).findSome? (fun c => p.body.stackStreams.findSome? (fun x =>
    let frames := streamCycles p.body true c x / 2048
    ((lists c x).findSome? (fun es => (List.range frames).find? (short es))).map (fun f =>
      { status := 0x0210, section_ := p.sectionOf 0x05, region := stackRegion x.unitIx, cells := c, value := f, limit := 3 })))

/-- The planning rate R of R200, in B per cc. -/
def Ddr.rate (k : Ddr) : Nat := k.speed / 200

/-- Whether an item of a plan concerns the module at a cell count in some form that `sec` also serves (R308, R314). -/
def State.concerns (s : State) (p : Plan) (cells : Nat) (sec x : SectionRef) : Bool :=
  (x.variant == 0 || x.variant == variantOf cells) && secNames x (s.planPositions p) s.mgmt.key &&
    (x.form == 0xFF || sec.form == 0xFF || x.form == sec.form)

/-- Whether a planned move keeps R199 and R200 on its channel, against the I/O budget and the waits that run with it.  DESIGN CHOICE: where
the plan declares no I/O-region budget for the pattern, W is bounded by the limit of R33 (log entry 58). -/
def State.moveOk (s : State) (p : Plan) (cells pattern : Nat) (sec : SectionRef) (m : TierMove) : Bool :=
  let rate := (s.chan m.engine).rate
  let io := (p.body.budgets.find? (fun b => b.2.1 == ioRegion && b.2.2.1 == pattern && s.concerns p cells sec b.1)).map (·.2.2.2)
  let runs (stack : Bool) (l : List Stream) : List (Nat × Nat × Nat) :=
    (l.filter (fun x => x.pattern == pattern && x.unitIx == m.targetUnit && s.concerns p cells sec x.sec && runsAt stack cells x)).flatMap (fun x =>
      (streamWalks p.body stack (variantOf cells) x).flatMap (fun w => match w with | some r => waitsOf stack x r.1 | none => []))
  let waits := if m.toStack then runs true p.body.stackStreams else runs false p.body.streams
  decide (0 < rate) && decide (1 ≤ m.units) && decide (m.units ≤ 8192) && m.ddrAddr % 2048 == 0 && m.hbmAddr % 2048 == 0 &&
    decide (400 + ceilDiv (2048 * m.units) rate ≤ m.stop - m.start) &&
    (match io with | some b => decide (m.stop ≤ b) | none => decide (m.stop ≤ budgetLimit p.period)) &&
    (waits.filter (fun w => w.1 == m.group)).all (fun w => decide (m.stop + 24 ≤ w.2.1))

/-- The cell count of the bound map; 0 without one. -/
def State.mapCells (s : State) : Nat := match s.store.map with | some m => m.cells | none => 0

/-- The planned moves that concern the module at the bound map's cell count, in some form, each with its index within its section. -/
def State.ownMoves (s : State) (p : Plan) : List ((SectionRef × Nat × TierMove) × Nat) :=
  ((p.body.moves.zipIdx).map (fun y => (y.1, entriesBefore (·.1) (fun _ => 1) p.body.moves y.2))).filter (fun y => s.concerns p s.mapCells {} y.1.1)

/-- MOVE_WINDOW: each move in its window, and no engine with more than 64 moves in one sheaf of one form (R199, R200). -/
def State.checkMoves (s : State) (p : Plan) : Option CheckFail :=
  let own := s.ownMoves p
  let crowded (x : Nat × TierMove) : Bool := p.forms.any (fun f => decide (64 < (own.filter (fun y =>
    y.1.2.1 == x.1 && y.1.2.2.engine == x.2.engine && formCovers y.1.1.form f)).length))
  failAt own (fun x => !s.relay && (!s.moveOk p s.mapCells x.1.2.1 x.1.1 x.1.2.2 || crowded x.1.2)) (fun x _ =>
    { status := 0x0211, section_ := x.1.1.index, entry := x.2, value := x.1.2.2.stop - x.1.2.2.start })

/-- Whether a DDR5 span is populated (R194, R195) and outside the firmware region (R196). -/
def State.ddrSpanOk (s : State) (a n : Nat) : Bool :=
  let c := (a - 0x100000000000) / 0x4000000000
  let o := (a - 0x100000000000) % 0x4000000000
  decide (0x100000000000 ≤ a) && decide (c < 12) && !s.relay && (s.chan c).present && (s.chan c).trained &&
    decide (o + n ≤ (s.chan c).capacity * 2 ^ 30) && decide (0x100010000000 ≤ a)

/-- Whether two spans share a byte. -/
def spansMeet (a n b k : Nat) : Bool := decide (a < b + k) && decide (b < a + n)

/-- Whether a planned move names DDR5 of its engine's own channel (R198), populated and outside the firmware region.  DESIGN CHOICE:
a move that names another channel fails DDR_RANGE, the check that speaks of its address (log entry 104). -/
def State.moveDdrOk (s : State) (m : TierMove) : Bool :=
  s.ddrSpanOk m.ddrAddr (2048 * m.units) && decide ((m.ddrAddr - 0x100000000000) / 0x4000000000 = m.engine)

/-- DDR_RANGE (R194, R196, R197): the ranges of the plan, and the DDR5 side of its planned moves. -/
def State.checkDdr (s : State) (p : Plan) : Option CheckFail :=
  let l := p.body.ranges.filter (fun r => decide (1 ≤ r.space) && decide (r.space ≤ 3))
  let jrn := s.glean.on
  let bad (r : RangeEntry) : Bool := decide (1 ≤ r.space) && decide (r.space ≤ 3) && (!s.ddrSpanOk r.base r.length ||
    l.any (fun q => q.space != r.space && spansMeet q.base q.length r.base r.length) ||
    (jrn && spansMeet s.glean.base s.glean.length r.base r.length))
  if s.relay then none
  else match failAt p.body.ranges bad (fun r i => { status := 0x0212, section_ := p.sectionOf 0x0B, entry := i, value := r.length }) with
    | some f => some f
    | none => failAt (s.ownMoves p) (fun x => !s.moveDdrOk x.1.2.2) (fun x _ =>
        { status := 0x0212, section_ := x.1.1.index, entry := x.2, value := 2048 * x.1.2.2.units })

/-- A DIMM in channel 0, which a compute module needs to accept a plan (R196). -/
def State.checkDimm (s : State) : Option CheckFail :=
  failUnless (s.relay || ((s.chan 0).present && (s.chan 0).trained)) { status := 0x0212 }

/-- A span of memory that a plan names: its section and entry there, its space and block, its base and length. -/
structure PlanSpan where
  section_ : Nat
  entry : Nat
  space : Nat
  block : Nat
  base : Nat
  length : Nat
  text : Bool
  deriving DecidableEq, Repr

/-- The ranges of a plan as spans; those of plan text hold the placed sections. -/
def Plan.rangeSpans (p : Plan) : List PlanSpan :=
  p.body.ranges.zipIdx.map (fun x => { section_ := p.sectionOf 0x0B, entry := x.2, space := x.1.space, block := x.1.block, base := x.1.base
                                       length := x.1.length, text := x.1.cls == 5 })

/-- The placed sections of a plan as spans in HBM (R316). -/
def Plan.placedSpans (p : Plan) : List PlanSpan :=
  p.sections.zipIdx.flatMap (fun x => ([x.1.getD 6 0, x.1.getD 7 0].filter (· != 0)).map (fun a =>
    { section_ := x.2, entry := 0, space := 0, block := 0, base := a, length := x.1.getD 5 0, text := false }))

/-- Whether two spans share memory; in DDR5 the kinds of R197 are DDR_RANGE's to compare. -/
def PlanSpan.meets (x y : PlanSpan) : Bool :=
  x.space == y.space && x.block == y.block && spansMeet x.base x.length y.base y.length

/-- The first span of a list that meets an earlier one. -/
def clash : List PlanSpan → List PlanSpan → Option PlanSpan
  | _, [] => none
  | seen, x :: l => if seen.any x.meets then some x else clash (x :: seen) l

/-- CAPACITY (R313, R316): every placed section and range inside its memory, and none on another; plan-text ranges may hold sections. -/
def checkCapacity (p : Plan) : Option CheckFail :=
  let ranges := p.rangeSpans.filter (fun x => x.space == 0 || x.space == 4)
  let limit (x : PlanSpan) : Nat := if x.space = 4 then 0x600000 else 0x00C000000000
  let fail (x : PlanSpan) : CheckFail := { status := 0x0213, section_ := x.section_, entry := x.entry, value := x.length, limit := limit x }
  ((((p.placedSpans ++ ranges).find? (fun x => decide (limit x < x.base + x.length))).or (clash [] ranges)).or
    (clash [] (p.placedSpans ++ ranges.filter (fun x => !x.text)))).map fail

/-- Whether a part's logical link leads to a relay (R217, R218). -/
def towardRelay (x : RotaPart) (e : Word128) : Bool :=
  if secOfRelay x.sec then decide (32 ≤ entryLink e) else decide (45 ≤ entryLink e)

/-- RELAY_SECTION (R273): no bundle stream, block parameters, move with a block target, block landing or loose group of a relay; R316's
second copy of its rota and stack-stream sections.  Of a section with TARGET 0xFFFF the items that stand in it say the role. -/
def checkRelay (p : Plan) : Option CheckFail :=
  let relayTarget (t : Nat) : Bool := decide (0x8000 ≤ t) && t != 0xFFFF
  let shared (i : Nat) : Bool := p.body.rota.any (fun x => x.sec.index == i && secOfRelay x.sec) ||
    p.body.stackStreams.any (fun x => x.sec.index == i && secOfRelay x.sec)
  let toBlock (x : RotaPart) : Bool := x.entries.any (fun e => towardRelay x e && entryKind e != 3 && entryDst e / 2 ^ 30 == 0)
  let stacked (a : Nat) : Nat := a / 2 ^ 36
  let blockParam (x : List Nat) : Bool := relayTarget (x.getD 3 0) && (x.getD 0 0 == 0x01 || x.getD 0 0 == 0x02)
  let lone (x : List Nat × Nat) : Bool := (relayTarget (x.1.getD 3 0) || shared x.2) && (x.1.getD 0 0 == 0x06 || x.1.getD 0 0 == 0x03) &&
    (x.1.getD 7 0 == 0 || stacked (x.1.getD 6 0) / 3 == stacked (x.1.getD 7 0) / 3)
  let at_ (i n : Nat) : CheckFail := { status := 0x0214, section_ := i, entry := n }
  let stream := (p.body.streams.find? (fun x => secOfRelay x.sec)).map (fun x => at_ x.sec.index 0)
  let loose := (p.body.stackStreams.find? (fun x => secOfRelay x.sec && x.loose != 0)).map (fun x => at_ x.sec.index 0)
  let params := ((p.body.blockTables.find? (fun x => secOfRelay x.sec)).map (fun x => at_ x.sec.index 0)).or
    ((p.sections.findIdx? blockParam).map (fun i => at_ i 0))
  let move := (p.body.moves.zipIdx.find? (fun x => secOfRelay x.1.1 && !x.1.2.2.toStack)).map (fun x =>
    at_ x.1.1.index (entriesBefore (·.1) (fun _ => 1) p.body.moves x.2))
  let rota := (p.body.rota.zipIdx.find? (fun x => toBlock x.1)).map (fun x =>
    at_ x.1.sec.index (entriesBefore RotaPart.sec (fun y => y.entries.length) p.body.rota x.2))
  let copy := (p.sections.zipIdx.find? lone).map (fun x => at_ x.2 0)
  stream.or (loose.or (params.or (move.or (rota.or copy))))

/-- FORMS (R226): with FLAGS[4] every form 1 to 8 has active entries, and none of them names a link that its form disables. -/
def checkForms (p : Plan) : Option CheckFail :=
  let uses (f : Nat) : Bool := p.body.rota.any (fun x => x.entries.any (fun e => (entryMask e).testBit f))
  let breaks (f : Nat) : Bool := p.body.rota.any (fun x => !secOfRelay x.sec && x.entries.any (fun e => (entryMask e).testBit f && entryLink e == 44 + f && entryKind e != 3))
  let bad := ((List.range 8).map (· + 1)).find? (fun f => !uses f || breaks f)
  if bit p.flags 4 then bad.map (fun f => { status := 0x0215, section_ := p.sectionOf 0x06, value := f }) else none

/-! The table of R317, in its order -/

/-- A list of checks as the failures among them. -/
def failures (l : List (Option CheckFail)) : List CheckFail := l.filterMap id

/-- Whether a range entry breaks its format (R313): a reserved code or byte, a LENGTH that is no whole number of its units. -/
def rangeBad (r : RangeEntry) : Bool :=
  r.cls == 0 || decide (5 < r.cls) || decide (4 < r.space) || (r.space != 4 && r.block != 0) || r.resv != 0 ||
    r.length % (if r.space = 4 then 1024 else 4096) != 0

/-- The first range whose ID an earlier one has (R313). -/
def sameId (l : List RangeEntry) : Option Nat := (List.range l.length).find? (fun i => (l.take i).any (fun r => l[i]?.any (fun q => q.id == r.id)))

/-- No reserved bit of a slice entry, no reserved byte or code of a stream header, of a planned move and of a range is set (R134,
R310, R311, R313, R317), each range has an ID of its own and a length in whole units.  DESIGN CHOICE: a
range that breaks R313 so is IMAGE_BAD (log entry 104). -/
def checkReserved (p : Plan) : Option CheckFail :=
  let slice := p.body.slices.zipIdx.findSome? (fun x => (x.1.entries.findIdx? (fun e => field e 115 13 != 0)).map (fun i =>
    (x.1.sec.index, entriesBefore SliceSched.sec (fun y => y.entries.length) p.body.slices x.2 + i)))
  let headers (l : List Stream) : Option (Nat × Nat) := (l.zipIdx.find? (fun x => x.1.resv != 0)).map (fun x => (x.1.sec.index, lineIn l x.2 0))
  let header := (headers p.body.streams).or (headers p.body.stackStreams)
  let move := (p.body.moves.zipIdx.find? (fun x => x.1.2.2.resv != 0 || decide (11 < x.1.2.2.engine))).map (fun x =>
    (x.1.1.index, entriesBefore (·.1) (fun _ => 1) p.body.moves x.2))
  let range := ((p.body.ranges.findIdx? rangeBad).or (sameId p.body.ranges)).map (fun i => (p.sectionOf 0x0B, i))
  (slice.or (header.or (move.or range))).map (fun x => { status := 0x0201, section_ := x.1, entry := x.2 })

/-- IMAGE_BAD as a whole: the image's bytes, then the entries that they spell. -/
def checkFormat (image : List Byte) (p : Plan) : Option CheckFail := (checkImage image).or (checkReserved p)

/-- The L checks on an image whose bytes are in hand (LOAD_PLAN); each that fails is told (R381). -/
def State.loadChecks (s : State) (keys : List (List Byte)) (image : List Byte) (p : Plan) : List CheckFail :=
  failures [checkFormat image p, checkAbi image, checkSignature keys p, s.checkProfile p, s.checkGrade p, checkParam p, checkBudget p,
    s.checkPower p, checkStream p, checkRota p, s.checkMargin p, checkRefresh p, s.checkDimm, checkCapacity p, checkRelay p, checkForms p]

/-- The S checks (START_JOB, REPLAY_START) with the L checks that depend on the power cap. -/
def State.startChecks (s : State) (p : Plan) : List CheckFail :=
  failures [s.checkMapGrade p, s.checkMap p, s.checkBudgetMatch p, s.checkPower p, s.checkLinks p, s.checkMargin p, s.checkLatency p,
    s.checkMoves p, s.checkDdr p]

/-- The checks that VERIFY_PLAN runs on a loaded plan, in the table's order (R317, R382): every L check on the image that was loaded, and
the S checks against the bound map, which without one report NO_MAP. -/
def State.verifyChecks (s : State) (p : Plan) : List CheckFail :=
  let mapped (f : Option CheckFail) : Option CheckFail := if s.store.map.isSome then f else some { status := 0x0101 }
  failures [checkFormat p.image p, checkAbi p.image, checkSignature s.acceptedKeys p, s.checkProfile p, s.checkGrade p, mapped (s.checkMapGrade p), mapped (s.checkMap p),
    checkParam p, checkBudget p, mapped (s.checkBudgetMatch p), s.checkPower p, checkStream p, checkRota p, mapped (s.checkLinks p),
    s.checkMargin p, mapped (s.checkLatency p), checkRefresh p, mapped (s.checkMoves p), mapped (s.checkDimm.or (s.checkDdr p)), checkCapacity p,
    checkRelay p, checkForms p]

/-- A refusal's DETAIL and body (R377, R381). -/
def State.refusePlan (s : State) (p m : Nat) (l : List CheckFail) : State :=
  s.complete p m ((l.head?.map (·.status)).getD 0x0201) l.length ((l.take 32).flatMap CheckFail.bytes)

end Sys2Proof.Machine
end

