-- ==== Sys2Proof/Machine/Plans.lean ====
section
/-! DEFINITION. The plan and map commands (R380 to R384): LOAD_PLAN, VERIFY_PLAN, UNLOAD_PLAN, BIND_MACHINE; the bypass routes
of R249 and the naming of the time master (R58). -/

namespace Sys2Proof.Machine

open Sys2Proof

/-! LOAD_PLAN, VERIFY_PLAN, UNLOAD_PLAN -/

/-- The placed sections of an image written at PLACE and PLACE2 (R308, R316). -/
def State.placeSections (s : State) (image : List Byte) : State :=
  (directory image).foldl (fun t d =>
    let bs := slice image d.offset d.length
    let t := if d.place != 0 then t.poke d.place bs else t
    if d.place2 != 0 then t.poke d.place2 bs else t) s

/-- LOAD_PLAN's own parameter checks (R380): TARGET, KEY_MODE, and bytes 32 to 95 without a key. -/
def State.loadParam (s : State) (k : Mailbox) : Option (Nat × Nat) :=
  let mode := k.field 1 1
  if 1 < k.field 0 1 then some (0x0106, 0)
  else if 1 < mode || (mode == 1 && ((s.owner.isSome && !k.waits) || !s.granary.planKeys.isEmpty)) then some (0x0106, 1)
  else if mode == 0 then (((List.range 64).map (· + 32)).find? (fun o => k.field o 1 != 0)).map (fun o => (0x0106, o))
  else none

/-- LOAD_PLAN's acceptance state: the current plan needs no job, the next plan a running one (R376). -/
def State.loadState (s : State) (p m : Nat) : Option Nat :=
  if s.bench then some 4 else if (s.mbx p m).field 0 1 == 1 then s.needJob else s.needNoJob

/-- The response of a load (R380). -/
def State.loadBody (s : State) (x : Plan) : List Byte :=
  hashBytes x.hash ++ leBytes 8 x.length ++ leBytes 1 (x.cellMask &&& s.offers) ++ leBytes 1 x.flags.toNat

/-- Whether replay takes a next plan: only one that a PLAN_SWITCH record names (R298, R380). -/
def State.replayTakes (s : State) (h : Hash) : Bool :=
  !s.glean.replay.active || s.glean.replay.records.any (fun r => r.rtype == 8 && slice r.body 0 32 == hashBytes h)

/-- Whether the next tick is a step boundary. -/
def State.boundaryNext (s : State) : Bool :=
  s.sheaf.atBoundary || !s.sheaf.begun || decide (s.stepLen ≤ s.sheaf.sheafInStep.toNat + 1)

/-- The step whose first sheaf starts at the next boundary. -/
def State.nextStep (s : State) : Nat :=
  if s.sheaf.atBoundary || !s.sheaf.begun then s.sheaf.step.toNat else s.sheaf.step.toNat + 1

/-- Whether the boundary that ends a switch step is past (R380): it has begun, or its cutoff has come with nothing holding the machine
there (DESIGN CHOICE; log entry 122). -/
def State.switchPassed (s : State) (at_ : Nat) : Bool :=
  decide (at_ + 1 < s.nextStep) || (at_ + 1 == s.nextStep && s.boundaryNext && s.sheaf.cut && !s.sheaf.held)

/-- The load of a plan whose checks pass. -/
def State.storePlan (s : State) (next : Bool) (x : Plan) (image : List Byte) (switchStep : Word64) (key : Option (List Byte)) : State :=
  let t := s.placeSections image
  if next then ({ t with store := { t.store with next := some x, switchStep := some switchStep } } : State).tellNext x switchStep
  else { t with
    store := { t.store with
      cur := some x, ownerKey := if key.isSome then key else t.store.ownerKey, imageRestored := false }
    role := { t.role with secondCopy := t.relay }
    job := { t.job with restored := none }
    feed := t.feed.drop }

/-- LOAD_PLAN: the port becomes owner when the command starts (R357); then the image, the checks, the sections. -/
def execLoadPlan (p : Fin 4) (m : Fin 8) (image : Pulled (List Byte)) (body : PlanBody) (s : State) :
    Host.Outcome State Fault Refusal :=
  .next (s.serve p m { op := 0x0010, size := 96, permit := .ownerOrFree, relayOk := true } (s.loadState p m) [(2, 6)] (fun s k =>
    let bad := s.loadParam k
    let first := s.owner.isNone || k.waits
    let s := s.onPort p (fun q => { q with role := .owner })
    match bad with
    | some x => s.refuse p m x.1 x.2
    | none =>
      if first && s.rst.scrubHbm then s.waitScrub p m else
      let next := k.field 0 1 == 1
      let key := if k.field 1 1 == 1 then some (readBytes k.cmd 48 64) else none
      let keys := match key with | some x => [x] | none => s.acceptedKeys
      match s.takeImage p k 16 1 image with
      | .error x => s.refuse p m x.1 x.2
      | .ok bytes =>
        let x := planOf bytes body
        let at_ : Word64 := BitVec.ofNat 64 (k.field 8 8)
        if next && s.switchPassed at_.toNat then s.refuse p m 0x0308 0
        else if next && !s.replayTakes x.hash then s.refuse p m 0x010A 0
        else match s.loadChecks keys bytes x with
          | [] => (s.storePlan next x bytes at_ key).succeed p m (s.loadBody x)
          | l => s.refusePlan p m l))

/-- VERIFY_PLAN (R382): the first failed check's status in the table's order; without a bound map that is NO_MAP from the first S check
on (log entry 76). -/
def execVerifyPlan (p : Fin 4) (m : Fin 8) (s : State) : Host.Outcome State Fault Refusal :=
  .next (s.serve p m { op := 0x0011, size := 0, permit := .ownerOnly, relayOk := true } s.needPlan [] (fun s _ =>
    match s.store.cur with
    | none => s
    | some x =>
      match s.verifyChecks x with
      | [] => s.succeed p m []
      | c :: l => if c.status = 0x0101 then s.refuse p m 0x0101 0 else s.refusePlan p m (c :: l)))

/-- Ownership and every grant end (R357); the owner's plan key goes with it (R319), and a scrub of the memories begins
(R397). -/
def State.endOwnership (s : State) : State :=
  let t := (List.range 4).foldl (fun t p => t.onPort p (fun q => { q with role := .none })) s
  { t with store := { t.store with ownerKey := none }, rst := { t.rst with scrubHbm := true, scrubDdr := !t.relay } }

/-- The plan unloaded (R382): its HBM, the next plan, the feed ring and every result stream go, and ownership ends. -/
def State.unload (s : State) : State :=
  let slots := (s.results.map (fun (x : Nat × ResultStream) => x.2.slots)).flatten
  let t := (s.dropWindows s.feed.ring).dropWindows slots
  let t := { t with
    store := { t.store with cur := none, next := none, switchStep := none, imageRestored := false }
    feed := {}, results := [], job := { t.job with restored := none }, role := { t.role with secondCopy := false }
    blocks := t.blocks.map (fun (x : Nat × Block) => (x.1, { x.2 with active := false, logical := 0x3F })) }
  t.endOwnership

/-- UNLOAD_PLAN (R382). -/
def execUnloadPlan (p : Fin 4) (m : Fin 8) (s : State) : Host.Outcome State Fault Refusal :=
  .next (s.serve p m { op := 0x0012, size := 0, permit := .ownerOnly, relayOk := true } (firstOf s.needPlan s.needNoJob) []
    (fun s _ => s.unload.succeed p m []))

/-! The machine map (R19 to R25, R384) -/

/-- The wiring of R20 and R21: the peer and its link at the other end of a key's link. -/
def pairing (k : Key) (l : Nat) : Option (Key × Nat) :=
  let t := keyTwin k
  let r := keyRack k
  let single := if l % 14 < 12 then none else some (2 * (l / 14) + (l % 14 - 12))
  let grouped := 12 * (l / 14) + l % 14
  let rel (rack : Nat) : Key := mkKey t rack 2 (keySlot k)
  match keyRelay k, single with
  | false, none =>
    let g := grouped / 3
    some (mkKey t r (keyBoard k) ((keySlot k + 1 + g) % 17), groupedLink (3 * (15 - g) + grouped % 3))
  | false, some q => some (mkKey t r 2 q, groupedLink (17 * keyBoard k + keySlot k))
  | true, none =>
    if grouped < 34 then some (mkKey t r (grouped / 17) (grouped % 17), singleLink (keySlot k))
    else
      let e := grouped - 34
      some (rel ((r + 1 + e) % 16), if e = 0 then singleLink 0 else groupedLink (34 + (14 - e)))
  | true, some 0 => some (rel ((r + 15) % 16), groupedLink 34)
  | true, some 1 => some (mkKey (1 - t) r 2 (keySlot k), singleLink 1)
  | true, some _ => none

/-- A map image as R384 lays it out. -/
def mapOf (bs : List Byte) : MachineMap :=
  let n := fieldLE bs 16 4
  let nl := fieldLE bs 20 4
  let co := fieldLE bs 24 4
  let lo := fieldLE bs 28 4
  let so := fieldLE bs 32 4
  let po := fieldLE bs 36 4
  let coords := (List.range n).map (fun i => (BitVec.ofNat 16 (fieldLE bs (co + 4 * i) 2), fieldLE bs (co + 4 * i + 2) 1 != 0))
  let master := fieldLE bs 10 2
  let masterKey : Key := if master = 0xFFFF then 0 else BitVec.ofNat 16 master
  let coord := fieldLE bs 12 2
  { hash := hashOf bs, twins := fieldLE bs 6 1, racks := fieldLE bs 7 1, cells := fieldLE bs 8 2, master := masterKey
    coord := if coord = 0xFFFF then masterKey else BitVec.ofNat 16 coord
    coords := coords
    links := (List.range nl).map (fun i =>
      let o := lo + 8 * i
      { keyA := BitVec.ofNat 16 (fieldLE bs o 2), linkA := fieldLE bs (o + 2) 1, keyB := BitVec.ofNat 16 (fieldLE bs (o + 3) 2)
        linkB := fieldLE bs (o + 5) 1, cls := fieldLE bs (o + 6) 1 % 4 })
    swap := coords.zipIdx.map (fun x => (x.1.1, BitVec.ofNat 16 (fieldLE bs (so + 2 * x.2) 2)))
    positions := (List.range 1024).map (fun i => fieldLE bs (po + i) 1) }

/-- Strictly ascending keys. -/
def keysRise : List Key → Bool
  | [] => true
  | [_] => true
  | a :: b :: l => decide (a.toNat < b.toNat) && keysRise (b :: l)

/-- Whether a board of a position table places each physical slot at most once (R220). -/
def boardOnce (l : List Nat) : Bool := decide ((l.filter (· ≤ 16)).Nodup)

/-- The conditions of R384 on a map's bytes and content.  Some the spec does not state, and the model chooses them (DESIGN
CHOICE, log entry 94): racks are numbered from 0, so a rack number not below the rack count is MAP_BAD, and so is a coordinator
of twin 1, named or taken from the time master, since R332 speaks of the coordinator of twin 0; a reserved header byte (14, 15, 44
to 63) that is not 0 and a link whose end is no listed coordinate are MAP_BAD too, while the reserved bytes and bits of the list
entries are ignored and a role byte above 1 counts as a relay. -/
def mapGood (bs : List Byte) (m : MachineMap) : Bool :=
  let n := fieldLE bs 16 4
  let nl := fieldLE bs 20 4
  let len := fieldLE bs 40 4
  let zero (o k : Nat) : Bool := (slice bs o k).all (· == 0)
  let keys := m.coords.map (·.1)
  let frame := fieldLE bs 0 4 == 0x50414D47 && fieldLE bs 4 2 == 1 && len == bs.length && decide (64 ≤ len) && decide (len ≤ 2 ^ 20) &&
    zero 14 2 && zero 44 20 && decide (fieldLE bs 24 4 + 4 * n ≤ len) && decide (fieldLE bs 28 4 + 8 * nl ≤ len) &&
    decide (fieldLE bs 32 4 + 2 * n ≤ len) && decide (fieldLE bs 36 4 + 1024 ≤ len)
  let size := (m.twins == 1 || m.twins == 2) && decide (m.racks ≤ 16) && (m.cells == 192 || m.cells == 224 || m.cells == 256)
  let oneBoard := m.racks != 0 || (m.twins == 1 && m.coords.all (fun c => !c.2 && keyTwin c.1 == 0 && keyRack c.1 == 0 && keyBoard c.1 == 0))
  let coordsOk := keysRise keys && m.coords.all (fun c => keyValid c.1 && keyRelay c.1 == c.2 && decide (keyTwin c.1 < m.twins) &&
    decide (keyRack c.1 < Nat.max m.racks 1))
  let linksOk := m.links.all (fun l => decide (l.keyA.toNat < l.keyB.toNat) && keys.contains l.keyA && keys.contains l.keyB &&
    decide (l.linkA < 56) && pairing l.keyA l.linkA == some (l.keyB, l.linkB))
  let namesOk := keys.contains m.master && m.coords.contains (m.coord, false) && keyTwin m.coord == 0
  let posOk := m.positions.all (fun x => decide (x ≤ 0x10) || x == 0x1F) &&
    (List.range 64).all (fun b => boardOnce ((m.positions.drop (16 * b)).take 16))
  frame && size && oneBoard && coordsOk && linksOk && namesOk && posOk

/-- The two links of R249 toward a destination: the primary and the second. -/
def State.routeTo (s : State) (m : MachineMap) (dest : Key) : Option (Nat × Nat) :=
  let own := s.mgmt.key
  let near := (List.range 56).filterMap (fun l => (s.mapEntry l).bind (fun e => (m.hops own dest 64 [e.1] [e.1]).map (fun h => (l, e.1, h))))
  match near with
  | [] => none
  | x :: _ =>
    let best := near.foldl (fun b y => Nat.min b y.2.2) x.2.2
    let cand := near.filter (fun y => y.2.2 == best)
    match cand with
    | [] => none
    | c :: rest =>
      let second := match rest.find? (fun y => y.2.1 != c.2.1) with
        | some y => y.1
        | none => match rest with
          | y :: _ => y.1
          | [] => match near.find? (fun y => y.2.2 == best + 1) with | some y => y.1 | none => c.1
      some (c.1, second)

/-- The routes to every coordinate of the bound map (R249). -/
def State.computeRoutes (s : State) : State :=
  match s.store.map with
  | none => { s with bypass := { s.bypass with routes := [] } }
  | some m =>
    let routes := (m.coords.map (·.1)).foldl (fun acc k =>
      match s.routeTo m k with | some r => insert acc k.toNat r | none => acc) ([] : Sparse (Nat × Nat))
    { s with bypass := { s.bypass with routes := routes } }

/-- A time master named (R58): the module itself becomes MASTER at the nominal RATE; a changed master enters HOLDOVER. -/
def State.nameMaster (s : State) (k : Key) : State :=
  let old := s.servo.master
  let t := { s with servo := { s.servo with master := k } }
  if k == s.mgmt.key && k != 0xFFFF then
    let u := { t with servo := { t.servo with state := .master, parentLink := 0x3F, resync := s.jobRuns && s.servo.state != Servo.master } }
    let u := { u with servo := u.servo.settle }
    if s.servo.state == .master then u else u.stageTime nominalRate 0
  else if old != 0xFFFF && old != k then t.enterHoldover
  else if s.servo.state == .master then { t with servo := { t.servo with state := .unlocked } }
  else t

/-- The coordinator of the module's own twin (R332). -/
def State.ownCoord (s : State) (m : MachineMap) : Key := BitVec.ofNat 16 (m.coord.toNat % 2 ^ 15 + keyTwin s.mgmt.key * 2 ^ 15)

/-- A map bound (R383): routes, the time master unless management named one, the initial position table, the coordinator,
and discovery on every listed link, whose classes are now the map's (R27). -/
def State.bind (s : State) (m : MachineMap) : State :=
  let t := { s with store := { s.store with map := some m } }
  let t := if t.servo.named then t else t.nameMaster m.master
  let c := t.ownCoord m
  let t := { t with coord := { t.coord with coordKey := c, isCoord := c == t.mgmt.key, heardAt := none } }
  let t := { t with tables := { t.tables with remaps := [] } }
  let t := ((t.computeRoutes).setTables 0 0 (positionsOf m.positions)).renewLinks false
  (List.range 56).foldl State.classify t

/-- BIND_MACHINE (R383). -/
def execBindMachine (p : Fin 4) (m : Fin 8) (image : Pulled (List Byte)) (s : State) : Host.Outcome State Fault Refusal :=
  let state := firstOf (if s.mgmt.key != 0xFFFF then none else some 0x0303) s.needNoJob
  .next (s.serve p m { op := 0x0020, size := 48, permit := .ownerOrFree, relayOk := true } state [] (fun s k =>
    match s.takeImage p k 0 1 image with
    | .error x => s.refuse p m x.1 x.2
    | .ok bs =>
      let x := mapOf bs
      let want := readBytes k.cmd 32 32
      if !mapGood bs x || (want.any (· != 0) && want != hashBytes x.hash) then s.refuse p m 0x0301 0
      else if !x.coords.contains (s.mgmt.key, s.relay) then s.refuse p m 0x0302 0
      else
        let t := s.bind x
        let own := ((List.range 56).filter (fun l => (t.mapEntry l).isSome)).length
        t.succeed p m (hashBytes x.hash ++ leBytes 4 x.coords.length ++ leBytes 4 x.links.length ++ leBytes 2 own)))

end Sys2Proof.Machine
end

