-- ==== Sys2Proof/Machine/Jobs.lean ====
section
/-! DEFINITION. Job control, save, restore, journal and replay (R290 to R303, R314, R385 to R389, R459). -/

namespace Sys2Proof.Machine

open Sys2Proof

/-! Instantiation (R114, R314) -/

/-- Whether a physical block can hold a logical one. -/
def State.blockGood (s : State) (b : Nat) : Bool :=
  !(s.block b).fused && !(s.block b).failed && !(s.region (compRegion b)).calFail && !s.relay

/-- The block map: logical blocks 0 to N − 1 on the good blocks in ascending order, the others idle (R114). -/
def State.buildMap (s : State) (n : Nat) : State :=
  ((List.range 64).foldl (fun (acc : State × Nat) b =>
    if acc.1.blockGood b && decide (acc.2 < n) then
      (acc.1.onBlock b (fun k => { k with active := true, logical := BitVec.ofNat 6 acc.2 }), acc.2 + 1)
    else (acc.1.onBlock b (fun k => { k with active := false, logical := 0x3F }), acc.2)) (s, 0)).1

/-- A board spare that holds no logical slot (R315). -/
def State.idleSpare (s : State) : Bool := !s.relay && s.ownSlot.isNone

/-- The load-time tables of every active unit (R119, R162, R314); the stack and network regions run the plan, but for
those of an idle spare (R219, R315).  The fetchers begin the tables' streams anew. -/
def State.loadTables (s : State) : State :=
  let blocks := s.blocks.map (fun (x : Nat × Block) => (x.1, { x.2 with
    tables := if x.2.active then blockTablesOf (s.body.blockTables.filter (fun e => s.appliesNow e.sec && e.unitIx == x.2.logical.toNat)) else {} }))
  let t := ({ s with blocks := blocks } : State).dropAhead
  let t := (List.range 12).foldl (fun t i => t.onStack i (fun k => { k with
    active := (t.region (stackRegion i)).active && !t.idleSpare
    tables := stackTablesOf (s.body.stackTables.filter (fun e => s.appliesNow e.sec && e.unitIx == i)) })) t
  (List.range 4).foldl (fun t n => t.onNet n (fun k => { k with active := (t.region (netRegion n)).active && !t.idleSpare })) t

/-- Where a range stands in device memory (R313): block SRAM through the block map. -/
def State.rangeBase (s : State) (r : RangeEntry) : Option Nat :=
  if r.space == 4 then (s.physOf r.block).map (fun b => blockBase b + r.base) else some r.base

/-- INIT data copied into its ranges (R316). -/
def State.loadInit (s : State) : State :=
  (s.body.init.filter (fun i => s.appliesNow i.1)).foldl (fun t i =>
    match t.body.ranges.find? (fun r => r.id == i.2.1) with
    | some r => match t.rangeBase r with | some a => t.poke a (i.2.2.take r.length) | none => t
    | none => t) s

/-- Instantiates a plan for the bound map's cell count (R314, R315). -/
def State.instantiate (s : State) (x : Plan) : State :=
  let cells := match s.store.map with | some m => m.cells | none => 0
  let t := { s with
    job := { s.job with cells := cells }
    bypass := { s.bypass with graceLimit := BitVec.ofNat 32 x.grace }
    time := { s.time with period := BitVec.ofNat 32 x.period } }
  let t := t.setTables 0 0 (t.planPositions x)
  if t.idleSpare then t
  else
    let t := (t.buildMap (if t.relay then 0 else cells / 4)).loadTables
    if t.store.imageRestored then t else t.loadInit

/-! Plan switches (R298, R380) -/

/-- The plan that the replayed journal's PLAN_SWITCH record of a step names, while another one is current (R298): a redo of that step
finds it switched already. -/
def State.switchNamed (s : State) (step : Nat) : Option (List Byte) :=
  if s.glean.replay.active then
    ((s.glean.replay.records.find? (fun r => r.rtype == 8 && r.step.toNat == step % 2 ^ 48)).map (fun r => slice r.body 0 32)).filter
      (fun h => !(s.store.cur.any (fun x => hashBytes x.hash == h)))
  else none

/-- Whether the staged plan switch falls due at the boundary of a step: at its switch step's end, or in replay where a record
names it (R298, R380). -/
def State.switchDue (s : State) (step : Nat) : Option Plan :=
  if s.glean.replay.active then (s.switchNamed step).bind (fun h => s.store.next.filter (fun x => hashBytes x.hash == h))
  else match s.store.switchStep with
    | some w => if w.toNat + 1 = step then s.store.next else none
    | none => none

/-- Whether replay waits at the boundary of a step for the plan of a PLAN_SWITCH record (R298). -/
def State.planMissing (s : State) (step : Nat) : Bool := (s.switchNamed step).isSome && (s.switchDue step).isNone

/-! Starting a job (R385, R459) -/

/-- LOCKED or MASTER. -/
def State.synced (s : State) : Bool := s.servo.state == .locked || s.servo.state == .master

/-- Every link that the plan names is UP; an idle spare instantiates nothing and names none. -/
def State.linksReady (s : State) : Bool :=
  match s.store.cur with
  | none => false
  | some x => s.idleSpare || (s.namedLinks x s.tables.form.toNat).all (fun l => (s.link (s.portAt l).phys.toNat).state == .up)

/-- What the module reports (R385, R390). -/
def State.ownReport (s : State) : StartReport :=
  { planHash := match s.store.cur with | some x => x.hash | none => 0
    replay := s.job.replayMode, firstStep := s.job.firstStep, seed := s.job.seed
    keyCheck := BitVec.ofNat 64 (leNat (keyCheck s.assay.key)) }

/-- The start ends without a job: the command completes, the module is in the loaded state. -/
def State.endStart (s : State) (status : Nat) (l : List CheckFail) : State :=
  if s.job.phase != .starting then s
  else
    let (p, m) := (s.job.port, s.job.mbx)
    let t := if (s.mbx p m).busy then
        (if l.isEmpty then s.refuse p m status 0 else s.refusePlan p m l) else s
    { t with
      job := { t.job with phase := .none, reported := false, joining := false }
      coord := { t.coord with starts := [], segOpen := false, unacked := t.coord.unacked.filter (fun u => u.mtype != 0x56) }
      sheaf := { t.sheaf with nextSeg := none }
      feed := t.feed.drop
      glean := { t.glean with replay := { t.glean.replay with active := false, planWait := false } } }

/-- Two reports that allow a common start. -/
def StartReport.agrees (a b : StartReport) : Bool := a == b

/-- The coordinator with every present module's report: a common segment, or START_MISMATCH with the differing report sent
on to every module (R385). -/
def State.judgeStarts (s : State) : State :=
  let l := s.coord.starts.map (·.2)
  match l with
  | [] => s
  | r :: rest =>
    match rest.find? (fun x => x != r) with
    | some x =>
      let others := s.members.filter (· != s.mgmt.key)
      let t := others.foldl (fun t k => (t.send k 0x58 39 (reportBody r)).send k 0x58 39 (reportBody x)) s
      t.endStart 0x0306 []
    | none =>
      if s.members.all (fun k => s.coord.starts.any (fun y => y.1 == k)) && !s.coord.segOpen && s.sheaf.nextSeg.isNone then
        s.chooseEpoch s.time.period 0
      else s

/-- The coordinator records a report. -/
def State.noteStart (s : State) (k : Key) (r : StartReport) : State :=
  let l := s.coord.starts.filter (fun x => x.1 != k) ++ [(k, r)]
  ({ s with coord := { s.coord with starts := l } } : State).judgeStarts

/-- Whether the module's links carry the beats of a running job (R459). -/
def State.jobHeard (s : State) : Bool :=
  !s.coord.isCoord && s.coord.heardStep != 0xFFFFFFFFFFFF &&
    (match s.coord.heardAt with | some t => decide (s.frcUs - t ≤ 5000) | none => false)

/-- JOIN (R345, R459). -/
def State.sendJoin (s : State) : State :=
  let head (h : Hash) : Nat := leNat ((hashBytes h).take 16)
  let plan : Hash := match s.store.cur with | some x => x.hash | none => 0
  let t := { s with job := { s.job with joining := true } }
  t.sendKept s.coord.coordKey 0x56 35
    (bodyOf [(head plan, 0), (head s.mapHash, 16), (s.mgmt.key.toNat, 32), (s.granary.startCount.toNat, 34)])

/-- Readiness (R385): once synced with its links UP the module runs the S checks and reports, or joins a running job.  A replay whose
first step a PLAN_SWITCH record names is not ready before that plan is loaded (R298; log entry 105). -/
def State.tryReport (s : State) : State :=
  if s.job.phase != .starting || s.job.reported || s.job.joining || !s.synced || !s.linksReady then s
  else if s.planMissing s.job.firstStep.toNat then
    { s with glean := { s.glean with replay := { s.glean.replay with planWait := true } } }
  else match s.store.cur with
    | none => s
    | some x =>
      match s.startChecks x with
      | [] =>
        if s.jobHeard then s.sendJoin else
        let t := { s with job := { s.job with reported := true } }
        if t.coord.isCoord then t.noteStart t.mgmt.key t.ownReport
        else t.send t.coord.coordKey 0x58 39 (reportBody t.ownReport)
      | l => s.endStart 0 l

/-- The start wait of a body field: 100 to 600,000 ms, 0 for 60,000 (R385). -/
def startWaitOf (n : Nat) : Option Nat := if n = 0 then some 60000 else if 100 ≤ n ∧ n ≤ 600000 then some n else none

/-- A start in hand: instantiation, then readiness or a join. -/
def State.beginStart (s : State) (p m : Nat) (wait : Nat) (replay : Bool) (first : BitVec 48) (seed : Word64) : State :=
  match s.store.cur with
  | none => s
  | some x =>
    let t := { s with job := { s.job with
      phase := .starting, port := p, mbx := m, startWait := wait, reported := false, replayMode := replay, joining := false
      firstStep := first, seed := seed, lastCommit := none, hostArm := none, stopMode := none } }
    let t := ((t.instantiate x).running p m).beginPull (BitVec.ofNat 64 first.toNat)
    t.tryReport

/-- START_JOB's and REPLAY_START's acceptance state (R376). -/
def State.startState (s : State) : Option Nat :=
  firstOf s.needPlan (firstOf (if s.store.map.isSome then none else some 0x0101) s.needNoJob)

/-- START_JOB (R385, R459). -/
def execStartJob (p : Fin 4) (m : Fin 8) (s : State) : Host.Outcome State Fault Refusal :=
  .next (s.serve p m { op := 0x0030, size := 16, permit := .ownerOnly, relayOk := true } s.startState [(1, 3)] (fun s k =>
    if 1 < k.field 0 1 then s.refuse p m 0x0106 0
    else match startWaitOf (k.field 4 4) with
      | none => s.refuse p m 0x0106 4
      | some w =>
        if !s.assay.keySet then s.refuse p m 0x030A 0
        else if s.rst.scrubDdr then s.waitScrub p m
        else
          let plan : Word64 := match s.store.cur with | some x => x.seed | none => 0
          let (first, base) := match s.job.restored with | some x => x | none => (0, plan)
          let seed : Word64 := if k.field 0 1 == 1 then BitVec.ofNat 64 (k.field 8 8) else base
          s.beginStart p m w false first seed))

/-- START_READINESS_REPORT: the coordinator collects reports; another module that hears a differing report ends its start
(R385).  While the job runs a report names a module's next plan and its switch step (R380; log entry 122). -/
def execStartReadinessReport (src : Key) (r : StartReport) (s : State) : Host.Outcome State Fault Refusal :=
  if s.coord.isCoord && s.jobRuns then
    .next { s with coord := { s.coord with nextPlans := s.coord.nextPlans.filter (fun x => x.1 != src) ++ [(src, r)] } }
  else if s.coord.isCoord then .next (s.noteStart src r)
  else if s.job.phase == .starting && r != s.ownReport then .next (s.endStart 0x0306 [])
  else .next s

/-- START_WAIT_EXPIRED (R377, R385, R459); a start whose segment is announced has ended its wait. -/
def execStartWaitExpired (s : State) : Host.Outcome State Fault Refusal :=
  if s.job.phase != .starting || s.sheaf.nextSeg.isSome then .next s
  else
    let status := if s.job.joining then 0x0306 else if !s.synced then 0x0304 else if !s.linksReady then 0x0305 else 0x0307
    .next (s.endStart status [])

/-- JOIN_RESULT (R345, R459): the answer ends the retries; a refusal ends the start with START_MISMATCH. -/
def execJoinResult (outcome : BitVec 8) (_gen : BitVec 16) (s : State) : Host.Outcome State Fault Refusal :=
  if s.job.phase == .starting && s.job.joining then
    let t := { s with coord := { s.coord with unacked := s.coord.unacked.filter (fun u => u.mtype != 0x56) } }
    .next (if outcome == 1 then t else t.endStart 0x0306 [])
  else .next s

/-! HOLD_AT_STEP, RESUME, STOP_JOB (R386, R387) -/

/-- Whether the cutoff of a step's boundary has passed (R386). -/
def State.cutoffPassed (s : State) (step : Nat) : Bool :=
  decide (step < s.nextStep) || (step == s.nextStep && s.boundaryNext && s.sheaf.cut)

/-- HOLD_AT_STEP. -/
def execHoldAtStep (p : Fin 4) (m : Fin 8) (s : State) : Host.Outcome State Fault Refusal :=
  .next (s.serve p m { op := 0x0031, size := 8, permit := .ownerOnly, relayOk := true } s.needJob [] (fun s k =>
    let n := k.field 0 8
    let late := if s.boundaryNext && s.sheaf.cut then 1 else 0
    let step := if n = 2 ^ 64 - 1 then s.nextStep + late else n
    if s.cutoffPassed step then s.refuse p m 0x0308 0
    else
      let t := (s.journalCommand p k).running p m
      let at_ : Word64 := BitVec.ofNat 64 step
      { t with job := { t.job with hostArm := some at_, hostMbx := t.job.hostMbx ++ [(p.val, m.val, at_)] } }))

/-- HOLD_AT_STEP's response. -/
def State.holdBody (s : State) (step : Nat) : List Byte := leBytes 6 step ++ [0, 0] ++ leBytes 8 s.sheaf.sheafCount.toNat

/-- RESUME: the host hold and the replay hold are cleared; a pending HOLD_AT_STEP completes with the step reached. -/
def execResume (p : Fin 4) (m : Fin 8) (s : State) : Host.Outcome State Fault Refusal :=
  .next (s.serve p m { op := 0x0032, size := 0, permit := .ownerOnly, relayOk := true } s.needJob [] (fun s k =>
    let t := (s.journalCommand p k).running p m
    let t := t.completeAll (t.job.hostMbx.map (fun x => (x.1, x.2.1))) 0 (fun u => u.holdBody u.sheaf.step.toNat)
    { t with
      job := { t.job with hostArm := none, hostMbx := [], resumeMbx := t.job.resumeMbx ++ [(p.val, m.val)] }
      holds := { t.holds with host := false, replayEnd := false } }))

/-- STOP_JOB: the coordinator is told, and tells every module (log entry 20); a machine held at a boundary, split or frozen stops at once (R386). -/
def execStopJob (p : Fin 4) (m : Fin 8) (s : State) : Host.Outcome State Fault Refusal :=
  .next (s.serve p m { op := 0x0033, size := 1, permit := .ownerOnly, relayOk := true } s.needJob [] (fun s k =>
    let mode := k.field 0 1
    if 1 < mode then s.refuse p m 0x0106 0
    else
      let t := (s.journalCommand p k).running p m
      let t := if t.coord.isCoord then t.sendAll (t.members.filter (· != t.mgmt.key)) 0x59 1 mode
        else t.send t.coord.coordKey 0x59 1 mode
      let t := { t with job := { t.job with stopMode := some (BitVec.ofNat 8 mode), stopMbx := t.job.stopMbx ++ [(p.val, m.val)] } }
      if t.held || t.holds.split || t.holds.debug || !t.sheaf.begun then t.endJob 1 else t))

/-! Save and restore (R301 to R303, R389) -/

/-- The replicas of the module's machine (R17): 16 slots on one board, else 32 in each rack. -/
def State.replicaCount (s : State) : Nat := match s.store.map with | some m => if m.racks = 0 then 16 else 32 * m.racks | none => 0

/-- The ranges that a save captures (R301): replicated and unique ones in HBM or DDR5 spill, persistent SRAM. -/
def State.savedRanges (s : State) : List RangeEntry :=
  s.body.ranges.filter (fun r => ((r.cls == 1 || r.cls == 2) && decide (r.space ≤ 1)) || (r.cls == 3 && r.space == 4))

/-- A length padded to 4 KiB. -/
def pad4k (n : Nat) : Nat := 4096 * ceilDiv n 4096

/-- The image length of a save (R302). -/
def State.saveLength (s : State) : Nat :=
  256 + 64 * s.savedRanges.length + (s.savedRanges.map (fun r => pad4k r.length)).foldl (· + ·) 0

/-- The 4 KiB pieces of a range in logical order (R302, R313): offset and length of each. -/
def rangePieces (r : RangeEntry) : List (Nat × Nat) :=
  let order := if r.order.isEmpty then List.range (ceilDiv r.length 4096) else r.order
  order.map (fun i => (4096 * i, Nat.min 4096 (r.length - 4096 * i)))

/-- The runs of device memory that a range covers. -/
def State.rangeParts (s : State) (r : RangeEntry) : List (Nat × Nat) :=
  match s.rangeBase r with | some a => memParts a r.length | none => []

/-- The bytes of a range, in logical element order. -/
def State.rangeBytes (s : State) (r : RangeEntry) : List Byte :=
  match s.rangeBase r with
  | some a => (rangePieces r).flatMap (fun x => s.peek (a + x.1) x.2)
  | none => List.replicate r.length 0

/-- Bytes in logical element order put back into a range at an address (R303). -/
def State.pokeRange (s : State) (r : RangeEntry) (a : Nat) (bs : List Byte) : State :=
  ((rangePieces r).foldl (fun (acc : State × List Byte) x => (acc.1.poke (a + x.1) (acc.2.take x.2), acc.2.drop x.2)) (s, bs)).1

/-- One directory entry of a save image (R302). -/
def State.saveEntry (s : State) (r : RangeEntry) : List Byte :=
  leBytes 4 r.id ++ leBytes 1 r.cls ++ [0, 0, 0] ++ leBytes 8 r.length ++ sha256 (s.rangeBytes r) ++ List.replicate 16 0

/-- The directory of a save image. -/
def State.saveDirectory (s : State) : List Byte := s.savedRanges.flatMap s.saveEntry

/-- The header of a save image (R302). -/
def State.saveHeader (s : State) : List Byte :=
  let hash : Hash := match s.store.cur with | some x => x.hash | none => 0
  let rseq := if s.glean.on then s.glean.rseq.toNat else 2 ^ 64 - 1
  leBytes 4 0x53475A53 ++ leBytes 2 1 ++ [0, 0] ++ hashBytes hash ++ leBytes 8 s.job.seed.toNat ++ leBytes 8 s.sheaf.step.toNat ++
    leBytes 2 s.job.replica.toNat ++ leBytes 2 s.replicaCount ++ leBytes 4 s.savedRanges.length ++ leBytes 8 rseq ++
    sha256 s.saveDirectory ++ List.replicate 152 0

/-- Room for `n` bytes in the free parts of checkpoint staging: its place, and the parts that stay free. -/
def stagePlace (n : Nat) : List (Nat × Nat) → Option (Nat × List (Nat × Nat))
  | [] => none
  | x :: rest =>
    if n ≤ x.2 then some (x.1, (x.1 + n, x.2 - n) :: rest)
    else (stagePlace n rest).map (fun y => (y.1, x :: y.2))

/-- The captured ranges with the offsets of their data in the image and, where they fit, their places in checkpoint staging: in
directory order, each whole in the first of the plan's staging ranges that has room (DESIGN CHOICE; log entry 107). -/
def State.saveLayout (s : State) : List (RangeEntry × Nat × Option Nat) :=
  let l := s.savedRanges
  let free := (s.body.ranges.filter (fun r => r.space == 3)).map (fun r => (r.base, r.length))
  (l.foldl (fun (acc : List (RangeEntry × Nat × Option Nat) × Nat × List (Nat × Nat)) r =>
    match stagePlace (pad4k r.length) acc.2.2 with
    | some x => (acc.1 ++ [(r, acc.2.1, some x.1)], acc.2.1 + pad4k r.length, x.2)
    | none => (acc.1 ++ [(r, acc.2.1, none)], acc.2.1 + pad4k r.length, acc.2.2)) ([], 256 + 64 * l.length, free)).1

/-- A range's data as the image holds them, padded to 4 KiB. -/
def State.savedBytes (s : State) (r : RangeEntry) : List Byte := s.rangeBytes r ++ List.replicate (pad4k r.length - r.length) 0

/-- SAVE_STATE: armed for the next boundary; SAVE_SPACE where the image does not fit. -/
def execSaveState (p : Fin 4) (m : Fin 8) (ranges : Option (List TableEntry)) (s : State) : Host.Outcome State Fault Refusal :=
  let state := firstOf s.needJob (if s.save.phase == .idle then none else some 0x010B)
  .next (s.serve p m { op := 0x0050, size := 32, permit := .ownerOnly, relayOk := false } state [(1, 15)] (fun s k =>
    if 1 < k.field 0 1 then s.refuse p m 0x0106 0
    else match s.takeBuffers p k 16 1 0 ranges with
      | .error x => s.refuse p m x.1 x.2
      | .ok bs =>
        match bs with
        | b :: _ =>
          if b.size < s.saveLength then s.refuse p m 0x0401 0
          else
            let t := ((s.journalCommand p k).addWindows p bs).running p m
            { t with save := { phase := .armed, port := p, mbx := m, holdAfter := k.field 0 1 == 1, image := some b } }
        | [] => s.refuse p m 0x0107 0))

/-- A save image's header and directory. -/
def headOf (image : List Byte) : List Byte := image.take (256 + 64 * fieldLE image 60 4)

/-- The SAVE and RESTORE records' body (R293), from an image's header and directory. -/
def saveRecord (head : List Byte) (step : Nat) : List Byte := padBody 64 (sha256 head ++ leBytes 8 step)

/-- A save that ends with a status: the hold and the upload end with it (R389). -/
def State.saveFails (s : State) (status : Nat) : State :=
  let v := s.save
  let t := { s with save := {}, holds := { s.holds with save := false } }
  if (t.mbx v.port v.mbx).busy then t.complete v.port v.mbx status 0 [] else t

/-- One captured range copied into checkpoint staging, or uploaded where it does not fit (R301). -/
def State.captureRange (s : State) (b : HostBuffer) (x : RangeEntry × Nat × Option Nat) : State :=
  match x.2.2 with
  | some a => ({ s with save := { s.save with parts := s.save.parts ++ [{ offset := x.2.1, place := a, length := pad4k x.1.length }] } } : State).poke a (s.savedBytes x.1)
  | none => s.bufferWrite b x.2.1 (s.savedBytes x.1)

/-- SAVE_CAPTURE_END (R301): firmware has read the captured ranges, checked as its reads are (R147, R181, R204), into checkpoint
staging, and what did not fit there stands in the image buffer; the SAVE record, and the hold ends unless HOLD_AFTER is set.  A range that
cannot be read ends the save with an error, whose status the spec does not give and which is a free value; a host that is away ends it
with HOST_UNAVAILABLE (DESIGN CHOICE; log entry 107). -/
def execSaveCaptureEnd (s : State) : Host.Outcome State Fault Refusal :=
  if s.save.phase != .capturing then .next s
  else
    let l := s.saveLayout
    let runs := s.savedRanges.flatMap s.rangeParts
    let t := runs.foldl (fun t x => t.memCheck x.1 x.2) s
    if runs.any (fun x => !(s.lostUnits x.1 x.2).isEmpty) then
      .next (({ t with free := t.free + 1 } : State).saveFails (Config.freeCode t.free).toNat)
    else match s.save.image with
      | none => .next (t.saveFails (Config.freeCode t.free).toNat)
      | some b =>
        if l.any (fun x => x.2.2.isNone) && !(s.port b.port).up then .next (t.hostAway.saveFails (s.unreadable b.port))
        else
          let head := s.saveHeader ++ s.saveDirectory
          let t := l.foldl (fun t x => t.captureRange b x) t
          let t := t.journalNow 9 (saveRecord head s.sheaf.step.toNat)
          .next { t with
            save := { t.save with phase := .uploading, head := head, size := s.saveLength, step := BitVec.ofNat 48 s.sheaf.step.toNat, rseq := s.glean.rseq }
            holds := { t.holds with save := false, host := t.holds.host || t.save.holdAfter } }

/-- SAVE_STATE's response (R389). -/
def Save.body (v : Save) (on : Bool) : List Byte :=
  leBytes 8 v.size ++ leBytes 6 v.step.toNat ++ [0, 0] ++ sha256 v.head ++ leBytes 8 (if on then v.rseq.toNat else 2 ^ 64 - 1)

/-- Whether the background move of an upload may run on the engine of checkpoint staging now (R197, R203). -/
def State.uploadRuns (s : State) : Bool := match s.body.ranges.find? (fun r => r.space == 3) with | some r => s.engineFree r.base | none => true

/-- SAVE_UPLOAD_COMPLETE (R301, R389): the parts in checkpoint staging, read as background moves read (R204), follow into the image
buffer, the header last; an error, of the transfer or of a part that cannot be read (log entry 107), leaves the job as it was and the
header unwritten. -/
def execSaveUploadComplete (error : BitVec 16) (s : State) : Host.Outcome State Fault Refusal :=
  if s.save.phase != .uploading then .next s
  else
    let v := s.save
    let t := { s with save := {} }
    let done (u : State) (status : Nat) (body : List Byte) : State :=
      if (u.mbx v.port v.mbx).busy then u.complete v.port v.mbx status 0 body else u
    if !s.uploadRuns then .next s
    else if error != 0 then .next (done t error.toNat [])
    else match v.image with
      | none => .next t
      | some b =>
        if !(s.port b.port).up then .next (done t.hostAway (s.unreadable b.port) []) else
        let t := v.parts.foldl (fun t x => t.ddrCheck x.place x.length) t
        if v.parts.any (fun x => !(s.lostUnits x.place x.length).isEmpty) then
          .next (done { t with free := t.free + 1 } (Config.freeCode t.free).toNat [])
        else
          let t := v.parts.foldl (fun t x => t.bufferWrite b x.offset (t.peek x.place x.length)) t
          let t := t.bufferWrite b 256 (v.head.drop 256)
          let t := t.bufferWrite b 0 (v.head.take 256)
          .next (done t 0 (v.body s.glean.on))

/-- The ranges of an image's directory with their data offsets: (range ID, length, SHA-256, offset). -/
def saveParts (image : List Byte) : List (Nat × Nat × List Byte × Nat) :=
  let n := fieldLE image 60 4
  ((List.range n).foldl (fun (acc : List (Nat × Nat × List Byte × Nat) × Nat) i =>
    let e := slice image (256 + 64 * i) 64
    let len := fieldLE e 8 8
    (acc.1 ++ [(fieldLE e 0 4, len, slice e 16 32, acc.2)], acc.2 + pad4k len)) ([], 256 + 64 * n)).1

/-- RESTORE_STATE (R303, R389): nothing is loaded on any mismatch. -/
def execRestoreState (p : Fin 4) (m : Fin 8) (image : Pulled (List Byte)) (s : State) : Host.Outcome State Fault Refusal :=
  .next (s.serve p m { op := 0x0051, size := 16, permit := .ownerOnly, relayOk := false } (firstOf s.needPlan s.needNoJob) [] (fun s k =>
    match s.takeImage p k 0 1 image with
    | .error x => s.refuse p m x.1 x.2
    | .ok bs =>
      let hash : Hash := match s.store.cur with | some x => x.hash | none => 0
      let parts := saveParts bs
      let n := fieldLE bs 60 4
      if fieldLE bs 0 4 != 0x53475A53 || fieldLE bs 4 2 != 1 || slice bs 72 32 != sha256 (slice bs 256 (64 * n)) then s.refuse p m 0x0403 0
      else if slice bs 8 32 != hashBytes hash || fieldLE bs 56 2 != s.job.replica.toNat || fieldLE bs 58 2 != s.replicaCount then
        s.refuse p m 0x0402 0
      else match parts.zipIdx.find? (fun x => sha256 (slice bs x.1.2.2.2 x.1.2.1) != x.1.2.2.1) with
        | some x => s.refuse p m 0x0403 x.2
        | none =>
          let cells := match s.store.map with | some x => x.cells | none => 0
          let t := s.buildMap (cells / 4)
          let t := parts.foldl (fun t x =>
            match t.body.ranges.find? (fun r => r.id == x.1) with
            | some r => match t.rangeBase r with | some a => t.pokeRange r a (slice bs x.2.2.2 x.2.1) | none => t
            | none => t) t
          let t : State := { t with store := { t.store with imageRestored := true } }
          let step := fieldLE bs 48 8
          let seed : Word64 := BitVec.ofNat 64 (fieldLE bs 40 8)
          let t := { t with job := { t.job with restored := some (BitVec.ofNat 48 step, seed), restoredHead := sha256 (headOf bs) } }
          let t := t.journal 0x0A 0 (BitVec.ofNat 48 step) 0 (saveRecord (headOf bs) step)
          t.succeed p m (leBytes 6 step ++ [0, 0] ++ leBytes 8 seed.toNat)))

/-! The journal (R290 to R295) -/

/-- JOURNAL_CONFIG's range check (R290, R197). -/
def State.journalRangeOk (s : State) (a n : Nat) : Bool :=
  a % 0x200000 == 0 && decide (2 ^ 24 ≤ n) && decide (n ≤ 2 ^ 36) && s.ddrSpanOk a n &&
    !(s.body.ranges.any (fun r => decide (1 ≤ r.space) && decide (r.space ≤ 3) && spansMeet r.base r.length a n))

/-- JOURNAL_CONFIG (R290, R389). -/
def execJournalConfig (p : Fin 4) (m : Fin 8) (ranges : Option (List TableEntry)) (s : State) : Host.Outcome State Fault Refusal :=
  .next (s.serve p m { op := 0x0060, size := 40, permit := .ownerOnly, relayOk := false } s.needNoJob [(2, 6)] (fun s k =>
    let old := s.glean.spill.toList
    if 1 < k.field 0 1 then s.refuse p m 0x0106 0
    else if 1 < k.field 1 1 then s.refuse p m 0x0106 1
    else if k.field 16 8 == 0 then
      let t := s.dropWindows old
      ({ t with glean := {} } : State).succeed p m (leBytes 8 0)
    else if !s.journalRangeOk (k.field 8 8) (k.field 16 8) then s.refuse p m 0x0406 0
    else match s.takeBuffers p k 24 1 0 ranges with
      | .error x => s.refuse p m x.1 x.2
      | .ok bs =>
        let t := (s.dropWindows old).addWindows p bs
        let g : Glean := { on := true, base := k.field 8 8, length := k.field 16 8, full := k.field 0 1 == 1, dropPolicy := k.field 1 1 == 1, spill := bs.head? }
        ({ t with glean := g } : State).succeed p m (windowBytes bs)))

/-- Where a record of `n` bytes goes in the spill ring (R295): the bytes of a PAD record before it and the next write offset.
The device never writes between its offset and the host's read offset, and keeps one 32 B unit between them. -/
def spillPlace (size w r n : Nat) : Option (Nat × Nat) :=
  if r ≤ w then
    if w + n < size || (w + n = size && 64 < r) then some (0, if w + n = size then 64 else w + n)
    else if 64 + n < r then some (size - w, 64 + n) else none
  else if w + n < r then some (0, w + n) else none

/-- A PAD record of `n` bytes (R293, R295). -/
def padRecord (n : Nat) : List Byte :=
  recordBytes { rtype := 0x0D, flags := 0, rseq := 0, step := 0, sheafInStep := 0, body := List.replicate (n - 32) 0 }

/-- Spills unspilled records, as the journal range holds them, in RSEQ order while the ring has room. -/
def State.spill (s : State) (b : HostBuffer) (r : Nat) : List JournalItem → State
  | [] => s
  | i :: rest =>
    if i.spilled then s.spill b r rest
    else
      let bytes := s.ringPeek i.at_ (32 + i.entry.body.length)
      match spillPlace b.size s.glean.spillOffset r bytes.length with
      | none => s
      | some (padLen, w) =>
        let t := if 32 ≤ padLen then s.bufferWrite b s.glean.spillOffset (padRecord padLen) else s
        let t := t.bufferWrite b (if 0 < padLen then 64 else s.glean.spillOffset) bytes
        let records := t.glean.records.map (fun j => if j.entry.rseq == i.entry.rseq then { j with spilled := true } else j)
        ({ t with glean := { t.glean with spillOffset := w, spilledSeq := i.entry.rseq, records := records } } : State).spill b r rest

/-- The unspilled records with the runs of the journal range that hold them. -/
def Glean.placed (g : Glean) : List (JournalItem × List (Nat × Nat)) :=
  (g.records.filter (fun i => !i.spilled)).map (fun i => (i, g.parts i.at_ (32 + i.entry.body.length)))

/-- The unspilled records that uncorrectable errors of the journal range have hit. -/
def State.lostRecords (s : State) : List (JournalItem × List (Nat × Nat)) :=
  s.glean.placed.filter (fun x => x.2.any (fun y => !(s.lostUnits y.1 y.2).isEmpty))

/-- The units that the reads of a spill correct. -/
def State.journalCorrected (s : State) : Nat :=
  s.glean.placed.foldl (fun n x => x.2.foldl (fun n y => n + s.corrections y.1 y.2) n) 0

/-- Such an error ends its record; a GAP record with cause 2 names it (R295, R197). -/
def State.loseRecord (s : State) (x : JournalItem × List (Nat × Nat)) : State :=
  let rseq := x.1.entry.rseq
  let t := x.2.foldl (fun t y => (t.ddrLost (chanOf y.1) (t.lostUnits y.1 y.2)).healed y.1 y.2) s
  let g := t.glean
  let t := { t with glean := { g with records := g.records.filter (fun j => j.entry.rseq != rseq), gaps := satInc g.gaps, broken := true } }
  t.journalNow 0x0B (padBody 32 (leBytes 8 rseq.toNat ++ leBytes 8 rseq.toNat ++ [2]))

/-- Every damaged record ends. -/
def State.journalLoss (s : State) : State := s.lostRecords.foldl State.loseRecord s

/-- JOURNAL_SPILL (R203, R204, R295), while the range's engine belongs to no planned move: records, then the ring's header; then the full policy. -/
def execJournalSpill (readOffset : Nat) (s : State) : Host.Outcome State Fault Refusal :=
  if !s.glean.on || !s.engineFree s.glean.base then .next s
  else
    let s := (s.ddrCe (chanOf s.glean.base) s.journalCorrected).journalLoss
    let t := match s.glean.spill with
      | none => s
      | some b =>
        if !(s.port b.port).up then s.hostAway
        else
          let t := s.spill b (Nat.max 64 readOffset) s.glean.records
          if t.glean.spilledSeq == s.glean.spilledSeq && t.glean.spillOffset == s.glean.spillOffset then t
          else (t.bufferWrite b 0 (leBytes 8 t.glean.spillOffset ++ leBytes 8 t.glean.spilledSeq.toNat)).event b.port 13
    .next t.dropRecords

/-! Replay (R296 to R300) -/

/-- Whether a record's type is reserved (R292). -/
def recReserved (x : JournalRec) : Bool := x.rtype == 0 || decide (0x0D < x.rtype.toNat)

/-- The first step that a replay does not take in (R292, R300): the one after z, or that of a JOB_END record or of a record with a
reserved code (log entry 105). -/
def stopStep (l : List JournalRec) (z : Nat) : Nat :=
  (l.filter (fun x => x.rtype == 0x0C || recReserved x)).foldl (fun n x => Nat.min n x.step.toNat) (z + 1)

/-- The jobs of a journal, the latest first: each JOB_START record with those up to the next one, beside the RESTORE record that stands
before it (R292, R303). -/
def journalJobs (l : List JournalRec) : List (Option JournalRec × List JournalRec) :=
  ((List.range l.length).filterMap (fun i =>
    match l.drop i with
    | r :: rest =>
      if r.rtype == 1 then
        some (((l.take i).reverse.find? (fun x => x.rtype == 1 || x.rtype == 0x0A)).filter (fun x => x.rtype == 0x0A),
              r :: rest.takeWhile (fun x => x.rtype != 1))
      else none
    | [] => none)).reverse

/-- The effective seed of the JOB_START record that a job's records begin with (R297). -/
def replaySeed (l : List JournalRec) : Word64 := match l with | r :: _ => BitVec.ofNat 64 (fieldLE r.body 64 8) | [] => 0

/-- Whether a job of the journal is one that this module may replay from step f (R296, R303): its JOB_START record matches the plan, the
machine, the index and the key; it began at f, from the image that the module holds where one was restored (R292), or the module has
restored an image of a later step of it, with its seed; and no record stops it at once.  The checks on the RESTORE record and on the seed,
and the refusal of a journal that stops at f, are a DESIGN CHOICE (log entry 105). -/
def State.replayFits (s : State) (f z : Nat) (j : Option JournalRec × List JournalRec) : Bool :=
  match j.2, s.store.cur with
  | r :: _, some x =>
    let first := fieldLE r.body 72 8
    slice r.body 0 32 == hashBytes x.hash && fieldLE r.body 80 2 == s.job.replica.toNat && fieldLE r.body 82 2 == s.replicaCount &&
      fieldLE r.body 86 1 == x.profile && slice r.body 104 8 == keyCheck s.assay.key && decide (f < stopStep j.2 z) &&
      (match s.job.restored with
       | some y => y.1.toNat == f && decide (first ≤ f) && y.2 == replaySeed j.2
       | none => first == f) &&
      (match j.1 with
       | some o => fieldLE o.body 32 8 != f || first != f || (s.job.restored.isSome && slice o.body 0 32 == s.job.restoredHead)
       | none => true)
  | _, _ => false

/-- The records that a replay from step f to step z takes: those of the latest job that fits, without a GAP record up to step z, PAD
records left out (R292, R296; log entry 105); else JOURNAL_GAP or JOURNAL_MISMATCH. -/
def State.replayCheck (s : State) (l : List JournalRec) (f z : Nat) : Except (Nat × Nat) (List JournalRec) :=
  let jobs := (journalJobs (l.filter (fun r => r.rtype != 0x0D))).filter (s.replayFits f z)
  let spans := jobs.map (fun j => j.2.takeWhile (fun r => decide (r.step.toNat ≤ z)))
  match spans.find? (fun x => !x.any (fun r => r.rtype == 0x0B)) with
  | some x => .ok x
  | none => .error (if jobs.isEmpty then 0x0404 else 0x0405, 0)

/-- REPLAY_START (R296, R389). -/
def execReplayStart (p : Fin 4) (m : Fin 8) (records : Pulled (List JournalRec)) (s : State) : Host.Outcome State Fault Refusal :=
  .next (s.serve p m { op := 0x0061, size := 40, permit := .ownerOnly, relayOk := false } s.startState [(1, 3), (14, 2), (22, 2)] (fun s k =>
    if 1 < k.field 0 1 then s.refuse p m 0x0106 0
    else match startWaitOf (k.field 4 4) with
      | none => s.refuse p m 0x0106 4
      | some w =>
        if !s.assay.keySet then s.refuse p m 0x030A 0
        else if s.rst.scrubDdr then s.waitScrub p m
        else match s.takeImage p k 24 (k.field 36 4) records with
          | .error x => s.refuse p m x.1 x.2
          | .ok l =>
            let f := k.field 8 6
            let z := k.field 16 6
            match s.replayCheck l f z with
            | .error x => s.refuse p m x.1 x.2
            | .ok l =>
              let r : Replay := { active := true, action := k.field 0 1, first := BitVec.ofNat 48 f, last := BitVec.ofNat 48 z
                                  step := BitVec.ofNat 48 f, records := l }
              let t := { s with glean := { s.glean with replay := r } }
              t.beginStart p m w true (BitVec.ofNat 48 f) (replaySeed l)))

end Sys2Proof.Machine
end

