-- ==== Sys2Proof/Machine/Granary.lean ====
section
/-! DEFINITION. The granary (R417 to R433): the update of a record, deferral, repairs and their fold, the input power's loss
and return, the counters, and the temper history (R80 to R82). -/

namespace Sys2Proof.Machine

open Sys2Proof

/-! The catalogue (R425) -/

/-- A record's type code. -/
def recCode : GranaryRec → Nat
  | .identity => 0x01 | .imageMeta => 0x02 | .planKeys => 0x03 | .repairMap => 0x10 | .repairDelta => 0x11 | .xcal => 0x20
  | .linkBase => 0x21 | .ddrBase => 0x22 | .temperHist => 0x30 | .temperSteps => 0x31 | .temperWeek => 0x32 | .laser => 0x40
  | .counters => 0x50 | .resetHist => 0x51 | .errSummary => 0x52 | .session => 0x53 | .eol => 0x60 | .rollback => 0x61

/-- The records of the NOR devices. -/
def norRecords : List Nat := [0x01, 0x02, 0x03, 0x10, 0x20, 0x21, 0x22, 0x30, 0x40]
/-- The records that only their own commands write: exempt from the hour limit (R426). -/
def hourExempt : List Nat := [0x01, 0x02, 0x03]

/-- The plan keys in a PLAN_KEYS body: 64 B each, x then y, little-endian, at most four (R9; log entry 35). -/
def keysOf (bs : List Byte) : List (BitVec 512) :=
  (List.range (Nat.min 4 (bs.length / 64))).map (fun i => BitVec.ofNat 512 (fieldLE bs (64 * i) 64))

/-! The update procedure (R421) -/

/-- How an update ends on the devices that hold the record: a failure named for another device is none. -/
def endFor (ty : Nat) (e : UpdateEnd) : UpdateEnd :=
  match e with
  | .failed d => if norRecords.contains ty == (d.val != 2) then e else .written
  | _ => e

/-- Whether the first or the second device still takes copies of the record. -/
def State.takes (s : State) (ty : Nat) (second : Bool) : Bool :=
  let r := s.record ty
  if norRecords.contains ty then (if second then s.granary.nor1 && !r.stopB else s.granary.nor0 && !r.stopA)
  else !second && s.granary.mram && !r.stopA

/-- A device that has failed is no longer written: its OK bit clears and the STORE indicator rises (R421, R430, R433). -/
def State.deviceLost (s : State) (ty : Nat) (second : Bool) : State :=
  let g := s.granary
  let g := if norRecords.contains ty then (if second then { g with nor1 := false } else { g with nor0 := false }) else { g with mram := false }
  ({ s with granary := g } : State).endOfLife 6

/-- The NOR_WEAR indicator, at 80,000 erases of a record's sector (R433). -/
def State.wornOut (s : State) (ty : Nat) : State := if 80000 ≤ (s.record ty).eraseMax then s.endOfLife 5 else s

/-- Three attempts failed on one device (R421): the copy is torn, the failure counts, the third in a row ends the device's
copies of the record. -/
def State.updateFails (s : State) (ty : Nat) (second one : Bool) : State :=
  let r := s.record ty
  let n := (if second then r.failsB else r.failsA) + 1
  let t := s.onRecord ty (fun r =>
    let r := (r.write second one none).erased second one (if norRecords.contains ty then 3 else 0)
    if second then { r with failsB := n, stopB := r.stopB || decide (3 ≤ n) } else { r with failsA := n, stopA := r.stopA || decide (3 ≤ n) })
  let g := t.granary
  let t := ({ t with granary := { g with writeFails := satInc g.writeFails, writeFail := true } } : State).wornOut ty
  if 3 ≤ n then t.deviceLost ty second else t

/-- One device's copy written; a slot of NOR is erased first. -/
def State.programOn (s : State) (ty : Nat) (second one : Bool) (c : GranCopy) : State :=
  if s.takes ty second then
    s.onRecord ty (fun r =>
      let r := (r.write second one (some c)).erased second one (b2n (norRecords.contains ty))
      if second then { r with failsB := 0 } else { r with failsA := 0 })
  else s

/-- The body of XCAL (R425): sender, receiver and D of each crossing (log entry 35). -/
def xcalBody (m : Sparse Nat) : List Byte :=
  m.flatMap (fun x => [BitVec.ofNat 8 (x.1 / 64), BitVec.ofNat 8 (x.1 % 64), BitVec.ofNat 8 x.2])

/-- The crossing baselines that a body of XCAL holds. -/
def xcalOf : List Byte → Sparse Nat
  | a :: b :: d :: rest => put 0 (xcalOf rest) (a.toNat * 64 + b.toNat) d.toNat
  | _ => []

/-- A record committed: the count, the wear, the hour of R426, and plan keys and crossing baselines taken from their
records. -/
def State.noteCommit (s : State) (ty : Nat) (body : List Byte) : State :=
  let nor := norRecords.contains ty
  let t := s.onRecord ty (fun r => { r with
    recent := nor && !hourExempt.contains ty, running := none })
  let g := t.granary
  let t := { t with granary := { g with
    commits := satInc g.commits
    planKeys := if ty == 3 then keysOf body else g.planKeys
    xcal := if ty == 0x20 then xcalOf body else g.xcal } }
  t.wornOut ty

/-- `granary_update` of R421 on the record's older slot, N0 before N1.  Where a device's attempts fail, the devices after it
are not written.  A torn update of NOR may be resumed (R423); an erase that it abandons is not counted (log entry 35). -/
def State.program (s : State) (ty : Nat) (body : List Byte) (e : UpdateEnd) : State :=
  let one := (s.record ty).slotOne
  let c := s.nextCopy (s.record ty) body
  if !s.takes ty false && !s.takes ty true then s
  else match endFor ty e with
    | .written => ((s.programOn ty false one c).programOn ty true one c).noteCommit ty body
    | .failed d =>
      if d.val == 1 then
        let t := s.programOn ty false one c
        (if s.takes ty false then t.noteCommit ty body else t).updateFails ty true one
      else s.updateFails ty false one
    | .torn =>
      let second := !s.takes ty false
      s.onRecord ty (fun r => { r.write second one none with running := if norRecords.contains ty then some body else r.running })

/-- An update as firmware requests it (R421, R422, R426): queued behind one under way or behind a power failure, held within
the hour, otherwise performed. -/
def State.updateRecord (s : State) (ty : Nat) (body : List Byte) (e : UpdateEnd) : State :=
  let r := s.record ty
  let nor := norRecords.contains ty
  if r.running.isSome || (nor && s.granary.pfActive) then s.onRecord ty (fun r => { r with held := some body })
  else if nor && r.recent then
    let t := s.onRecord ty (fun r => { r with held := some body })
    { t with granary := { t.granary with deferred := satInc t.granary.deferred } }
  else s.program ty body e

/-- GRANARY_UPDATE. -/
def execGranaryUpdate (r : GranaryRec) (body : List Byte) (e : UpdateEnd) (s : State) : Host.Outcome State Fault Refusal :=
  .next (s.updateRecord (recCode r) body e)

/-- A record's held content committed. -/
def State.commitHeld (s : State) (ty : Nat) (e : UpdateEnd) : State :=
  match (s.record ty).held with
  | some b => (s.onRecord ty (fun r => { r with held := none })).program ty b e
  | none => s

/-- NOR_DEFER_EXPIRY: the hour has passed (R426). -/
def execNorDeferExpiry (r : GranaryRec) (e : UpdateEnd) (s : State) : Host.Outcome State Fault Refusal :=
  let ty := recCode r
  if norRecords.contains ty then
    let t := s.onRecord ty (fun r => { r with recent := false })
    .next (if s.granary.pfActive || (s.record ty).running.isSome then t else t.commitHeld ty e)
  else .next s

/-! Repairs (R425, R427) -/

/-- A repair: appended to REPAIR_DELTA and committed; a fold waits.  Without MRAM it is committed to REPAIR_MAP at once,
exempt from the hour (R430). -/
def State.addRepair (s : State) (kind place value : Nat) : State :=
  let g := s.granary
  let e : Repair := { seq := g.deltaSeq + 1, kind := kind, place := place, value := value }
  if g.mram then
    let later := (s.record 0x10).recent
    ({ s with granary := { g with
        delta := g.delta ++ [e], deltaSeq := e.seq, foldPending := true
        deferred := if later then satInc g.deferred else g.deferred } } : State).committed 0x11
  else ({ s with granary := { g with repairMap := g.repairMap ++ [e], deltaSeq := e.seq, lastFolded := e.seq } } : State).program 0x10 [] .written

/-- The fold of R427: the map takes every entry up to X and the delta keeps the later ones, once the map's commit stands. -/
def State.fold (s : State) (e : UpdateEnd) : State :=
  let x := s.granary.deltaSeq
  let before := (s.record 0x10).newest
  let t := s.program 0x10 [] e
  if before < (t.record 0x10).newest then
    let g := t.granary
    ({ t with granary := { g with
        repairMap := g.repairMap ++ g.delta.filter (fun d => decide (d.seq ≤ x))
        lastFolded := x, delta := g.delta.filter (fun d => decide (x < d.seq)), foldPending := false } } : State).committed 0x11
  else t

/-- REPAIR_FOLD: at most once an hour, and at once from 3,584 entries. -/
def execRepairFold (e : UpdateEnd) (s : State) : Host.Outcome State Fault Refusal :=
  let g := s.granary
  if g.delta.isEmpty || g.pfActive || (s.record 0x10).running.isSome then .next s
  else if (s.record 0x10).recent && decide (g.delta.length < 3584) then .next { s with granary := { g with foldPending := true } }
  else .next (s.fold e)

/-- Every deferred update committed at once (R460). -/
def State.flushDeferred (s : State) : State :=
  let t := norRecords.foldl (fun t ty => t.commitHeld ty .written) s
  if t.granary.foldPending && !t.granary.delta.isEmpty then t.fold .written else t

/-! Loss and return of the input power (R423) -/

/-- Every laser off (R268). -/
def State.lasersOff (s : State) : State :=
  { s with links := s.links.map (fun (x : Nat × Link) => (x.1, { x.2 with laserOn := false })) }

/-- The power-fail actions: PF_ACTIVE, no further NOR operation, the lasers off, COUNTERS with one more power loss. -/
def State.powerFails (s : State) : State :=
  if s.granary.pfActive then s
  else
    let g := s.granary
    let t : State := { s with granary := { g with pfActive := true, powerLosses := satInc g.powerLosses } }
    t.lasersOff.committed 0x50

/-- POWER_FAIL: the input is below 40 V. -/
def execPowerFail (s : State) : Host.Outcome State Fault Refusal := .next s.powerFails

/-- One record's updates after a power failure (R422, R423): an abandoned one runs again from its start, a fold as a fold; what was
queued behind it or behind the failure follows, unless the hour holds it back. -/
def State.resumeRecord (s : State) (ty : Nat) : State :=
  let t := match (s.record ty).running with
    | some b =>
      let t := s.onRecord ty (fun r => { r with running := none })
      if ty == 0x10 && t.granary.foldPending then t.fold .written else t.program ty b .written
    | none => s
  if (t.record ty).recent then t else t.commitHeld ty .written

/-- POWER_RETURN: the input is above 44 V before the rails fall. -/
def execPowerReturn (s : State) : Host.Outcome State Fault Refusal :=
  .next (if s.granary.pfActive then
      norRecords.foldl State.resumeRecord { s with granary := { s.granary with pfActive := false } }
    else s)

/-! Counters, lasers, rollback (R425, R432, R433) -/

/-- COUNTERS_COMMIT: one more minute of power-on time. -/
def execCountersCommit (s : State) : Host.Outcome State Fault Refusal :=
  .next (({ s with granary := { s.granary with powerMinutes := s.granary.powerMinutes + 1 } } : State).committed 0x50)

/-- The optical engines of a link (R231). -/
def linkEngines (l : Nat) : List Nat :=
  let n := l / 14
  let p := l % 14
  if p < 12 then [4 * n + p / 3] else [4 * n + 2 * (p - 12), 4 * n + 2 * (p - 12) + 1]

/-- LASER_COMMIT: the bias of the lanes, one more hour for each engine with a lit lane, and the LASER indicator: the worst
lane's bias over its bias at manufacture is given in thousandths. -/
def execLaserCommit (bias : List (Nat × Nat)) (worstRatio : Nat) (s : State) : Host.Outcome State Fault Refusal :=
  let lit := (((List.range 56).filter (fun l => (s.link l).lit)).flatMap linkEngines).dedup
  let g := s.granary
  let hours := lit.foldl (fun m e => put 0 m e (get 0 m e + 1)) g.laserLit
  let t : State := { s with granary := { g with laserBias := bias.foldl (fun m b => put 0 m b.1 b.2) g.laserBias, laserLit := hours } }
  let t := t.updateRecord 0x40 [] .written
  .next (if g.laserKnown && (decide (1300 ≤ worstRatio) || hours.any (fun h => decide (61320 ≤ h.2))) then t.endOfLife 3 else t)

/-- ROLLBACK_RAISE: the counter rises to the running image's security version (R432). -/
def execRollbackRaise (s : State) : Host.Outcome State Fault Refusal :=
  if s.rst.birtur && s.granary.rollback.toNat < s.rst.imageVersion.toNat then
    .next (({ s with granary := { s.granary with rollback := s.rst.imageVersion } } : State).committed 0x61)
  else .next s

/-! Temper (R80 to R82, R429) -/

/-- A region's temper record. -/
def State.temper (s : State) (r : Nat) : Temper := get {} s.granary.temper r
/-- The state with a region's temper record rewritten. -/
def State.onTemper (s : State) (r : Nat) (f : Temper → Temper) : State :=
  { s with granary := { s.granary with temper := upd {} s.granary.temper r f } }

/-- TEMPER_SAMPLE: once per minute while a job runs.  Regions that are not clocked, a relay's compute regions and a region in
reset, have no margin code of their own and are left out (DESIGN CHOICE: R80 does not settle it; log entry 95). -/
def execTemperSample (s : State) : Host.Outcome State Fault Refusal :=
  if s.jobRuns then
    .next ((List.range 33).foldl (fun t r =>
      if (t.region r).active then
        t.onTemper r (fun k => { k with samples := put 0 k.samples (t.region r).margin.toNat (get 0 k.samples (t.region r).margin.toNat + 1) })
      else t) s)
  else .next s

/-- The lowest code at which the cumulative count reaches half the samples (R429). -/
def medianOf (h : Sparse Nat) : Nat :=
  let total := h.foldl (fun a x => a + x.2) 0
  let upTo (c : Nat) : Nat := h.foldl (fun a x => if x.1 ≤ c then a + x.2 else a) 0
  ((List.range 64).find? (fun c => decide (total ≤ 2 * upTo c))).getD 63

/-- A region's trigger code (R81). -/
def trigger (r : Nat) : Nat := if gateable r then 20 else 28

/-- Whether the last two weekly medians fall below the trigger, with no step applied since the earlier of them. -/
def Temper.falls (k : Temper) (r : Nat) : Bool :=
  decide (2 ≤ k.since) && (newest 2 k.medians).all (fun m => decide (m < trigger r))

/-- One region's week ends: its median from at least 1,000 samples, then a step scheduled, or the end of life at 8 steps. -/
def State.endWeek (s : State) (r : Nat) : State :=
  let k := s.temper r
  let total : Nat := k.samples.foldl (fun a x => a + x.2) 0
  if total < 1000 then s.onTemper r (fun k => { k with samples := [], saved := [], copied := k.steps })
  else
    let k2 : Temper := { k with medians := newest 520 (k.medians ++ [medianOf k.samples]), since := k.since + 1, samples := [], saved := [], copied := k.steps }
    let t := s.onTemper r (fun _ => k2)
    if !k2.falls r || k2.scheduled then t
    else if k2.steps < 8 then
      ((t.onTemper r (fun k => { k with scheduled := true })).onRegion r (fun g => { g with scheduled := true })).committed 0x31
    else if k2.eol then t
    else
      let t := (t.onTemper r (fun k => { k with eol := true })).onRegion r (fun g => { g with temperEol := true })
      ((t.committed 0x31).endOfLife 0).log { code := 0x0206, severity := 3, region := r, action := 7, detail := k2.steps }

/-- TEMPER_WEEK_END: medians for every region, TEMPER_HIST with its copy of the steps, and a new week. -/
def execTemperWeekEnd (s : State) : Host.Outcome State Fault Refusal :=
  .next ((((List.range 33).foldl State.endWeek s).updateRecord 0x30 [] .written).committed 0x32)

/-- TEMPER_WEEK_COMMIT: the week's histograms as they stand are committed. -/
def execTemperWeekCommit (s : State) : Host.Outcome State Fault Refusal :=
  if s.granary.mram then
    .next ((({ s with granary := { s.granary with
        temper := s.granary.temper.map (fun (x : Nat × Temper) => (x.1, { x.2 with saved := x.2.samples })) } }) : State).committed 0x32)
  else .next s

end Sys2Proof.Machine
end

