-- ==== Sys2Proof/Machine/Commands.lean ====
section
/-! DEFINITION. The commands that tell, register and set (R379, R388, R390 to R392): IDENTIFY, GET_STATUS, feed and result
registration, the assay, time and pulse settings, the counters and errors, roles and the power cap. -/

namespace Sys2Proof.Machine

open Sys2Proof

/-! IDENTIFY and GET_STATUS (R379) -/

/-- Populated channels and their capacity in GiB; the speed that every populated channel reaches. -/
def State.ddrSummary (s : State) : Nat × Nat × Nat :=
  let l := ((List.range 12).map s.chan).filter (fun c => c.present && c.trained)
  (l.length, l.foldl (fun a c => a + c.capacity) 0, match l with | [] => 0 | c :: cs => cs.foldl (fun m x => Nat.min m x.speed) c.speed)

/-- The profiles offered, as a mask (R4): LP2 by stepping B1 only. -/
def State.profiles (s : State) : Nat := if s.rst.stepping == 0xB1 then 3 else 1

/-- A port's configuration-space identity (R351): vendor and device ID, class code, revision ID, subsystem vendor and subsystem ID. -/
def State.identity (s : State) : Nat × Nat × Nat × Nat × Nat × Nat :=
  (s.rst.vendorId.toNat, 0x4856, 0x120000, s.rst.stepping.toNat, s.rst.subVendorId.toNat, s.rst.subsystemId.toNat)

/-- The IDENTIFY response body.  R351 has it report the subsystem IDs, for which R379 lists no bytes: they stand in bytes 40 to 43
(DESIGN CHOICE; log entry 124). -/
def State.identifyBody (s : State) : List Byte :=
  let d := s.ddrSummary
  let (vendor, device, _, revision, subVendor, subsystem) := s.identity
  leBytes 2 vendor ++ leBytes 2 device ++ leBytes 8 s.rst.serial.toNat ++
    [BitVec.ofNat 8 (b2n s.rst.gradeB), BitVec.ofNat 8 revision, BitVec.ofNat 8 s.profiles, BitVec.ofNat 8 s.offers,
     BitVec.ofNat 8 (b2n s.relay), 0] ++ leBytes 2 s.mgmt.key.toNat ++
    leBytes 4 s.rst.fwVersion.toNat ++ leBytes 2 1 ++ leBytes 2 0x0100 ++ leBytes 2 0x0100 ++ leBytes 2 s.goodBlocks ++
    leBytes 2 d.1 ++ leBytes 4 d.2.1 ++ leBytes 2 d.2.2 ++ leBytes 2 subVendor ++ leBytes 2 subsystem ++ List.replicate 52 0

/-- IDENTIFY. -/
def execIdentify (p : Fin 4) (m : Fin 8) (s : State) : Host.Outcome State Fault Refusal :=
  .next (s.serve p m { op := 0x0001, size := 0, permit := .any, relayOk := true } none [] (fun s _ => s.succeed p m s.identifyBody))

/-- Job state as GET_STATUS gives it: frozen by the hazard detector before replaying, and that before held. -/
def State.jobCode (s : State) : Nat :=
  match s.job.phase with
  | .none => 0
  | .starting => 1
  | .running => if s.holds.debug then 5 else if s.glean.replay.active then 4 else if s.held then 3 else 2

/-- The GET_STATUS response body. -/
def State.statusBody (s : State) : List Byte :=
  let plan := if s.store.cur.isNone then 0 else if s.store.next.isNone then 1 else 2
  let hash : Hash := match s.store.cur with | some p => p.hash | none => 0
  [BitVec.ofNat 8 plan, BitVec.ofNat 8 (b2n s.store.map.isSome), BitVec.ofNat 8 s.jobCode, BitVec.ofNat 8 (s.owner.getD 0xFF)] ++
    leBytes 6 s.sheaf.step.toNat ++ leBytes 2 s.sheaf.sheafInStep.toNat ++ leBytes 4 s.holds.word.toNat ++
    leBytes 2 s.mgmt.cap ++ leBytes 2 s.role.inputPower.toNat ++ leBytes 4 s.faultStatus.toNat ++ leBytes 4 s.assayStatus.toNat ++
    leBytes 4 s.timeStatus.toNat ++ hashBytes hash ++ hashBytes s.mapHash

/-- GET_STATUS. -/
def execGetStatus (p : Fin 4) (m : Fin 8) (s : State) : Host.Outcome State Fault Refusal :=
  .next (s.serve p m { op := 0x0002, size := 0, permit := .any, relayOk := true } none [] (fun s _ => s.succeed p m s.statusBody))

/-! Feed and results (R388) -/

/-- Registers a feed ring: the earlier ring is deregistered, CONSUMED and the poll start anew. -/
def State.registerFeed (s : State) (p : Nat) (bs : List HostBuffer) : State :=
  let t := s.dropWindows s.feed.ring
  ({ t with feed := { t.feed.drop with port := p, ring := bs } } : State).addWindows p bs

/-- FEED_REGISTER: a ring that is registered may be replaced only between jobs. -/
def execFeedRegister (p : Fin 4) (m : Fin 8) (ranges : Option (List TableEntry)) (s : State) : Host.Outcome State Fault Refusal :=
  let busy := if s.job.phase != .none && !s.feed.ring.isEmpty then some 0x010B else none
  .next (s.serve p m { op := 0x0040, size := 32, permit := .feeders, relayOk := false } (firstOf s.needPlan busy) [(1, 15)] (fun s k =>
    let n := k.field 0 1
    if n < 2 ∨ 64 < n then s.refuse p m 0x0106 0
    else match (s.dropWindows s.feed.ring).takeBuffers p k 16 n (64 + s.body.feedLength) ranges with
      | .error x => s.refuse p m x.1 x.2
      | .ok bs => (s.registerFeed p bs).succeed p m (windowBytes bs)))

/-- A result stream of the current plan. -/
def State.resultSpec (s : State) (i : Nat) : Option ResultSpec := (s.body.results.find? (fun x => x.1 == i)).map (·.2)

/-- Registers a stream's slots: between jobs the stream restarts at generation 1; during a job its results go on. -/
def State.registerResult (s : State) (p i : Nat) (overwrite : Bool) (bs : List HostBuffer) : State :=
  let old := get {} s.results i
  let t := s.dropWindows old.slots
  let fresh : ResultStream := if s.job.phase == .none then {} else { produced := old.produced, waiting := old.waiting, overruns := old.overruns }
  ({ t with results := put {} t.results i { fresh with port := p, slots := bs, overwrite := overwrite } } : State).addWindows p bs

/-- RESULT_REGISTER. -/
def execResultRegister (p : Fin 4) (m : Fin 8) (ranges : Option (List TableEntry)) (s : State) : Host.Outcome State Fault Refusal :=
  .next (s.serve p m { op := 0x0041, size := 32, permit := .readers, relayOk := false } s.needPlan [(3, 13)] (fun s k =>
    let i := k.field 0 1
    let n := k.field 1 1
    let flags := k.field 2 1
    if 63 < i then s.refuse p m 0x0106 0
    else if n < 1 ∨ 64 < n then s.refuse p m 0x0106 1
    else if 1 < flags then s.refuse p m 0x0106 2
    else match s.resultSpec i with
      | none => s.refuse p m 0x0501 0
      | some r =>
        let old := get {} s.results i
        if flags = 1 ∧ !r.overwritable then s.refuse p m 0x0502 0
        else if s.job.phase != .none && !old.slots.isEmpty then s.refuse p m 0x010B 0
        else match (s.dropWindows old.slots).takeBuffers p k 16 n (64 + r.length) ranges with
          | .error x => s.refuse p m x.1 x.2
          | .ok bs => (s.registerResult p i (flags == 1) bs).succeed p m (windowBytes bs)))

/-- The generation that a stream will write next. -/
def ResultStream.nextGen (r : ResultStream) : Nat := match r.waiting with | w :: _ => w.q + 1 | [] => r.produced + 1

/-- RESULT_ACK: the current generation of its slot frees the slot (R372). -/
def execResultAck (p : Fin 4) (m : Fin 8) (s : State) : Host.Outcome State Fault Refusal :=
  .next (s.serve p m { op := 0x0042, size := 16, permit := .readers, relayOk := false } none [(1, 7)] (fun s k =>
    let i := k.field 0 1
    let g := k.field 8 8
    let r := get {} s.results i
    if 63 < i then s.refuse p m 0x0106 0
    else if r.slots.isEmpty || r.port != p.val then s.refuse p m 4 0
    else
      let slot := (g - 1) % r.slots.length
      if g = 0 ∨ r.gens.getD slot 0 ≠ g then s.refuse p m 0x0503 0
      else
        let r2 : ResultStream := { r with acked := setAt r.acked slot g }
        ({ s with results := put {} s.results i r2 } : State).succeed p m (leBytes 8 r2.nextGen)))

/-! Settings (R390) -/

/-- ASSAY_CONFIG: the key, its check, the twin comparison and the twin wait. -/
def execAssayConfig (p : Fin 4) (m : Fin 8) (s : State) : Host.Outcome State Fault Refusal :=
  .next (s.serve p m { op := 0x0070, size := 32, permit := .ownerOnly, relayOk := true } s.needNoJob [(1, 3), (8, 8)] (fun s k =>
    let wait := k.field 4 4
    let h : Word128 := BitVec.ofNat 128 (k.field 16 16)
    if 1 < k.field 0 1 then s.refuse p m 0x0106 0
    else if wait ≠ 0 ∧ (wait < 10 ∨ 60000 < wait) then s.refuse p m 0x0106 4
    else if h = 0 then s.refuse p m 0x0106 16
    else
      let a := s.assay
      let t : State := { s with assay := { a with
        keySet := true, key := h, twinOn := k.field 0 1 == 1, twinWait := if wait = 0 then a.twinWait else BitVec.ofNat 32 wait } }
      t.succeed p m (keyCheck h)))

/-- The holdover budget at once, or at the exit from holdover. -/
def State.setBudget (s : State) (ms : Nat) : State :=
  let b : Word32 := BitVec.ofNat 32 ms
  if s.servo.state == .holdover then { s with servo := { s.servo with budgetNext := some b } }
  else { s with servo := { s.servo with holdoverBudget := b } }

/-- TIME_CONFIG. -/
def execTimeConfig (p : Fin 4) (m : Fin 8) (s : State) : Host.Outcome State Fault Refusal :=
  .next (s.serve p m { op := 0x0080, size := 12, permit := .ownerOnly, relayOk := true } none [(1, 3)] (fun s k =>
    let flags := k.field 0 1
    let ms := k.field 4 4
    let cap : Word32 := BitVec.ofNat 32 (k.field 8 4)
    let budget := flags % 2 = 1
    let capture := flags / 2 % 2 = 1
    if 3 < flags then s.refuse p m 0x0106 0
    else if budget ∧ (ms < 10 ∨ 5000 < ms) then s.refuse p m 0x0106 4
    else if capture ∧ 7 < cap.toNat then s.refuse p m 0x0106 8
    else
      let t := s.journalCommand p k
      let t := if budget then t.setBudget ms else t
      let t : State := if capture then { t with time := { t.time with capEnable := bit cap 0, capEdge := BitVec.ofNat 2 (field cap 1 2) } } else t
      t.succeed p m (leBytes 4 t.timeStatus.toNat ++ leBytes 10 t.now.toNat ++ [0, 0] ++ leBytes 8 t.time.frc.toNat)))

/-- PULSE_CONFIG: the values that keep R60, CTRL last. -/
def execPulseConfig (p : Fin 4) (m : Fin 8) (s : State) : Host.Outcome State Fault Refusal :=
  .next (s.serve p m { op := 0x0081, size := 28, permit := .ownerOnly, relayOk := true } none [(1, 3)] (fun s k =>
    let out := k.field 0 1
    let ctrl : Word32 := BitVec.ofNat 32 (k.field 4 4)
    if 1 < out then s.refuse p m 0x0106 0
    else if 15 < ctrl.toNat then s.refuse p m 0x0106 4
    else
      let q : Pulse := { s.time.pulse out with
        start := BitVec.ofNat 64 (k.field 8 8), period := BitVec.ofNat 64 (k.field 16 8), width := BitVec.ofNat 32 (k.field 24 4) }
      if q.limits (field ctrl 2 2) then
        let q := q.write ctrl s.nowNs
        let t := s.journalCommand p k
        ({ t with time := t.time.onPulse out q } : State).succeed p m (leBytes 4 q.ctrl.toNat)
      else s.refuse p m 0x0602 0))

/-! Counters and errors (R391) -/

/-- Words read in ascending offset, with the captures that they make (R62). -/
def State.readWords (s : State) (p off : Nat) : Nat → State × List Byte
  | 0 => (s, [])
  | n + 1 =>
    let (t, w) := s.readBar0 p off
    let (t, ws) := t.readWords p (off + 4) n
    (t, leBytes 4 w.toNat ++ ws)

/-- READ_COUNTERS. -/
def execReadCounters (p : Fin 4) (m : Fin 8) (s : State) : Host.Outcome State Fault Refusal :=
  .next (s.serve p m { op := 0x0090, size := 8, permit := .readers, relayOk := true } none [] (fun s k =>
    let off := k.field 0 4
    let n := k.field 4 4
    if off % 4 ≠ 0 ∨ off < 0x100000 ∨ 0x1A1000 ≤ off then s.refuse p m 0x0106 0
    else if n < 1 ∨ 1016 < n ∨ 0x1A1000 < off + 4 * n then s.refuse p m 0x0106 4
    else
      let (t, ws) := s.readWords p off n
      t.succeed p m (leBytes 8 s.time.frc.toNat ++ leBytes 8 t.time.frc.toNat ++ ws)))

/-- The 64 B of an entry (R346). -/
def LogEntry.bytes (e : LogEntry) : List Byte :=
  let head := leBytes 4 e.seq.toNat ++ leBytes 2 e.code.toNat ++ [e.severity, e.region] ++ leBytes 2 e.unit.toNat ++ [e.action, e.flags] ++
    leBytes 4 e.rep.toNat ++ leBytes 8 e.t.toNat ++ leBytes 8 e.sheafCount.toNat ++ leBytes 6 e.step.toNat ++
    leBytes 2 e.sheafInStep.toNat ++ leBytes 2 e.key.toNat ++ [0, 0] ++ leBytes 16 e.detail.toNat
  head ++ leBytes 4 (crc32c head).toNat

/-- The entries of a READ_ERRORS reply with its DETAIL: those from the first SEQ, or from the oldest held (R391). -/
def FaultBlock.readFrom (f : FaultBlock) (first : Word32) : List LogEntry × Nat :=
  let d := (f.nextSeq - first).toNat
  if d = 0 ∨ 2 ^ 31 ≤ d then ([], 0)
  else if f.log.length < d then (f.log, 1)
  else (f.log.drop (f.log.length - d), 0)

/-- READ_ERRORS: the next unread SEQ follows the last entry given when the reply is full, else it is ERRLOG_NEXT_SEQ (log
entry 36). -/
def execReadErrors (p : Fin 4) (m : Fin 8) (s : State) : Host.Outcome State Fault Refusal :=
  .next (s.serve p m { op := 0x0091, size := 6, permit := .readers, relayOk := true } none [] (fun s k =>
    let most := k.field 4 1
    let least := k.field 5 1
    if most < 1 ∨ 62 < most then s.refuse p m 0x0106 4
    else if 4 < least then s.refuse p m 0x0106 5
    else
      let r := s.fault.readFrom (BitVec.ofNat 32 (k.field 0 4))
      let fits := r.1.filter (fun e => decide (least ≤ e.severity.toNat))
      let es := fits.take most
      let next : Word32 := match es.getLast? with
        | some e => if most < fits.length then e.seq + 1 else s.fault.nextSeq
        | none => s.fault.nextSeq
      let oldest : Word32 := match s.fault.log with | e :: _ => e.seq | [] => s.fault.nextSeq
      s.complete p m 0 r.2 (leBytes 4 next.toNat ++ leBytes 4 oldest.toNat ++ [BitVec.ofNat 8 es.length] ++ List.replicate 7 0 ++
        es.flatMap LogEntry.bytes)))

/-! Roles and the power cap (R392) -/

/-- A role's code as GRANT_ROLE gives it. -/
def roleOf (n : Nat) : PortRole := if n = 0 then .none else if n = 1 then .observer else .feeder

/-- Whether a grant would remove a role that a registration in use needs. -/
def State.roleInUse (s : State) (q role : Nat) : Bool :=
  s.job.phase != .none &&
    ((!s.feed.ring.isEmpty && s.feed.port == q && role != 2) ||
     (role == 0 && s.results.any (fun (x : Nat × ResultStream) => x.2.port == q && !x.2.slots.isEmpty)))

/-- PORT_ID of each port, one byte each. -/
def State.portIds (s : State) : List Byte := (List.range 4).map (fun q => BitVec.ofNat 8 (q + 4 * (s.port q).role.code))

/-- GRANT_ROLE. -/
def execGrantRole (p : Fin 4) (m : Fin 8) (s : State) : Host.Outcome State Fault Refusal :=
  .next (s.serve p m { op := 0x00A0, size := 2, permit := .ownerOnly, relayOk := true } none [] (fun s k =>
    let q := k.field 0 1
    let role := k.field 1 1
    if 3 < q then s.refuse p m 0x0106 0
    else if 2 < role then s.refuse p m 0x0106 1
    else if q = p.val then s.refuse p m 0x0603 0
    else if s.roleInUse q role then s.refuse p m 0x0604 0
    else
      let t := (s.onPort q (fun x => { x with role := roleOf role })).committed 0x53
      t.succeed p m t.portIds))

/-- The ENVELOPE that a loaded plan gives the module: the relay section's in relay role. -/
def State.envelopeOf (s : State) (p : Plan) : Nat := if s.relay then p.relayEnvelope else p.envelope

/-- The ENVELOPE of a plan slot; 0 with none. -/
def State.slotEnvelope (s : State) (p : Option Plan) : Nat := match p with | some x => s.envelopeOf x | none => 0

/-- POWER_CAP: a relay accepts a cap below its ENVELOPE only as far as 900 W, below which no cap reaches (R282). -/
def execPowerCap (p : Fin 4) (m : Fin 8) (s : State) : Host.Outcome State Fault Refusal :=
  .next (s.serve p m { op := 0x00B0, size := 2, permit := .ownerOnly, relayOk := true } none [] (fun s k =>
    let v := k.field 0 2
    let cap := if v = 0 then 2800 else v
    if cap < 1800 ∨ 3000 < cap then s.refuse p m 0x0106 0
    else if cap < s.slotEnvelope s.store.cur ∨ cap < s.slotEnvelope s.store.next then s.refuse p m 0x0601 0
    else
      let t := s.journalCommand p k
      ({ t with mgmt := { t.mgmt with cap := cap } } : State).succeed p m
        (leBytes 2 cap ++ leBytes 2 (s.slotEnvelope s.store.cur) ++ [BitVec.ofNat 8 (b2n s.relay)])))

end Sys2Proof.Machine
end

