-- ==== Sys2Proof/Machine/Reset.lean ====
section
/-! DEFINITION. Resets (R394 to R416): the episode and its sources, what each reach clears, the exit sequence with secure boot
(R408, R456), the scrub (R397), the host's RESET (R393) and the forced abort (R366). -/

namespace Sys2Proof.Machine

open Sys2Proof

/-! Repairs of cells and blocks (R110, R149, R465) -/

/-- A block failed under R110: committed to the repair map, and an end-of-life indicator (R433). -/
def State.failBlock (s : State) (b : Nat) : State :=
  let t := (s.onBlock b (fun k => { k with failed := true })).addRepair 2 b 0
  (t.log { code := 0x0160, severity := 3, region := compRegion b, unit := b, action := 7, detail := b }).endOfLife 1

/-- The logical cell that a physical cell holds. -/
def Block.holds (k : Block) (c : Nat) : Option Nat := (List.range 4).find? (fun n => k.physCell n == c)

/-- A cell map with a physical cell marked failed. -/
def markCell (m : Word32) (c : Nat) : Word32 := setBit m (15 + c)

/-- A cell map with one 3-bit field set. -/
def setCell (m : Word32) (i v : Nat) : Word32 := BitVec.ofNat 32 (splice m.toNat (3 * i) 3 v)

/-- A failed physical cell (R110, R149, R465): a free spare is never mapped again; a cell in use goes to the spare when one is
usable, else the block fails. -/
def State.repairCell (s : State) (b c : Nat) : State :=
  let k := s.block b
  if bit k.cellMap (15 + c) then s
  else
    let spare := field k.cellMap 12 3
    let marked := markCell k.cellMap c
    match k.holds c with
    | none =>
      let m := if spare = c then setCell marked 4 7 else marked
      (s.onBlock b (fun k => { k with cellMap := m })).addRepair 1 b m.toNat
    | some n =>
      if spare ≠ 7 then
        let m := setCell (setCell marked n spare) 4 7
        let t := (s.onBlock b (fun k => { k with cellMap := m, spareInUse := true })).addRepair 1 b m.toNat
        let used := ((List.range 64).filter (fun x => (t.block x).spareInUse)).length
        if 16 ≤ used then t.endOfLife 1 else t
      else ((s.onBlock b (fun k => { k with cellMap := marked })).addRepair 1 b marked.toNat).failBlock b

/-! What a reset clears (R396) -/

/-- On-die bytes: block windows, staging windows. -/
def onDie (a : Nat) : Bool := decide (0x200000000000 ≤ a)

/-- The bytes and weak units of device memory that a predicate keeps. -/
def State.keepMem (s : State) (keep : Nat → Bool) : State :=
  { s with mem := s.mem.filter (fun x => keep x.1), weak := s.weak.filter (fun x => keep x.1) }

/-- Block SRAM, instruction memory, operand and result buffers, the staging store, the egress buffers and the forward store
zeroed. -/
def State.zeroOnDie (s : State) : State :=
  let t := s.keepMem (fun a => !onDie a)
  { t with egress := [], forward := [], fwdArrivals := [], blocks := t.blocks.map (fun (x : Nat × Block) => (x.1, { x.2 with opb := [], opbParity := [], results := [] })) }

/-- A block after its own reset: what fuses, the repair map and the plan's block map say, and what belongs to the isolation
wrapper, stays (R150, R396). -/
def Block.afterReset (k : Block) : Block :=
  { active := k.active, isolated := k.isolated, failed := k.failed, fused := k.fused, spareInUse := k.spareInUse, logical := k.logical
    cellMap := k.cellMap, err := k.err &&& 0x00000800, isoDiscards := k.isoDiscards, tables := k.tables, faulty := k.faulty }

/-- A stack region after its reset. -/
def Stack.afterReset (k : Stack) : Stack := { degraded := k.degraded, ppr := k.ppr, active := k.active, tables := k.tables, retire := k.retire }

/-- A region's registers after its reset: the calibration and the supply stay. -/
def Region.afterReset (g : Region) : Region :=
  { calFail := g.calFail, guard := g.guard, guardSender := g.guardSender, temper := g.temper, scheduled := g.scheduled
    temperEol := g.temperEol }

/-- One block reset: its window is zeroed and it stays isolated until it rejoins (R413). -/
def State.clearBlock (s : State) (b : Nat) : State :=
  let t := s.keepMem (fun a => !(decide (blockBase b ≤ a) && decide (a < blockBase b + 0x800000)))
  t.onBlock b (fun k => { k.afterReset with isolated := true })

/-- A link that a reset sends DARK, its lasers off (R266); outside bench mode only a coordinate or a map lifts what UNEXPECTED barred
(R264, R265). -/
def Link.darkened (k : Link) (bench : Bool) : Link :=
  { counters := k.counters, err := k.err, grace := k.grace, wasUp := k.wasUp, barred := k.barred && !bench }

/-- A narrow reset takes a link DARK: one that was UP starts its grace (R259), and a parent behind it is left (R55). -/
def State.darkenLink (s : State) (l : Nat) : State :=
  let t := if (s.link l).state == .up then s.startGrace l else s
  (t.onLink l (fun k => k.darkened s.bench)).leaveParent l

/-- One region reset: its units and their memories; a network region's links and egress entries too. -/
def State.clearRegion (s : State) (r : Nat) : State :=
  let t := s.onRegion r (fun g => { g.afterReset with away := true })
  let t := { t with tokens := t.tokens.filter (fun k => k.src != r && k.dst != r) }
  if r < 0x10 then (List.range 4).foldl (fun t j => t.clearBlock (4 * r + j)) t
  else if r < 0x14 then
    let n := r - 0x10
    let t := t.onNet n (fun k => { active := k.active })
    let t := { t with egress := t.egress.filter (fun x => x.1 / 2 ^ 21 != n) }
    (List.range 14).foldl (fun t j => t.darkenLink (14 * n + j)) t
  else if r < 0x20 then
    let i := r - 0x14
    let t := t.keepMem (fun a => !(decide (stageBase i 0 ≤ a) && decide (a < stageBase i 64)))
    t.onStack i Stack.afterReset
  else t

/-- A job reset: the job ends, the data paths and their memories are cleared, isolation ends, every link goes DARK. -/
def State.clearJob (s : State) : State :=
  let t := (s.endJob 2).zeroOnDie
  let t := { t with
    blocks := t.blocks.map (fun (x : Nat × Block) => (x.1, { x.2.afterReset with isolated := false, err := 0, isoDiscards := 0 }))
    stks := t.stks.map (fun (x : Nat × Stack) => (x.1, x.2.afterReset))
    nets := [], tokens := [] }
  let t := (List.range 56).foldl State.darkenLink t
  { t with regions := t.regions.map (fun (x : Nat × Region) => (x.1, { x.2.afterReset with active := false })) }

/-- What stays of the granary's working state: content that firmware held in memory is lost (R426), a torn update is not
taken up, the week's samples fall back to the last commit (R429); a power-on also restarts what counts since power-on and clears
WRITE_FAIL, which the narrower reaches keep (DESIGN CHOICE, log entry 53). -/
def Granary.afterReset (g : Granary) (powerOn : Bool) : Granary :=
  let g := { g with
    recs := g.recs.map (fun (x : Nat × GranRecord) => (x.1, { x.2 with held := none, running := none }))
    temper := g.temper.map (fun (x : Nat × Temper) => (x.1, { x.2 with samples := x.2.saved })) }
  if powerOn then { g with pfActive := false, commits := 0, deferred := 0, writeFails := 0, writeFail := false, eolTold := 0, holdupTime := 0, holdupOk := false }
  else g

/-- The reset block's facts and the episode, without what the wide reaches clear; a warm reset keeps the fuse shadow (R404).
RESET_TARGET takes its reset value at power-on and is kept by every other reset, which neither R396 nor R415 says (DESIGN CHOICE,
log entry 53). -/
def ResetBlock.afterReset (r : ResetBlock) (reach : Nat) : ResetBlock :=
  { r with birtur := false, recoveryWait := false, sight := none, jobMbx := none, due := [], scrubHbm := false, scrubDdr := false
           factoryValid := r.factoryValid && decide (reach = 3)
           fusesProgrammed := r.fusesProgrammed && decide (reach = 3)
           fuseConflict := r.fuseConflict && decide (reach = 3)
           episodes := if reach = 1 then 0 else r.episodes
           target := if reach = 1 then 0x00000FFF else r.target }

/-- A power-on, cold or warm reset (R396).  A warm one keeps the DDR5 channels' registers and the tier-move registers along with
DDR5's contents, while it clears the stacks' registers and ERRLOG_NEXT_SEQ, whose log it keeps: R396 lists only the contents of
DDR5 (DESIGN CHOICE, log entry 53). -/
def State.clearWide (s : State) (reach : Nat) : State :=
  let warm := reach = 3
  let kept := s.keepMem (fun a => decide (warm) && !onDie a)
  let old := s.fault
  let log : FaultBlock := if warm then { log := old.log, suspectAt := old.suspectAt } else { suspectAt := old.suspectAt }
  { pending := s.pending, out := s.out, free := s.free
    time := if warm then { frc := s.time.frc } else {}
    fault := log
    rst := s.rst.afterReset reach
    granary := s.granary.afterReset (reach = 1)
    mgmt := { powered := s.mgmt.powered, pgOut := s.mgmt.pgOut, nextSession := s.mgmt.nextSession
              address := if warm then s.mgmt.address else none }
    regions := if warm then s.regions.map (fun (x : Nat × Region) => (x.1, { x.2.afterReset with active := false })) else []
    blocks := if warm then s.blocks.map (fun (x : Nat × Block) => (x.1,
      { failed := x.2.failed, fused := x.2.fused, spareInUse := x.2.spareInUse, cellMap := x.2.cellMap })) else []
    stks := if warm then s.stks.map (fun (x : Nat × Stack) => (x.1, { degraded := x.2.degraded, ppr := x.2.ppr, retire := x.2.retire })) else []
    ddr := if warm then s.ddr.map (fun (x : Nat × Ddr) => (x.1, { x.2 with run := none, queue := [], background := false, suspended := false })) else []
    mem := kept.mem, weak := kept.weak }

/-! The episode (R395, R399 to R401) -/

/-- A source's bit in RESET_CAUSE (R416). -/
def ResetSource.bitIx : ResetSource → Nat
  | .powerGood => 0 | .supply => 1 | .rstPin => 2 | .mgmtCold => 3 | .mgmtWarm => 4 | .hostWarm => 5 | .hostJob => 6 | .watchdog => 7
  | .thermal => 8 | .forcedAbort => 9 | .fwRegion => 10 | .fwBlock => 11

/-- Whether a source is active while its condition holds. -/
def ResetSource.level : ResetSource → Bool
  | .powerGood | .supply | .rstPin | .thermal => true
  | _ => false

/-- The widest reach of some sources; 7 with none. -/
def widest (l : List ResetSource) : Nat := l.foldl (fun m x => Nat.min m x.reach) 7

/-- The cause bits of some sources. -/
def causeBits (l : List ResetSource) : Nat := (l.map (fun x => 2 ^ x.bitIx)).foldl (· + ·) 0

/-- A source asserts: it opens an episode or joins the one open; every stage already run is abandoned; what its reach clears is
held in reset unless a wider reach holds it already. -/
def State.assertReset (s : State) (x : ResetSource) : State :=
  let r := s.rst
  let before := widest r.episode
  let r := { r with
    episode := if r.episode.contains x then r.episode else r.episode ++ [x]
    active := if x.level && !r.active.contains x then r.active ++ [x] else r.active
    latch := setBit (if x.reach = 1 ∧ before ≠ 1 then 0 else r.latch) x.bitIx
    episodes := if r.episode.isEmpty then satInc r.episodes else r.episodes
    rstDriven := r.rstDriven || decide (x.reach ≤ 3), recoveryWait := false, sight := none }
  let t := { s with rst := r }
  if x.reach ≤ 3 ∧ x.reach ≤ before then t.clearWide x.reach
  else if x.reach = 4 ∧ 4 ≤ before then t.clearJob
  else t

/-- A level source releases. -/
def State.releaseReset (s : State) (x : ResetSource) : State := { s with rst := { s.rst with active := s.rst.active.filter (· != x) } }

/-- POWER_GOOD: asserted while PWR_EN is high and a rail is not yet in regulation (R395, R440). -/
def execPowerGood (inRegulation : Bool) (s : State) : Host.Outcome State Fault Refusal :=
  let t : State := { s with mgmt := { s.mgmt with pgOut := inRegulation } }
  .next (if inRegulation then t.releaseReset .powerGood else if s.mgmt.powered then t.assertReset .powerGood else t)

/-- SUPPLY_MONITOR: a rail out of its window or the input above 63 V (R395, R439). -/
def execSupplyMonitor (fault : Bool) (s : State) : Host.Outcome State Fault Refusal :=
  .next (if fault then ({ s with mgmt := { s.mgmt with pgOut := false } } : State).assertReset .supply else s.releaseReset .supply)

/-- RST_N: low for 10 µs asserts; in the sense window the module then leaves the pin to the external driver (R400). -/
def execRstN (low : Bool) (s : State) : Host.Outcome State Fault Refusal :=
  if low then
    let t := s.assertReset .rstPin
    .next { t with rst := { t.rst with rstDriven := false } }
  else .next (s.releaseReset .rstPin)

/-- A junction above 105 °C is one excursion until it falls again; COUNTERS keeps the number and the peak (R425). -/
def State.excursion (s : State) (celsius : Nat) : State :=
  if 105 < celsius then
    { s with
      granary := { s.granary with
        thermalTrips := s.granary.thermalTrips + b2n (!s.mgmt.hot), thermalPeak := Nat.max s.granary.thermalPeak celsius }
      mgmt := { s.mgmt with hot := true } }
  else { s with mgmt := { s.mgmt with hot := false } }

/-- THERMAL_TRIP: a die junction at 115 °C; released below 85 °C and after 1 s. -/
def execThermalTrip (hot : Bool) (s : State) : Host.Outcome State Fault Refusal :=
  if hot then
    .next ((if s.rst.active.contains .thermal then s else s.excursion 115).assertReset .thermal)
  else .next (s.releaseReset .thermal)

/-- WATCHDOG: Birtur has not serviced it for 1 s. -/
def execWatchdog (s : State) : Host.Outcome State Fault Refusal :=
  if s.rst.birtur then .next (s.assertReset .watchdog) else .next s

/-- A firmware reset of a failed unit during a job aborts the step (R398). -/
def State.unitReset (s : State) (x : ResetSource) (f : State → State) : State :=
  let before := widest s.rst.episode
  let t := s.assertReset x
  if before < x.reach then t
  else
    let t := f t
    if t.jobRuns then t.abortFor .localError else t

/-- FIRMWARE_REGION_RESET (R395, R398). -/
def execFirmwareRegionReset (r : Fin 33) (s : State) : Host.Outcome State Fault Refusal :=
  let target : Word32 := BitVec.ofNat 32 (splice s.rst.target.toNat 0 6 r.val)
  if s.rst.birtur then
    .next (({ s with rst := { s.rst with target := target } } : State).unitReset .fwRegion (fun t => t.clearRegion r))
  else .next s

/-- FIRMWARE_BLOCK_RESET (R395, R413). -/
def execFirmwareBlockReset (b : Fin 64) (s : State) : Host.Outcome State Fault Refusal :=
  let target : Word32 := BitVec.ofNat 32 (splice s.rst.target.toNat 6 6 b.val)
  if s.rst.birtur then
    .next (({ s with rst := { s.rst with target := target } } : State).unitReset .fwBlock (fun t => t.clearBlock b))
  else .next s

/-! Hot-plug states (R448, R458) -/

/-- A change of the hot-plug state is an event. -/
def State.setHotplug (s : State) (h : HotPlug) : State :=
  if s.mgmt.hotplug == h then s else ({ s with mgmt := { s.mgmt with hotplug := h } } : State).platform "HOTPLUG" h.code

/-! The stages of an exit (R403, R404, R428) -/

/-- A record that no copy holds: the behaviour of R425's Absent column. -/
def State.absentRecord (s : State) (ty : Nat) : State :=
  let t := { s with granary := { s.granary with recs := drop s.granary.recs ty } }
  let g := t.granary
  let set (g : Granary) : State := { t with granary := g }
  match ty with
  | 0x01 => t.endOfLife 6
  | 0x03 => set { g with planKeys := [] }
  | 0x10 => set { g with repairMap := [], lastFolded := 0 }
  | 0x11 => set { g with delta := [] }
  | 0x20 => set { g with xcal := [] }
  | 0x22 => set { g with ddrSerials := [] }
  | 0x30 => set { g with temper := g.temper.map (fun (x : Nat × Temper) => (x.1, { x.2 with medians := [], since := 0, copied := 0 })) }
  | 0x31 => set { g with temper := g.temper.map (fun (x : Nat × Temper) => (x.1, { x.2 with
      steps := x.2.copied, scheduled := decide (0 < x.2.copied), eol := false, dates := [] })) }
  | 0x32 => set { g with temper := g.temper.map (fun (x : Nat × Temper) => (x.1, { x.2 with samples := [], saved := [] })) }
  | 0x40 => set { g with laserBias := [], laserLit := [], laserKnown := false }
  | 0x50 => set { g with powerMinutes := 0, coldStarts := 0, powerLosses := 0, thermalTrips := 0, thermalPeak := 0 }
  | 0x51 => set { g with resetHist := [] }
  | 0x52 => { set { g with summary := [], codeCounts := [] } with fault := { t.fault with suspectAt := [] } }
  | 0x60 => set { g with eol := 0 }
  | 0x61 => set { g with rollback := 0 }
  | _ => t

/-- The crossing's latency class (R71), none where no crossing joins the regions. -/
def crossingLatency (a b : Nat) : Option Nat :=
  let kind (r : Nat) : Nat := if r < 0x10 then 0 else if r < 0x14 then 1 else if r < 0x20 then 2 else 3
  let die (r : Nat) : Nat := if r < 0x10 then r / 4 else if r < 0x14 then r - 0x10 else (r - 0x14) / 3
  let same := die a == die b
  if a = b then none
  else match kind a, kind b with
    | 3, _ => some 24
    | _, 3 => some 24
    | 0, 0 => some (if same then 6 else 14)
    | 0, 1 => some (if same then 8 else 20)
    | 1, 0 => some (if same then 8 else 20)
    | 0, _ => some 18
    | _, 0 => some 18
    | 1, 1 => some 14
    | 2, 2 => none
    | _, _ => some (if same then 16 else 26)

/-- One crossing calibrated (R73 to R75): the guard L − D, the least one noted with its sender, CAL_FAIL below 4 cc, an entry
for a D more than 1 cc off its baseline.  The new value is used. -/
def State.calibrate (s : State) (x : Nat × Nat × Nat) : State :=
  let (a, b, d) := x
  match crossingLatency a b with
  | none => s
  | some l =>
    let guard := l - d
    let key := a * 64 + b
    let old := get 0 s.granary.xcal key
    let drift := old != 0 && decide (old + 1 < d ∨ d + 1 < old)
    let first := (s.region b).guardSender == 0x3F
    let t := s.onRegion b (fun g => { g with
      guard := if first || decide (guard < g.guard.toNat) then BitVec.ofNat 5 guard else g.guard
      guardSender := if first || decide (guard < g.guard.toNat) then BitVec.ofNat 6 a else g.guardSender
      calFail := g.calFail || decide (guard < 4) })
    let detail := key + guard * 2 ^ 16
    let t := if drift then t.log { code := 0x0203, severity := 0, region := b, action := 1, detail := detail } else t
    if guard < 4 ∧ !(s.region b).calFail then t.log { code := 0x0202, severity := 3, region := b, action := 7, detail := detail } else t

/-- The measured values D become the baselines of XCAL where a crossing differs from its own (R75, R425): an update of the
record, with the hour, the devices and the counts that go with one (R421, R426). -/
def State.storeXcal (s : State) (delays : List (Nat × Nat × Nat)) : State :=
  let m := delays.foldl (fun m x => if (crossingLatency x.1 x.2.1).isSome then put 0 m (x.1 * 64 + x.2.1) x.2.2 else m) s.granary.xcal
  if m == s.granary.xcal then s else s.updateRecord 0x20 (xcalBody m) .written

/-- A region's supply at a power-on or cold exit (R81, R428, R429): a scheduled step is applied and committed with its date;
steps just rebuilt from TEMPER_HIST wait for the next exit.  The four weeks between steps are 40,320 minutes of power-on time,
the clock in which R81 dates a step (DESIGN CHOICE: R81 names no clock for them; log entry 96). -/
def State.applyTemper (s : State) (rebuilt : Bool) (r : Nat) : State :=
  let k := s.temper r
  let due := k.scheduled && !rebuilt && decide (k.steps < 8) &&
    (match k.dates.getLast? with | some m => decide (40320 ≤ s.granary.powerMinutes - m) | none => true)
  let t := if due then (s.onTemper r (fun k => { k with
      steps := k.steps + 1, scheduled := false, dates := k.dates ++ [s.granary.powerMinutes], since := 0 })).committed 0x31
    else s
  let n := t.temper r
  t.onRegion r (fun g => { g with temper := if rebuilt then 0 else n.steps, scheduled := n.scheduled, temperEol := n.eol })

/-- The regions that the role clocks (R272). -/
def State.clockRegions (s : State) : State :=
  (List.range 33).foldl (fun t r => t.onRegion r (fun g => { g with active := !(s.relay && decide (r < 0x10)) })) s

/-- HBM initialization at a power-on or cold exit (R428, R465): the repair map with the delta entries that it does not hold
yet, then the cells that failed self-test, free spares first, for a spare that has failed is never mapped. -/
def State.applyRepairs (s : State) (bad : List (Nat × Nat)) : State :=
  let g := s.granary
  let entries := g.repairMap ++ g.delta.filter (fun d => decide (g.lastFolded < d.seq))
  let t := entries.foldl (fun t e =>
    if e.kind = 1 then t.onBlock e.place (fun k => { k with cellMap := BitVec.ofNat 32 e.value, spareInUse := k.spareInUse || decide (
        field (BitVec.ofNat 32 e.value) 12 3 = 7 ∧ (List.range 4).any (fun n => field (BitVec.ofNat 32 e.value) (3 * n) 3 == 4)) })
    else if e.kind = 2 then t.onBlock e.place (fun k => { k with failed := true })
    else t) s
  let spares := bad.filter (fun x => field (t.block x.1).cellMap 12 3 == x.2)
  (spares ++ bad).foldl (fun t x => t.repairCell x.1 x.2) t

/-- The highest speed of R192's table that every DIMM supports (R193). -/
def ddrSpeed (mrdimm : Bool) (rated : List Nat) : Nat :=
  let table := if mrdimm then [8800, 8000] else [6400, 5600, 4800]
  (table.find? (fun v => rated.all (fun r => decide (v ≤ r)))).getD 0

/-- DDR5 training (R193 to R195, R428): a relay trains no channel; mixed types train none; a channel that fails becomes
unpopulated.  DDR_STATUS.DDR_MIXED shows on the channels with a DIMM only, where R205 does not say (DESIGN CHOICE, log entry 130). -/
def State.trainDdr (s : State) (dimms : List (Nat × Bool × Nat × Nat × Nat)) (failed : List Nat) : State :=
  let mixed := dimms.any (fun d => d.2.1) && dimms.any (fun d => !d.2.1)
  let speed := ddrSpeed (dimms.any (fun d => d.2.1)) (dimms.map (fun d => d.2.2.2.1))
  let t := dimms.foldl (fun t d =>
    let ok := !t.relay && !mixed && speed != 0 && !failed.contains d.1
    let stored := t.granary.ddrSerials.contains d.2.2.2.2
    let t := t.onChan d.1 (fun k => { k with
      present := true, mrdimm := d.2.1, capacity := d.2.2.1, trained := ok, fromStore := ok && stored, mixed := mixed && !t.relay
      speed := if ok then speed else 0, serial := d.2.2.2.2 })
    if ok then
      if stored then t
      else ({ t with granary := { t.granary with ddrSerials := newest 24 (t.granary.ddrSerials ++ [d.2.2.2.2]) } } : State).updateRecord 0x22 [] .written
    else if failed.contains d.1 && !t.relay && !mixed then
      t.log { code := 0x0403, severity := 3, region := ioRegion, unit := d.1, action := 7 }
    else t) s
  if mixed && !s.relay then t.platform "DDR_MIXED" 0 else t

/-- The rows that the repair list holds get hard repair at a start-up (R183, R204, R428): HBM rows, and the DDR5 rows of the DIMMs
that are there.  The map records them with its next fold, and until then they stay listed. -/
def State.hardRepairs (s : State) : State :=
  let g := s.granary
  let now (r : Repair) : Bool := !r.hard && (r.kind == 3 || (r.kind == 4 && s.ddr.any (fun x => x.2.trained && x.2.serial == r.place)))
  let mark (r : Repair) : Repair := if now r then { r with hard := true } else r
  if (g.repairMap ++ g.delta).any now then
    { s with granary := { g with repairMap := g.repairMap.map mark, delta := g.delta.map mark, foldPending := true } }
  else s

/-- The rollback floor (R432). -/
def State.floor (s : State) : Nat := Nat.max s.granary.rollback.toNat (s.rst.fuseFloor * 2 ^ 24)

/-- The fused signals in R412's order with the codes each permits and its factory code; the integrator bank holds their
entries in this order, 4 bits each from bit 0 of byte 0 (log entry 37). -/
def fusedSignals : List (String × List Nat × Nat) :=
  [("ALERT_N", [0, 3], 0), ("RMV_OK", [2, 3], 3), ("TPULSE0", [2, 3], 3), ("TPULSE1", [2, 3], 3), ("LED0", [2, 3, 4], 3),
   ("LED1", [2, 3, 4], 3), ("LED2", [2, 3, 4], 3), ("TDO", [0, 2], 0)]

/-- An entry of the integrator bank. -/
def pinEntry (bank : List Byte) (i : Nat) : Nat := fieldLE bank (i / 2) 1 / (if i % 2 = 0 then 1 else 16) % 16

/-- Whether an integrator entry is valid and its code permitted, and whether it conflicts (R409). -/
def pinConflict (bank : List Byte) (i : Nat) (codes : List Nat) : Bool :=
  decide (8 ≤ pinEntry bank i) && !codes.contains (pinEntry bank i % 8)

/-- The code that a fused signal follows from fuse sensing until Birtur takes it (R409, R410). -/
def State.pinCode (s : State) (i : Nat) : Nat :=
  match fusedSignals[i]? with
  | some (_, codes, factory) =>
    let e := pinEntry s.rst.integratorBank i
    if 8 ≤ e ∧ codes.contains (e % 8) then e % 8 else factory
  | none => 0

/-- Fuse sensing at a power-on or cold exit: the factory bank, which every module leaves the factory with, is found valid (log
entry 84), and the integrator bank as blown takes effect (R409, R456). -/
def State.senseFuses (s : State) : State :=
  let bank := s.rst.blownBank
  { s with free := s.free + 1
           rst := { s.rst with factoryValid := true, integratorBank := bank, fuseDraw := s.free, fusesProgrammed := !bank.isEmpty
                               fuseConflict := (fusedSignals.zipIdx).any (fun x => pinConflict bank x.2 x.1.2.1) } }

/-- Whether the ROM accepts an image: its signature holds and its security version is not below the floor. -/
def State.acceptsImage (s : State) (i : Option (Word32 × Bool)) : Bool :=
  match i with | some (v, ok) => ok && decide (s.floor ≤ v.toNat) | none => false

/-- The image that the ROM runs (R408): true A, false B. -/
def State.chooseImage (s : State) (x : ExitSight) : Option Bool :=
  let a := s.acceptsImage x.imageA
  let b := s.acceptsImage x.imageB
  if s.rst.bootSrc = 1 then (if a then some true else none)
  else if s.rst.bootSrc = 0 then
    let first := x.absent.contains 2 || s.granary.newestA
    if first then (if a then some true else if b then some false else none)
    else (if b then some false else if a then some true else none)
  else none

/-- The security version of an image, 0 with none. -/
def versionOf (i : Option (Word32 × Bool)) : Word32 := match i with | some x => x.1 | none => 0

/-- The security versions of the images that the ROM would accept. -/
def State.validOf (s : State) (x : ExitSight) : List Word32 :=
  ([x.imageA, x.imageB].filter s.acceptsImage).map versionOf

/-! The end of an episode (R414) -/

/-- The source of widest reach, the lowest bit among equals (R414). -/
def singleCause (l : List ResetSource) : List ResetSource :=
  let w := l.filter (fun x => x.reach == widest l)
  (w.find? (fun x => w.all (fun y => decide (x.bitIx ≤ y.bitIx)))).toList

/-- The cause registers at the end of exit, and RESET_HIST. -/
def State.endEpisode (s : State) : State :=
  let r := s.rst
  let reach := widest r.episode
  let bits := if s.relay then causeBits (singleCause r.episode) else r.latch.toNat
  let last : Word32 := BitVec.ofNat 32 (bits + reach * 2 ^ 16)
  let base : Word32 := if reach ≤ 2 then 0 else r.cause
  let t : State := { s with
    rst := { r with cause := if s.relay then 0 else base ||| BitVec.ofNat 32 r.latch.toNat, lastCause := last, episode := [], latch := 0
                    rstDriven := false }
    granary := { s.granary with resetHist := newest 64 (s.granary.resetHist ++ [(last, s.granary.powerMinutes)]) } }
  t.committed 0x51

/-- What follows the boot of a wide exit: Birtur runs, memories come up, the start count advances before any link leaves DARK
(R251), a scrub begins (R397). -/
def State.finishWide (s : State) (x : ExitSight) : State :=
  let reach := widest s.rst.episode
  let t : State := { s with rst := { s.rst with birtur := true, recoveryWait := false, sight := none, startupMs := x.startupMs } }
  let t := t.endEpisode
  let t := if reach ≤ 2 then (t.applyRepairs x.badCells).trainDdr x.dimms x.ddrFailed else t
  let g := t.granary
  let start := if x.absent.contains 0x50 then x.randomCount else g.startCount
  let t : State := { t with granary := { g with startCount := start + 1, coldStarts := g.coldStarts + b2n (decide (reach ≤ 2)) } }
  let t := (t.committed 0x50).committed 0x53
  let t := t.zeroOnDie
  let t : State := { t with
    rst := { t.rst with scrubHbm := true, scrubDdr := !t.relay }
    granary := { t.granary with foldPending := !t.granary.delta.isEmpty } }
  let t := if reach ≤ 2 then t.hardRepairs else t
  (t.setHotplug .powered).renewLinks false

/-- The stages of a power-on, cold or warm exit up to secure boot (R403, R404, R408); FRC is 0 at the exit of a power-on or cold
reset (R49). -/
def State.exitWide (s : State) (x : ExitSight) : State :=
  let reach := widest s.rst.episode
  let cold := decide (reach ≤ 2)
  let s : State := if cold then { s with time := { s.time with frc := 0 } } else s
  let bad := x.clkMode == 3
  let strapped : ResetBlock := if cold then { s.rst with
      bootSrc := x.bootSrc, clkMode := if bad then 2 else x.clkMode, role := x.role, strapInvalid := bad } else s.rst
  let t : State := { s with rst := { strapped with bootFail := false } }
  let t : State := { t with role := { t.role with computeGated := t.relay, ddrOff := t.relay } }
  let t := if cold then x.absent.foldl State.absentRecord t else t
  let ok (l : List Nat) (second : Bool) : Bool := l.all (fun ty => !(if second then (t.record ty).stopB else (t.record ty).stopA))
  let mram := [0x11, 0x31, 0x32, 0x50, 0x51, 0x52, 0x53, 0x60, 0x61]
  let t : State := { t with granary := { t.granary with
    nor0 := ok norRecords false, nor1 := ok norRecords true, mram := ok mram false
    restored := if cold then !x.absent.isEmpty else t.granary.restored } }
  let t := if cold && !x.absent.isEmpty then t.platform "RESTORED" x.absent.length else t
  let t := if reach = 1 then
      let t : State := { t with granary := { t.granary with holdupTime := BitVec.ofNat 12 x.holdup, holdupOk := decide (200 ≤ x.holdup) } }
      if x.holdup < 250 then t.endOfLife 4 else t
    else t
  let t := if cold then t.senseFuses else t
  let t := if cold then t.rst.fusedBlocks.foldl (fun t b => t.onBlock b (fun k => { k with fused := true })) t else t
  let t := if cold then (List.range 33).foldl (State.applyTemper · (x.absent.contains 0x31)) t else t
  let t := t.clockRegions
  let t := (List.range 33).foldl (fun t r => t.onRegion r (fun g => { g with calFail := false, guard := 0, guardSender := 0x3F })) t
  let t := (x.delays.foldl State.calibrate t).storeXcal x.delays
  let t := (List.range 33).foldl (fun t r => t.onRegion r (fun g => { g with guardSender := if g.guardSender == 0x3F then 0 else g.guardSender })) t
  match t.chooseImage x with
  | some a =>
    let t : State := { t with free := t.free + 1, rst := { t.rst with
      booted := if a then 0 else 1, bootDraw := t.free, imageVersion := versionOf (if a then x.imageA else x.imageB)
      validVersions := t.validOf x } }
    t.finishWide x
  | none =>
    let failed := t.rst.bootSrc = 0 ∨ t.rst.bootSrc = 1
    let t : State := { t with rst := { t.rst with recoveryWait := true, bootFail := decide failed, sight := some x } }
    if failed then t.platform "BOOT_FAIL" 0 else t

/-- A job, region or block exit: the units come back; they rejoin a running job at a step boundary (R398, R404). -/
def State.exitNarrow (s : State) : State :=
  let reach := widest s.rst.episode
  let t := s.endEpisode
  let t : State := { t with rst := { t.rst with birtur := true } }
  let t := t.clockRegions
  let t := if t.jobRuns then t else { t with
    regions := t.regions.map (fun (x : Nat × Region) => (x.1, { x.2 with away := false }))
    blocks := t.blocks.map (fun (x : Nat × Block) => (x.1, { x.2 with isolated := false })) }
  let t := if t.bench then (List.range 56).foldl (fun t l => t.onLink l (fun k => { k with barred := false })) t else t
  let t := (List.range 56).foldl (fun t l => t.leaveDark l) t
  if reach = 4 then
    match t.rst.jobMbx with
    | some (p, m) => (({ t with rst := { t.rst with jobMbx := none } } : State).complete p m 0 0 [])
    | none => t
  else t

/-- RESET_EXIT: once every source has released and the stretch has passed (R399, R401). -/
def execResetExit (sight : ExitSight) (s : State) : Host.Outcome State Fault Refusal :=
  let r := s.rst
  if r.episode.isEmpty || !r.active.isEmpty || r.recoveryWait then .next s
  else if widest r.episode ≤ 3 then .next (s.exitWide sight)
  else .next s.exitNarrow

/-- RECOVERY_IMAGE_POST: the ROM verifies the image placed at device address 0 and runs it from memory (R456). -/
def execRecoveryImagePost (signed : Bool) (version : Word32) (s : State) : Host.Outcome State Fault Refusal :=
  let r := s.rst
  match r.sight with
  | none => .next s
  | some x =>
    if r.recoveryWait && s.acceptsImage (some (version, signed)) then
      let t : State := { s with free := s.free + 1, rst := { r with
        booted := if r.bootSrc = 2 then 2 else 3, bootFail := false, bootDraw := s.free, imageVersion := version
        validVersions := s.validOf x } }
      .next (t.finishWide x)
    else .next s

/-! The scrub (R397) -/

/-- The firmware region (R196). -/
def firmwareRegion (a : Nat) : Bool := decide (0x100000000000 ≤ a) && decide (a < 0x100010000000)

/-- SCRUB: Birtur zeroes the on-die memories and starts the engines on HBM and DDR5. -/
def execScrub (s : State) : Host.Outcome State Fault Refusal :=
  if s.rst.scrubHbm || s.rst.scrubDdr then .next s.zeroOnDie else .next s

/-- SCRUB_END: the HBM scrub ends first, the DDR5 scrub after it; the commands that waited may then proceed. -/
def execScrubEnd (s : State) : Host.Outcome State Fault Refusal :=
  if s.rst.scrubHbm then
    let t := s.keepMem (fun a => decide (0x00C000000000 ≤ a))
    .next { t with rst := { t.rst with scrubHbm := false } }
  else if s.rst.scrubDdr then
    let t := s.keepMem (fun a => firmwareRegion a || !(decide (0x100000000000 ≤ a) && decide (a < 0x130000000000)))
    .next { t with rst := { t.rst with scrubDdr := false } }
  else .next s

/-! RESET and the forced abort (R366, R393) -/

/-- Every command that runs, but one, completes with ABORTED. -/
def State.abortOthers (s : State) (keep : Option (Nat × Nat)) : State :=
  let all := (List.range 4).flatMap (fun p => (List.range 8).map (fun m => (p, m)))
  s.completeAll (all.filter (fun x => some x != keep)) 6 (fun _ => [])

/-- RESET (R393): a warm reset follows the response; a job reset completes at its exit. -/
def execReset (p : Fin 4) (m : Fin 8) (s : State) : Host.Outcome State Fault Refusal :=
  .next (s.serve p m { op := 0x00F0, size := 1, permit := .ownerOrFree, relayOk := true } none [] (fun s k =>
    if k.field 0 1 = 1 then
      let t := s.succeed p m []
      { t with rst := { t.rst with due := t.rst.due ++ [.hostWarm] } }
    else if k.field 0 1 = 2 then
      let t := if s.jobRuns then s.sendFailing else s
      let t := (t.running p m).abortOthers (some (p.val, m.val))
      let t : State := { t with rst := { t.rst with jobMbx := some (p.val, m.val) } }
      t.assertReset .hostJob
    else s.refuse p m 0x0106 0))

/-- ABORT_TIMEOUT: the hardware completes an abort that firmware has not finished in 5 ms (R366). -/
def execAbortTimeout (p : Fin 4) (s : State) : Host.Outcome State Fault Refusal :=
  if !(s.port p).abortPending then .next s
  else if (s.port p).role == .owner then
    let t := s.abortOthers none
    let t := (List.range 4).foldl (fun t q => t.onPort q (fun x => { x with dups := [] })) t
    let t := t.assertReset .forcedAbort
    let t : State := { t with rst := { t.rst with birtur := false } }
    .next (t.abortFinish p true)
  else .next (((List.range 8).foldl (fun t m => t.hardAbort p m) s).abortFinish p true)

end Sys2Proof.Machine
end

