-- ==== Sys2Proof/Machine/Hardware.lean ====
section
/-! DEFINITION. Power, pins, sensors and hot-plug (R409 to R412, R437 to R463). -/

namespace Sys2Proof.Machine

open Sys2Proof

/-! Power (R439 to R441) -/

/-- PWR_EN_RISE: the power stages start; power-good asserts until the rails are in regulation (R395, R440). -/
def execPwrEnRise (s : State) : Host.Outcome State Fault Refusal :=
  if s.mgmt.powered then .next s
  else .next (({ s with mgmt := { s.mgmt with powered := true, pgOut := false } } : State).assertReset .powerGood)

/-- PWR_EN_LOW: as input below 40 V; then the stages turn off and PG_OUT falls (R439), and all that power-on resets is lost. -/
def execPwrEnLow (s : State) : Host.Outcome State Fault Refusal :=
  if s.mgmt.powered then
    let t := s.powerFails.clearWide 1
    .next { t with
      mgmt := { t.mgmt with powered := false, pgOut := false }
      rst := { t.rst with episode := [], active := [], latch := 0, rstDriven := false } }
  else .next s

/-- The current condition of R441: g = 48 at once, held for 100 µs. -/
def Mgmt.currentTrip (m : Mgmt) : Mgmt := { m with g := 48, holdTicks := 10, downTicks := 0 }

/-- One 10 µs update of g (R441): up by 1 on power or temperature, down by 1 for every tenth update in which power and every
junction are low. -/
def Mgmt.updateG (m : Mgmt) (meanW hottest : Nat) : Mgmt :=
  if 0 < m.holdTicks then { m with holdTicks := m.holdTicks - 1 }
  else if m.cap < meanW ∨ 100 ≤ hottest then { m with g := Nat.min 48 (m.g + 1), downTicks := 0 }
  else if meanW + 50 ≤ m.cap ∧ hottest < 97 then
    if m.downTicks < 9 then { m with downTicks := m.downTicks + 1 } else { m with g := m.g - 1, downTicks := 0 }
  else { m with downTicks := 0 }

/-- GATING_FRACTION_UPDATE: every 10 µs, with the mean input power over the last 1 ms and the hottest junction, whose excursions
COUNTERS keeps (R425). -/
def execGatingFractionUpdate (meanW : Nat) (hottest : Nat) (currentTrip : Bool) (s : State) : Host.Outcome State Fault Refusal :=
  let t := s.excursion hottest
  .next { t with
    role := { t.role with inputPower := BitVec.ofNat 12 (Nat.min meanW 4095) }
    mgmt := if currentTrip then t.mgmt.currentTrip else t.mgmt.updateG meanW hottest }

/-- OVER_CURRENT_WARNING: above 68 A, or a die regulator's warning. -/
def execOverCurrentWarning (s : State) : Host.Outcome State Fault Refusal := .next { s with mgmt := s.mgmt.currentTrip }

/-! Sensors (R447, R448) -/

/-- A sensor's place in R447's table, counted over all sensors. -/
def sensorIndex : Sensor → Nat
  | .inputVoltage => 0 | .inputCurrent => 1 | .inputPower => 2 | .gatingFraction => 3
  | .dieJunction d => 4 + d.val | .hbmTemp i => 9 + i.val | .dimmTemp c => 21 + c.val
  | .coolantInlet => 33 | .coolantOutlet => 34 | .coolantRise => 35 | .holdUp => 36
  | .laserBias e => 37 + e.val | .marginCode r => 53 + r.val

/-- SENSOR_THRESHOLD_CROSSING: an event, its value the sensor with bit 7 set for a critical threshold. -/
def execSensorThresholdCrossing (sensor : Sensor) (critical : Bool) (s : State) : Host.Outcome State Fault Refusal :=
  .next (s.platform "SENSOR" (sensorIndex sensor + 128 * b2n critical))

/-! Removal (R458 to R463) -/

/-- The hot-plug state that the coordinate, the job and the position give (R458). -/
def State.place (s : State) : HotPlug :=
  if s.mgmt.key == 0xFFFF then .powered
  else if !s.jobRuns then .placed
  else if s.relay then (if s.tables.form.toNat = keySlot s.mgmt.key + 1 then .spare else .active)
  else if s.ownSlot.isSome then .active else .spare

/-- The last step of a removal (R460): the lasers are off and the commits have ended; a time master waits for another to be
named. -/
def State.removalEnds (s : State) : State :=
  let t := s.lasersOff
  if t.servo.state == .master then t
  else ({ t with mgmt := { t.mgmt with rmvOk := true, blocked := false } } : State).setHotplug .safe

/-- Whether no spare or form can take the module's place (R460). -/
def State.removalBlocked (s : State) : Bool :=
  if s.relay then !s.hasForms || decide (s.tables.form ≠ 0 ∧ s.tables.form.toNat ≠ keySlot s.mgmt.key + 1)
  else s.ownSlot.isSome && (s.spares s.tables.positions s.mgmt.key).isEmpty

/-- The request of R460 sent: REMOVAL, its body the coordinate key. -/
def State.sendRemoval (s : State) : State := s.sendKept s.coord.coordKey 0x55 2 s.mgmt.key.toNat

/-- A removal latched (R460): LEAVING and the deferred commits; at once to its end without a job or as a spare; otherwise
REMOVAL, which a coordinator sends once it has stopped beating. -/
def State.latchRemoval (s : State) : State :=
  if s.mgmt.removal then s
  else
    let spare := s.mgmt.hotplug == .spare
    let t := ({ s with mgmt := { s.mgmt with removal := true } } : State).setHotplug .leaving
    let t := t.flushDeferred
    if !t.jobRuns || spare then t.removalEnds
    else
      let t := if t.coord.isCoord then t else t.sendRemoval
      if t.removalBlocked then ({ t with mgmt := { t.mgmt with blocked := true } } : State).platform "REMOVAL_BLOCKED" 0 else t

/-- ATTN_N: held low for 50 ms. -/
def execAttnN (s : State) : Host.Outcome State Fault Refusal :=
  if s.rst.birtur then .next s.latchRemoval else .next s

/-- SURPRISE_REMOVAL: PRSNT_N high for 100 µs (R462). -/
def execSurpriseRemoval (s : State) : Host.Outcome State Fault Refusal :=
  .next ((({ s with mgmt := { s.mgmt with g := 48 } } : State).setHotplug .leaving).powerFails)

/-! Pins (R412, R437, R458) -/

/-- What a bay indicator shows. -/
inductive Lamp where
  | off | on | blink1 | blink4 | fused (code : Nat)
  deriving DecidableEq, Repr

/-- LED0 to LED2 (R458), in their fused state until Birtur runs (R410). -/
def State.leds (s : State) : Lamp × Lamp × Lamp :=
  let h := s.mgmt.hotplug
  let red : Lamp := if s.rst.bootFail then .blink1
    else if s.granary.eol != 0 || s.fault.log.any (fun e => e.severity == 4) then .on else .off
  if !s.rst.birtur && !s.rst.bootFail then (.fused (s.pinCode 4), .fused (s.pinCode 5), .fused (s.pinCode 6))
  else match h with
    | .off => (.off, .off, red)
    | .powered => (.blink1, .off, red)
    | .placed | .spare | .active => (.on, .off, red)
    | .leaving => (.on, if s.mgmt.blocked then .blink4 else .blink1, red)
    | .safe => (.off, .on, red)

/-- The level of a pin whose fused code is in force: 1 and 4 high, the others low. -/
def codeHigh (code : Nat) : Bool := code == 1 || code == 4

/-- RMV_OK, high when the module may be removed. -/
def State.rmvOkPin (s : State) : Bool := if s.rst.birtur then s.mgmt.rmvOk else codeHigh (s.pinCode 1)

/-- ALERT_N low: an event waits (R448). -/
def State.alertLow (s : State) : Bool := s.mgmt.alert

/-- TPULSE0 and TPULSE1: their fused state until PULSE_CONFIG or a register write drives them (R60, R412). -/
def State.tpulsePin (s : State) (i : Nat) : Bool :=
  let p := s.time.pulse i
  if p.enable || p.polarity || p.mode != 0 then p.high else codeHigh (s.pinCode (2 + i))

/-- RST_N as the module drives it (R400). -/
def State.rstLow (s : State) : Bool := s.rst.rstDriven

end Sys2Proof.Machine
end

