-- ==== Sys2Proof/Machine/Management.lean ====
section
/-! DEFINITION. The management interface (R445 to R457): vendor messages, platform events, firmware update, fuses, SPDM. -/

namespace Sys2Proof.Machine

open Sys2Proof

/-! Vendor messages (R453) -/

/-- Whether the management endpoint answers: not while the module is held in reset (R445). -/
def State.endpoint (s : State) : Bool := s.rst.birtur || s.rst.recoveryWait

/-- A response: the code, the status and the fields from byte 4. -/
def State.vendorReply (s : State) (code : Nat) (status : Byte) (body : List Byte) : State :=
  { s with out := s.out ++ [.management "VENDOR" ([BitVec.ofNat 8 code, status, 0, 0] ++ body)] }

/-- A message not accepted for a reason without a status in R453: one of the statuses 0x01 to 0x07 (log entry 38). -/
def State.vendorFree (s : State) (code : Nat) : State :=
  ({ s with free := s.free + 1 } : State).vendorReply code (BitVec.ofNat 8 (1 + (Config.freeStatus s.free).toNat % 7)) []

/-- A message that changes state: inside a secured session (R451), then its own acceptance, then its effect. -/
def State.vendor (s : State) (code : Nat) (session : Bool) (deny : Option Byte) (effect : State → State) : State :=
  if !s.endpoint then s
  else if !(session && !s.mgmt.sessions.isEmpty) then s.vendorReply code 1 []
  else match deny with
    | some x => s.vendorReply code x []
    | none => effect s

/-- Status 0x02 while a job runs or starts. -/
def State.jobDenies (s : State) : Option Byte := if s.job.phase == .none then none else some 2

/-- The first refusal. -/
def firstByte (a b : Option Byte) : Option Byte := match a with | some x => some x | none => b

/-- The fields of GET_INFO, from byte 4. -/
def State.infoBody (s : State) : List Byte :=
  leBytes 8 s.rst.serial.toNat ++ [BitVec.ofNat 8 (b2n s.relay), BitVec.ofNat 8 (b2n s.rst.gradeB), s.rst.stepping, 0] ++
    leBytes 2 s.mgmt.key.toNat ++ [BitVec.ofNat 8 s.mgmt.hotplug.code, 0] ++ leBytes 4 s.mgmt.tag.toNat

/-- GET_INFO. -/
def execGetInfo (s : State) : Host.Outcome State Fault Refusal :=
  .next (if s.endpoint then s.vendorReply 1 0 s.infoBody else s)

/-- A coordinate of the module's role (R14). -/
def State.keyFits (s : State) (k : Key) : Bool := keyRelay k == s.relay

/-- The coordinate and tag stored or cleared; the links retrain and rediscover (R15, R454). -/
def State.takePosition (s : State) (key : Key) (tag : Word32) : State :=
  let t : State := { s with mgmt := { s.mgmt with key := key, tag := tag } }
  let t := if key == 0xFFFF then t.lasersOff else t
  (t.computeRoutes.renewLinks true).setHotplug t.place

/-- SET_POSITION (R454). -/
def execSetPosition (session : Bool) (key : Key) (tag : Word32) (s : State) : Host.Outcome State Fault Refusal :=
  let deny := firstByte s.jobDenies
    (if key == 0xFFFF then none else if !keyValid key then some 4 else if !s.keyFits key then some 3 else none)
  .next (s.vendor 2 session deny (fun s => (s.takePosition key tag).vendorReply 2 0 []))

/-- A key that can be the time master: any present coordinate, where a machine map says which are present (R455). -/
def State.masterFits (s : State) (k : Key) : Bool := keyValid k && (s.store.map.isNone || s.present.contains k)

/-- NAME_TIME_MASTER (R455): the module named enters MASTER, every other one holdover; a removal that waited for it ends. -/
def execNameTimeMaster (session : Bool) (key : Key) (s : State) : Host.Outcome State Fault Refusal :=
  .next (s.vendor 3 session (if s.masterFits key then none else some 4) (fun s =>
    if s.mgmt.key == 0xFFFF then s.vendorFree 3
    else
      let t := ({ s with servo := { s.servo with named := true } } : State).nameMaster key
      let t := if s.mgmt.removal && !s.mgmt.rmvOk && !s.jobRuns then t.removalEnds else t
      t.vendorReply 3 0 []))

/-- RESET: the response, then the reset 1 ms later. -/
def execMgmtReset (session : Bool) (kind : BitVec 8) (s : State) : Host.Outcome State Fault Refusal :=
  .next (s.vendor 4 session (if kind == 1 || kind == 2 then none else some 4) (fun s =>
    let t := s.vendorReply 4 0 []
    { t with rst := { t.rst with due := t.rst.due ++ [if kind == 1 then .mgmtCold else .mgmtWarm] } }))

/-- UNLOAD_PLAN: as the Birtur command (R382); already done where no plan is loaded (log entry 38). -/
def execMgmtUnloadPlan (session : Bool) (s : State) : Host.Outcome State Fault Refusal :=
  .next (s.vendor 5 session s.jobDenies (fun s =>
    if s.store.cur.isNone then s.vendorReply 5 5 [] else s.unload.vendorReply 5 0 []))

/-- SET_PLAN_KEYS: PLAN_KEYS committed, or deleted by a count of 0. -/
def execSetPlanKeys (session : Bool) (keys : List (BitVec 512)) (s : State) : Host.Outcome State Fault Refusal :=
  .next (s.vendor 6 session (if keys.length ≤ 4 then none else some 4) (fun s =>
    if s.store.cur.isSome then s.vendorFree 6
    else
      let t := if keys.isEmpty then s.absentRecord 3 else s.updateRecord 3 (keys.flatMap (fun k => leBytes 64 k.toNat)) .written
      t.vendorReply 6 0 []))

/-- The bank as blown (R456): an entry of bytes 0 to 31 that reads back wrong is invalid, the root hash stands as read. -/
def blownBank (bank readBack : List Byte) : List Byte :=
  let nibble (x y : Nat) : Nat := if x = y then x else 0
  (List.range 64).map (fun i =>
    let x := fieldLE bank i 1
    let y := fieldLE readBack i 1
    if i < 32 then BitVec.ofNat 8 (nibble (x % 16) (y % 16) + 16 * nibble (x / 16) (y / 16)) else BitVec.ofNat 8 y)

/-- PROGRAM_FUSES: once; it takes effect at the next power-on or cold exit. -/
def execProgramFuses (session : Bool) (bank : List Byte) (readBack : List Byte) (s : State) : Host.Outcome State Fault Refusal :=
  let deny := firstByte s.jobDenies (if !s.rst.blownBank.isEmpty then some 5 else if bank.length ≠ 64 then some 4 else none)
  .next (s.vendor 7 session deny (fun s =>
    ({ s with rst := { s.rst with blownBank := blownBank bank readBack } } : State).vendorReply 7 0 []))

/-- RAISE_FLOOR: fuse bits blown until F equals the value; refused above the running or the other valid image's version. -/
def execRaiseFloor (session : Bool) (f : BitVec 8) (s : State) : Host.Outcome State Fault Refusal :=
  let n := f.toNat
  let over_ := decide (s.rst.imageVersion.toNat < n * 2 ^ 24) || s.rst.validVersions.any (fun v => decide (v.toNat < n * 2 ^ 24))
  let deny := firstByte s.jobDenies
    (if n < 1 ∨ 64 < n then some 4 else if n ≤ s.rst.fuseFloor then some 5 else if over_ then some 6 else none)
  .next (s.vendor 8 session deny (fun s => ({ s with rst := { s.rst with fuseFloor := n } } : State).vendorReply 8 0 []))

/-- REQUEST_REMOVAL: as ATTN_N. -/
def execRequestRemoval (session : Bool) (s : State) : Host.Outcome State Fault Refusal :=
  .next (s.vendor 9 session none (fun s => s.latchRemoval.vendorReply 9 0 []))

/-- Whether the coordinator has committed a table that gives the module's position away (R460). -/
def State.removalCommitted (s : State) : Bool :=
  match s.tables.staged with
  | some u => u.committed && !u.localOnly &&
      (if s.relay then u.form == keySlot s.mgmt.key + 1 else s.ownSlot.isSome && (logicalSlot (positionsOf u.positions) s.mgmt.key).isNone)
  | none => false

/-- A removal cancelled: the module returns to the state its place gives, and REMOVAL is retried no more. -/
def State.cancelRemoval (s : State) : State :=
  let t : State := { s with
    mgmt := { s.mgmt with removal := false, blocked := false, rmvOk := false }
    coord := { s.coord with unacked := s.coord.unacked.filter (fun u => u.mtype != 0x55) } }
  t.setHotplug t.place

/-- CANCEL_REMOVAL (R460, R463): too late once the table update is committed. -/
def execCancelRemoval (session : Bool) (s : State) : Host.Outcome State Fault Refusal :=
  .next (s.vendor 10 session none (fun s =>
    if !s.mgmt.removal then s.vendorFree 10
    else if s.removalCommitted then s.vendorReply 10 7 []
    else s.cancelRemoval.vendorReply 10 0 []))

/-- GET_NEIGHBOURS: the bodies kept, in link order. -/
def execGetNeighbours (s : State) : Host.Outcome State Fault Refusal :=
  let l := s.mgmt.neighbours
  .next (if s.endpoint then
      s.vendorReply 11 0 ([BitVec.ofNat 8 l.length, 0, 0, 0] ++ l.flatMap (fun x => leBytes 20 x.2.toNat))
    else s)

/-- CLEAR_CAUSE: the mask written to RESET_CAUSE with W1C effect. -/
def execClearCause (session : Bool) (mask : Word32) (s : State) : Host.Outcome State Fault Refusal :=
  .next (s.vendor 12 session none (fun s =>
    ({ s with rst := { s.rst with cause := w1c s.rst.cause mask } } : State).vendorReply 12 0 []))

/-! Platform events (R448) -/

/-- POLL_PLATFORM_EVENT: the oldest event is read with the lost-events flag; an acknowledged event leaves the queue, and the
last one releases ALERT_N. -/
def execPollPlatformEvent (ack : Bool) (s : State) : Host.Outcome State Fault Refusal :=
  if !s.endpoint then .next s
  else match s.mgmt.events with
    | [] => .next { s with mgmt := { s.mgmt with alert := false } }
    | e :: es =>
      let t : State := { s with out := s.out ++ [.management e.what (leBytes 4 e.value ++ [BitVec.ofNat 8 (b2n s.mgmt.lostEvents)])] }
      .next { t with mgmt := { t.mgmt with
        lostEvents := false, events := if ack then es else e :: es, alert := !(ack && es.isEmpty) } }

/-! Firmware update (R431) -/

/-- FIRMWARE_UPDATE: the image that did not run is written; when the new image verifies, IMAGE_META names it the newest. -/
def execFirmwareUpdate (version : Word32) (verified : Bool) (s : State) : Host.Outcome State Fault Refusal :=
  if s.endpoint && verified && decide (s.floor ≤ version.toNat) then
    let ranA := if s.rst.booted = 0 then true else if s.rst.booted = 1 then false else s.granary.newestA
    let t := s.updateRecord 2 [] .written
    .next { t with granary := { t.granary with newestA := !ranA }, rst := { t.rst with validVersions := [t.rst.imageVersion, version] } }
  else .next s

/-! SPDM (R449 to R451) -/

/-- A reply of the responder. -/
def State.spdmReply (s : State) (what : String) (bytes : List Byte) : State := { s with out := s.out ++ [.management what bytes] }

/-- A value that the security core draws or signs (R449). -/
def State.drawn (s : State) : State × List Byte := ({ s with free := s.free + 1 }, leBytes 64 (Config.freeBytes s.free).toNat)

/-- A measurement (R450): the plan hash, the map hash and the PLAN_KEYS record are the module's; the ROM, the image and the fuse
banks enter as free values, the image's drawn at boot and the banks' at fuse sensing (log entry 39). -/
def State.measurement (s : State) (i : Nat) : Option (List Byte) :=
  let plan : Hash := match s.store.cur with | some p => p.hash | none => 0
  match i with
  | 1 => some (leBytes 64 Config.romVersion.toNat)
  | 2 => some (leBytes 32 (Config.freeBytes s.rst.bootDraw).toNat ++ leBytes 4 s.rst.imageVersion.toNat)
  | 3 => some (leBytes 32 (Config.freeBytes s.rst.fuseDraw).toNat)
  | 4 => some (hashBytes plan)
  | 5 => some (hashBytes s.mapHash)
  | 6 => some (if s.granary.planKeys.isEmpty then List.replicate 32 0 else sha256 (s.granary.planKeys.flatMap (fun k => leBytes 64 k.toNat)))
  | _ => none

/-- The management root hash of the integrator bank, if it holds one (R451). -/
def State.rootHash (s : State) : Option Hash :=
  let h := slice s.rst.integratorBank 32 32
  if s.rst.fusesProgrammed && h.any (· != 0) then some (BitVec.ofNat 256 (beNat h)) else none

/-- SPDM_REQUEST: certificates, challenges and measurements are answered and signed; a key exchange opens a session when
fewer than two are held and the requester's root is the one required. -/
def execSpdmRequest (r : SpdmReq) (s : State) : Host.Outcome State Fault Refusal :=
  if !s.endpoint then .next s
  else match r with
    | .getCertificate slot =>
      let chain := if slot = 0 then (match (s.record 1).read with | some c => c.body | none => []) else []
      .next (s.spdmReply "CERTIFICATE" chain)
    | .challenge _ => .next (s.drawn.1.spdmReply "CHALLENGE_AUTH" s.drawn.2)
    | .getMeasurements i _ =>
      match s.measurement i with
      | some m => .next (s.drawn.1.spdmReply "MEASUREMENTS" (m ++ s.drawn.2))
      | none => .next (s.spdmReply "ERROR" [])
    | .keyExchange root =>
      let full := decide (2 ≤ s.mgmt.sessions.length + s.mgmt.opening.length)
      let allowed := match s.rootHash with | some h => h == root | none => true
      if full || !allowed then .next (s.spdmReply "ERROR" [])
      else
        let n := s.mgmt.nextSession
        let t : State := { s with mgmt := { s.mgmt with opening := s.mgmt.opening ++ [n], nextSession := n + 1 } }
        .next (t.drawn.1.spdmReply "KEY_EXCHANGE_RSP" (leBytes 4 n ++ t.drawn.2))
    | .finish n =>
      if s.mgmt.opening.contains n then
        .next (({ s with mgmt := { s.mgmt with opening := s.mgmt.opening.filter (· != n), sessions := s.mgmt.sessions ++ [n] } } : State).spdmReply
          "FINISH_RSP" [])
      else .next (s.spdmReply "ERROR" [])
    | .endSession n =>
      .next (({ s with mgmt := { s.mgmt with sessions := s.mgmt.sessions.filter (· != n) } } : State).spdmReply "END_SESSION_ACK" [])

/-- ENTDAA: the dynamic address; the provisional ID ends in the low 32 bits of the serial (R445). -/
def execEntdaa (address : BitVec 7) (s : State) : Host.Outcome State Fault Refusal :=
  if s.endpoint then
    .next { s with
      mgmt := { s.mgmt with address := some address }
      out := s.out ++ [.management "PID" (leBytes 4 (s.rst.serial.toNat % 2 ^ 32))] }
  else .next s

end Sys2Proof.Machine
end

