-- ==== Sys2Proof/Machine/Boundary.lean ====
section
/-! DEFINITION. What happens at a step boundary (R45 to R47, R297 to R300, R329, R335): the counters of a job's start, local
repairs, a step's commit and its abort, the installing of tables and plans, and what starts with a step. -/

namespace Sys2Proof.Machine

open Sys2Proof

/-! Job start -/

/-- A block with its counters at 0 (R150). -/
def Block.restart (k : Block) : Block :=
  { k with arrivalStalls := 0, instrStalls := 0, variant := 0, sramCe := 0, isoDiscards := 0, planFaults := 0, frozen := false }

/-- A stack region with its counters at 0 (R184). -/
def Stack.restart (k : Stack) : Stack :=
  { k with ceCount := 0, arrivalStalls := 0, instrStalls := 0, planFaults := 0, refreshForced := 0, debtMax := 0, arrDiscards := 0
           frozen := false }

/-- A region with its counters at 0 and the least margin to be measured anew (R84). -/
def Region.restart (g : Region) : Region :=
  { g with stretches := 0, throttled := 0, xhold := 0, leadHold := 0, xrem := 0, lrem := 0, xcrc := 0, netDroop := 0, gatedCc := 0, measured := false, least := 0 }

/-- A channel with its counters at 0 (R205). -/
def Ddr.restart (k : Ddr) : Ddr := { k with ceCount := 0, moves := 0, late := 0, lateMax := 0, suspends := 0 }

/-- A network region with its counters at 0 (R230). -/
def Net.restart (n : Net) : Net :=
  { n with sent := 0, stallCc := 0, fwdHoldCc := 0, darkSkips := 0, collides := 0, corrected := 0, uncorrected := 0, frozen := false }

/-- A link with its counters at 0; the greatest fill and the least credit since job start begin at the present ones (R270). -/
def Link.restart (k : Link) : Link := { k with counters := { fillMax := k.replay.length, creditMin := k.credits } }

/-- The counters that return to 0 at job start (R84, R150, R184, R205, R230, R62, R270, R283, R305, R325, R349, R355). -/
def State.restartCounters (s : State) : State :=
  { s with
    blocks := s.blocks.map (fun (x : Nat × Block) => (x.1, x.2.restart))
    stks := s.stks.map (fun (x : Nat × Stack) => (x.1, x.2.restart))
    regions := s.regions.map (fun (x : Nat × Region) => (x.1, x.2.restart))
    ddr := s.ddr.map (fun (x : Nat × Ddr) => (x.1, x.2.restart))
    nets := s.nets.map (fun (x : Nat × Net) => (x.1, x.2.restart))
    links := s.links.map (fun (x : Nat × Link) => (x.1, x.2.restart))
    bypass := { s.bypass with dups := 0 }
    role := { s.role with fwdStored := 0, fwdCut := 0, fwdUnread := 0, holdReqs := 0, abortReqs := 0 }
    glean := { s.glean with varBase := 0, replay := { s.glean.replay with feedMismatch := 0 } }
    time := { s.time with capOverrun := 0 }
    hazard := {}
    fault := { s.fault with stepAborts := 0, abortConsec := 0, spareSwitches := 0, refillSheaves := 0, heldLimitRun := 0, hardwareSeen := false }
    counts := {} }

/-- The JOB_START record's body (R293). -/
def State.jobStartBody (s : State) : List Byte :=
  match s.store.cur with
  | none => []
  | some x => padBody 128 (
    hashBytes x.hash ++ hashBytes s.mapHash ++ leBytes 8 s.job.seed.toNat ++ leBytes 8 s.job.firstStep.toNat ++
      leBytes 2 s.job.replica.toNat ++ leBytes 2 s.replicaCount ++ leBytes 2 s.job.cells ++ leBytes 1 x.profile ++
      [s.tables.form, BitVec.ofNat 8 (x.flags.toNat % 4), BitVec.ofNat 8 (b2n s.glean.full), 0, 0] ++ leBytes 4 x.period ++
      leBytes 2 x.stepLen ++ List.replicate 6 0 ++ keyCheck s.assay.key)

/-! Local repairs (R149, R183, R197, R204, R335) -/

/-- A good block that holds no logical index. -/
def State.idleBlock (s : State) : Option Nat := (List.range 64).find? (fun b => s.blockGood b && !(s.block b).active)

/-- The logical index of a block that has failed goes to a good idle block with its window's bytes, where there is one (log
entry 41). -/
def State.moveBlock (s : State) (b : Nat) : State :=
  match s.idleBlock with
  | some d =>
    let k := s.block b
    let t := s.copyMem (blockBase b) (blockBase d) 0x680000
    let t := t.onBlock d (fun x => { x with active := true, logical := k.logical, tables := k.tables })
    t.onBlock b (fun x => { x with active := false, logical := 0x3F, tables := {} })
  | none => s

/-- A block's faulty cells at the boundary (R110, R149); with no block left to take a failed one's place the module asks to be
replaced (R331, FAILING cause 1). -/
def State.repairBlock (s : State) (b : Nat) : State :=
  if (s.block b).faulty.isEmpty then s
  else
    let t := (s.block b).faulty.foldl (fun t c => t.repairCell b c) s
    let t := t.onBlock b (fun k => { k with faulty := [] })
    if (t.block b).failed && (t.block b).active then
      let u := t.moveBlock b
      if (u.block b).active then u.sendKept u.coord.coordKey 0x51 5 (bodyOf [(1, 0), ((u.fault.nextSeq - 1).toNat, 1)]) else u
    else t

/-- The plan's range that holds a device address. -/
def State.rangeAt (s : State) (a : Nat) : Option RangeEntry :=
  s.body.ranges.find? (fun r => decide (r.space ≤ 3) && decide (r.base ≤ a) && decide (a < r.base + r.length))

/-- A unique range cannot be restored from a peer: the machine holds and the restore is asked for (R183). -/
def State.needRestore (s : State) : State :=
  ({ s with fault := { s.fault with restoreNeeded := true }, holds := { s.holds with restore := true } }).log
    { code := 0x0710, severity := 4, action := 6, detail := s.sheaf.step.toNat }

/-- What a range's class says of a lost part of it (R183). -/
def State.restoreRange (s : State) (a n : Nat) : State :=
  match s.rangeAt a with
  | some r => if r.cls = 2 then s.needRestore else s.healed a n
  | none => s.healed a n

/-- A lost row of a relay's placed sections (R281): recopied from the other copy, or, where that has an uncorrectable error too, the
relay leaves as a failed one.  A row outside them follows its range's class. -/
def State.recopyRow (s : State) (a n : Nat) : State :=
  let l := s.otherCopies a n
  if !s.relay || l.isEmpty then s.restoreRange a n
  else if l.all (fun x => (s.lostUnits x.2.1 x.2.2).isEmpty) then
    (l.foldl (fun t x => t.copyMem x.2.1 x.1 x.2.2) s).healed a n
  else
    ({ s with role := { s.role with secondCopy := false } } : State).relayFails.platform "SECOND_COPY" a

/-- Rows of a bank that repairs have used: the granary's row entries of that place. -/
def Granary.rowsUsed (g : Granary) (place : Nat) : Nat :=
  ((g.repairMap ++ g.delta.filter (fun d => decide (g.lastFolded < d.seq))).filter (fun r => r.kind == 3 && r.place == place)).length

/-- The fewest spare rows that any bank has left, as PPR_STATUS shows it. -/
def fewestRows (ppr : Word32) (left : Nat) : Nat := if field ppr 8 8 = 0 then left else Nat.min (field ppr 16 8) left

/-- One row retired (R183): soft repair, restore, the granary entry; a bank without a spare row marks the stack DEGRADED and the
module asks to be replaced. -/
def State.retireRow (s : State) (i q : Nat) : State :=
  let place := q / 2 ^ 20 * 64 + q % 64
  let used := s.granary.rowsUsed place
  if Config.spareRows ≤ used then
    let t := s.onStack i (fun k => { k with degraded := true })
    let t := (t.log { code := 0x0306, severity := 3, region := stackRegion i, unit := q / 2 ^ 20 % 64, action := 7, detail := q % 64 }).endOfLife 2
    t.sendKept t.coord.coordKey 0x51 5 (bodyOf [(2, 0), ((t.fault.nextSeq - 1).toNat, 1)])
  else
    let t := s.onStack i (fun k => { k with
      ppr := pack [(Nat.min 255 (field k.ppr 0 8 + 1), 0), (Nat.min 255 (field k.ppr 8 8 + 1), 8),
                   (Nat.min 255 (fewestRows k.ppr (Config.spareRows - used - 1)), 16)] })
    let t := (t.recopyRow (1024 * q) 1024).addRepair 3 place (q / 64 % 16384)
    t.log { code := 0x0305, severity := 1, region := stackRegion i, unit := q / 2 ^ 20 % 64, action := 1, detail := q / 64 % 16384 }

/-- A stack's rows with an uncorrectable error. -/
def State.repairStack (s : State) (i : Nat) : State :=
  let t := (s.stack i).retire.foldl (fun t q => t.retireRow i q) s
  t.onStack i (fun k => { k with retire := [] })

/-- Feed staging restored at a place (R197, R294): the feeds whose bytes stand there are lost, and come again from the journal where a
replay has the feed's full record, else by new pulls, one after the other, which the redo awaits. -/
def State.restoreFeed (s : State) (place : Nat) : State :=
  let steps := s.feed.staged.filter (fun x => s.feedPlace x.toNat == some place)
  steps.foldl State.beginPull { s with feed := { s.feed with lost := (s.feed.lost ++ steps).dedup, pulling := none } }

/-- A channel's rows at a step boundary (R204): one that an error hits again gets soft repair and is listed by its DIMM's serial. -/
def State.repairRows (s : State) (c : Nat) : State :=
  let k := s.chan c
  if k.ueRows.isEmpty then s
  else
    let t := (k.ueRows.filter k.badRows.contains).foldl (fun t r => t.addRepair 4 k.serial r) s
    t.onChan c (fun x => { x with ueRows := [], badRows := (x.badRows ++ k.ueRows).dedup })

/-- A channel's ranges after uncorrectable errors in planned moves (R197, R204): spill from a peer, feed staging by a new pull. -/
def State.repairChan (s : State) (c : Nat) : State :=
  let k := s.chan c
  let t := k.restore.foldl (fun t a =>
    match t.rangeAt a with
    | some r => if r.space = 2 then t.restoreFeed r.base else t.restoreRange a (r.base + r.length - a)
    | none => t) s
  (t.onChan c (fun x => { x with restore := [] })).repairRows c

/-- Whether any unit waits for a repair. -/
def State.repairDue (s : State) : Bool :=
  s.blocks.any (fun x => !x.2.faulty.isEmpty) || s.stks.any (fun x => !x.2.retire.isEmpty) || s.ddr.any (fun x => !x.2.restore.isEmpty || !x.2.ueRows.isEmpty)

/-- RECOVERY_DONE to the coordinator (R345); `bits` is its byte 8. -/
def State.recoveryDone (s : State) (bits : Nat) : State :=
  s.sendKept s.coord.coordKey 0x54 9 (bodyOf [(s.sheaf.step.toNat % 2 ^ 48, 0), (s.tables.gen.toNat, 6), (bits, 8)])

/-- The module's local repairs, and RECOVERY_DONE to the coordinator (R335, R345): a module that set COMMIT_FAULT asks with it for
its refill (log entry 110). -/
def State.localRepairs (s : State) : State :=
  let t := (List.range 64).foldl State.repairBlock s
  let t := (List.range 12).foldl State.repairStack t
  let t := (List.range 12).foldl State.repairChan t
  if s.fault.commitFault && s.ownSlot.isSome && !s.coord.isCoord then t.recoveryDone 3
  else if s.repairDue then t.recoveryDone 1 else s

/-! Rest -/

/-- Every unit at rest with the plan still loaded; bytes that stacks have yet to make visible land (log entry 44). -/
def State.quiet (s : State) : State :=
  let s := (List.range 12).foldl (fun t i => t.retireWrites i (2 ^ 64)) s
  let t := s.restUnits
  { t with
    stks := t.stks.map (fun (x : Nat × Stack) => (x.1, { x.2 with active := (s.stack x.1).active }))
    nets := t.nets.map (fun (x : Nat × Net) => (x.1, { x.2 with active := (s.net x.1).active })) }

/-- Links declared failed have their port-table entries disabled from the boundary on (R261). -/
def State.boundaryLinks (s : State) : State :=
  { s with tables := { s.tables with ports := s.tables.ports.map (fun (x : Nat × PortEntry) =>
      (x.1, { x.2 with enabled := x.2.enabled && !(s.link x.2.phys.toNat).declared })) } }

/-- A JOB_STATE event where JOB_RUNNING or HELD changed (R355). -/
def State.jobState (s before : State) : State := if before.held == s.held && before.jobRuns == s.jobRuns then s else s.eventAll 12

/-! A step's commit -/

/-- The result of one stream that a committed step produces: it waits with the bytes of its source (R372; log entry 45), read by
firmware and checked as its reads are (R204). -/
def State.produce (s : State) (step : Nat) (x : Nat × ResultSpec) : State :=
  let s := s.memChecks x.2.source x.2.length
  let r := get {} s.results x.1
  let w : Waiting := { q := r.produced, step := BitVec.ofNat 48 step, data := s.peek x.2.source x.2.length }
  let over_ := r.overwrite && decide (x.2.depth ≤ r.waiting.length)
  let r2 : ResultStream := { r with
    produced := r.produced + 1
    waiting := (if over_ then r.waiting.drop 1 else r.waiting) ++ [w]
    overruns := r.overruns + b2n over_
    lost := if over_ && !r.slots.isEmpty then
        (match r.waiting with | y :: _ => (r.lost ++ [y.q % r.slots.length]).dedup | [] => r.lost) else r.lost }
  { s with results := put {} s.results x.1 r2, counts := { s.counts with resultOverruns := satAdd s.counts.resultOverruns (b2n over_) } }

/-- The STEP_COMMIT record's body (R293). -/
def State.commitBody (s : State) : List Byte :=
  let d := (List.range 4).foldl (fun a n => a + (s.net n).digest) 0
  padBody 64 (leBytes 16 s.assay.param.toNat ++ leBytes 16 d.toNat ++ leBytes 8 (s.sheaf.sheafCount.toNat + 1 - s.commitLen) ++
    leBytes 4 s.stepVariant.toNat ++ leBytes 4 s.sheaf.stepHeld.toNat)

/-- Replay's comparison of a commit with its record in the job that is replayed (R299). -/
def State.replayCompare (s : State) : State :=
  let r := s.glean.replay
  if !r.active then s
  else match r.records.find? (fun x => x.rtype == 4 && x.step.toNat == s.sheaf.step.toNat % 2 ^ 48) with
    | none => s
    | some x =>
      if slice x.body 0 32 == slice s.commitBody 0 32 then s
      else
        let step : BitVec 48 := BitVec.ofNat 48 s.sheaf.step.toNat
        let t := { s with glean := { s.glean with replay := { r with
          diverged := true, divStep := if r.diverged then r.divStep else step, divHold := r.divHold || r.action == 1 } } }
        t.log { code := 0x0711, severity := 2, action := if r.action = 1 then 6 else 1, detail := step.toNat }

/-- Whether replay ends with a step's commit (R300): the next step is past the last, or a record stops it. -/
def Replay.ends (r : Replay) (step : Nat) : Bool := r.active && decide (stopStep r.records r.last.toNat ≤ step + 1)

/-- The step whose last sheaf has ended is committed (R45): its record, its results, the next step at its boundary. -/
def State.closeStep (s : State) : State :=
  let n := s.sheaf.step.toNat
  let t := (s.body.results).foldl (fun t x => t.produce n x) s.replayCompare
  let t := (List.range 12).foldl State.repairRows t
  let t := t.journalNow 4 t.commitBody
  let r := t.glean.replay
  let step : BitVec 48 := BitVec.ofNat 48 n
  { t with
    job := { t.job with lastCommit := some step, restored := none }
    sheaf := { t.sheaf with step := t.sheaf.step + 1, sheafInStep := 0, atBoundary := true, running := false, stepHeld := 0 }
    fault := { t.fault with abortConsec := 0, heldLimitRun := 0, hardwareSeen := false }
    assay := { t.assay with attempt := 0, firstStep := false }
    glean := { t.glean with varBase := t.moduleVariant, replay := { r with active := r.active && !r.ends n, step := if r.active then r.step + 1 else r.step } } }

/-! A step's abort (R41, R47) -/

/-- An abort cause's code in its record (R293). -/
def AbortCause.code : AbortCause → Nat
  | .consensus => 1 | .localError => 2 | .holdover => 3 | .linkFailed => 4 | .heldLimit => 5

/-- A record whose step was aborted (R291). -/
def JournalItem.aborted (i : JournalItem) : JournalItem := { i with entry := { i.entry with flags := setBit i.entry.flags 1 } }

/-- Unspilled records of the aborted step are marked in place in DDR5, with their CRC (R291). -/
def State.markAborted (s : State) (step : BitVec 48) : State :=
  let hit (i : JournalItem) : Bool := i.entry.step == step && !i.spilled
  let t := ((s.glean.records.filter hit).map JournalItem.aborted).foldl State.storeItem s
  { t with glean := { t.glean with records := t.glean.records.map (fun i => if hit i then i.aborted else i) } }

/-- The limits of R322 and R343 on aborts of one logical step. -/
def State.abortLimits (s : State) (cause : AbortCause) : State :=
  let f := s.fault
  let run := if cause == .heldLimit && !f.hardwareSeen then f.heldLimitRun + 1 else 0
  let t := { s with fault := { f with heldLimitRun := run, hardwareSeen := false } }
  let t := if t.coord.isCoord && run == 3 then
      ({ t with fault := { t.fault with planSuspect := true }, holds := { t.holds with stalled := true } }).log
        { code := 0x070F, severity := 4, action := 6, detail := t.sheaf.step.toNat }
    else t
  if t.fault.abortConsec == 8 then
    ({ t with fault := { t.fault with recoveryStalled := true }, holds := { t.holds with stalled := true } }).log
      { code := 0x070E, severity := 4, action := 6, detail := t.sheaf.step.toNat }
  else t

/-- The entry of an abort that the consensus alone brings (R41, R331): no cause of the module has written one.  The spec lists no
code for it, so its code is a free value (log entry 80); it tells of no hardware of this module. -/
def State.logAbort (s : State) : State :=
  let t := s.log { code := Config.freeCode s.free, severity := 2, action := 2 }
  { t with free := s.free + 1, fault := { t.fault with hardwareSeen := s.fault.hardwareSeen } }

/-- The feed of a redo after a twin mismatch (R342): staged bytes that are not those of the FEED record are not consumed; they are
pulled again (R294). -/
def State.checkFeed (s : State) : State :=
  let step : BitVec 48 := BitVec.ofNat 48 s.sheaf.step.toNat
  let mismatch := match findDigest s.assay.kept step s.assay.attempt, findDigest s.assay.heard step s.assay.attempt with
    | some o, some p => o.digest != p.digest
    | _, _ => false
  match s.feedPlace s.sheaf.step.toNat with
  | none => s
  | some a =>
    match s.feed.find s.sheaf.step with
    | none => s
    | some f =>
      if mismatch && (s.glean.on || s.glean.replay.active) && hashOf (s.peek a f.length) != f.digest then
        ({ s with glean := { s.glean with feedChanged := true } } : State).restoreFeed a
      else s

/-- The current step is aborted and rests at its own boundary: partial state discarded, the step's records marked, the ABORT record,
the local repairs; a feed of the step that staging holds no more is pulled again (R294). -/
def State.abortStep (s : State) : State :=
  let own := bit s.sheaf.sampled 5
  let cause : AbortCause := if own then s.fault.abort.getD .consensus else .consensus
  let seq := if cause == .localError then s.fault.abortSeq.toNat else 0
  let s := if cause == .consensus then s.logAbort else s
  let t := s.quiet.checkFeed
  let t := (t.markAborted (BitVec.ofNat 48 t.sheaf.step.toNat)).beginPull t.sheaf.step
  let t := t.journalNow 5 (padBody 32 ([BitVec.ofNat 8 cause.code, 0, 0, 0] ++ leBytes 4 seq ++ leBytes 8 t.sheaf.sheafCount.toNat))
  let t : State := { t with
    glean := { t.glean with varBase := t.moduleVariant }
    sheaf := { t.sheaf with sheafInStep := 0, atBoundary := true, running := false, stepHeld := 0, refillLeft := 0 }
    fault := { t.fault with
      stepAborts := satInc t.fault.stepAborts, abortConsec := satInc t.fault.abortConsec, recoveryActive := true
      refillActive := false, abort := if own then none else t.fault.abort }
    assay := { t.assay with attempt := t.assay.attempt + 1, twinPending := false }
    holds := { t.holds with twin := false } }
  (t.abortLimits cause).localRepairs

/-! Tables and plans (R46, R222, R315, R380) -/

/-- The SPARE and FORM records of an install (R293), and what the module sees of it. -/
def State.noteInstall (s before : State) : State :=
  let old := before.tables
  let new := s.tables
  let moved := (List.range 1024).filter (fun i => get 0x1F old.positions i != get 0x1F new.positions i && get 0x1F new.positions i != 0x1F)
  let own := moved.filter (fun i => i / 512 == keyTwin s.mgmt.key)
  let keyOf (t : Tables) (i : Nat) : Key := replicaKey t.positions (i / 512) (i % 512)
  let t := own.foldl (fun t i =>
    let body := padBody 32 (leBytes 2 (i % 512) ++ leBytes 2 (keyOf old i).toNat ++ leBytes 2 (keyOf new i).toNat ++ leBytes 2 new.gen.toNat)
    (t.journalNow 6 body).log { code := 0x070A, severity := 0, action := 5, detail := bodyOf [(i % 512, 0), ((keyOf old i).toNat, 2), ((keyOf new i).toNat, 4)] }) s
  let t := { t with fault := { t.fault with spareSwitches := satAdd t.fault.spareSwitches own.length } }
  if old.form != new.form then t.journalNow 7 (padBody 32 ([old.form, new.form] ++ leBytes 2 new.gen.toNat)) else t

/-- Whether a table gives a position to a board spare that holds none. -/
def State.seats (s : State) (positions : List Nat) : Bool :=
  s.idleSpare && s.jobRuns && !({ s with tables := { s.tables with positions := positionsOf positions } } : State).idleSpare

/-- The sections of the replica index that a staged table gives a board spare, instantiated before the generation is acknowledged
(R315): the logical blocks with their tables, the stacks' tables, and the INIT data in its ranges, unless a save image was restored (R316).
Nothing of it runs before the installing tick. -/
def State.prepare (s : State) (positions : List Nat) : State :=
  if s.seats positions then
    let t : State := { s with tables := { s.tables with positions := positionsOf positions } }
    let u := (t.buildMap (t.job.cells / 4)).loadTables
    let u := if s.store.imageRestored then u else u.loadInit
    { s with
      mem := u.mem, weak := u.weak
      blocks := u.blocks.map (fun (x : Nat × Block) => (x.1, { x.2 with active := (s.block x.1).active }))
      stks := u.stks.map (fun (x : Nat × Stack) => (x.1, { x.2 with active := (s.stack x.1).active })) }
  else s

/-- Whether the budgets of the position that a table gives a board spare are those that its plan declares (R314, R315).  DESIGN CHOICE: a
spare that finds a difference, for which the spec names no report within a job, does not acknowledge the generation (log entry 128). -/
def State.seatFits (s : State) (positions : List Nat) : Bool :=
  !s.seats positions || (match s.store.cur with | some x => (s.checkBudgetsAt x (positionsOf positions)).isNone | none => false)

/-- TABLE_UPDATE: the module derives and stages its tables, a board spare instantiates what they give it (R315), and acknowledges
the generation; from the cutoff of the next step
boundary it holds until the commit (R222).  A newer update replaces a staged one that is not committed; the generation already
installed or staged is acknowledged and changes nothing, and an older one is left aside. -/
def execTableUpdate (src : Key) (gen : BitVec 16) (form : Fin 9) (positions : List Nat) (s : State) :
    Host.Outcome State Fault Refusal :=
  let own (t : TableSet) : Bool := !t.localOnly
  let known := gen == s.tables.gen || (match s.tables.staged with | some t => own t && t.gen == gen | none => false)
  let late := !genNewer gen s.tables.gen ||
    (match s.tables.staged with | some t => own t && (t.committed || !genNewer gen t.gen) | none => false)
  let reply (t : State) : State := t.answer src 0x30 0x31 2 (bodyOf [(gen.toNat, 0)])
  if known then .next (reply s)
  else if late || !s.seatFits positions then .next s
  else
    let u : TableSet := { gen := gen, form := form, positions := positions, committed := false, localOnly := false }
    let t := s.prepare positions
    .next (reply { t with tables := { t.tables with staged := some u } })

/-- The module takes up the position that a table gives it, or leaves the one it had (R315, R459, R460). -/
def State.takePlace (s before : State) : State :=
  if s.relay then s
  else if before.idleSpare && !s.idleSpare then
    (s.buildMap (s.job.cells / 4)).loadTables
  else if !before.idleSpare && s.idleSpare then (s.buildMap 0).loadTables
  else s

/-- The staged tables, installed at a tick at which a sheaf starts (R222). -/
def State.install (s : State) : State :=
  match s.tables.staged with
  | none => s
  | some u =>
    if !u.committed then s
    else if u.localOnly then
      let t := s.setTables s.tables.gen s.tables.form.toNat s.tables.positions
      if t.tables.remapWaits then ({ t with tables := { t.tables with remapWaits := false } } : State).stageLocalTable else t
    else
      let t := { s with links := s.links.map (fun (x : Nat × Link) => (x.1, { x.2 with declared := x.2.declared && x.2.state == LinkState.failed })) }
      let t := t.setTables u.gen u.form (positionsOf u.positions)
      let t := { t with
        coord := { t.coord with excluded := [], wanted := [], form := t.tables.form }
        fault := { t.fault with excluded := false }
        job := { t.job with form := t.tables.form } }
      ((t.noteInstall s).takePlace s)

/-- Each module's next plan for the boundary of a step, as the coordinator has it (R380). -/
def State.nextHash (s : State) (step : Nat) (k : Key) : Option Hash :=
  if k == s.mgmt.key then
    match s.store.next, s.store.switchStep with
    | some x, some w => if w.toNat + 1 = step then some x.hash else none
    | _, _ => none
  else (s.coord.nextPlans.find? (fun x => x.1 == k && x.2.firstStep.toNat + 1 == step)).map (·.2.planHash)

/-- Whether the coordinator knows of a plan switch at the boundary of a step for which some module's next plan differs or is missing
(R380). -/
def State.plansDiffer (s : State) (step : Nat) : Bool :=
  let l := s.members.map (s.nextHash step)
  s.coord.isCoord && !s.glean.replay.active && l.any Option.isSome && l.any (· != l.headD none)

/-- The plan switch at a started boundary tick (R46, R380): the tables of the new plan under the installed positions. -/
def State.switchPlan (s : State) : State :=
  match s.switchDue s.sheaf.step.toNat with
  | none => s
  | some x =>
    let t := { s with
      store := { s.store with cur := some x, next := none, switchStep := none, imageRestored := false }
      coord := { s.coord with nextPlans := [] }
      bypass := { s.bypass with graceLimit := BitVec.ofNat 32 x.grace } }
    let t := (t.setTables t.tables.gen t.tables.form.toNat t.tables.positions).loadTables
    t.journalNow 8 (padBody 64 (hashBytes x.hash ++ leBytes 8 t.sheaf.sheafCount.toNat))

/-! Refill (R335, R336) -/

/-- The refill has ended: told to the coordinator (R335, R345); a refilled module has no COMMIT_FAULT left.  Its entry gives an index
and the key that holds it, one entry to an index (R347). -/
def State.refillEnds (s : State) : State :=
  let own := replicaIndex s.tables.positions s.mgmt.key
  let t := { s with
    sheaf := { s.sheaf with refillLeft := 0 }
    coord := { s.coord with refill := [] }
    fault := { s.fault with refillActive := false, commitFault := s.fault.commitFault && !s.coord.refill.contains own }
    assay := { s.assay with refillOwed := false } }
  let keyOf (ix : BitVec 16) : Key := replicaKey s.tables.positions (keyTwin s.mgmt.key) ix.toNat
  let t := s.coord.refill.foldl (fun t ix =>
    t.log { code := 0x070B, severity := 0, action := 4, detail := bodyOf [(ix.toNat, 0), ((keyOf ix).toNat, 2)] }) t
  t.recoveryDone 2

end Sys2Proof.Machine
end

