-- ==== Sys2Proof/Machine/Sheaf.lean ====
section
/-! DEFINITION. The sheaf machine (R29 to R48): what a started sheaf begins, what a tick does with the latched input, the
cutoff with the causes of HOLD that arise there, and the latch. -/

namespace Sys2Proof.Machine

open Sys2Proof

/-! A sheaf's start (R32, R120, R134, R139, R168, R175, R214) -/

/-- A block at the start of a sheaf of a pattern, with the lines that the fetcher already holds of its stream (R134). -/
def Block.startSheaf (k : Block) (pattern : Nat) (x : Option Stream) : Block :=
  let k := { k with landed := [], reads := [], writes := [], pend := [], rank := 0, cellFree := [], channelFree := [], chunks := [] }
  match x with
  | some x => { k with groups := Groups.start x.expected x.loose, seq := k.seq.start x.words.length pattern }
  | none => { k with groups := {}, seq := {} }

/-- A stack region at the start of a sheaf of a pattern. -/
def Stack.startSheaf (k : Stack) (pattern : Nat) (x : Option Stream) (slices : List Word128) : Stack :=
  let k := { k with landed := [], slices := slices, busy := [], runs := [], slips := [] }
  match x with
  | some x => { k with groups := Groups.start x.expected x.loose, seq := k.seq.start x.words.length pattern }
  | none => { k with groups := {}, seq := {} }

/-- A part at the start of a sheaf of a pattern (R206, R214), with the entries that the fetcher already holds of it (R216). -/
def Net.startSheaf (n : Net) (pattern : Nat) (es : List Word128) : Net :=
  let held := n.aheadPattern == pattern
  let n := { n with
    fetched := if held then Nat.min es.length n.ahead else 0, ahead := 0
    blank := if held then n.blankAhead else [], blankAhead := []
    read := 0, length := es.length, budget := partBudget es, windowStall := false, fwdHold := false, rotaHold := false }
  n.pass

/-- A link at the start of a sheaf: a packet that no slot of the new sheaf names takes the first that begins (R208), and the
maintenance slots of the sheaf before are past. -/
def Link.startSheaf (k : Link) : Link :=
  { k with maint := [], replay := k.replay.map (fun h =>
      if h.sent = 0 then { h with crossing := false, data := { h.data with slot := 0 } } else h) }

/-- Every unit begins the sheaf of the present pattern; every cycle counter is 0 and every sequencer comes to its first line; the
forward store's entries become invalid, those unread are counted (R225, R276). -/
def State.startUnits (s : State) : State :=
  let s := ((List.range 12).foldl (fun t i => t.retireWrites i (2 ^ 64)) s).settleForward
  let unread := (s.forward.filter (fun x => x.2.isSome)).length
  let pattern := s.sheaf.pattern
  let t : State := { s with
    blocks := s.blocks.map (fun (x : Nat × Block) => (x.1, x.2.startSheaf pattern (if x.2.active then s.blockStream x.1 else none)))
    stks := s.stks.map (fun (x : Nat × Stack) =>
      (x.1, x.2.startSheaf pattern (if x.2.active then s.stackStream x.1 else none) (s.sliceEntries x.1 pattern)))
    nets := s.nets.map (fun (x : Nat × Net) => (x.1, x.2.startSheaf pattern (if x.2.active then s.partEntries x.1 pattern else [])))
    regions := s.regions.map (fun (x : Nat × Region) => (x.1, { x.2 with
      cycle := 0, stall := none, badData := []
      done := if 0x10 ≤ x.1 ∧ x.1 < 0x14 then (s.partEntries (x.1 - 0x10) pattern).isEmpty else false }))
    ddr := s.ddr.map (fun (x : Nat × Ddr) => (x.1, { x.2 with queue := s.movesOf x.1 pattern, run := none }))
    links := s.links.map (fun (x : Nat × Link) => (x.1, x.2.startSheaf))
    tokens := [], forward := [], role := { s.role with fwdUnread := satAdd s.role.fwdUnread unread } }
  let t := (List.range 64).foldl State.beginBundle t
  (List.range 12).foldl State.beginWord t

/-- A block's units cleared at the first sheaf of a step (R120). -/
def Block.clearUnits (k : Block) : Block := { k with opb := [], opbParity := [], results := [], undrained := [], v := [], t := [], sel := 0 }

/-- A stack region at the first sheaf of a step (R168, R176). -/
def Stack.openStep (k : Stack) (step : Nat) : Stack :=
  { k with
    scalars := (k.tables.kdesc.zipIdx).foldl (fun m x => put {} m x.2 (stepScalars x.1 step)) []
    digestValid := false, written := [] }

/-- What a step's first sheaf begins with: cleared units, scalars, the contribution digest at 0 (R337), blocks and regions that a
reset took out back in their places (R413), and the end of a recovery (R335). -/
def State.openStep (s : State) : State :=
  let back := s.rst.episode.isEmpty
  { s with
    blocks := s.blocks.map (fun (x : Nat × Block) => (x.1, { x.2.clearUnits with isolated := x.2.isolated && !back }))
    regions := s.regions.map (fun (x : Nat × Region) => (x.1, { x.2 with away := x.2.away && !back }))
    stks := s.stks.map (fun (x : Nat × Stack) => (x.1, x.2.openStep s.sheaf.step.toNat))
    nets := s.nets.map (fun (x : Nat × Net) => (x.1, { x.2 with digest := 0, written := [] }))
    assay := { s.assay with sentParam := false }
    fault := { s.fault with recoveryActive := s.fault.abort.isSome || s.fault.deferred.isSome }
    coord := { s.coord with recoveries := [] } }

/-- The prefix block of an engine's accumulator (R175). -/
def accPrefix (step i e : Nat) : Word128 := BitVec.ofNat 128 (step % 2 ^ 48 + i * 2 ^ 48 + e * 2 ^ 56)

/-- The commit tick: every accumulator starts from its prefix block (R175); a relay's stack engines hash nothing (R279). -/
def State.commitTick (s : State) : State :=
  let step := s.sheaf.step.toNat
  if s.relay then s else (List.range 12).foldl (fun t i => t.onStack i (fun k =>
    if k.active then { k with acc := (List.range 64).foldl (fun m e => put 0 m e (absorb s.assay.key 0 (accPrefix step i e))) [] } else k)) s

/-- A started tick's counts (R41, R45). -/
def SheafState.started (h : SheafState) (inStep pattern : Nat) : SheafState :=
  { h with sheafCount := satInc64 h.sheafCount, sheafInStep := BitVec.ofNat 16 inStep, pattern := pattern, begun := true, running := true, held := false
           heldConsec := 0, heldSince := none, heldCount := 0, heldPaused := 0 }

/-- Every output in mode 2 has a pulse to begin with this sheaf (R60). -/
def State.sheafPulses (s : State) : State :=
  let now := s.nowNs
  { s with time := { s.time with pulse0 := s.time.pulse0.sheafStart now, pulse1 := s.time.pulse1.sheafStart now } }

/-- The next sheaf of the current step starts. -/
def State.nextSheaf (s : State) : State :=
  let first := s.sheaf.atBoundary || !s.sheaf.begun
  let n := if first then 0 else s.sheaf.sheafInStep.toNat + 1
  let t := if first then s.openStep else s
  let t := { t with sheaf := { t.sheaf.started n (t.patternAt n) with atBoundary := false } }
  let t := t.startUnits.sheafPulses
  let t := if n + t.commitLen = t.stepLen then t.commitTick else t
  if first then t.beginPull (t.sheaf.step + 1) else t

/-- A refill sheaf, `i` from the list's first (R336): the logical place stays. -/
def State.refillSheaf (s : State) (i left : Nat) : State :=
  let t := { s with
    sheaf := { s.sheaf.started 0 (s.ownRefill.getD i emptyPattern) with refillLeft := left }
    fault := { s.fault with refillActive := true, refillSheaves := satInc s.fault.refillSheaves } }
  t.startUnits.sheafPulses

/-- What starts at a boundary: a refill's next sheaf, or the step's first. -/
def State.boundarySheaf (s : State) : State :=
  let n := s.refillLength
  if s.fault.refillActive then
    if s.sheaf.refillLeft ≤ 1 then s.refillEnds.nextSheaf
    else s.refillSheaf (n - (s.sheaf.refillLeft - 1)) (s.sheaf.refillLeft - 1)
  else if s.refillDue then (if n = 0 then s.refillEnds.nextSheaf else s.refillSheaf 0 n)
  else s.nextSheaf

/-! The tick (R41, R43) -/

/-- Whether the sheaf that runs is the last of its step. -/
def State.lastRuns (s : State) : Bool := s.sheaf.begun && !s.sheaf.atBoundary && s.lastSheaf

/-- Whether a save still has to capture at this boundary (R387). -/
def State.savePending (s : State) : Bool := s.save.phase == .armed || s.save.phase == .capturing

/-- Whether a stop applies at this tick (R386, R387): at a boundary once a save there has captured; with MODE 1 also within a
step whose commit tick has not come. -/
def State.stopsNow (s : State) : Bool :=
  match s.job.stopMode with
  | some m => !s.savePending && (s.sheaf.atBoundary || (m == 1 && !s.inCommit))
  | none => false

/-- The job stops (R386). -/
def State.stopHere (s : State) : State := ({ s with sheaf := { s.sheaf with sheafInStep := 0 } } : State).endJob 1

/-- A leaving coordinator stops beating at a boundary and sends its own REMOVAL (R460). -/
def State.leaveCoord (s : State) : State :=
  if s.mgmt.removal && s.coord.isCoord then
    let order := s.succession
    match order[order.idxOf s.coord.coordKey + 1]? with
    | some k => (s.follow k).sendRemoval
    | none => s
  else s

/-- What a boundary tick does whether or not a sheaf starts. -/
def State.atBoundaryTick (s : State) : State := (s.boundaryLinks.leaveCoord).servedRemovals

/-- The hot-plug state follows the place that the tables give (R458). -/
def State.showPlace (s : State) : State := if s.mgmt.removal then s else s.setHotplug s.place

/-- A started tick at a boundary: tables, plan, then the sheaf; a leaving module whose place is taken ends here (R460). -/
def State.startBoundary (s : State) : State :=
  let t := s.atBoundaryTick.install
  if t.mgmt.removal && t.place == .spare then (t.endJob 1).removalEnds
  else ((t.switchPlan).boundarySheaf).showPlace

/-- A tick whose latched input is DONE alone: the next sheaf starts. -/
def State.startTick (s : State) : State :=
  let t := if s.lastRuns then s.closeStep else s
  if t.stopsNow then t.stopHere
  else if t.sheaf.atBoundary || !t.sheaf.begun then t.startBoundary
  else t.nextSheaf

/-- A mid-step held tick at network time `now` in the run of such ticks (R44, R343): while a link grace runs, for at most 50 ms of
one run, the limit's count and its 200 ms pause. -/
def SheafState.heldMidStep (h : SheafState) (now period : Nat) (grace : Bool) : SheafState :=
  let pause := grace && decide (h.heldPaused < 50000000)
  { h with
    heldConsec := satInc h.heldConsec, heldSince := some (h.heldSince.getD now)
    heldCount := if pause then h.heldCount else h.heldCount + 1
    heldPaused := if pause then h.heldPaused + period else h.heldPaused }

/-- Any other tick ends that run (R44). -/
def SheafState.endRun (h : SheafState) : SheafState := { h with heldConsec := 0, heldSince := none, heldCount := 0, heldPaused := 0 }

/-- A held tick's mark and counts (R43, R44): those within a step, without HOLD and ABORT, make a run; the module sees the graces of
its own links (log entry 88). -/
def State.countHeld (s : State) (midStep : Bool) : State :=
  let h : SheafState := { s.sheaf with held := true, heldTicks := satInc s.sheaf.heldTicks, stepHeld := satInc s.sheaf.stepHeld }
  { s with sheaf :=
      if midStep then h.heldMidStep s.nowNs s.time.period.toNat (s.links.any (fun x => x.2.grace.isSome)) else h.endRun }

/-- HOLD_AT_STEP completes once its boundary's tick is held; a boundary passed without it completes with STEP_PASSED (R386). -/
def State.hostHeld (s : State) : State :=
  let now := s.sheaf.step.toNat
  let due := s.job.hostMbx.filter (fun x => decide (x.2.2.toNat ≤ now))
  let t := due.foldl (fun t x => if x.2.2.toNat = now ∧ s.holds.host then t.completeAll [(x.1, x.2.1)] 0 (fun u => u.holdBody now)
    else if x.2.2.toNat = now then t else t.completeAll [(x.1, x.2.1)] 0x0308 (fun _ => [])) s
  { t with job := { t.job with hostMbx := t.job.hostMbx.filter (fun x => !(decide (x.2.2.toNat < now) || (decide (x.2.2.toNat = now) && s.holds.host))) } }

/-- Whether a recovery action that this module knows of has yet to run at the boundary (R301, R339): an abort to come, a refill that
a verdict or COMMIT_FAULT asks for, or one that is ordered. -/
def State.recoveryOwed (s : State) : Bool :=
  s.fault.abort.isSome || s.fault.deferred.isSome || s.fault.commitFault || s.assay.refillOwed || !s.coord.refill.isEmpty

/-- A save captures once the boundary is held, the verdict on the last commit is in and no recovery action is left (R301, R339). -/
def State.saveCaptures (s : State) : State :=
  let verdict := s.assay.firstStep ||
    (match s.assay.passed with | some p => p.toNat + 1 == s.sheaf.step.toNat % 2 ^ 48 | none => false)
  if s.save.phase == .armed && s.holds.save && verdict && !s.recoveryOwed then
    { s with save := { s.save with phase := .capturing } }
  else s

/-- A held tick at a boundary; the last sheaf of a refill has then ended. -/
def State.heldBoundary (s : State) : State :=
  let s := if s.fault.refillActive && decide (s.sheaf.refillLeft ≤ 1) then s.refillEnds else s
  let t := ({ s with sheaf := { s.sheaf with running := false } } : State).atBoundaryTick
  let t := t.hostHeld.saveCaptures
  if t.stopsNow then t.stopHere else t

/-- Whether a tick is held by a region of this module that has overrun its sheaf (R331), the first such tick in a row. -/
def State.overruns (s : State) (done hold : Bool) : Bool := !done && !hold && !bit s.sheaf.sampled 3 && s.sheaf.heldConsec == 0

/-- A held tick (R41, R43): units that have not finished go on; a step whose last sheaf has ended is committed; an overrun is
logged (R331). -/
def State.heldTick (s : State) (done hold : Bool) : State :=
  let t := if s.overruns done hold then s.logOpen { code := 0, severity := 1, action := 1, detail := s.sheaf.tick.toNat } else s
  let t := t.countHeld (!done && !hold)
  let t := if done && t.lastRuns then t.closeStep else t
  if t.sheaf.atBoundary && !(t.fault.refillActive && !done) then t.heldBoundary
  else if t.stopsNow then t.stopHere else t

/-- A tick whose latched input has ABORT (R41, R47): the step is aborted; within commit sheaves that have not ended the abort waits
for the boundary (R329; log entry 46). -/
def State.abortTick (s : State) (done : Bool) : State :=
  if s.inCommit && !(done && s.lastRuns) then
    let c := s.fault.abort.getD .consensus
    ({ s with fault := { s.fault with deferred := some (s.fault.deferred.getD c), abort := none } } : State).countHeld false
  else
    let t := s.countHeld false
    let t := (if done && t.lastRuns then t.closeStep else t).abortStep
    let t := t.atBoundaryTick
    if t.stopsNow then t.stopHere else t

/-- The tick's action by the first matching row of R41. -/
def State.act (s : State) : State :=
  let done := bit s.sheaf.latched 3
  let hold := bit s.sheaf.latched 4
  if bit s.sheaf.latched 5 then s.abortTick done
  else if hold then s.heldTick done true
  else if !done then s.heldTick false false
  else s.startTick

/-- What ends with every tick: the sample, the latch, and what links said of the sheaf before (R35, R37). -/
def State.passTick (s : State) : State :=
  { s with
    sheaf := { s.sheaf with cut := false, taken := false }
    links := s.links.map (fun (x : Nat × Link) => (x.1, { x.2 with rxSync := none })) }

/-- The announced segment begins (R29): its tick 0, or for a module that joins a machine at work the latest tick of the
segment, n = (T − E) / P. -/
def State.enterSegment (s : State) (e : Word64) (p : Word32) (se : BitVec 2) : State :=
  { s with
    time := { s.time with period := p }
    sheaf := { s.sheaf with
      segEpoch := e, tickNo := if s.job.joining then (s.nowNs - e.toNat) / p.toNat else 0
      syncEpoch := se, nextSeg := none, awaitSeg := false } }

/-- START_JOB's response (R385). -/
def State.startBody (s : State) : List Byte :=
  leBytes 8 s.time.epoch.toNat ++ leBytes 6 s.sheaf.step.toNat ++ leBytes 2 s.job.replica.toNat ++ leBytes 2 s.job.cells ++ [s.tables.form]

/-- The job's first tick: counters return to 0, what the last job's recovery could not do is shown no longer (log entry 112), the
first sheaf starts, the start completes (R385). -/
def State.beginJob (s : State) : State :=
  let j := s.job
  let step : Word64 := if j.joining then BitVec.ofNat 64 s.coord.heardStep.toNat else BitVec.ofNat 64 j.firstStep.toNat
  let t := { s.restartCounters with
    job := { j with phase := .running, lastCommit := none, form := s.tables.form, stopMode := none, hostArm := none }
    sheaf := { syncEpoch := s.sheaf.syncEpoch, segEpoch := s.sheaf.segEpoch, tickNo := s.sheaf.tickNo, step := step }
    holds := {}
    assay := { s.assay with attempt := 0, firstStep := true, passed := none, kept := [], heard := [], verdictPending := false
                            twinPending := false, twinLost := false, sentParam := false, refillOwed := false }
    coord := { s.coord with starts := [], segOpen := false }
    servo := { s.servo with resync := false } }
  let t : State := { t with fault := { t.fault with
    abort := none, deferred := none, commitFault := false, recoveryStalled := false, planSuspect := false, restoreNeeded := false } }
  let t := t.rateForJob
  let t := t.journalNow 1 t.jobStartBody
  let t := (if t.glean.replay.active then t.switchPlan else t).nextSheaf
  ((t.completeAll [(j.port, j.mbx)] 0 State.startBody).eventAll 12).showPlace

/-- A tick at which the module waits for a segment: an ABORT acts as at any tick, and every other one is held (R41, R59). -/
def State.waitTick (s : State) : State :=
  let done := bit s.sheaf.latched 3
  if bit s.sheaf.latched 5 then s.abortTick done else s.heldTick done true

/-- Whether the segment to come may not begin yet: its epoch lies ahead, or this coordinator lacks an acknowledgement (R31). -/
def State.segmentWaits (s : State) (e : Word64) : Bool :=
  decide (s.nowNs < e.toNat) || (s.coord.isCoord && s.coord.segOpen && !s.epochAcked)

/-- A coordinator whose epoch has come without every acknowledgement chooses a new one (R31). -/
def State.chooseAgain (s : State) (e : Word64) (p : Word32) (se : BitVec 2) : State :=
  if s.nowNs < e.toNat then s else s.chooseEpoch p se

/-- TICK: the tick falls when network time reaches it (R29); before that the command finds no tick.  A machine that waits for
a segment holds at every tick of the old one (R59). -/
def execTick (s : State) : Host.Outcome State Fault Refusal :=
  let next : State := { s with sheaf := { s.sheaf with tickNo := s.sheaf.tickNo + 1 } }
  let wait : State := (next.waitTick.passTick).jobState s
  if !s.nearTick 0 then .next s
  else match s.sheaf.nextSeg with
    | some (e, p, se) =>
      if s.segmentWaits e then .next ((if s.jobRuns then wait else s).chooseAgain e p se)
      else
        let t := s.enterSegment e p se
        .next (if s.job.phase == .starting then t.beginJob else if s.jobRuns then (t.act.passTick).jobState s else s)
    | none =>
      .next (if !s.jobRuns then s else if s.sheaf.awaitSeg then wait else (next.act.passTick).jobState s)

/-! The cutoff (R37, R46) -/

/-- A deferred abort shows from the boundary's cutoff (R329). -/
def State.raiseDeferred (s : State) : State :=
  match s.fault.deferred with
  | some c => { s with fault := { s.fault with abort := some (s.fault.abort.getD c), deferred := none } }
  | none => s

/-- Whether the next started tick runs a refill's sheaf (R336): one under way with sheaves left, or one whose tables stand or are
committed. -/
def State.refillComes (s : State) : Bool :=
  if s.fault.refillActive then decide (1 < s.sheaf.refillLeft)
  else !s.coord.refill.isEmpty && s.refillLength != 0 &&
    (s.refillDue || (match s.tables.staged with | some u => u.committed && !u.localOnly && u.gen == s.coord.refillGen | none => false))

/-- The armed host hold and an armed save at the coming boundary (R301, R386); a refill assigned to the boundary runs before the
save, whose hold lets its sheaves start (R339). -/
def State.armHolds (s : State) : State :=
  let due := match s.job.hostArm with | some a => decide (a.toNat = s.nextStep) | none => false
  { s with
    job := { s.job with hostArm := if due then none else s.job.hostArm }
    holds := { s.holds with host := s.holds.host || due, save := s.save.phase == .capturing || (s.save.phase == .armed && !s.refillComes) } }

/-- The feed hold (R369). -/
def State.feedHold (s : State) : State :=
  let next : Word64 := BitVec.ofNat 64 s.nextStep
  let h := s.body.feedLength != 0 && !s.relay && s.ownSlot.isSome &&
    (!s.feed.has next || s.glean.feedChanged)
  let fresh := h && s.feed.heldFor != some next
  { s with
    holds := { s.holds with feed := h }
    feed := if h then { s.feed with heldFor := some next } else s.feed
    counts := if fresh then { s.counts with feedHolds := satInc s.counts.feedHolds } else s.counts }

/-- The streams that wait with the plan's depth of results (R372). -/
def State.fullStreams (s : State) : List Nat :=
  (s.body.results.filter (fun x =>
    let r := get {} s.results x.1
    !r.overwrite && decide (x.2.depth ≤ r.waiting.length))).map (·.1)

/-- The result hold (R372). -/
def State.resultHold (s : State) : State :=
  let next : Word64 := BitVec.ofNat 64 s.nextStep
  let l := s.fullStreams
  let fresh := !l.isEmpty && !(l.any (fun i => (get {} s.results i).heldFor == some next))
  { s with
    holds := { s.holds with result := !l.isEmpty }
    results := l.foldl (fun m i => upd {} m i (fun r => { r with heldFor := some next })) s.results
    counts := if fresh then { s.counts with resultHolds := satInc s.counts.resultHolds } else s.counts }

/-- The journal hold (R295). -/
def State.journalHold (s : State) : State :=
  let g := s.glean
  let h := g.on && !g.dropPolicy && !g.replay.active && decide (g.freeBytes < s.journalReserve)
  { s with
    holds := { s.holds with journal := h }
    glean := { g with held := h, holds := if h && !g.held then satInc g.holds else g.holds } }

/-- The hold of a module that has been in holdover, set at the first boundary after the entry whatever the servo reports by
then, and the wait for a new segment (R58, R59; log entry 47). -/
def State.timeHold (s : State) : State :=
  let p := match s.switchDue s.nextStep, s.store.cur with | some x, some y => x.period != y.period | _, _ => false
  { s with
    holds := { s.holds with timeSync := s.servo.resync || s.holds.timeSync }
    servo := { s.servo with resync := false }
    sheaf := { s.sheaf with awaitSeg := s.sheaf.awaitSeg || s.servo.resync || p } }

/-- The coordinator's update for what has been reported, when none of its own stands that covers it (R335). -/
def State.offerDue (s : State) : Bool :=
  s.coord.isCoord && s.updateDue &&
    (match s.tables.offered with
     | some u => u.gen == s.tables.gen || (!u.committed &&
         (positionsOf u.positions != s.switchIns.1 || u.form != s.wantedForm.1 ||
          !(s.switchIns.2.1 ++ s.wantedRefills).all s.coord.refill.contains))
     | none => true)

/-- The hold for a staged update (R222): from the first boundary's cutoff until it is committed. -/
def State.tableHold (s : State) : State :=
  let s := if s.offerDue then s.offerUpdate
    else if s.updateDue then s else { s with holds := { s.holds with spareMissing := false } }
  match s.tables.staged with
  | some u =>
    if u.held && u.committed then { s with holds := { s.holds with table := false } }
    else { s with holds := { s.holds with table := true }, tables := { s.tables with staged := some { u with held := true } } }
  | none => { s with holds := { s.holds with table := false } }

/-- Replay's holds (R298 to R300), and the coordinator's for next plans that differ (R380; log entry 122). -/
def State.replayHold (s : State) : State :=
  let r := s.glean.replay
  let ends := r.active && decide (0 < s.nextStep) && r.ends (s.nextStep - 1)
  let missing := s.planMissing s.nextStep
  { s with
    holds := { s.holds with replayEnd := s.holds.replayEnd || ends || r.divHold, planSwitch := missing || s.plansDiffer s.nextStep }
    glean := { s.glean with replay := { r with divHold := false, planWait := missing } } }

/-- The causes that a boundary's cutoff settles (R46); the coordinator first judges what it has to declare failed (R330, R334). -/
def State.boundaryCutoff (s : State) : State :=
  ((((((((s.declareDue.attributeLinks.vote).raiseDeferred).armHolds).feedHold).resultHold).journalHold).timeHold).tableHold).replayHold

/-- The twin's hold at the gate (R328, R341): a compute module that lacks its counterpart's digest, a coordinator that lacks a
relay's result. -/
def State.twinHold (s : State) : State :=
  if s.gateSheaf && s.twinActive && !s.relay then
    let lacks := (s.counterpart.isSome && (findDigest s.assay.heard (BitVec.ofNat 48 s.sheaf.step.toNat) s.assay.attempt).isNone) || !s.resultsIn
    { s with holds := { s.holds with twin := s.holds.twin || lacks } }
  else s

/-- RESUME completes at the first cutoff at which its causes no longer hold (R386). -/
def State.resumed (s : State) : State :=
  if s.holds.host || s.holds.replayEnd || s.job.resumeMbx.isEmpty then s
  else
    let t := s.completeAll s.job.resumeMbx 0 (fun u => leBytes 4 u.holds.word.toNat)
    { t with job := { t.job with resumeMbx := [] } }

/-- SYNC_CUTOFF, 4.5 µs before the tick and once for it: the boundary's causes, then the sample (R37).  A relay that would hold
asks the coordinator (R38); the requests that the sample takes in are served with it. -/
def execSyncCutoff (s : State) : Host.Outcome State Fault Refusal :=
  if s.jobRuns && s.sheaf.begun && s.nearTick 4500 && !s.sheaf.cut then
    let t := (s.finalizeContrib).twinHold
    let t := (if t.boundaryNext then t.boundaryCutoff else t).resumed
    let t := if t.relay && t.holds.any then t.relayRequest false else t
    .next { t with
      sheaf := { t.sheaf with cut := true, sampled := t.syncOf t.localBits }
      coord := { t.coord with relayHold := [] }
      holds := { t.holds with relayRequest := false } }
  else .next s

/-! The latch (R41) -/

/-- The period of the segment to come: that of a plan switch that falls due, else the present one (R29). -/
def State.comingPeriod (s : State) : Word32 :=
  match s.switchDue s.nextStep with | some x => BitVec.ofNat 32 x.period | none => s.time.period

/-- CONSENSUS_LATCH, 1.5 µs before the tick and once for it: the consensus input is latched; a coordinator that waits for a new
segment chooses its epoch once no module holds, which is all that the machine tells it of the servos (R31, R59; log entry 89). -/
def execConsensusLatch (s : State) : Host.Outcome State Fault Refusal :=
  if s.jobRuns && s.sheaf.begun && s.nearTick 1500 && !s.sheaf.taken then
    let b := s.consensusInput
    let t := { s with sheaf := { s.sheaf with latched := s.syncOf b, taken := true } }
    if t.sheaf.awaitSeg && t.coord.isCoord && !b.hold && !b.abort && t.sheaf.nextSeg.isNone && !t.coord.segOpen then
      .next (t.chooseEpoch t.comingPeriod (t.sheaf.syncEpoch + 1))
    else .next t
  else .next s

end Sys2Proof.Machine
end

