-- ==== Sys2Proof/Machine/Clock.lean ====
section
/-! DEFINITION. What passes with time alone, one period of the network clock at a time (log entry 40): the counter FRC, the
regions' cycles with the gates, holds and stalls that keep them back, and what firmware does of itself. -/

namespace Sys2Proof.Machine

open Sys2Proof

/-- A group set with no group completed in the present period (R141). -/
def Groups.settle (g : Groups) : Groups := { g with fresh := 0 }

/-- A block one cycle on: chunks and effects that are due by the new cycle are done, with what has landed in the cycle before
between its stores and its reads (R116, R117); a sequencer that moves comes to its line. -/
def State.blockCycleOn (s : State) (b : Nat) : State :=
  if (s.block b).active then
    let t := s.finishChunks b (fun _ => true) (s.blockCycle b)
    let t := t.onBlock b (fun k => { k with
      groups := k.groups.settle
      seq := if k.isolated || k.frozen then k.seq else k.seq.cycle })
    let t := t.settle b (fun t => t.landArrivals b (t.blockCycle b))
    if (t.block b).seq.atLine then t.beginBundle b else t
  else s

/-- A stack region's unit one cycle on. -/
def State.stackCycleOn (s : State) (i : Nat) : State :=
  if (s.stack i).active then
    let t := (s.onStack i (fun k => { k with
      groups := k.groups.settle, autoRefresh := false
      seq := if k.frozen then k.seq else k.seq.cycle })).stackCycle i
    if (t.stack i).seq.atLine then t.beginWord i else t
  else s.onStack i (fun k => { k with autoRefresh := false })

/-- A network region one cycle on: its part ends after its last entry and its budget (R206). -/
def State.netCycleOn (s : State) (n : Nat) : State :=
  let k := s.net n
  s.onRegion (netRegion n) (fun g => { g with done := g.done || (decide (k.length ≤ k.read) && decide (k.budget ≤ g.cycle)) })

/-- A region's period in which its clock runs (R32). -/
def State.regionCycle (s : State) (r : Nat) : State :=
  let t := s.onRegion r (fun g => { g with cycle := g.cycle + 1 })
  if r < 0x10 then (List.range 4).foldl (fun t j => t.blockCycleOn (4 * r + j)) t
  else if r < 0x14 then t.netCycleOn (r - 0x10)
  else if r < 0x20 then t.stackCycleOn (r - 0x14)
  else t

/-- A gated period of a block that waits or stalls (R143). -/
def Block.gated (k : Block) : Block :=
  if k.seq.waiting.isSome then { k with groups := k.groups.settle, arrivalStalls := satInc k.arrivalStalls }
  else if k.seq.stalled then { k with groups := k.groups.settle, instrStalls := satInc k.instrStalls }
  else { k with groups := k.groups.settle }

/-- A gated period of a stack region (R164). -/
def Stack.gatedPeriod (k : Stack) : Stack :=
  if k.seq.waiting.isSome then { k with groups := k.groups.settle, arrivalStalls := satInc k.arrivalStalls }
  else { k with groups := k.groups.settle, instrStalls := satInc k.instrStalls }

/-- A period in which a region's stall stops its plan (R143, R164, R216, R225, R260). -/
def State.stalledPeriod (s : State) (r : Nat) : State :=
  if r < 0x10 then
    let t := s.onRegion r (fun g => { g with gatedCc := satInc g.gatedCc })
    (List.range 4).foldl (fun t j => t.onBlock (4 * r + j) Block.gated) t
  else if r < 0x14 then
    let n := r - 0x10
    let k := s.net n
    let t := s.onNet n (fun k => { k with
      stallCc := if k.windowStall then satInc k.stallCc else k.stallCc
      fwdHoldCc := if k.fwdHold then satInc k.fwdHoldCc else k.fwdHoldCc })
    if k.rotaHold then
      t.onLink k.heldLink.toNat (fun l => { l with counters := { l.counters with rotaHoldCc := satInc l.counters.rotaHoldCc } })
    else t
  else if r < 0x20 then
    (s.onRegion r (fun g => { g with gatedCc := satInc g.gatedCc })).onStack (r - 0x14) Stack.gatedPeriod
  else s

/-- A period of a forced refresh (R178): its end pays one debt; a further group at 4 is refreshed next. -/
def State.refreshPeriod (s : State) (i : Nat) : State :=
  let t := s.onStack i (fun k => { k with refreshForced := satInc k.refreshForced, gate := k.gate - 1 })
  if (t.stack i).gate = 0 then
    match (t.stack i).forced with
    | g :: rest => (t.refreshed i g).onStack i (fun k => { k with forced := rest, gate := if rest.isEmpty then 0 else 96 })
    | [] => t
  else t

/-- What a period counts for a region that waits or stalls in it, whatever else gates the clock (R143, R164, R216). -/
def State.stallPeriod (s : State) (r : Nat) : State := if (s.region r).stall.isSome then s.stalledPeriod r else s

/-- A period in which the clock runs: the next cycle; after a warning in the period before it lasts half a period longer
(R68). -/
def State.runPeriod (s : State) (r : Nat) (warned : Bool) : State :=
  let t := if warned then s.onRegion r (fun g => { g with stretches := satInc g.stretches, lag := g.lag + 32768 }) else s
  t.regionCycle r

/-- One period of a region (R68, R70, R76, R77): held, late by its stretches, gated, stalled, or running.  A warning of the
period before holds for this period alone: a gated one drops it. -/
def State.regionPeriod (s : State) (r : Nat) : State :=
  let g := s.region r
  if !g.active || g.away then s
  else if 65536 ≤ g.holdLeft then
    (s.onRegion r (fun g => { g with holdLeft := g.holdLeft - 65536, warned := false })).stallPeriod r
  else if 65536 ≤ g.lag + g.holdLeft then s.onRegion r (fun g => { g with lag := g.lag + g.holdLeft - 65536, holdLeft := 0 })
  else
    let t := (s.onRegion r (fun g => { g with lag := g.lag + g.holdLeft, holdLeft := 0, warned := false })).releaseDue r
    if t.throttles r then
      (t.onRegion r (fun g => { g with phase := g.phase + t.mgmt.g - 64, throttled := satInc g.throttled })).stallPeriod r
    else
      let t := if gateable r then t.onRegion r (fun g => { g with phase := g.phase + t.mgmt.g }) else t
      if 0x14 ≤ r ∧ r < 0x20 ∧ 0 < (t.stack (r - 0x14)).gate then (t.refreshPeriod (r - 0x14)).stallPeriod r
      else if (t.region r).stall.isSome then t.stalledPeriod r
      else t.runPeriod r g.warned

/-- Resets that a command has ordered are asserted (R395; log entry 48). -/
def State.assertDue (s : State) : State :=
  let l := s.rst.due
  l.foldl (fun t x => t.assertReset x) { s with rst := { s.rst with due := [] } }

/-- Firmware ends a port's pending abort (R364; log entry 32): FAILING first where the abort ended a job. -/
def State.endAborts (s : State) : State :=
  (List.range 4).foldl (fun t p =>
    if (t.port p).abortPending && t.rst.birtur then
      let u := if (t.port p).jobAborted then t.sendFailing else t
      u.abortFinish p false
    else t) s

/-- Arrivals of the period that no clock of their region has met: the arrival port stores them in every period (R117, R140), and
the forward store takes its own after the period's reads (R276).  The plan writes whose port use lay in the region's present cycle are
older than such an arrival. -/
def State.landAll (s : State) : State :=
  let t := (List.range 64).foldl (fun t b => t.landArrivals b (t.blockCycle b + 1)) s
  ((List.range 12).foldl (fun t i => t.landStaged i (t.cyc (stackRegion i) + 1)) t).settleForward

/-- One period of the network clock with nothing commanded. -/
def State.idle (s : State) : State :=
  let t := s.assertDue
  let t := ({ t with time := ({ t.time with frc := t.time.frc + 1 } : TimeBlock).load } : State).pulseEdges
  let t := t.endAborts.tryReport
  let t := ((List.range 33).foldl State.regionPeriod t).landAll
  if t.jobRuns then t.finalizeContrib else t

end Sys2Proof.Machine
end

