-- ==== Sys2Proof/Machine/Dispatch.lean ====
section
/-! DEFINITION. The dispatcher: one arm for each command, one direct call of its meaning. -/

namespace Sys2Proof.Machine

open Sys2Proof

/-- A command's effect on everything but the queue. -/
def exec (i : Instr) (s : State) : Host.Outcome State Fault Refusal :=
  match i with
  | .tick => Sys2Proof.Machine.execTick s
  | .syncCutoff => Sys2Proof.Machine.execSyncCutoff s
  | .consensusLatch => Sys2Proof.Machine.execConsensusLatch s
  | .heldTickLimit missing => Sys2Proof.Machine.execHeldTickLimit missing s
  | .segmentAnnouncement src epoch p syncEpoch => Sys2Proof.Machine.execSegmentAnnouncement src epoch p syncEpoch s
  | .segmentAcknowledgement src epoch => Sys2Proof.Machine.execSegmentAcknowledgement src epoch s
  | .epochNotAcknowledged => Sys2Proof.Machine.execEpochNotAcknowledged s
  | .nextArmWrite v => Sys2Proof.Machine.execNextArmWrite v s
  | .stagedTimeLoad => Sys2Proof.Machine.execStagedTimeLoad s
  | .captureRead r => Sys2Proof.Machine.execCaptureRead r s
  | .timeExchange => Sys2Proof.Machine.execTimeExchange s
  | .timeExchangeRequest link src msgId => Sys2Proof.Machine.execTimeExchangeRequest link src msgId s
  | .timeExchangeResponse link t2 t3 master masterSeq => Sys2Proof.Machine.execTimeExchangeResponse link t2 t3 master masterSeq s
  | .masterSequenceTimeout => Sys2Proof.Machine.execMasterSequenceTimeout s
  | .holdoverExpired => Sys2Proof.Machine.execHoldoverExpired s
  | .pulseEdge out => Sys2Proof.Machine.execPulseEdge out s
  | .tpulseCtrlWrite out v => Sys2Proof.Machine.execTpulseCtrlWrite out v s
  | .tcaptureEdge rising => Sys2Proof.Machine.execTcaptureEdge rising s
  | .marginMeasure r code => Sys2Proof.Machine.execMarginMeasure r code s
  | .droopWarning r => Sys2Proof.Machine.execDroopWarning r s
  | .crossingHold r held => Sys2Proof.Machine.execCrossingHold r held s
  | .leadHold r held => Sys2Proof.Machine.execLeadHold r held s
  | .crossingRelease src dst crcOk => Sys2Proof.Machine.execCrossingRelease src dst crcOk s
  | .temperSample => Sys2Proof.Machine.execTemperSample s
  | .temperWeekEnd => Sys2Proof.Machine.execTemperWeekEnd s
  | .temperWeekCommit => Sys2Proof.Machine.execTemperWeekCommit s
  | .chunk b c fmt rb desc => Sys2Proof.Machine.execChunk b c fmt rb desc s
  | .chunkEnd b c parityBad residueBad rounders => Sys2Proof.Machine.execChunkEnd b c parityBad residueBad rounders s
  | .drainTree b c rb row t => Sys2Proof.Machine.execDrainTree b c rb row t s
  | .drainVec b c rb row v => Sys2Proof.Machine.execDrainVec b c rb row v s
  | .drainSram b c rb row ar => Sys2Proof.Machine.execDrainSram b c rb row ar s
  | .vadd b vd va vb => Sys2Proof.Machine.execVadd b vd va vb s
  | .vsub b vd va vb => Sys2Proof.Machine.execVsub b vd va vb s
  | .vmul b vd va vb => Sys2Proof.Machine.execVmul b vd va vb s
  | .vfma b vd va vb vc => Sys2Proof.Machine.execVfma b vd va vb vc s
  | .vmin b vd va vb => Sys2Proof.Machine.execVmin b vd va vb s
  | .vmax b vd va vb => Sys2Proof.Machine.execVmax b vd va vb s
  | .vcmp b vd va vb mode => Sys2Proof.Machine.execVcmp b vd va vb mode s
  | .vsel b vd va vb vc => Sys2Proof.Machine.execVsel b vd va vb vc s
  | .vmov b vd va => Sys2Proof.Machine.execVmov b vd va s
  | .vcvtNarrow b vd va mode fmt key => Sys2Proof.Machine.execVcvtNarrow b vd va mode fmt key s
  | .vcvtWide b vd va fmt => Sys2Proof.Machine.execVcvtWide b vd va fmt s
  | .vexp b vd va => Sys2Proof.Machine.execVexp b vd va s
  | .vlog b vd va => Sys2Proof.Machine.execVlog b vd va s
  | .vrcp b vd va => Sys2Proof.Machine.execVrcp b vd va s
  | .vrsqrt b vd va => Sys2Proof.Machine.execVrsqrt b vd va s
  | .vtanh b vd va => Sys2Proof.Machine.execVtanh b vd va s
  | .viadd b vd va vb => Sys2Proof.Machine.execViadd b vd va vb s
  | .tadd b td ta tb => Sys2Proof.Machine.execTadd b td ta tb s
  | .taddi b td ta tb => Sys2Proof.Machine.execTaddi b td ta tb s
  | .tload b td ar => Sys2Proof.Machine.execTload b td ar s
  | .tstore b ar ta => Sys2Proof.Machine.execTstore b ar ta s
  | .ttov b v ta => Sys2Proof.Machine.execTtov b v ta s
  | .vtot b td v => Sys2Proof.Machine.execVtot b td v s
  | .ldOpb b ch ars arx len cell => Sys2Proof.Machine.execLdOpb b ch ars arx len cell s
  | .ldV b ch ars vreg => Sys2Proof.Machine.execLdV b ch ars vreg s
  | .stV b ch ars vreg => Sys2Proof.Machine.execStV b ch ars vreg s
  | .hbmRd b ch ars arx => Sys2Proof.Machine.execHbmRd b ch ars arx s
  | .hbmWr b ch ars arx => Sys2Proof.Machine.execHbmWr b ch ars arx s
  | .egress b ch ars arx len => Sys2Proof.Machine.execEgress b ch ars arx len s
  | .xfer b ch ars arx len => Sys2Proof.Machine.execXfer b ch ars arx len s
  | .wait b group => Sys2Proof.Machine.execWait b group s
  | .waitFirst b group mask => Sys2Proof.Machine.execWaitFirst b group mask s
  | .waitProceed u => Sys2Proof.Machine.execWaitProceed u s
  | .signal b group target => Sys2Proof.Machine.execSignal b group target s
  | .readT b v => Sys2Proof.Machine.execReadT b v s
  | .sample b index v => Sys2Proof.Machine.execSample b index v s
  | .loopBegin b level trip => Sys2Proof.Machine.execLoopBegin b level trip s
  | .loopEnd b level => Sys2Proof.Machine.execLoopEnd b level s
  | .sheafEnd b => Sys2Proof.Machine.execSheafEnd b s
  | .instructionStall u => Sys2Proof.Machine.execInstructionStall u s
  | .streamFetch u count => Sys2Proof.Machine.execStreamFetch u count s
  | .vectorLanding link dgrp dst op payload => Sys2Proof.Machine.execVectorLanding link dgrp dst op payload s
  | .add insn f => Sys2Proof.Machine.execAdd insn f s
  | .sub insn f => Sys2Proof.Machine.execSub insn f s
  | .mul insn f => Sys2Proof.Machine.execMul insn f s
  | .fma insn f => Sys2Proof.Machine.execFma insn f s
  | .axpby insn f => Sys2Proof.Machine.execAxpby insn f s
  | .min insn f => Sys2Proof.Machine.execMin insn f s
  | .max insn f => Sys2Proof.Machine.execMax insn f s
  | .cvt insn f => Sys2Proof.Machine.execCvt insn f s
  | .quantMx insn f => Sys2Proof.Machine.execQuantMx insn f s
  | .div insn f => Sys2Proof.Machine.execDiv insn f s
  | .sqrt insn f => Sys2Proof.Machine.execSqrt insn f s
  | .rowsum insn f => Sys2Proof.Machine.execRowsum insn f s
  | .rowmax insn f => Sys2Proof.Machine.execRowmax insn f s
  | .accum insn f => Sys2Proof.Machine.execAccum insn f s
  | .copy insn f => Sys2Proof.Machine.execCopy insn f s
  | .gather insn f => Sys2Proof.Machine.execGather insn f s
  | .stageLocal insn f => Sys2Proof.Machine.execStageLocal insn f s
  | .stageReduce insn f => Sys2Proof.Machine.execStageReduce insn f s
  | .adamw insn f => Sys2Proof.Machine.execAdamw insn f s
  | .adam insn f => Sys2Proof.Machine.execAdam insn f s
  | .sgdm insn f => Sys2Proof.Machine.execSgdm insn f s
  | .trustNorm insn f => Sys2Proof.Machine.execTrustNorm insn f s
  | .trustApply insn f => Sys2Proof.Machine.execTrustApply insn f s
  | .stackWait insn group => Sys2Proof.Machine.execStackWait insn group s
  | .stackLoopBegin insn level trip => Sys2Proof.Machine.execStackLoopBegin insn level trip s
  | .stackLoopEnd insn level => Sys2Proof.Machine.execStackLoopEnd insn level s
  | .stackSheafEnd insn => Sys2Proof.Machine.execStackSheafEnd insn s
  | .refreshDebtIncrement insn pc bg => Sys2Proof.Machine.execRefreshDebtIncrement insn pc bg s
  | .autonomousRefresh insn => Sys2Proof.Machine.execAutonomousRefresh insn s
  | .tierMoveStart c => Sys2Proof.Machine.execTierMoveStart c s
  | .tierMoveComplete c ue => Sys2Proof.Machine.execTierMoveComplete c ue s
  | .backgroundMove c b => Sys2Proof.Machine.execBackgroundMove c b s
  | .send n entry => Sys2Proof.Machine.execSend n entry s
  | .cut n entry => Sys2Proof.Machine.execCut n entry s
  | .stageFwd n entry => Sys2Proof.Machine.execStageFwd n entry s
  | .maint n entry => Sys2Proof.Machine.execMaint n entry s
  | .windowStall n => Sys2Proof.Machine.execWindowStall n s
  | .rotaFetch n count => Sys2Proof.Machine.execRotaFetch n count s
  | .forwardHold n entry => Sys2Proof.Machine.execForwardHold n entry s
  | .tableUpdate src gen form positions => Sys2Proof.Machine.execTableUpdate src gen form positions s
  | .tableAcknowledgement src gen => Sys2Proof.Machine.execTableAcknowledgement src gen s
  | .tableCommit gen => Sys2Proof.Machine.execTableCommit gen s
  | .tableResendRequest src gen => Sys2Proof.Machine.execTableResendRequest src gen s
  | .data link h dgrp dst op payload => Sys2Proof.Machine.execData link h dgrp dst op payload s
  | .bypass link h msgs => Sys2Proof.Machine.execBypass link h msgs s
  | .idle link h => Sys2Proof.Machine.execIdle link h s
  | .nakrec link h first highest cause => Sys2Proof.Machine.execNakrec link h first highest cause s
  | .train link h req peerKey peerLink => Sys2Proof.Machine.execTrain link h req peerKey peerLink s
  | .reservedTypePacket link h => Sys2Proof.Machine.execReservedTypePacket link h s
  | .replayTimeout link => Sys2Proof.Machine.execReplayTimeout link s
  | .rotaHold n link => Sys2Proof.Machine.execRotaHold n link s
  | .rotaHoldEnd n => Sys2Proof.Machine.execRotaHoldEnd n s
  | .bypassForwardTimeout link => Sys2Proof.Machine.execBypassForwardTimeout link s
  | .maintenanceRetrain link => Sys2Proof.Machine.execMaintenanceRetrain link s
  | .lightDetected link => Sys2Proof.Machine.execLightDetected link s
  | .fecLock link => Sys2Proof.Machine.execFecLock link s
  | .alignComplete link latency peerNext peerBase lanes => Sys2Proof.Machine.execAlignComplete link latency peerNext peerBase lanes s
  | .trainingTimeout link => Sys2Proof.Machine.execTrainingTimeout link s
  | .fastRetrainTimeout link => Sys2Proof.Machine.execFastRetrainTimeout link s
  | .lightLossTimeout link => Sys2Proof.Machine.execLightLossTimeout link s
  | .identity link id => Sys2Proof.Machine.execIdentity link id s
  | .identityRepeat link => Sys2Proof.Machine.execIdentityRepeat link s
  | .identityResult link code => Sys2Proof.Machine.execIdentityResult link code s
  | .linkMissingTimeout link => Sys2Proof.Machine.execLinkMissingTimeout link s
  | .laneFailure link lane lightLost => Sys2Proof.Machine.execLaneFailure link lane lightLost s
  | .linkDown link cause => Sys2Proof.Machine.execLinkDown link cause s
  | .graceExpired link => Sys2Proof.Machine.execGraceExpired link s
  | .failedLinkRetry link => Sys2Proof.Machine.execFailedLinkRetry link s
  | .probe link lit => Sys2Proof.Machine.execProbe link lit s
  | .linkEvent src phys event peer step logical msgId => Sys2Proof.Machine.execLinkEvent src phys event peer step logical msgId s
  | .relayHoldRequest src isAbort => Sys2Proof.Machine.execRelayHoldRequest src isAbort s
  | .relayFatalFault => Sys2Proof.Machine.execRelayFatalFault s
  | .assayParam src step replica digest msgId => Sys2Proof.Machine.execAssayParam src step replica digest msgId s
  | .assayVerdict step verdict minority digest src msgId => Sys2Proof.Machine.execAssayVerdict step verdict minority digest src msgId s
  | .twinContrib src step attempt form digest => Sys2Proof.Machine.execTwinContrib src step attempt form digest s
  | .twinResult src step attempt outcome msgId => Sys2Proof.Machine.execTwinResult src step attempt outcome msgId s
  | .twinWaitExpired => Sys2Proof.Machine.execTwinWaitExpired s
  | .assayAck msgId => Sys2Proof.Machine.execAssayAck msgId s
  | .messageRetry => Sys2Proof.Machine.execMessageRetry s
  | .coordBeatSend => Sys2Proof.Machine.execCoordBeatSend s
  | .coordBeat src number step gen => Sys2Proof.Machine.execCoordBeat src number step gen s
  | .coordBeatTimeout => Sys2Proof.Machine.execCoordBeatTimeout s
  | .failing src cause seq msgId => Sys2Proof.Machine.execFailing src cause seq msgId s
  | .refillOrder step gen replicas => Sys2Proof.Machine.execRefillOrder step gen replicas s
  | .exclude step keys => Sys2Proof.Machine.execExclude step keys s
  | .recoveryDone src step gen repairs refill msgId => Sys2Proof.Machine.execRecoveryDone src step gen repairs refill msgId s
  | .recoveryTimeout => Sys2Proof.Machine.execRecoveryTimeout s
  | .removal key msgId => Sys2Proof.Machine.execRemoval key msgId s
  | .join key planHash mapHash start msgId => Sys2Proof.Machine.execJoin key planHash mapHash start msgId s
  | .joinResult outcome gen => Sys2Proof.Machine.execJoinResult outcome gen s
  | .joinRetry => Sys2Proof.Machine.execJoinRetry s
  | .mgmt link body => Sys2Proof.Machine.execMgmt link body s
  | .mgmtSend => Sys2Proof.Machine.execMgmtSend s
  | .journalSpill readOffset => Sys2Proof.Machine.execJournalSpill readOffset s
  | .saveCaptureEnd => Sys2Proof.Machine.execSaveCaptureEnd s
  | .saveUploadComplete error => Sys2Proof.Machine.execSaveUploadComplete error s
  | .startReadinessReport src r => Sys2Proof.Machine.execStartReadinessReport src r s
  | .startWaitExpired => Sys2Proof.Machine.execStartWaitExpired s
  | .mbxPost p m v => Sys2Proof.Machine.execMbxPost p m v s
  | .abort p v => Sys2Proof.Machine.execAbort p v s
  | .abortTimeout p => Sys2Proof.Machine.execAbortTimeout p s
  | .feedPoll sight => Sys2Proof.Machine.execFeedPoll sight s
  | .resultWrite stream => Sys2Proof.Machine.execResultWrite stream s
  | .bar2Access p offset op ue => Sys2Proof.Machine.execBar2Access p offset op ue s
  | .portLinkDown p => Sys2Proof.Machine.execPortLinkDown p s
  | .portLinkUp p => Sys2Proof.Machine.execPortLinkUp p s
  | .portReset p => Sys2Proof.Machine.execPortReset p s
  | .registerWrite w offset v => Sys2Proof.Machine.execRegisterWrite w offset v s
  | .identify p m => Sys2Proof.Machine.execIdentify p m s
  | .getStatus p m => Sys2Proof.Machine.execGetStatus p m s
  | .loadPlan p m image body => Sys2Proof.Machine.execLoadPlan p m image body s
  | .verifyPlan p m => Sys2Proof.Machine.execVerifyPlan p m s
  | .unloadPlan p m => Sys2Proof.Machine.execUnloadPlan p m s
  | .bindMachine p m image => Sys2Proof.Machine.execBindMachine p m image s
  | .startJob p m => Sys2Proof.Machine.execStartJob p m s
  | .holdAtStep p m => Sys2Proof.Machine.execHoldAtStep p m s
  | .resume p m => Sys2Proof.Machine.execResume p m s
  | .stopJob p m => Sys2Proof.Machine.execStopJob p m s
  | .feedRegister p m ranges => Sys2Proof.Machine.execFeedRegister p m ranges s
  | .resultRegister p m ranges => Sys2Proof.Machine.execResultRegister p m ranges s
  | .resultAck p m => Sys2Proof.Machine.execResultAck p m s
  | .saveState p m ranges => Sys2Proof.Machine.execSaveState p m ranges s
  | .restoreState p m image => Sys2Proof.Machine.execRestoreState p m image s
  | .journalConfig p m ranges => Sys2Proof.Machine.execJournalConfig p m ranges s
  | .replayStart p m records => Sys2Proof.Machine.execReplayStart p m records s
  | .assayConfig p m => Sys2Proof.Machine.execAssayConfig p m s
  | .timeConfig p m => Sys2Proof.Machine.execTimeConfig p m s
  | .pulseConfig p m => Sys2Proof.Machine.execPulseConfig p m s
  | .readCounters p m => Sys2Proof.Machine.execReadCounters p m s
  | .readErrors p m => Sys2Proof.Machine.execReadErrors p m s
  | .grantRole p m => Sys2Proof.Machine.execGrantRole p m s
  | .powerCap p m => Sys2Proof.Machine.execPowerCap p m s
  | .reset p m => Sys2Proof.Machine.execReset p m s
  | .recoveryImagePost signed version => Sys2Proof.Machine.execRecoveryImagePost signed version s
  | .powerGood inRegulation => Sys2Proof.Machine.execPowerGood inRegulation s
  | .supplyMonitor fault => Sys2Proof.Machine.execSupplyMonitor fault s
  | .rstN low => Sys2Proof.Machine.execRstN low s
  | .thermalTrip hot => Sys2Proof.Machine.execThermalTrip hot s
  | .watchdog => Sys2Proof.Machine.execWatchdog s
  | .firmwareRegionReset r => Sys2Proof.Machine.execFirmwareRegionReset r s
  | .firmwareBlockReset b => Sys2Proof.Machine.execFirmwareBlockReset b s
  | .resetExit sight => Sys2Proof.Machine.execResetExit sight s
  | .scrub => Sys2Proof.Machine.execScrub s
  | .scrubEnd => Sys2Proof.Machine.execScrubEnd s
  | .norDeferExpiry r e => Sys2Proof.Machine.execNorDeferExpiry r e s
  | .repairFold e => Sys2Proof.Machine.execRepairFold e s
  | .granaryUpdate r body e => Sys2Proof.Machine.execGranaryUpdate r body e s
  | .powerFail => Sys2Proof.Machine.execPowerFail s
  | .powerReturn => Sys2Proof.Machine.execPowerReturn s
  | .countersCommit => Sys2Proof.Machine.execCountersCommit s
  | .laserCommit bias worstRatio => Sys2Proof.Machine.execLaserCommit bias worstRatio s
  | .rollbackRaise => Sys2Proof.Machine.execRollbackRaise s
  | .pwrEnRise => Sys2Proof.Machine.execPwrEnRise s
  | .pwrEnLow => Sys2Proof.Machine.execPwrEnLow s
  | .gatingFractionUpdate meanW hottest currentTrip => Sys2Proof.Machine.execGatingFractionUpdate meanW hottest currentTrip s
  | .attnN => Sys2Proof.Machine.execAttnN s
  | .surpriseRemoval => Sys2Proof.Machine.execSurpriseRemoval s
  | .getInfo => Sys2Proof.Machine.execGetInfo s
  | .setPosition session key tag => Sys2Proof.Machine.execSetPosition session key tag s
  | .nameTimeMaster session key => Sys2Proof.Machine.execNameTimeMaster session key s
  | .mgmtReset session kind => Sys2Proof.Machine.execMgmtReset session kind s
  | .mgmtUnloadPlan session => Sys2Proof.Machine.execMgmtUnloadPlan session s
  | .setPlanKeys session keys => Sys2Proof.Machine.execSetPlanKeys session keys s
  | .programFuses session bank readBack => Sys2Proof.Machine.execProgramFuses session bank readBack s
  | .raiseFloor session f => Sys2Proof.Machine.execRaiseFloor session f s
  | .requestRemoval session => Sys2Proof.Machine.execRequestRemoval session s
  | .cancelRemoval session => Sys2Proof.Machine.execCancelRemoval session s
  | .getNeighbours => Sys2Proof.Machine.execGetNeighbours s
  | .clearCause session mask => Sys2Proof.Machine.execClearCause session mask s
  | .pollPlatformEvent ack => Sys2Proof.Machine.execPollPlatformEvent ack s
  | .firmwareUpdate version verified => Sys2Proof.Machine.execFirmwareUpdate version verified s
  | .spdmRequest r => Sys2Proof.Machine.execSpdmRequest r s
  | .entdaa address => Sys2Proof.Machine.execEntdaa address s
  | .illegalBundle b cause => Sys2Proof.Machine.execIllegalBundle b cause s
  | .illegalStackInstruction insn cause => Sys2Proof.Machine.execIllegalStackInstruction insn cause s
  | .packetPosition link maintenance => Sys2Proof.Machine.execPacketPosition link maintenance s
  | .packetCrcFailure packet => Sys2Proof.Machine.execPacketCrcFailure packet s
  | .plannedRefresh insn pc bg => Sys2Proof.Machine.execPlannedRefresh insn pc bg s
  | .sensorThresholdCrossing sn critical => Sys2Proof.Machine.execSensorThresholdCrossing sn critical s
  | .overCurrentWarning => Sys2Proof.Machine.execOverCurrentWarning s

end Sys2Proof.Machine
end

