-- ==== Sys2Proof/Safety.lean ====
section
/-! DEFINITION. What claims mean by a safe state: device memory and the egress buffers in their canonical form. -/

namespace Sys2Proof.Machine

open Sys2Proof

/-- What every state keeps (log entry 49): device memory and the egress buffers are written in their one canonical form. -/
def State.Inv (s : State) : Prop := Memory.wf s.mem ∧ Memory.wf s.egress

end Sys2Proof.Machine
end

