-- ==== Sys2Proof/Certificates/Slice0/Obligations.lean ====
section
/-! DEFINITION. The statements for the provers, family by family; what several statements say in common stands under the name
`Claims`. -/


open Sys2Proof Sys2Proof.Machine

/-! The slots of blocks -/

/-- The rank of the operation in its slot and one effect due `lat` cycles from now: what an operation with one result leaves
(R116, R137). -/
def Sys2Proof.Claims.due (s : State) (b slot lat : Nat) (a : Act) : State :=
  let rank := issueRank (s.cyc (compRegion b)) slot
  s.onBlock b (fun k => { k with
    rank := rank
    pend := k.pend ++ [{ cycle := s.cyc (compRegion b) + lat, rank := rank, act := a }] })

/-- A V register's result of the vector slot. -/
def Sys2Proof.Claims.toV (s : State) (b vd lat : Nat) (f : Nat → Word32) : State := Claims.due s b 4 lat (.setV vd (mkRow f))
/-- A T register's result of the tree slot. -/
def Sys2Proof.Claims.toT (s : State) (b td lat : Nat) (f : Nat → Word32) : State := Claims.due s b 5 lat (.setT td (mkRow f))

/-- The block's slots act, its line's bundle makes none of them an offending one, and debug mode does not watch for hazards. -/
def Sys2Proof.Claims.Calm (s : State) (b : Nat) : Prop :=
  s.issues b = true ∧ s.debugMode = false ∧ ∀ n, s.slotOffends b n = false

/-- A region is clocked and not away: its crossings carry tokens and it takes tokens in (R72, R78). -/
def Sys2Proof.Claims.Clocked (s : State) (r : Nat) : Prop := (s.region r).active = true ∧ (s.region r).away = false

/-- An address register reaches `len` units of a space of `limit` units at an aligned place (R118). -/
def Sys2Proof.Claims.Reaches (k : Block) (ar : Nat) (want : Space) (len align limit place : Nat) : Prop :=
  (k.areg ar).space = want ∧ k.effective (k.areg ar) = (place : Int) ∧ place + len ≤ limit ∧ place % align = 0

/-- No stored bit of a row of block SRAM is in error. -/
def Sys2Proof.Claims.Sound (s : State) (b off : Nat) : Prop := s.weakness (blockBase b + off) 1024 = 0

/-- each vector operation's result by lane, due at its latency in VD, and nothing else changed (R126 to R128, R137). -/
def Obligations.VectorSlotResults : Prop :=
  ∀ (s : State) (b : Fin 64) (vd va vb vc : Fin 32) (mode : BitVec 3), Claims.Calm s b →
    let A := lane ((s.block b).vreg va)
    let B := lane ((s.block b).vreg vb)
    let C := lane ((s.block b).vreg vc)
    exec (.vadd b vd va vb) s = .next (Claims.toV s b vd 4 (fun q => fadd (A q) (B q))) ∧
    exec (.vsub b vd va vb) s = .next (Claims.toV s b vd 4 (fun q => fadd (A q) (B q ^^^ 0x80000000))) ∧
    exec (.vmul b vd va vb) s = .next (Claims.toV s b vd 4 (fun q => fmul (A q) (B q))) ∧
    exec (.vfma b vd va vb vc) s = .next (Claims.toV s b vd 5 (fun q => ffma (A q) (B q) (C q))) ∧
    exec (.vmin b vd va vb) s = .next (Claims.toV s b vd 2 (fun q => fmin (A q) (B q))) ∧
    exec (.vmax b vd va vb) s = .next (Claims.toV s b vd 2 (fun q => fmax (A q) (B q))) ∧
    (mode.toNat ≤ 3 → exec (.vcmp b vd va vb mode) s = .next (Claims.toV s b vd 2 (fun q =>
      if (mode = 0 ∧ feq (A q) (B q)) ∨ (mode = 1 ∧ flt (A q) (B q)) ∨ (mode = 2 ∧ (feq (A q) (B q) ∨ flt (A q) (B q))) ∨
        (mode = 3 ∧ (isNan (A q) ∨ isNan (B q))) then 0xFFFFFFFF else 0))) ∧
    exec (.vsel b vd va vb vc) s = .next (Claims.toV s b vd 2 (fun q => if C q ≠ 0 then A q else B q)) ∧
    exec (.vmov b vd va) s = .next (Claims.toV s b vd 2 A) ∧
    exec (.viadd b vd va vb) s = .next (Claims.toV s b vd 4 (fun q => A q + B q)) ∧
    exec (.vexp b vd va) s = .next (Claims.toV s b vd (if s.lp2 then 12 else 14) (fun q => fexp (A q))) ∧
    exec (.vlog b vd va) s = .next (Claims.toV s b vd (if s.lp2 then 12 else 14) (fun q => flog (A q))) ∧
    exec (.vrcp b vd va) s = .next (Claims.toV s b vd 12 (fun q => frcp (A q))) ∧
    exec (.vrsqrt b vd va) s = .next (Claims.toV s b vd 12 (fun q => frsqrt (A q))) ∧
    exec (.vtanh b vd va) s = .next (Claims.toV s b vd 16 (fun q => ftanh (A q)))

/-- the converts of the vector slot (R129): a narrowing one packs 256 plain elements from bit 0, a widening one reads them
back by place; the block-scaled formats keep 32 elements a scale, whose bytes stand from byte 1,016. -/
def Obligations.VectorConvertResults : Prop :=
  ∀ (s : State) (b : Fin 64) (vd va : Fin 32) (mode : BitVec 3) (fmt : BitVec 4) (key : BitVec 8), Claims.Calm s b →
    ((Instr.vcvtNarrow b vd va mode fmt key).wellFormed = true → ∃ row,
      exec (.vcvtNarrow b vd va mode fmt key) s = .next (Claims.due s b 4 3 (.setV vd row)) ∧
      ∀ c, cvtFmt fmt.toNat = some c → (∀ f, c ≠ .mx f) → mode ≠ 2 → ∀ q < 256,
        elemAt c.bits (leNat (rowBytes row)) q =
          cvtPlain c (if mode = 1 then .rtz else .rne) 0 (lane ((s.block b).vreg va) q) % 2 ^ c.bits) ∧
    ((Instr.vcvtWide b vd va fmt).wellFormed = true → ∃ f,
      exec (.vcvtWide b vd va fmt) s = .next (Claims.toV s b vd 3 f) ∧
      ∀ c, cvtFmt fmt.toNat = some c → (∀ x, c ≠ .mx x) → ∀ q < 256,
        f q = widenPlain c (elemAt c.bits (leNat (rowBytes ((s.block b).vreg va))) q))

/-- The tree slot (R130): sums of two T registers, the two transfers, and the SRAM row read or written through an address
register that reaches it while a port is free. -/
def Sys2Proof.Claims.TreeSlotResults : Prop :=
  ∀ (s : State) (b : Fin 64) (td ta tb v : Fin 32) (ar : Fin 64) (off : Nat), Claims.Calm s b →
    let A := (s.block b).treg ta
    let B := (s.block b).treg tb
    let c := s.cyc (compRegion b)
    exec (.tadd b td ta tb) s = .next (Claims.toT s b td 4 (fun q => fadd (lane A q) (lane B q))) ∧
    exec (.taddi b td ta tb) s = .next (Claims.toT s b td 4 (fun q => lane A q + lane B q)) ∧
    exec (.ttov b v ta) s = .next (Claims.due s b 5 2 (.setV v A)) ∧
    exec (.vtot b td v) s = .next (Claims.due s b 5 2 (.setT td ((s.block b).vreg v))) ∧
    (Claims.Reaches (s.block b) ar .sram 1024 32 sramSize off →
      (Claims.Sound s b off → get 0 (s.block b).reads c < 2 → exec (.tload b td ar) s = .next (s.onBlock b (fun k => { k with
        rank := issueRank c 5
        reads := upd 0 k.reads c (· + 1)
        pend := k.pend ++ [{ cycle := c + 5, rank := issueRank c 5
                             act := .setT td (bytesRow (readBytes s.mem (blockBase b + off) 1024)) }] }))) ∧
      (get 0 (s.block b).writes (c + 4) < 2 → exec (.tstore b ar ta) s = .next (s.onBlock b (fun k => { k with
        rank := issueRank c 5
        writes := upd 0 k.writes (c + 4) (· + 1)
        pend := k.pend ++ [{ cycle := c + 5, rank := issueRank c 5, act := .sram off (rowBytes A) }] }))))

/-- A command of a sequencer that stands still, waits, is frozen or is isolated, or whose region gates for another block,
changes nothing (R134, R141, R324, R413): the families' first commands and the controls, which a bundle carries.  Of a block
that only its region stops, a wait on a group that is not ready changes more: see WaitProceedsOrGates. -/
def Sys2Proof.Claims.StoppedBlockIgnoresSlots : Prop :=
  ∀ (s : State) (b : Fin 64) (x y z w : Fin 32) (c : Fin 4) (ar arx : Fin 64) (ch : Fin 2) (rb : Bool) (row : Fin 16)
    (fmt len : BitVec 4) (desc trip : BitVec 8) (tgt : BitVec 6), s.issues b = false →
    exec (.chunk b c fmt rb desc) s = .next s ∧ exec (.drainTree b c rb row x) s = .next s ∧
    exec (.drainVec b c rb row x) s = .next s ∧ exec (.drainSram b c rb row ar) s = .next s ∧
    exec (.vfma b x y z w) s = .next s ∧ exec (.tadd b x y z) s = .next s ∧ exec (.tstore b ar x) s = .next s ∧
    exec (.ldOpb b ch ar arx len c) s = .next s ∧ exec (.hbmRd b ch ar arx) s = .next s ∧
    exec (.xfer b ch ar arx len) s = .next s ∧ exec (.signal b ar tgt) s = .next s ∧
    exec (.loopBegin b c trip) s = .next s ∧ exec (.loopEnd b c) s = .next s ∧ exec (.sheafEnd b) s = .next s ∧
    (s.runsOn b = false ∨ (s.block b).groups.ready ar = true → exec (.wait b ar) s = .next s)

/-- One block's record becomes `k`; the rest of the machine stays as it is. -/
def Sys2Proof.Claims.OnlyBlock (s t : State) (b : Nat) (k : Block) : Prop :=
  t = { s with blocks := t.blocks } ∧ t.block b = k ∧ ∀ x, x ≠ b → t.block x = s.block x

/-- The marks of rows that a result buffer has yet to drain, with one row taken out. -/
def Sys2Proof.Claims.drained (u row : Nat) : Nat := if (u / 2 ^ row) % 2 = 1 then u - 2 ^ row else u

/-- A chunk occupies its cell for its interval and keeps the exact sums of the operands as they stand at issue (R86, R88,
R124, R138); a cell that is still busy raises BUSY instead (R148). -/
def Sys2Proof.Claims.ChunkIssues : Prop :=
  ∀ (s : State) (b : Fin 64) (c : Fin 4) (fmt : BitVec 4) (rb : Bool) (desc : BitVec 8) (f : CellFmt), Claims.Calm s b →
    cellFmt fmt.toNat = some f →
    let k := s.block b
    let now := s.cyc (compRegion b)
    let d := k.tables.desc.getD desc.toNat {}
    let base (j x : Nat) : Int := k.descBase d j x
    let isMx : Bool := match f with | .mx _ _ => true | _ => false
    let opb := get [] k.opb (k.physCell c)
    let outs := chunkOutputs opb f d.kv (base 0 d.a) (base 1 d.b) (base 2 d.sa) (base 3 d.sb)
    (get 0 k.cellFree c ≤ now →
      (0 ≤ base 0 d.a ∧ base 0 d.a + 2 * f.bits.1 ≤ 1024 ∧ 0 ≤ base 1 d.b ∧ base 1 d.b + 2 * f.bits.2 ≤ 1024) →
      (isMx = true → 0 ≤ base 2 d.sa ∧ base 2 d.sa + 1 ≤ 1024 ∧ 0 ≤ base 3 d.sb ∧ base 3 d.sb + 1 ≤ 1024) →
      exec (.chunk b c fmt rb desc) s = .next (s.onBlock b (fun k => { k with
        cellFree := put 0 k.cellFree c (now + f.interval)
        chunks := k.chunks ++ [(c.val, {
          fmt := fmt.toNat, rb := rb, issue := now, pes := outs
          parityBad := chunkParityLost opb (get [] k.opbParity (k.physCell c)) f isMx d.kv (base 0 d.a) (base 1 d.b) (base 2 d.sa)
            (base 3 d.sb) })]
        undrained := put 0 k.undrained (rbIndex (k.physCell c) rb) 0xFFFF }))) ∧
    (now < get 0 k.cellFree c → ∃ t, exec (.chunk b c fmt rb desc) s = .next t ∧
      (t.block b).planFaults = satInc k.planFaults ∧ bit (t.block b).err 13 = true ∧
      (bit k.err 13 = false → (t.block b).planFaultInfo.toNat % 8 = 2) ∧ (t.block b).chunks = k.chunks ∧
      t.mem = s.mem ∧ t.sheaf = s.sheaf)

/-- an INT8 chunk's output (i, j) is the sum over the first KV places of the products of row i of A and column j of B,
two's-complement bytes of the operand buffer (R86, R87, R90, R98). -/
def Obligations.Int8ChunkIsDotProduct : Prop :=
  ∀ (m : Memory) (kv i j : Nat) (a b sa sb : Int), kv ≤ 64 → i < 64 → j < 64 →
    ((chunkOutputs m .int8 kv a b sa sb)[64 * i + j]?).map (fun x => (x.value, x.flags)) =
      some (((List.range kv).map (fun k =>
        signed 8 (opbByte m (256 * a + 64 * i + k)).toNat * signed 8 (opbByte m (256 * b + 64 * j + k)).toNat)).sum, 0)

/-- A chunk's end, once its cycle has come (R88), rounds each of its sums once into its result buffer and frees the chunk (R97,
R98, R113); a failed check sets its kind's bit and the physical cell's bit in BLK_ERR and, in a step that has begun to run outside
commit, asks for an abort (R110, R148, R331).  The checks of R108 and R109 on the chunk's own operands and sums count with those
that the command names, and two rounders whose words differ in an element fail the check of R109.  Before its cycle the chunk
keeps what the command names until then. -/
def Sys2Proof.Claims.ChunkEndRoundsOnce : Prop :=
  ∀ (s : State) (b : Fin 64) (c : Fin 4) (p r : Bool) (f : RounderFaults) (run : ChunkRun) (rest : List (Nat × ChunkRun)),
    (s.block b).chunks = (c.val, run) :: rest → run.pes.length = 4096 →
    let pc := (s.block b).physCell c
    let words := run.pes.map (fun x => roundOutput ((cellFmt run.fmt).getD .int8) x.value x.flags)
    let first := rounderWords words (run.rounders.first ++ f.first)
    let second := rounderWords words (run.rounders.second ++ f.second)
    let p1 := run.parityBad || p
    let r1 := run.pes.any PeRun.mismatch || (run.residueBad || r)
    let d := first != second
    (s.cyc (compRegion b) < run.due → exec (.chunkEnd b c p r f) s = .next (s.onBlock b (fun k => { k with
      chunks := (c.val, { run with
        parityBad := p1, residueBad := run.residueBad || r
        rounders := { first := run.rounders.first ++ f.first, second := run.rounders.second ++ f.second } }) :: rest }))) ∧
    (run.due ≤ s.cyc (compRegion b) → ∃ t, exec (.chunkEnd b c p r f) s = .next t ∧ (t.block b).chunks = rest ∧
      (∀ i < 4096, get 0 (t.block b).results (rbIndex pc run.rb * 4096 + i) = first.getD i 0) ∧
      (run.rounders.first ++ f.first = [] → ∀ i < 4096, first.getD i 0 =
        roundOutput ((cellFmt run.fmt).getD .int8) (run.pes.getD i {}).value (run.pes.getD i {}).flags) ∧
      (∀ i, (i < rbIndex pc run.rb * 4096 ∨ rbIndex pc run.rb * 4096 + 4096 ≤ i) →
        get 0 (t.block b).results i = get 0 (s.block b).results i) ∧
      (p1 = false → r1 = false → d = false → t = { s with blocks := t.blocks } ∧ ∀ x, x ≠ b.val → t.block x = s.block x) ∧
      (p1 = true → bit (t.block b).err 0 = true) ∧ (r1 = true → bit (t.block b).err 1 = true) ∧
      (d = true → bit (t.block b).err 2 = true) ∧
      ((p1 || r1 || d) = true → bit (t.block b).err (3 + pc) = true ∧ t.mem = s.mem ∧
        (s.relay = false → s.inCommit = false → t.fault.abort.isSome = true)))

/-- a drain takes one row of 256 results to a T register, a V register or SRAM and marks it drained (R89, R113, R124,
R137), after the chunks of its cell that are due have written theirs (R88). -/
def Obligations.DrainResults : Prop :=
  ∀ (s : State) (b : Fin 64) (c : Fin 4) (rb : Bool) (row : Fin 16) (r : Fin 32) (ar : Fin 64) (off : Nat), Claims.Calm s b →
    let now := s.cyc (compRegion b)
    let u := s.finishChunks b (fun x => x == c.val) now
    let k := u.block b
    let ix := rbIndex (k.physCell c) rb
    let words := fun q => get 0 k.results (ix * 4096 + 256 * row + q)
    let left := put 0 k.undrained ix (Claims.drained (get 0 k.undrained ix) row)
    (∃ t, exec (.drainTree b c rb row r) s = .next t ∧ Claims.OnlyBlock u t b { k with
      undrained := left, rank := issueRank now c
      pend := k.pend ++ [{ cycle := now + 3, rank := issueRank now c, act := .setT r (mkRow words) }] }) ∧
    (∃ t, exec (.drainVec b c rb row r) s = .next t ∧ Claims.OnlyBlock u t b { k with
      undrained := left, rank := issueRank now c
      pend := k.pend ++ [{ cycle := now + 3, rank := issueRank now c, act := .setV r (mkRow words) }] }) ∧
    (Claims.Reaches k ar .sram 1024 32 sramSize off → get 0 k.writes (now + 2) < 2 →
      ∃ t, exec (.drainSram b c rb row ar) s = .next t ∧ Claims.OnlyBlock u t b { k with
        undrained := left, rank := issueRank now c, writes := upd 0 k.writes (now + 2) (· + 1)
        pend := k.pend ++ [{ cycle := now + 3, rank := issueRank now c, act := .sram off (rowBytes (mkRow words)) }] })

/-- The move channel is free, and every row's port of the `rows` cycles from `c` on serves one more access. -/
def Sys2Proof.Claims.portsFree (u : Sparse Nat) (c rows : Nat) : Prop := ∀ m < rows, get 0 u (c + m) < 2
/-- One access in each of `rows` cycles. -/
def Sys2Proof.Claims.taken (u : Sparse Nat) (c rows : Nat) : Sparse Nat :=
  (List.range rows).foldl (fun r m => upd 0 r (c + m) (· + 1)) u

/-- The moves inside a block (R131, R137): LD_V and ST_V move one row, LD_OPB moves LEN + 1 rows, of which row 0 is read at
once and row m in cycle c + m. -/
def Sys2Proof.Claims.LocalMoveResults : Prop :=
  ∀ (s : State) (b : Fin 64) (ch : Fin 2) (ars arx : Fin 64) (vreg : Fin 32) (len : BitVec 4) (cell : Fin 4)
    (off line : Nat), Claims.Calm s b →
    let k := s.block b
    let c := s.cyc (compRegion b)
    let rows := len.toNat + 1
    let row := readBytes s.mem (blockBase b + off) 1024
    get 0 k.channelFree ch ≤ c →
    (Claims.Reaches k ars .sram 1024 32 sramSize off →
      (Claims.Sound s b off → get 0 k.reads c < 2 → ∃ t, exec (.ldV b ch ars vreg) s = .next t ∧ Claims.OnlyBlock s t b { k with
        rank := issueRank c (6 + ch.val), channelFree := put 0 k.channelFree ch (c + 1), reads := upd 0 k.reads c (· + 1)
        pend := k.pend ++ [{ cycle := c + 5, rank := issueRank c (6 + ch.val), act := .setV vreg (bytesRow row) }] }) ∧
      (get 0 k.writes (c + 4) < 2 → ∃ t, exec (.stV b ch ars vreg) s = .next t ∧ Claims.OnlyBlock s t b { k with
        rank := issueRank c (6 + ch.val), channelFree := put 0 k.channelFree ch (c + 1), writes := upd 0 k.writes (c + 4) (· + 1)
        pend := k.pend ++ [{ cycle := c + 5, rank := issueRank c (6 + ch.val), act := .sram off (rowBytes (k.vreg vreg)) }] })) ∧
    (Claims.Reaches k ars .sram (1024 * rows) 32 sramSize off → Claims.Reaches k arx .opb (4 * rows) 1 1024 line →
      Claims.Sound s b off → Claims.portsFree k.reads c rows → (∀ d ∈ k.pend, c < d.cycle) →
      ∃ t, exec (.ldOpb b ch ars arx len cell) s = .next t ∧ Claims.OnlyBlock s t b { k with
        rank := issueRank c (6 + ch.val), channelFree := put 0 k.channelFree ch (c + rows), reads := Claims.taken k.reads c rows
        pend := k.pend ++ (List.range len.toNat).map (fun m =>
            { cycle := c + (m + 1), rank := issueRank c (6 + ch.val)
              act := .readOpb cell (line + 4 * (m + 1)) (off + 1024 * (m + 1)) false }) ++
          [{ cycle := c + 5, rank := issueRank c (6 + ch.val), act := .opb cell line row }] })

/-- The moves that leave a block (R131, R137, R155): a request for 2 KiB of HBM crosses at once, a write to HBM reads its
second row in the next cycle, and EGRESS and XFER send row 0 at once and keep row m for cycle c + m. -/
def Sys2Proof.Claims.OutwardMoveResults : Prop :=
  ∀ (s : State) (b : Fin 64) (ch : Fin 2) (ars arx : Fin 64) (len : BitVec 4) (off place p : Nat), Claims.Calm s b →
    let k := s.block b
    let c := s.cyc (compRegion b)
    let rows := len.toNat + 1
    let row := readBytes s.mem (blockBase b + off) 1024
    let net := (k.areg arx).aux % 4
    get 0 k.channelFree ch ≤ c → Claims.Clocked s (compRegion b) →
    (Claims.Reaches k ars .sram 2048 32 sramSize off → Claims.Reaches k arx .dev 2048 2048 hbmSize place →
      (Claims.portsFree k.writes (c + 112) 2 → ∃ t, exec (.hbmRd b ch ars arx) s = .next t ∧
        t = { s with blocks := t.blocks, tokens := s.tokens ++ [{ src := compRegion b, dst := stackRegion (stackOf place), sent := c
                                                                  release := c + 18
                                                                  payload := .hbmRead b off place k.seq.line (issueRank c (6 + ch.val)) }] } ∧
        t.block b = { k with rank := issueRank c (6 + ch.val), channelFree := put 0 k.channelFree ch (c + 2)
                             writes := Claims.taken k.writes (c + 112) 2 } ∧
        ∀ x, x ≠ b.val → t.block x = s.block x) ∧
      (Claims.Sound s b off → Claims.portsFree k.reads c 2 → ∃ t, exec (.hbmWr b ch ars arx) s = .next t ∧
        Claims.OnlyBlock s t b { k with
          rank := issueRank c (6 + ch.val), channelFree := put 0 k.channelFree ch (c + 2), reads := Claims.taken k.reads c 2
          pend := k.pend ++ [{ cycle := c + 1, rank := issueRank c (6 + ch.val)
                               act := .readHbmWr place (off + 1024) row false k.seq.line }] })) ∧
    (Claims.Reaches k ars .sram (1024 * rows) 32 sramSize off → Claims.Sound s b off → Claims.portsFree k.reads c rows →
      (∀ d ∈ k.pend, c < d.cycle) →
      (Claims.Reaches k arx .egress (2 * rows) 1 4096 place → ∃ t, exec (.egress b ch ars arx len) s = .next t ∧
        t = { s with blocks := t.blocks, tokens := s.tokens ++ [{ src := compRegion b, dst := netRegion net, sent := c
                                                                  release := c + 25
                                                                  payload := .egress (egressBase net place) row }] } ∧
        t.block b = { k with
          rank := issueRank c (6 + ch.val), channelFree := put 0 k.channelFree ch (c + rows), reads := Claims.taken k.reads c rows
          pend := k.pend ++ (List.range len.toNat).map (fun m =>
            { cycle := c + (m + 1), rank := issueRank c (6 + ch.val)
              act := .readEgress net (place + 2 * (m + 1)) (off + 1024 * (m + 1)) (c + 25 + (m + 1)) false }) } ∧
        ∀ x, x ≠ b.val → t.block x = s.block x) ∧
      (Claims.Reaches k arx .remote (1024 * rows) 32 sramSize place → s.physOf (k.areg arx).aux = some p →
        Claims.portsFree (s.block p).writes (c + 20) rows → ∃ t, exec (.xfer b ch ars arx len) s = .next t ∧
        t = { s with blocks := t.blocks, tokens := s.tokens ++ [{ src := compRegion b, dst := compRegion p, sent := c
                                                                  release := c + 20
                                                                  payload := .rows p place row (issueRank c (6 + ch.val)) }] } ∧
        ∀ x, t.block x =
          let q := s.block x
          let q := if x = b then { q with
            rank := issueRank c (6 + ch.val), channelFree := put 0 q.channelFree ch (c + rows), reads := Claims.taken q.reads c rows
            pend := q.pend ++ (List.range len.toNat).map (fun m =>
              { cycle := c + (m + 1), rank := issueRank c (6 + ch.val)
                act := .readXfer p (place + 1024 * (m + 1)) (off + 1024 * (m + 1)) (c + 20 + (m + 1)) false false }) } else q
          if x = p then { q with writes := Claims.taken q.writes (c + 20) rows } else q))

/-- WAIT and WAIT_FIRST proceed on a group that completed before the present cycle, and WAIT_FIRST then writes the lowest
such index to SEL; otherwise the unit waits and its region gates (R141, R143, R145).  Debug mode aside, the command itself
changes its block, and its region when it gates. -/
def Sys2Proof.Claims.WaitProceedsOrGates : Prop :=
  ∀ (s : State) (b : Fin 64) (g : Fin 64) (mask : BitVec 4), Claims.Calm s b →
    let k := s.block b
    (k.groups.ready g = true → ∃ t, exec (.wait b g) s = .next t ∧ Claims.OnlyBlock s t b { k with
      seq := { k.seq with waiting := none }
      variant := if bit k.groups.loose g && bit k.groups.disordered g then satInc k.variant else k.variant }) ∧
    (k.groups.ready g = false → ∃ t, exec (.wait b g) s = .next t ∧
      t = { s with blocks := t.blocks, regions := t.regions } ∧
      t.block b = { k with seq := { k.seq with waiting := some (g.val, 0) } } ∧ (∀ x, x ≠ b.val → t.block x = s.block x) ∧
      t.region (compRegion b) = { s.region (compRegion b) with stall := some .arrival } ∧
      ∀ r, r ≠ compRegion b → t.region r = s.region r) ∧
    ((Instr.waitFirst b g mask).wellFormed = true →
      (∀ j < 4, mask.getLsbD j = true → k.groups.ready (g + j) = true →
        (∀ l < j, mask.getLsbD l = true → k.groups.ready (g + l) = false) →
        ∃ t, exec (.waitFirst b g mask) s = .next t ∧ Claims.OnlyBlock s t b { k with
          seq := { k.seq with waiting := none }, sel := BitVec.ofNat 2 j
          variant := if ∃ l < j, mask.getLsbD l = true then satInc k.variant else k.variant }) ∧
      ((∀ j < 4, mask.getLsbD j = true → k.groups.ready (g + j) = false) → ∃ t, exec (.waitFirst b g mask) s = .next t ∧
        t = { s with blocks := t.blocks, regions := t.regions } ∧
        t.block b = { k with seq := { k.seq with waiting := some (g.val, mask.toNat) } } ∧
        t.region (compRegion b) = { s.region (compRegion b) with stall := some .arrival }))

/-- In a region that gates for one block, another block that meets a wait which cannot proceed waits as well, and a gated
period then counts for it (R143); the region goes on gating.  A wait whose slot offends acts as empty there too (R144, R148): it does not
wait. -/
def Sys2Proof.Claims.GatedRegionWaits : Prop :=
  ∀ (s : State) (b g : Fin 64), s.debugMode = false → s.runsOn b = true → (s.region (compRegion b)).stall.isSome = true →
    (s.block b).groups.ready g = false →
    (s.slotOffends b 8 = true → exec (.wait b g) s = .next s) ∧
    (s.slotOffends b 8 = false → ∃ t, exec (.wait b g) s = .next t ∧ t = { s with blocks := t.blocks, regions := t.regions } ∧
      t.block b = { s.block b with seq := { (s.block b).seq with waiting := some (g.val, 0) } } ∧
      (∀ x, x ≠ b.val → t.block x = s.block x) ∧
      t.region (compRegion b) = { s.region (compRegion b) with stall := some .arrival } ∧
      (t.block b).gated.arrivalStalls = satInc (s.block b).arrivalStalls)

/-- A stalled wait of a block or a stack whose group is ready proceeds, and its region then stands only for its other units
(R141, R143, R164). -/
def Sys2Proof.Claims.WaitProceedResumes : Prop :=
  ∀ (s : State) (b : Fin 64) (i : Fin 12) (g h : Nat),
    ((s.block b).seq.waiting = some (g, 0) → (s.block b).groups.ready g = true →
      ∃ t, exec (.waitProceed (.block b)) s = .next t ∧ t = { s with blocks := t.blocks, regions := t.regions } ∧
        (t.block b).seq = { (s.block b).seq with waiting := none } ∧ (t.block b).groups = (s.block b).groups ∧
        (t.block b).pend = (s.block b).pend ∧ (∀ x, x ≠ b.val → t.block x = s.block x) ∧
        ((∀ x, x / 4 = b.val / 4 → x ≠ b.val → (s.block x).seq.waiting = none ∧ (s.block x).seq.stalled = false) →
          (s.block b).seq.stalled = false →
          t.region (compRegion b) = { s.region (compRegion b) with stall := none })) ∧
    ((s.stack i).seq.waiting = some (h, 0) → (s.stack i).groups.ready h = true → (s.stack i).seq.stalled = false →
      ∃ t, exec (.waitProceed (.stack i)) s = .next t ∧ t = { s with stks := t.stks, regions := t.regions } ∧
        t.stack i = { s.stack i with seq := { (s.stack i).seq with waiting := none } } ∧
        (∀ x, x ≠ i.val → t.stack x = s.stack x) ∧
        t.region (stackRegion i) = { s.region (stackRegion i) with stall := none })

/-- A SIGNAL to a logical block of the job crosses as one token, released 16 cycles later; one to a block outside the job
raises RANGE and sends nothing (R132, R137). -/
def Sys2Proof.Claims.SignalCrossesOrFaults : Prop :=
  ∀ (s : State) (b g : Fin 64) (target : BitVec 6) (p : Nat), Claims.Calm s b →
    (s.physOf target.toNat = some p → target.toNat < s.logicalCount → Claims.Clocked s (compRegion b) →
      exec (.signal b g target) s = .next { s with tokens := s.tokens ++ [{
        src := compRegion b, dst := compRegion p, sent := s.cyc (compRegion b), release := s.cyc (compRegion b) + 16
        payload := .signal p g }] }) ∧
    (s.logicalCount ≤ target.toNat → ∃ t, exec (.signal b g target) s = .next t ∧ t.tokens = s.tokens ∧
      bit (t.block b).err 13 = true ∧ (t.block b).planFaults = satInc (s.block b).planFaults ∧
      (bit (s.block b).err 13 = false → (t.block b).planFaultInfo.toNat % 8 = 4) ∧ t.sheaf = s.sheaf ∧ t.mem = s.mem)

/-- READ_T gives T[47:16], T[79:48] and T[15:0] in lanes 0 to 2, SAMPLE one counter in lane 0; the other lanes are 0, and
both count in VARIANT_CHOICES (R132, R145). -/
def Sys2Proof.Claims.MarkedReadResults : Prop :=
  ∀ (s : State) (b : Fin 64) (v : Fin 32) (index : BitVec 6), Claims.Calm s b →
    let k := s.block b
    let result (lanes : Nat → Word32) : Block := { k with
      variant := satInc k.variant, rank := issueRank (s.cyc (compRegion b)) 8
      pend := k.pend ++ [{ cycle := s.cyc (compRegion b) + 3, rank := issueRank (s.cyc (compRegion b)) 8, act := .setV v (mkRow lanes) }] }
    (∃ t, exec (.readT b v) s = .next t ∧ Claims.OnlyBlock s t b (result (fun q =>
      if q = 0 then s.now.extractLsb' 16 32 else if q = 1 then s.now.extractLsb' 48 32
      else if q = 2 then (s.now.extractLsb' 0 16).setWidth 32 else 0))) ∧
    (index.toNat ≤ 4 → ∃ t, exec (.sample b index v) s = .next t ∧ Claims.OnlyBlock s t b (result (fun q =>
      if q = 0 then (if index = 0 then k.arrivalStalls else if index = 1 then k.instrStalls else if index = 2 then k.variant
        else if index = 3 then s.sheaf.sheafCount.setWidth 32 else s.sheaf.heldTicks) else 0)))

/-- The loops of a block (R135): LOOP_BEGIN starts the level at iteration 0; LOOP_END makes one more pass from the body's
first line while i + 1 is less than the trip count, and otherwise closes the level; SHEAF_END ends the stream (R136). -/
def Sys2Proof.Claims.BlockLoopControl : Prop :=
  ∀ (s : State) (b : Fin 64) (l : Fin 4) (trip : BitVec 8) (x : LoopLevel) (rest : List LoopLevel), Claims.Calm s b →
    let k := s.block b
    ((∀ y ∈ k.seq.loops, y.level ≠ l.val) → exec (.loopBegin b l trip) s = .next (s.onBlock b (fun k => { k with
      seq := { k.seq with loops := { level := l, iter := 0, trip := k.tables.trip.getD trip.toNat 0, body := k.seq.line + 1 } ::
        k.seq.loops } }))) ∧
    (k.seq.loops = x :: rest → x.level = l.val → (∀ y ∈ rest, y.level ≠ l.val) →
      (x.iter + 1 < x.trip → exec (.loopEnd b l) s = .next (s.onBlock b (fun k => { k with
        seq := { k.seq with loops := { x with iter := x.iter + 1 } :: rest, jump := some x.body } }))) ∧
      (x.trip ≤ x.iter + 1 → exec (.loopEnd b l) s = .next (s.onBlock b (fun k => { k with
        seq := { k.seq with loops := rest } })))) ∧
    exec (.sheafEnd b) s = .next (s.onBlock b (fun k => { k with seq := { k.seq with ended := true } }))

/-- What makes a bundle illegal (R123, R127, R129, R135, R144, R148): the slot acts as empty, BLK_ERR bit 10 is set, the error is
logged once for the bundle, and outside commit a compute module's step is to be aborted. -/
def Sys2Proof.Claims.IllegalBundleAborts : Prop :=
  ∀ (s : State) (b : Fin 64) (va vb vd : Fin 32) (l : Fin 4) (mode : BitVec 3) (fmt m : BitVec 4) (key trip desc : BitVec 8)
    (index : BitVec 6) (g : Fin 64) (c : Fin 4) (rb : Bool) (cause : IllegalCause), s.issues b = true →
    (s.block b).seq.reported = false → s.relay = false → s.inCommit = false →
    let bad (o : Host.Outcome State Fault Refusal) : Prop := ∃ t, o = .next t ∧ bit (t.block b).err 10 = true ∧ t.fault.abort.isSome = true ∧
      t.fault.nextSeq = s.fault.nextSeq + 1 ∧ (t.block b).v = (s.block b).v ∧ (t.block b).pend = (s.block b).pend ∧
      t.mem = s.mem ∧ (∀ x, x ≠ b.val → t.block x = s.block x)
    (s.slotOffends b 4 = true → bad (exec (.vadd b vd va vb) s)) ∧ (s.slotOffends b c = true → bad (exec (.chunk b c fmt rb desc) s)) ∧
    (s.slotOffends b 8 = true → bad (exec (.wait b g) s) ∧ bad (exec (.sample b index vd) s)) ∧
    (4 ≤ mode.toNat → bad (exec (.vcmp b vd va vb mode) s)) ∧
    ((Instr.vcvtNarrow b vd va mode fmt key).wellFormed = false → bad (exec (.vcvtNarrow b vd va mode fmt key) s)) ∧
    (0xA < fmt.toNat → bad (exec (.vcvtWide b vd va fmt) s)) ∧
    (0xC < fmt.toNat → bad (exec (.chunk b c fmt rb desc) s)) ∧
    ((Instr.waitFirst b g m).wellFormed = false → bad (exec (.waitFirst b g m) s)) ∧
    (5 ≤ index.toNat → bad (exec (.sample b index vd) s)) ∧
    ((s.block b).seq.active l = true → bad (exec (.loopBegin b l trip) s)) ∧
    ((s.block b).seq.active l = false → bad (exec (.loopEnd b l) s)) ∧
    bad (exec (.illegalBundle b cause) s)

/-- A fetch delivers lines into the half that its sequencer has left, word by word into instruction memory, a line that has not
come stalls its sequencer and its region, and the stall ends with the line (R134, R143, R163, R188); of both kinds of unit. -/
def Sys2Proof.Claims.FetchAndInstructionStall : Prop :=
  ∀ (s : State) (b : Fin 64) (i : Fin 12) (n : Nat),
    let q := (s.block b).seq
    let r := (s.stack i).seq
    (q.ended = false → q.fetched ≤ q.line → ∃ t, exec (.instructionStall (.block b)) s = .next t ∧
      t = { s with blocks := t.blocks, regions := t.regions } ∧ t.block b = { s.block b with seq := { q with stalled := true } } ∧
      (t.region (compRegion b)).stall.isSome = true ∧ ∀ x, x ≠ b.val → t.block x = s.block x) ∧
    (r.ended = false → r.fetched ≤ r.line → ∃ t, exec (.instructionStall (.stack i)) s = .next t ∧
      t = { s with stks := t.stks, regions := t.regions } ∧ t.stack i = { s.stack i with seq := { r with stalled := true } } ∧
      (t.region (stackRegion i)).stall.isSome = true ∧ ∀ x, x ≠ i.val → t.stack x = s.stack x) ∧
    (∃ t, exec (.streamFetch (.block b) n) s = .next t ∧ t.sheaf = s.sheaf ∧ (∀ x, x ≠ b.val → t.block x = s.block x) ∧
      (t.block b).seq.fetched = q.fetched + min n (q.room 8192) ∧
      (q.stalled = false → (t.block b).seq =
        { q with fetched := (t.block b).seq.fetched, ahead := (t.block b).seq.ahead, aheadPattern := s.nextPattern }) ∧
      (q.stalled = true → (q.line < (t.block b).seq.fetched → (t.block b).seq.stalled = false) ∧
        ((t.block b).seq.fetched ≤ q.line → (t.block b).seq.stalled = true)) ∧
      (∀ x, s.unitStream (.block b) s.sheaf.pattern = some x → (s.placeOf x.sec = 0 ∨ s.sheaf.running = false) →
        q.stalled = false → n ≤ q.room 8192 → n ≤ 16384 → ∀ j < n, q.fetched + j < x.words.length →
          t.bundleAt b (q.fetched + j) = x.words.getD (q.fetched + j) 0)) ∧
    (∃ t, exec (.streamFetch (.stack i) n) s = .next t ∧ t.sheaf = s.sheaf ∧ t.blocks = s.blocks ∧ t.mem = s.mem ∧
      (t.stack i).seq.fetched = r.fetched + min n (r.room 4096) ∧
      (r.stalled = false → (t.stack i).seq =
        { r with fetched := (t.stack i).seq.fetched, ahead := (t.stack i).seq.ahead, aheadPattern := s.nextPattern }) ∧
      (r.stalled = true → (r.line < (t.stack i).seq.fetched → (t.stack i).seq.stalled = false) ∧
        ((t.stack i).seq.fetched ≤ r.line → (t.stack i).seq.stalled = true)) ∧
      (∀ x, s.unitStream (.stack i) s.sheaf.pattern = some x → (s.placeOf x.sec = 0 ∨ s.sheaf.running = false) →
        r.stalled = false → n ≤ r.room 4096 → n ≤ 8192 → ∀ j < n, r.fetched + j < x.words.length →
          (t.stack i).instrAt (r.fetched + j) = (x.words.getD (r.fetched + j) 0).setWidth 128))

/-! The stack side -/

/-- The stack operations with their codes (R166). -/
def Sys2Proof.Claims.stackOps : List (Nat × (Fin 12 → SFields → Instr)) :=
  [(0x01, .add), (0x02, .sub), (0x03, .mul), (0x04, .fma), (0x05, .axpby), (0x06, .min), (0x07, .max), (0x08, .cvt),
   (0x09, .quantMx), (0x0A, .div), (0x0B, .sqrt), (0x0C, .rowsum), (0x0D, .rowmax), (0x0E, .accum), (0x0F, .copy),
   (0x10, .gather), (0x11, .stageLocal), (0x12, .stageReduce), (0x13, .adamw), (0x14, .adam), (0x15, .sgdm),
   (0x16, .trustNorm), (0x17, .trustApply)]

/-- The stack issues its line's instruction, whose word is no illegal one. -/
def Sys2Proof.Claims.StackIssues (s : State) (i : Nat) : Prop := s.stackIssues i = true ∧ s.lineBad i = false

/-- What an outcome of a legal stack operation of a code holds (R163, R165, R166): it is a next state, each engine of the set is occupied for
the operation's groups times the occupancy of one; the first group is read at once, and with more groups the run goes on; block
state, the memories and the sheaf stay. -/
def Sys2Proof.Claims.Occupies (s : State) (i : Fin 12) (f : SFields) (code : Nat) (o : Host.Outcome State Fault Refusal) : Prop :=
  let k := s.stack i
  let c := s.cyc (stackRegion i)
  let set := k.tables.eset.getD f.eset.toNat 0
  let groups := if code = 0x12 then 1 else f.count.toNat + 1
  let span := groups * occupancy k code f (k.tables.kdesc.getD f.kdesc.toNat {})
  ∃ t, o = .next t ∧
    (∀ e < 64, get 0 (t.stack i).busy e = if set.getLsbD e then c + span else get 0 k.busy e) ∧
    (2 ≤ groups → ∃ r ∈ (t.stack i).runs, r.code = code ∧ r.issue = c ∧ r.groups = groups ∧ r.next = 1 ∧
      r.engines.map (·.engine) = (List.range 64).filter (fun e => set.getLsbD e)) ∧
    (∀ j, j ≠ i.val → t.stack j = s.stack j) ∧ t.blocks = s.blocks ∧ t.mem = s.mem ∧ t.egress = s.egress ∧ t.sheaf = s.sheaf ∧
    t.job = s.job ∧ t.regions = s.regions ∧ (t.stack i).tables = k.tables ∧ (t.stack i).seq = { k.seq with issued := true }

/-- A legal stack operation whose engines are all free runs: ADD, SUB, MUL, FMA, AXPBY, MIN, MAX, CVT, QUANT_MX, DIV, SQRT, ROWSUM, ROWMAX,
ACCUM, COPY, GATHER, STAGE_LOCAL, STAGE_REDUCE, ADAMW, ADAM, SGDM, TRUST_NORM and TRUST_APPLY (R163, R165, R166). -/
def Sys2Proof.Claims.StackOperationsRun : Prop :=
  ∀ (s : State) (i : Fin 12) (f : SFields), Claims.StackIssues s i →
    (∀ e < 64, ((s.stack i).tables.eset.getD f.eset.toNat 0).getLsbD e = true → get 0 (s.stack i).busy e ≤ s.cyc (stackRegion i)) →
    ((Instr.add i f).wellFormed = true → Claims.Occupies s i f 0x01 (exec (.add i f) s)) ∧
    ((Instr.sub i f).wellFormed = true → Claims.Occupies s i f 0x02 (exec (.sub i f) s)) ∧
    ((Instr.mul i f).wellFormed = true → Claims.Occupies s i f 0x03 (exec (.mul i f) s)) ∧
    ((Instr.fma i f).wellFormed = true → Claims.Occupies s i f 0x04 (exec (.fma i f) s)) ∧
    ((Instr.axpby i f).wellFormed = true → Claims.Occupies s i f 0x05 (exec (.axpby i f) s)) ∧
    ((Instr.min i f).wellFormed = true → Claims.Occupies s i f 0x06 (exec (.min i f) s)) ∧
    ((Instr.max i f).wellFormed = true → Claims.Occupies s i f 0x07 (exec (.max i f) s)) ∧
    ((Instr.cvt i f).wellFormed = true → Claims.Occupies s i f 0x08 (exec (.cvt i f) s)) ∧
    ((Instr.quantMx i f).wellFormed = true → Claims.Occupies s i f 0x09 (exec (.quantMx i f) s)) ∧
    ((Instr.div i f).wellFormed = true → Claims.Occupies s i f 0x0A (exec (.div i f) s)) ∧
    ((Instr.sqrt i f).wellFormed = true → Claims.Occupies s i f 0x0B (exec (.sqrt i f) s)) ∧
    ((Instr.rowsum i f).wellFormed = true → Claims.Occupies s i f 0x0C (exec (.rowsum i f) s)) ∧
    ((Instr.rowmax i f).wellFormed = true → Claims.Occupies s i f 0x0D (exec (.rowmax i f) s)) ∧
    ((Instr.accum i f).wellFormed = true → Claims.Occupies s i f 0x0E (exec (.accum i f) s)) ∧
    ((Instr.copy i f).wellFormed = true → Claims.Occupies s i f 0x0F (exec (.copy i f) s)) ∧
    ((Instr.gather i f).wellFormed = true → Claims.Occupies s i f 0x10 (exec (.gather i f) s)) ∧
    ((Instr.stageLocal i f).wellFormed = true → Claims.Occupies s i f 0x11 (exec (.stageLocal i f) s)) ∧
    ((Instr.stageReduce i f).wellFormed = true → Claims.Occupies s i f 0x12 (exec (.stageReduce i f) s)) ∧
    ((Instr.adamw i f).wellFormed = true → Claims.Occupies s i f 0x13 (exec (.adamw i f) s)) ∧
    ((Instr.adam i f).wellFormed = true → Claims.Occupies s i f 0x14 (exec (.adam i f) s)) ∧
    ((Instr.sgdm i f).wellFormed = true → Claims.Occupies s i f 0x15 (exec (.sgdm i f) s)) ∧
    ((Instr.trustNorm i f).wellFormed = true → Claims.Occupies s i f 0x16 (exec (.trustNorm i f) s)) ∧
    ((Instr.trustApply i f).wellFormed = true → Claims.Occupies s i f 0x17 (exec (.trustApply i f) s))

/-- A stack operation with an engine of its set still busy is dropped with the plan fault BUSY (R165, R182). -/
def Sys2Proof.Claims.BusyEngineDropsOperation : Prop :=
  ∀ (s : State) (i : Fin 12) (f : SFields), ∀ p ∈ Claims.stackOps, Claims.StackIssues s i → (p.2 i f).wellFormed = true →
    let k := s.stack i
    let set := k.tables.eset.getD f.eset.toNat 0
    (∃ e < 64, set.getLsbD e = true ∧ s.cyc (stackRegion i) < get 0 k.busy e) →
    ∃ t, exec (p.2 i f) s = .next t ∧ (t.stack i).busy = k.busy ∧ (t.stack i).runs = k.runs ∧ (t.stack i).writes = k.writes ∧
      (t.stack i).planFaults = satInc k.planFaults ∧ bit (t.stack i).err 6 = true ∧
      (bit k.err 6 = false → (t.stack i).planFaultInfo.toNat % 8 = 2) ∧ t.mem = s.mem ∧ t.sheaf = s.sheaf

/-- A stack instruction that breaks the field rules is illegal (R160, R163, R182). -/
def Sys2Proof.Claims.IllegalStackInstructionAborts : Prop :=
  ∀ (s : State) (i : Fin 12) (f : SFields) (l : Fin 4) (trip : BitVec 8) (cause : IllegalCause), s.stackIssues i = true →
    (s.stack i).seq.reported = false → s.relay = false → s.inCommit = false →
    let bad (o : Host.Outcome State Fault Refusal) : Prop := ∃ t, o = .next t ∧ bit (t.stack i).err 4 = true ∧ t.fault.abort.isSome = true ∧
      t.fault.nextSeq = s.fault.nextSeq + 1 ∧ (t.stack i).busy = (s.stack i).busy ∧ t.mem = s.mem ∧
      ∀ j, j ≠ i.val → t.stack j = s.stack j
    (∀ p ∈ Claims.stackOps, ((p.2 i f).wellFormed = false ∨ s.lineBad i = true) → bad (exec (p.2 i f) s)) ∧
    ((s.stack i).seq.active l = true → bad (exec (.stackLoopBegin i l trip) s)) ∧
    ((s.stack i).seq.active l = false → bad (exec (.stackLoopEnd i l) s)) ∧ bad (exec (.illegalStackInstruction i cause) s)

/-- An operand of one engine that lies in its staging partition, whole and aligned (R162). -/
def Sys2Proof.Claims.Staged (k : Stack) (ar len off : Nat) : Prop :=
  (k.tables.ar.getD (ar % 64) {}).space = .staging ∧
    sarEffective (k.tables.ar.getD (ar % 64) {}) k.seq.iters = (off : Int) ∧ off % 256 = 0 ∧ off + len ≤ 2 ^ 18

/-- Element `j` of an operand in a format, as FP32 (R158). -/
def Sys2Proof.Claims.element (bs : List Byte) (c : CvtFmt) (j : Nat) : Word32 := widenPlain c (elemAt c.bits (leNat bs) j)

/-- One group of an element-wise operation in one engine, its operands in the staging store (R158, R165, R166): 64 results,
each narrowed to FMT_OUT under MODE, are posted for the destination, readable ω = 4 cycles after the group leaves the
engine. -/
def Sys2Proof.Claims.StackElementResults : Prop :=
  ∀ (s : State) (i : Fin 12) (f : SFields) (e a b c d : Nat), Claims.StackIssues s i → s.debugMode = false → e < 64 →
    let k := s.stack i
    let now := s.cyc (stackRegion i)
    let fi := (cvtFmt f.fmtIn.toNat).getD (.plain .fp32)
    let fo := (cvtFmt f.fmtOut.toNat).getD (.plain .fp32)
    let kd := k.tables.kdesc.getD f.kdesc.toNat {}
    let operand (off : Nat) (cf : CvtFmt) (j : Nat) : Word32 :=
      Claims.element (s.stackBytes i (stageBase i e + off) (8 * cf.bits) now) cf j
    let u (j : Nat) : Nat := if f.mode = 2 then s.stackDraw i k.seq.iters f.key.toNat e j else 0
    k.tables.eset.getD f.eset.toNat 0 = BitVec.ofNat 64 (2 ^ e) → get 0 k.busy e ≤ now → f.count = 0 →
    Claims.Staged k f.ara (8 * fi.bits) a → Claims.Staged k f.ard (8 * fo.bits) d → (∀ off, s.weakness (stageBase i e + off) (8 * fi.bits) = 0) →
    (∀ off, s.weakness (stageBase i e + off) (8 * fo.bits) = 0) →
    let A := operand a fi
    let B := operand b fi
    let C := operand c fi
    let D := operand d fo
    let hasB : Prop := Claims.Staged k f.arb (8 * fi.bits) b
    let hasC : Prop := Claims.Staged k f.arc (8 * fi.bits) c
    let leaves (op : Instr) (needs : Prop) (lat occ : Nat) (x : Nat → Word32) : Prop := op.wellFormed = true → needs → ∃ t, exec op s = .next t ∧
      (∃ w ∈ (t.stack i).writes, w.cycle = now + 6 + lat + occ - 1 + 4 ∧ w.addr = stageBase i e + d ∧
        w.bytes.length = 8 * fo.bits ∧ ∀ j < 64, elemAt fo.bits (leNat w.bytes) j =
          cvtPlain fo (if f.mode = 2 then .sr else if f.mode = 1 then .rtz else .rne) (u j) (x j) % 2 ^ fo.bits) ∧
      t = { s with stks := t.stks } ∧ (∀ j, j ≠ i.val → t.stack j = s.stack j) ∧
      t.stack i = { k with busy := (t.stack i).busy, writes := (t.stack i).writes, acc := (t.stack i).acc
                           seq := { k.seq with issued := true } } ∧
      (f.hash = false → (t.stack i).acc = k.acc)
    let occ (n : Nat) : Nat := max (ceilDiv (n * (8 * fi.bits)) 256) (max (ceilDiv (8 * fo.bits) 256) 1)
    leaves (.add i f) hasB 4 (occ 2) (fun j => fadd (A j) (B j)) ∧
    leaves (.sub i f) hasB 4 (occ 2) (fun j => fadd (A j) (B j ^^^ 0x80000000)) ∧
    leaves (.mul i f) hasB 4 (occ 2) (fun j => fmul (A j) (B j)) ∧
    leaves (.fma i f) (hasB ∧ hasC) 5 (occ 3) (fun j => ffma (A j) (B j) (C j)) ∧
    leaves (.axpby i f) hasB 9 (occ 2) (fun j => ffma kd.b1 (A j) (fmul kd.b2 (B j))) ∧
    leaves (.min i f) hasB 2 (occ 2) (fun j => fmin (A j) (B j)) ∧
    leaves (.max i f) hasB 2 (occ 2) (fun j => fmax (A j) (B j)) ∧
    leaves (.cvt i f) True 3 (occ 1) A ∧
    leaves (.div i f) hasB (if s.lp2 then 20 else 28) (max (occ 2) 4) (fun j => fdiv (A j) (B j)) ∧
    leaves (.sqrt i f) True (if s.lp2 then 20 else 28) (max (occ 1) 4) (fun j => fsqrt (A j)) ∧
    leaves (.accum i f) True 4
      (max (ceilDiv (8 * fi.bits + 8 * fo.bits) 256) (max (ceilDiv (8 * fo.bits) 256) 1)) (fun j => fadd (D j) (A j))

/-- The elements of the optimizer kernels (R169, R170), FP32 operation by operation: ADAMW with decoupled decay, ADAM with
the decay in the gradient, SGDM, TRUST_NORM's direction and TRUST_APPLY. -/
def Sys2Proof.Claims.OptimizerKernelElements : Prop :=
  ∀ (kd : KDesc) (sc : StepScalars) (lr gs ratio w m v g : Word32),
    let gw := fmul g gs
    let gd := ffma kd.wd w gw
    let m1 (x : Word32) := ffma kd.b1 m (fmul sc.c1 x)
    let v1 (x : Word32) := ffma kd.b2 v (fmul sc.c2 (fmul x x))
    let u (x : Word32) := fdiv (fmul (m1 x) sc.r1) (fadd (fsqrt (fmul (v1 x) sc.r2)) kd.eps)
    (let r := kernelOp 0x13 kd sc lr gs ratio w m v g
     r.m = m1 gw ∧ r.v = v1 gw ∧ r.w = fsub w (fmul lr (ffma kd.wd w (u gw)))) ∧
    (let r := kernelOp 0x14 kd sc lr gs ratio w m v g
     r.m = m1 gd ∧ r.v = v1 gd ∧ r.w = fsub w (fmul lr (u gd))) ∧
    (let r := kernelOp 0x15 kd sc lr gs ratio w m v g
     r.m = ffma kd.b1 m gd ∧ r.w = fsub w (fmul lr (ffma kd.b1 m gd))) ∧
    (let r := kernelOp 0x16 kd sc lr gs ratio w m v g
     r.m = m1 gw ∧ r.v = v1 gw ∧ r.ua = ffma kd.wd w (u gw)) ∧
    (kernelOp 0x17 kd sc lr gs ratio w m v g).w = ffma (fmul lr ratio ^^^ 0x80000000) g w

/-- The fixed tree (R100, R166, R173) adds neighbours first, and a lone last value passes through unchanged. -/
def Sys2Proof.Claims.FixedTreeOrder : Prop :=
  ∀ (op : Word32 → Word32 → Word32) (d : Word32) (xs : List Word32),
    treeCombine op d [] = d ∧ (∀ x, treeCombine op d [x] = x) ∧
    (2 ≤ xs.length → treeCombine op d xs = treeCombine op d (pairUp op xs)) ∧
    (∀ k, 2 * k + 1 < xs.length → (pairUp op xs)[k]? = some (op (xs.getD (2 * k) 0) (xs.getD (2 * k + 1) 0))) ∧
    (∀ k, xs.length = 2 * k + 1 → (pairUp op xs)[k]? = xs[2 * k]?)

/-- The control instructions of a stack (R135, R136, R164): a wait on a ready group proceeds, one on another gates the
region; the loops as in a block; SHEAF_END ends the stream, and in the step's last sheaf with nothing under way the digest is the XOR
of the 64 accumulators and valid (R176), but for a relay, whose engines hash nothing (R279). -/
def Sys2Proof.Claims.StackControl : Prop :=
  ∀ (s : State) (i : Fin 12) (g : Fin 64) (l : Fin 4) (trip : BitVec 8) (x : LoopLevel) (rest : List LoopLevel),
    Claims.StackIssues s i → s.debugMode = false →
    let k := s.stack i
    let issued : Sequencer := { k.seq with issued := true }
    (k.groups.ready g = true → exec (.stackWait i g) s = .next (s.onStack i (fun k => { k with seq := issued }))) ∧
    (k.groups.ready g = false → ∃ t, exec (.stackWait i g) s = .next t ∧ t = { s with stks := t.stks, regions := t.regions } ∧
      t.stack i = { k with seq := { issued with waiting := some (g.val, 0) } } ∧ (∀ j, j ≠ i.val → t.stack j = s.stack j) ∧
      t.region (stackRegion i) = { s.region (stackRegion i) with stall := some .arrival }) ∧
    ((∀ y ∈ k.seq.loops, y.level ≠ l.val) → exec (.stackLoopBegin i l trip) s = .next (s.onStack i (fun k => { k with
      seq := { issued with loops := { level := l, iter := 0, trip := k.tables.trip.getD trip.toNat 0, body := k.seq.line + 1 } ::
        k.seq.loops } }))) ∧
    (k.seq.loops = x :: rest → x.level = l.val → (∀ y ∈ rest, y.level ≠ l.val) →
      (x.iter + 1 < x.trip → exec (.stackLoopEnd i l) s = .next (s.onStack i (fun k => { k with
        seq := { issued with loops := { x with iter := x.iter + 1 } :: rest, jump := some x.body } }))) ∧
      (x.trip ≤ x.iter + 1 → exec (.stackLoopEnd i l) s = .next (s.onStack i (fun k => { k with
        seq := { issued with loops := rest } })))) ∧
    (∃ t, exec (.stackSheafEnd i) s = .next t ∧ (t.stack i).seq = { issued with ended := true } ∧ t.mem = s.mem ∧
      (∀ j, j ≠ i.val → t.stack j = s.stack j) ∧
      (s.relay = false → s.stepLen ≤ s.sheaf.sheafInStep.toNat + 1 → k.runs = [] → k.digestValid = false →
        (t.stack i).digestValid = true ∧
        (t.stack i).digest = ((List.range 64).map (get 0 k.acc)).foldl (· ^^^ ·) 0) ∧
      ((s.relay = true ∨ s.sheaf.sheafInStep.toNat + 1 < s.stepLen ∨ k.runs ≠ []) → t = { s with stks := t.stks }))

/-- Refresh (R177 to R179): a tREFI step raises the bank group's debt by 1, the debt of 4 forces a refresh and gates the
region for 96 periods, a planned refresh in a REFRESH slice pays one back where no command's parity fails, and an idle region pays
all back. -/
def Sys2Proof.Claims.RefreshDebt : Prop :=
  ∀ (s : State) (i : Fin 12) (pc : Fin 64) (bg : Fin 16),
    let k := s.stack i
    let g := pc.val * 16 + bg.val
    let d := get 0 k.debt g
    (∃ t, exec (.refreshDebtIncrement i pc bg) s = .next t ∧ t = { s with stks := t.stks } ∧
      (∀ j, j ≠ i.val → t.stack j = s.stack j) ∧
      t.stack i = { k with debt := put 0 k.debt g (d + 1), debtMax := (t.stack i).debtMax, forced := (t.stack i).forced
                           gate := (t.stack i).gate } ∧
      (t.stack i).debtMax.toNat = max k.debtMax.toNat (min (d + 1) 7) ∧
      (d ≠ 3 → (t.stack i).forced = k.forced ∧ (t.stack i).gate = k.gate) ∧
      (d = 3 → (t.stack i).forced = k.forced ++ [g] ∧ (k.gate = 0 → (t.stack i).gate = 96))) ∧
    (s.stackRuns i = true → sliceOwner k.slices pc bg (s.cyc (stackRegion i) / 32) = 3 → (∀ u ∈ s.weak, u.2 ≠ 3) →
      exec (.plannedRefresh i pc bg) s = .next (s.onStack i (fun k => { k with debt := put 0 k.debt g (get 0 k.debt g - 1) }))) ∧
    (s.stackRuns i = false → (s.job.phase ≠ .running ∨ s.nowNs + 2000 ≤ s.tickTime) →
      exec (.autonomousRefresh i) s = .next (s.onStack i (fun k => { k with debt := [], autoRefresh := true })))

/-! Clock regions, crossings and their history -/

/-- One region's record becomes `g`; the rest of the machine stays as it is. -/
def Sys2Proof.Claims.OnlyRegion (s t : State) (r : Nat) (g : Region) : Prop :=
  t = { s with regions := t.regions } ∧ t.region r = g ∧ ∀ x, x ≠ r → t.region x = s.region x

/-- The margin code of an active region is stored, its minimum kept, and a code below 8 also sets MARGIN_LOW and writes an
entry of severity 0 (R66, R84). -/
def Sys2Proof.Claims.MarginMeasured : Prop :=
  ∀ (s : State) (r : Fin 33) (code : BitVec 6), (s.region r).active = true →
    ∃ t, exec (.marginMeasure r code) s = .next t ∧ t = { s with regions := t.regions, fault := t.fault } ∧
      t.region r = { s.region r with
        margin := code, measured := true, marginLow := (s.region r).marginLow || decide (code.toNat < 8)
        least := if (s.region r).measured = true ∧ (s.region r).least.toNat ≤ code.toNat then (s.region r).least else code } ∧
      (∀ x, x ≠ r.val → t.region x = s.region x) ∧ (8 ≤ code.toNat → t.fault = s.fault) ∧
      (code.toNat < 8 → ∃ e, t.fault.log.getLast? = some e ∧ e.code = 0x0201)

/-- Droop warnings and holds (R68, R69, R76): a warning in a region whose clock can follow stands for its next period, which
then lasts half a period longer and counts once in STRETCHES; one in a network region or the I/O region is counted and logged; held
time counts in whole periods and the remainder carries. -/
def Sys2Proof.Claims.DroopAndHolds : Prop :=
  ∀ (s : State) (r : Fin 33) (held : Nat), (s.region r).active = true →
    let g := s.region r
    let held' := if gateable r then held else 65536 * ((held + 65535) / 65536)
    (gateable r = true → ∃ t, exec (.droopWarning r) s = .next t ∧ Claims.OnlyRegion s t r { g with warned := true }) ∧
    (let t := s.runPeriod r true
     (t.region r).cycle = g.cycle + 1 ∧ (t.region r).stretches = satInc g.stretches ∧ (t.region r).lag = g.lag + 32768) ∧
    (let t := s.runPeriod r false
     (t.region r).cycle = g.cycle + 1 ∧ (t.region r).stretches = g.stretches ∧ (t.region r).lag = g.lag) ∧
    (gateable r = false → ∃ t, exec (.droopWarning r) s = .next t ∧ t = { s with regions := t.regions, fault := t.fault } ∧
      t.region r = { g with netDroop := satInc g.netDroop } ∧ ∃ e, t.fault.log.getLast? = some e ∧ e.code = 0x0205) ∧
    (∃ t, exec (.crossingHold r held) s = .next t ∧ Claims.OnlyRegion s t r { g with
      xhold := satAdd g.xhold ((g.xrem + held') / 65536), xrem := (g.xrem + held') % 65536, holdLeft := g.holdLeft + held' }) ∧
    (∃ t, exec (.leadHold r held) s = .next t ∧ Claims.OnlyRegion s t r { g with
      leadHold := satAdd g.leadHold ((g.lrem + held') / 65536), lrem := (g.lrem + held') % 65536
      holdLeft := g.holdLeft + held' })

/-- A crossing releases its earliest token that the receiver has reached (R72): rows reach the block's SRAM in the next
cycle, at the rank of the move that issued them (R116), a signal counts in its group, egress bytes stand in the region's buffer, and a write to HBM in an IFACE slice
whose command's parity does not fail becomes visible 64 cycles later.  Nothing else changes. -/
def Sys2Proof.Claims.CrossingDelivers : Prop :=
  ∀ (s : State) (src dst : Fin 33) (k : Token), s.nextToken src dst = some k → Claims.Clocked s dst →
    s.debugMode = false →
    let left := s.tokens.erase k
    (∀ b off bs rank, k.payload = .rows b off bs rank → (s.block b).isolated = false → ∃ t, exec (.crossingRelease src dst true) s = .next t ∧
      t = { s with tokens := left, blocks := t.blocks } ∧ (∀ x, x ≠ b → t.block x = s.block x) ∧
      t.block b = { s.block b with pend := (s.block b).pend ++
        [{ cycle := k.release + 1, rank := rank, act := .sram off bs }] }) ∧
    (∀ b g, k.payload = .signal b g → (s.block b).isolated = false → (s.block b).groups.have g < (s.block b).groups.expect g →
      ∃ t, exec (.crossingRelease src dst true) s = .next t ∧ t = { s with tokens := left, blocks := t.blocks } ∧
        (∀ x, x ≠ b → t.block x = s.block x) ∧ (t.block b).groups.have g = (s.block b).groups.have g + 1 ∧
        (∀ h, h ≠ g → (t.block b).groups.have h = (s.block b).groups.have h) ∧
        t.block b = { s.block b with groups := (t.block b).groups }) ∧
    (∀ a bs, k.payload = .egress a bs → ∃ t, exec (.crossingRelease src dst true) s = .next t ∧
      t = { s with tokens := left, egress := t.egress } ∧ readBytes t.egress a bs.length = bs ∧
      ∀ x, (x < a ∨ a + bs.length ≤ x) → readByte t.egress x = readByte s.egress x) ∧
    (∀ b a bs l, k.payload = .hbmWrite b a bs l → ifaceOk (s.stack (stackOf a)).slices a 2048 k.release = true → (∀ u ∈ s.weak, u.2 ≠ 3) →
      ∃ t, exec (.crossingRelease src dst true) s = .next t ∧ t = { s with tokens := left, stks := t.stks } ∧
        { cycle := k.release + 64, addr := a, bytes := bs, owner := some b } ∈ (t.stack (stackOf a)).writes ∧
        ∀ x, x ≠ stackOf a → t.stack x = s.stack x) ∧
    (∀ b off bs rank, k.payload = .hbmData b off bs rank → (s.block b).isolated = false → ∃ t, exec (.crossingRelease src dst true) s = .next t ∧
      t = { s with tokens := left, blocks := t.blocks } ∧ (∀ x, x ≠ b → t.block x = s.block x) ∧
      t.block b = { s.block b with pend := (s.block b).pend ++
        [{ cycle := k.release + 1, rank := rank, act := .sram off bs }] }) ∧
    (∀ l q, k.payload = .rota l q → ∃ t, exec (.crossingRelease src dst true) s = .next t ∧
      t = { s with tokens := left, links := t.links } ∧ (∀ h ∈ (t.link l).replay, h.seq = q → h.crossing = false) ∧
      ∀ x, x ≠ l → t.link x = s.link x)

/-- A signal beyond its group's expected count, or data for an isolated block, is discarded (R142, R413): the group that
can no longer complete fails, and the step of a compute module outside commit is to be aborted; a CRC mismatch at a release
is counted and aborts as well, and the data is delivered with error status (R79). -/
def Sys2Proof.Claims.BadCrossingsAbort : Prop :=
  ∀ (s : State) (src dst : Fin 33) (k : Token), s.nextToken src dst = some k → Claims.Clocked s dst →
    s.relay = false → s.inCommit = false →
    (∀ b g, k.payload = .signal b g → (s.block b).isolated = false → (s.block b).groups.expect g ≤ (s.block b).groups.have g →
      ∃ t, exec (.crossingRelease src dst true) s = .next t ∧ bit (t.block b).groups.failed g = decide (g < 64) ∧
        bit (t.block b).err 12 = true ∧ t.fault.abort.isSome = true ∧ t.mem = s.mem) ∧
    (∀ b off bs rank, k.payload = .rows b off bs rank → (s.block b).isolated = true →
      ∃ t, exec (.crossingRelease src dst true) s = .next t ∧ t.mem = s.mem ∧ t.blocks = s.blocks ∧
        ∃ e, t.fault.log.getLast? = some e ∧ e.code = 0x0131) ∧
    (∀ a bs, k.payload = .egress a bs → ∃ t, exec (.crossingRelease src dst false) s = .next t ∧
      (t.region dst).xcrc = satInc (s.region dst).xcrc ∧ (src.val, k.release) ∈ (t.region dst).badData ∧ t.fault.abort.isSome = true ∧
      readBytes t.egress a bs.length = bs ∧ t.mem = s.mem)

/-- The temper history (R80, R81, R429): a sample adds one to its code of every active region while a job runs; a commit
saves the week as it stands; a week's end takes a median from at least 1,000 samples and starts a new week. -/
def Sys2Proof.Claims.TemperHistory : Prop :=
  ∀ (s : State) (r : Nat), r < 33 →
    (s.jobRuns = true → ∃ t, exec .temperSample s = .next t ∧ t = { s with granary := { s.granary with temper := t.granary.temper } } ∧
      (∀ c, get 0 (t.temper r).samples c = get 0 (s.temper r).samples c +
        (if (s.region r).active = true ∧ c = (s.region r).margin.toNat then 1 else 0))) ∧
    (s.granary.mram = true → ∃ t, exec .temperWeekCommit s = .next t ∧
      (t.temper r).samples = (s.temper r).samples ∧ (t.temper r).saved = (s.temper r).samples ∧
      t.granary.commits = satInc s.granary.commits ∧ t = { s with granary := t.granary }) ∧
    (∃ t, exec .temperWeekEnd s = .next t ∧ (t.temper r).samples = [] ∧ (t.temper r).steps = (s.temper r).steps ∧
      ((s.temper r).samples.foldl (fun a x => a + x.2) 0 < 1000 → (t.temper r).medians = (s.temper r).medians) ∧
      (1000 ≤ (s.temper r).samples.foldl (fun a x => a + x.2) 0 →
        (t.temper r).medians = newest 520 ((s.temper r).medians ++ [medianOf (s.temper r).samples])) ∧ t.mem = s.mem ∧ t.blocks = s.blocks)

/-! Tier moves -/

/-- the tier-move engines (R186, R198 to R204): a planned move starts in list order once its cycle is reached; it can end only once
each of its bank groups has had an IFACE slice; then its bytes stand at the destination, zeros for what lies outside the engine's
populated channel, and it counts; late completions are counted; background work runs only between planned moves.  An uncorrectable
error of its source is one of DDR5 (R204) or of the interface path of HBM (R182).  The engines of a relay stay idle (R272). -/
def Obligations.TierMoves : Prop :=
  ∀ (s : State) (c : Fin 12) (m : TierMove) (rest : List TierMove) (r : MoveRun),
    let k := s.chan c
    let now := s.cyc ioRegion
    let only (t : State) (d : Ddr) : Prop := t = { s with ddr := t.ddr } ∧ t.chan c = d ∧ ∀ x, x ≠ c.val → t.chan x = s.chan x
    (s.relay = true → exec (.tierMoveStart c) s = .next s ∧ exec (.backgroundMove c .start) s = .next s) ∧
    (s.relay = false → k.queue = m :: rest → k.run = none → m.start ≤ now → ∃ t, exec (.tierMoveStart c) s = .next t ∧ only t { k with
      run := some { move := m, began := now, slot := s.cyc (stackRegion (stackOf m.hbmAddr)) }, queue := rest, suspended := k.suspended || k.background
      suspends := if k.background = true ∧ k.suspended = false then satInc k.suspends else k.suspends }) ∧
    (k.run = some r → s.moveServed r = false → ∀ ue, exec (.tierMoveComplete c ue) s = .next s) ∧
    (k.run = some r → s.moveServed r = true → r.move.toHbm = true → r.move.hbmAddr + 2048 * r.move.units ≤ hbmSize → s.weakness r.move.ddrAddr (2048 * r.move.units) = 0 → r.move.toStack = true →
      (s.stack r.move.targetUnit).groups.have r.move.group < (s.stack r.move.targetUnit).groups.expect r.move.group →
      s.Inv →
      ∃ t, exec (.tierMoveComplete c false) s = .next t ∧ (t.chan c).run = none ∧ (t.chan c).moves = satInc k.moves ∧
        (t.chan c).late = (if r.move.stop < now then satInc k.late else k.late) ∧
        (t.stack r.move.targetUnit).groups.have r.move.group = (s.stack r.move.targetUnit).groups.have r.move.group + 1 ∧
        (∀ j < 2048 * r.move.units, readByte t.mem (r.move.hbmAddr + j) =
          if s.ddrReaches r.move.engine (r.move.ddrAddr + j) = true then readByte s.mem (r.move.ddrAddr + j) else 0) ∧
        (∀ a, (a < r.move.hbmAddr ∨ r.move.hbmAddr + 2048 * r.move.units ≤ a) → readByte t.mem a = readByte s.mem a) ∧
        t = { s with mem := t.mem, weak := t.weak, ddr := t.ddr, stks := t.stks }) ∧
    (k.run = some r → s.moveServed r = true → r.move.toHbm = false → r.move.hbmAddr + 2048 * r.move.units ≤ hbmSize →
      s.weakness r.move.hbmAddr (2048 * r.move.units) = 0 → (∀ i, (s.stack i).writes = []) → r.move.toStack = true →
      (s.stack r.move.targetUnit).groups.have r.move.group < (s.stack r.move.targetUnit).groups.expect r.move.group →
      s.Inv →
      ∃ t, exec (.tierMoveComplete c false) s = .next t ∧ (t.chan c).run = none ∧ (t.chan c).moves = satInc k.moves ∧
        (∀ j < 2048 * r.move.units, readByte t.mem (r.move.ddrAddr + j) =
          if s.ddrReaches r.move.engine (r.move.ddrAddr + j) = true then readByte s.mem (r.move.hbmAddr + j)
          else readByte s.mem (r.move.ddrAddr + j)) ∧
        ∀ a, (a < r.move.ddrAddr ∨ r.move.ddrAddr + 2048 * r.move.units ≤ a) → readByte t.mem a = readByte s.mem a) ∧
    (k.run = some r → s.moveServed r = true → r.move.toHbm = true → s.weakness r.move.ddrAddr (2048 * r.move.units) = 0 →
      r.move.toStack = true →
      (s.stack r.move.targetUnit).groups.have r.move.group < (s.stack r.move.targetUnit).groups.expect r.move.group →
      s.relay = false → s.inCommit = false →
      ∃ t, exec (.tierMoveComplete c true) s = .next t ∧ (t.chan c).ue = true ∧ r.move.ddrAddr ∈ (t.chan c).restore ∧
        t.fault.abort.isSome = true ∧ (t.chan c).moves = satInc k.moves) ∧
    (k.run = some r → s.moveServed r = true → r.move.toHbm = false → 0 < r.move.units → r.move.hbmAddr < hbmSize →
      s.relay = false → s.inCommit = false →
      ∃ t, exec (.tierMoveComplete c true) s = .next t ∧ bit (t.stack (stackOf r.move.hbmAddr)).err 2 = true ∧
        t.fault.abort.isSome = true ∧ (t.chan c).run = none ∧ (t.chan c).moves = satInc k.moves ∧ (t.chan c).restore = k.restore) ∧
    (s.relay = false → k.run = none → (∀ x ∈ k.queue, now < x.start) → ∃ t, exec (.backgroundMove c .start) s = .next t ∧
      only t { k with background := true }) ∧
    (k.run = none → k.queue = [] → ∃ t, exec (.backgroundMove c .resume) s = .next t ∧ only t { k with suspended := false }) ∧
    (k.background = true → k.suspended = false → ∃ t, exec (.backgroundMove c (.finish false)) s = .next t ∧
      only t { k with background := false })

/-! The granary -/

/-- An update of a NOR record (R420, R421): with both devices, no update under way and the hour past, both devices hold the
body in the older slot under the next generation, the newer slot stays, and a read takes the new copy; one within the hour is
held and counted in DEFERRED (R426). -/
def Sys2Proof.Claims.GranaryUpdateProcedure : Prop :=
  ∀ (s : State) (r : GranaryRec) (body : List Byte) (e : UpdateEnd),
    let ty := recCode r
    let old := s.record ty
    norRecords.contains ty = true → old.running = none → s.granary.pfActive = false →
    (old.recent = false → s.granary.nor0 = true → s.granary.nor1 = true → old.stopA = false → old.stopB = false →
      old.eraseMax + 1 < 80000 → ∃ t, exec (.granaryUpdate r body .written) s = .next t ∧
        (t.record ty).read.map (·.body) = some body ∧ (t.record ty).newest = old.newest + 1 ∧
        (old.slotOne = true → (t.record ty).a0 = old.a0 ∧ (t.record ty).b0 = old.b0 ∧ (t.record ty).a1 = (t.record ty).b1) ∧
        (old.slotOne = false → (t.record ty).a1 = old.a1 ∧ (t.record ty).b1 = old.b1 ∧ (t.record ty).a0 = (t.record ty).b0) ∧
        (∀ x, x ≠ ty → t.record x = s.record x) ∧ t.granary.commits = satInc s.granary.commits ∧ t = { s with granary := t.granary }) ∧
    (old.recent = true → ∃ t, exec (.granaryUpdate r body e) s = .next t ∧ (t.record ty).held = some body ∧
      (t.record ty).a0 = old.a0 ∧ (t.record ty).a1 = old.a1 ∧ (t.record ty).b0 = old.b0 ∧ (t.record ty).b1 = old.b1 ∧
      t.granary.deferred = satInc s.granary.deferred ∧ t = { s with granary := t.granary })

/-- The hour's end commits what is held (R426); a fold moves every repair up to the newest into the map and empties the
delta (R427); the minute, the laser hour and the rollback counter are committed (R425, R432). -/
def Sys2Proof.Claims.GranaryCommits : Prop :=
  ∀ (s : State) (r : GranaryRec) (body : List Byte) (bias : List (Nat × Nat)) (worst : Nat),
    let g := s.granary
    let map := s.record 0x10
    (norRecords.contains (recCode r) = true → (s.record (recCode r)).held = some body → (s.record (recCode r)).running = none →
      g.pfActive = false → g.nor0 = true → g.nor1 = true → (s.record (recCode r)).stopA = false →
      (s.record (recCode r)).stopB = false → (s.record (recCode r)).eraseMax + 1 < 80000 →
      ∃ t, exec (.norDeferExpiry r .written) s = .next t ∧ (t.record (recCode r)).held = none ∧
        (t.record (recCode r)).read.map (·.body) = some body ∧ t = { s with granary := t.granary }) ∧
    (g.delta ≠ [] → g.pfActive = false → map.running = none → (map.recent = false ∨ 3584 ≤ g.delta.length) → g.nor0 = true →
      g.nor1 = true → map.stopA = false → map.stopB = false → map.eraseMax + 1 < 80000 → (∀ d ∈ g.delta, d.seq ≤ g.deltaSeq) →
      ∃ t, exec (.repairFold .written) s = .next t ∧ t.granary.repairMap = g.repairMap ++ g.delta ∧ t.granary.delta = [] ∧
        t.granary.lastFolded = g.deltaSeq ∧ t.granary.foldPending = false ∧ t = { s with granary := t.granary }) ∧
    (∃ t, exec .countersCommit s = .next t ∧ t.granary.powerMinutes = g.powerMinutes + 1 ∧ t = { s with granary := t.granary }) ∧
    (worst < 1300 → (s.granary.laserLit = []) → (s.record 0x40).eraseMax + 1 < 80000 →
      ∃ t, exec (.laserCommit bias worst) s = .next t ∧ t.granary.laserBias = bias.foldl (fun m b => put 0 m b.1 b.2) g.laserBias ∧
        t = { s with granary := t.granary }) ∧
    (s.rst.birtur = true → g.rollback.toNat < s.rst.imageVersion.toNat → ∃ t, exec .rollbackRaise s = .next t ∧
      t.granary.rollback = s.rst.imageVersion ∧ t = { s with granary := t.granary })

/-- The loss and the return of the input power (R423): PF_ACTIVE, one more loss counted, every laser off and no NOR
operation; on return the flag falls and an update that was cut short runs again. -/
def Sys2Proof.Claims.PowerLossAndReturn : Prop :=
  ∀ (s : State),
    (s.granary.pfActive = false → ∃ t, exec .powerFail s = .next t ∧ t.granary.pfActive = true ∧
      t.granary.powerLosses = satInc s.granary.powerLosses ∧ (∀ l, (t.link l).laserOn = false) ∧
      (∀ l, t.link l = { s.link l with laserOn := false }) ∧ (∀ ty, ty ≠ 0x50 → t.record ty = s.record ty) ∧
      t = { s with granary := t.granary, links := t.links }) ∧
    (s.granary.pfActive = true → ∃ t, exec .powerReturn s = .next t ∧ t.granary.pfActive = false ∧
      (∀ ty ∈ norRecords, ∀ b, (s.record ty).running = some b → (s.record ty).held = none →
        (ty ≠ 0x10 ∨ s.granary.foldPending = false) → s.granary.nor0 = true → s.granary.nor1 = true →
        (∀ x ∈ norRecords, (s.record x).stopA = false ∧ (s.record x).stopB = false ∧ (s.record x).eraseMax + 1 < 80000) →
        (t.record ty).running = none ∧ (t.record ty).read.map (·.body) = some b) ∧ t.mem = s.mem ∧ t.links = s.links)

/-! Ticks, segments and network time -/

/-- The latched input is DONE alone. -/
def Sys2Proof.Claims.Starts (s : State) : Prop := bit s.sheaf.latched 3 = true ∧ bit s.sheaf.latched 4 = false ∧ bit s.sheaf.latched 5 = false

/-- A running job inside its segment at the network time of its next tick (R29), with no segment announced or awaited and no
stop pending. -/
def Sys2Proof.Claims.InSegment (s : State) : Prop :=
  s.nearTick 0 = true ∧ s.job.phase = .running ∧ s.sheaf.nextSeg = none ∧ s.sheaf.awaitSeg = false ∧ s.job.stopMode = none ∧ s.sheaf.begun = true

/-- At a tick whose latched input is DONE = 1, HOLD = 0, ABORT = 0 the next sheaf of the step starts (R32, R41, R45): SHEAF_COUNT and the
sheaf's place rise by 1 (the count saturates, R62), every cycle counter is 0, every group count is 0, no token and no forward entry
remains.  Before the tick's network time no tick falls (R29). -/
def Sys2Proof.Claims.SheafStartsOnConsensus : Prop :=
  ∀ s : State, (s.nearTick 0 = false → exec .tick s = .next s) ∧
    (Claims.InSegment s → Claims.Starts s → s.sheaf.atBoundary = false →
    s.sheaf.sheafInStep.toNat + 1 < s.stepLen → ∃ t, exec .tick s = .next t ∧
      t.sheaf.tickNo = s.sheaf.tickNo + 1 ∧ t.sheaf.sheafCount = satInc64 s.sheaf.sheafCount ∧
      t.sheaf.sheafInStep = s.sheaf.sheafInStep + 1 ∧ t.sheaf.step = s.sheaf.step ∧ t.sheaf.heldTicks = s.sheaf.heldTicks ∧
      t.sheaf.heldConsec = 0 ∧ t.sheaf.cut = false ∧ t.sheaf.taken = false ∧ (∀ r, (t.region r).cycle = 0) ∧
      (∀ b g, (t.block b).groups.have g = 0) ∧ (∀ i g, (t.stack i).groups.have g = 0) ∧ (∀ b, (t.block b).pend = []) ∧
      t.tokens = [] ∧ t.forward = [] ∧ t.job = s.job ∧ t.store = s.store ∧ (∀ b, (t.block b).v = (s.block b).v) ∧
      t.glean = s.glean)

/-- a held tick (R43, quoted): it leaves every cycle counter, group counter and datapath state unchanged, adds 1 to
HELD_TICKS and to TICK_INDEX, and not to SHEAF_COUNT.  HELD_TICKS saturates (R62).  Memory and the units' error registers stay as well,
but where the tick follows the step's last sheaf: then the step is committed (R45), with its record and its results. -/
def Obligations.HeldTickChangesNoPlanState : Prop :=
  ∀ s : State, Claims.InSegment s → bit s.sheaf.latched 5 = false → (bit s.sheaf.latched 3 = false ∨ bit s.sheaf.latched 4 = true) →
    ∃ t, exec .tick s = .next t ∧ t.sheaf.tickNo = s.sheaf.tickNo + 1 ∧ t.sheaf.heldTicks = satInc s.sheaf.heldTicks ∧
      t.sheaf.sheafCount = s.sheaf.sheafCount ∧ t.regions = s.regions ∧ t.nets = s.nets ∧
      t.tokens = s.tokens ∧ t.egress = s.egress ∧ t.forward = s.forward ∧
      (∀ b, let k := t.block b; let q := s.block b
        k.groups = q.groups ∧ k.seq = q.seq ∧ k.v = q.v ∧ k.t = q.t ∧ k.opb = q.opb ∧ k.results = q.results ∧ k.chunks = q.chunks ∧
        k.pend = q.pend ∧ k.sel = q.sel ∧ k.tables = q.tables) ∧
      (∀ i, let k := t.stack i; let q := s.stack i
        k.groups = q.groups ∧ k.seq = q.seq ∧ k.acc = q.acc ∧ k.runs = q.runs ∧ k.writes = q.writes ∧ k.busy = q.busy ∧
        k.debt = q.debt ∧ k.tables = q.tables) ∧
      ((bit s.sheaf.latched 3 = false ∨ s.lastRuns = false) → t.blocks = s.blocks ∧ t.stks = s.stks ∧ t.mem = s.mem ∧ t.ddr = s.ddr)

/-- A tick whose latched input has ABORT rests the step at its own boundary (R41, R47): the step's number and the last commit
stay, the abort and the attempt are counted, and no sheaf starts. -/
def Sys2Proof.Claims.AbortRestsAtOwnBoundary : Prop :=
  ∀ s : State, Claims.InSegment s → bit s.sheaf.latched 5 = true → s.inCommit = false →
    (bit s.sheaf.latched 3 = false ∨ s.sheaf.atBoundary = true ∨ s.sheaf.sheafInStep.toNat + 1 < s.stepLen) →
    ∃ t, exec .tick s = .next t ∧ t.sheaf.tickNo = s.sheaf.tickNo + 1 ∧ t.sheaf.sheafCount = s.sheaf.sheafCount ∧
      t.sheaf.step = s.sheaf.step ∧ t.sheaf.sheafInStep = 0 ∧ t.sheaf.atBoundary = true ∧ t.sheaf.running = false ∧
      t.job.lastCommit = s.job.lastCommit ∧ t.fault.stepAborts = satInc s.fault.stepAborts ∧
      t.assay.attempt = s.assay.attempt + 1 ∧ t.tokens = [] ∧ t.fault.refillActive = false

/-- The tick after a step's last sheaf commits the step and starts the next one's first sheaf (R41, R45, R46). -/
def Sys2Proof.Claims.StepCommitsAtBoundary : Prop :=
  ∀ s : State, Claims.InSegment s → Claims.Starts s → s.sheaf.atBoundary = false → s.stepLen ≤ s.sheaf.sheafInStep.toNat + 1 →
    s.tables.staged = none → s.mgmt.removal = false → s.fault.refillActive = false → s.coord.refill = [] → s.coord.removals = [] →
    s.glean.replay.active = false → s.store.switchStep = none →
    ∃ t, exec .tick s = .next t ∧ t.job.lastCommit = some (BitVec.ofNat 48 s.sheaf.step.toNat) ∧
      t.sheaf.step = s.sheaf.step + 1 ∧ t.sheaf.sheafInStep = 0 ∧ t.sheaf.atBoundary = false ∧
      t.sheaf.sheafCount = satInc64 s.sheaf.sheafCount ∧ t.assay.attempt = 0 ∧ (∀ b, (t.block b).v = [] ∧ (t.block b).opb = [])

/-- Tick 0 of the announced segment begins the job (R29, R385): TICK_INDEX 0, the segment's P and sync epoch, the first step,
SHEAF_COUNT 1 and no hold.  Before the epoch it waits, and a coordinator that lacks an acknowledgement at the epoch chooses a new
one (R31). -/
def Sys2Proof.Claims.JobBeginsAtEpoch : Prop :=
  ∀ (s : State) (e : Word64) (p : Word32) (se : BitVec 2), s.sheaf.nextSeg = some (e, p, se) → s.job.phase = .starting →
    s.job.joining = false →
    (e.toNat ≤ s.nowNs → s.segmentWaits e = true → ∃ t, exec .tick s = .next t ∧ t.job = s.job ∧ t.sheaf.step = s.sheaf.step ∧
      t.sheaf.nextSeg = some (t.time.epoch, p, se) ∧ t.time.epoch.toNat = s.newEpoch % 2 ^ 64) ∧
    (s.segmentWaits e = true ↔ s.nowNs < e.toNat ∨ (s.coord.isCoord = true ∧ s.coord.segOpen = true ∧ ∃ k ∈ s.members, k ∉ s.coord.segAcks)) ∧
    (s.segmentWaits e = false → ∃ t, exec .tick s = .next t ∧ t.job.phase = .running ∧ t.sheaf.tickNo = 0 ∧
      t.sheaf.segEpoch = e ∧ t.time.period = p ∧
      t.sheaf.syncEpoch = se ∧ t.sheaf.nextSeg = none ∧ t.sheaf.sheafCount = 1 ∧ t.sheaf.sheafInStep = 0 ∧
      t.sheaf.step.toNat = s.job.firstStep.toNat ∧ t.sheaf.heldTicks = 0 ∧ t.holds = {}) ∧
    (s.nowNs < e.toNat → exec .tick s = .next s)

/-- SYNC_CUTOFF, from 4.5 µs before the tick and once for it, samples the local bits (R36, R37): on a compute module HOLD and
ABORT by their causes, a relay's request for HOLD among them, on a relay never (R38, R274), and no HOLD on a spare without a slot
(R38); DONE only with every region finished and no token under way. -/
def Sys2Proof.Claims.CutoffSamplesLocalBits : Prop :=
  ∀ s : State, ((s.nearTick 4500 = false ∨ s.sheaf.cut = true) → exec .syncCutoff s = .next s) ∧
    (s.job.phase = .running → s.sheaf.begun = true → s.nearTick 4500 = true → s.sheaf.cut = false →
    ∃ t, exec .syncCutoff s = .next t ∧ t.sheaf.cut = true ∧ t.holds.relayRequest = false ∧
    (s.relay = false → (bit t.sheaf.sampled 4 = true ↔ t.ownSlot.isSome = true ∧ (t.holds.any = true ∨ s.holds.relayRequest = true)) ∧
      bit t.sheaf.sampled 5 = t.fault.abort.isSome) ∧
    (s.relay = true → bit t.sheaf.sampled 4 = false ∧ bit t.sheaf.sampled 5 = false) ∧
    (bit t.sheaf.sampled 3 = true → (s.relay = true ∨ s.ownSlot.isSome = true) →
      (∀ r < 33, t.finished r = true) ∧ t.tokens = []) ∧
    t.sheaf.sheafCount = s.sheaf.sheafCount ∧ t.blocks = s.blocks ∧ t.mem = s.mem)

/-- CONSENSUS_LATCH, from 1.5 µs before the tick and once for it, takes the consensus input (R39, R41): DONE is an AND, HOLD and
ABORT are ORs; on a one-board machine over the module's own bits and those heard of every other holder, on a larger one over the
relays in use, at a relay over its own rack and every other. -/
def Sys2Proof.Claims.LatchTakesConsensus : Prop :=
  ∀ s : State, ((s.nearTick 1500 = false ∨ s.sheaf.taken = true) → exec .consensusLatch s = .next s) ∧
    (s.job.phase = .running → s.sheaf.begun = true → s.sheaf.awaitSeg = false → s.nearTick 1500 = true → s.sheaf.taken = false →
    ∃ t, exec .consensusLatch s = .next t ∧
    t = { s with sheaf := { s.sheaf with latched := t.sheaf.latched, taken := true } } ∧
    (s.relay = true → bit t.sheaf.latched 3 = s.machineValue.done ∧ bit t.sheaf.latched 4 = s.machineValue.hold ∧
      bit t.sheaf.latched 5 = s.machineValue.abort) ∧
    (s.relay = false → s.oneBoard = true → s.ownSlot.isSome = true →
      let k := s.mgmt.key
      let others := (s.boardHolders (keyTwin k) (keyRack k) (keyBoard k)).filter (· != k)
      (bit t.sheaf.latched 3 = true ↔ s.ownBits.done = true ∧ ∀ x ∈ others, (s.heard x).done = true) ∧
      (bit t.sheaf.latched 4 = true ↔ s.ownBits.hold = true ∨ ∃ x ∈ others, (s.heard x).hold = true) ∧
      (bit t.sheaf.latched 5 = true ↔ s.ownBits.abort = true ∨ ∃ x ∈ others, (s.heard x).abort = true)) ∧
    (s.relay = false → s.oneBoard = false →
      let k := s.mgmt.key
      let relays := s.relaysInUse.map (fun i => mkKey (keyTwin k) (keyRack k) 2 i)
      (bit t.sheaf.latched 3 = true ↔ ∀ x ∈ relays, (s.heard x).done = true) ∧
      (bit t.sheaf.latched 4 = true ↔ ∃ x ∈ relays, (s.heard x).hold = true) ∧
      (bit t.sheaf.latched 5 = true ↔ ∃ x ∈ relays, (s.heard x).abort = true)))

/-- a received sync field of another sheaf or segment is ignored (R35, quoted), and a link with no matching field since the tick
reports DONE = 0, HOLD = 0 and ABORT = 0. -/
def Obligations.UnmatchedSyncIgnored : Prop :=
  ∀ (s : State) (l : Nat) (f : Byte) (k : Key), s.job.joining = false →
    ((f.toNat % 8 ≠ (s.sheaf.sheafCount.toNat + 7) % 8 ∨ f.toNat / 64 ≠ s.sheaf.syncEpoch.toNat) → s.readSync l f = s) ∧
    (s.job.phase = .running → s.sheaf.begun = true → f.toNat % 8 = (s.sheaf.sheafCount.toNat + 7) % 8 →
      f.toNat / 64 = s.sheaf.syncEpoch.toNat →
      ((s.readSync l f).link l).rxSync = some (f.getLsbD 3, f.getLsbD 4, f.getLsbD 5)) ∧
    ((∀ x < 56, (s.link x).peerKey = k → (s.link x).rxSync = none) →
      (s.heard k).done = false ∧ (s.heard k).hold = false ∧ (s.heard k).abort = false)

/-- HELD_TICK_LIMIT at a coordinator (R44, R322, R330, R331, R343), at 100 consecutive mid-step held ticks or 200 ms after the first of
them, without the time for which a link grace paused both: outside commit the step is to be aborted and an entry of severity 2 is
written; in commit sheaves every module that is missing is excluded, without an ABORT, and none is declared failed before the
boundary.  Below the limit nothing happens. -/
def Sys2Proof.Claims.HeldTickLimitAborts : Prop :=
  ∀ (s : State) (missing : List Key), s.coord.isCoord = true → s.job.phase = .running →
    let reached : Prop := 100 ≤ s.sheaf.heldCount ∨ ∃ x, s.sheaf.heldSince = some x ∧ x + s.sheaf.heldPaused + 200000000 ≤ s.nowNs
    (¬reached → exec (.heldTickLimit missing) s = .next s) ∧
    (reached → s.inCommit = false → s.relay = false → ∃ t, exec (.heldTickLimit missing) s = .next t ∧ t.fault.abort.isSome = true ∧
      (∃ e, t.fault.log.getLast? = some e ∧ e.code = 0x0603 ∧ e.severity = 2) ∧ t.mem = s.mem ∧ t.sheaf = s.sheaf) ∧
    (reached → s.inCommit = true → ∃ t, exec (.heldTickLimit missing) s = .next t ∧ (∀ k ∈ missing, k ∈ t.coord.excluded) ∧
      t.coord.failed = s.coord.failed ∧ t.fault.abort = s.fault.abort ∧ t.mem = s.mem ∧ t.sheaf = s.sheaf)

/-- The segment handshake (R31): an announcement from the coordinator stands for the next segment, an acknowledgement is
recorded and the last one closes the wait, and with one missing the coordinator chooses the first whole millisecond at
least 10 ms ahead. -/
def Sys2Proof.Claims.SegmentHandshake : Prop :=
  ∀ (s : State) (e : Word64) (p : Word32) (se : BitVec 2) (src : Key),
    (∃ t, exec (.segmentAnnouncement s.coord.coordKey e p se) s = .next t ∧ t.time = { s.time with epoch := e } ∧
      t.sheaf = { s.sheaf with nextSeg := some (e, p, se) } ∧ t.job = s.job ∧ t.mem = s.mem) ∧
    (src ≠ s.coord.coordKey → exec (.segmentAnnouncement src e p se) s = .next s) ∧
    (s.coord.isCoord = true → s.coord.segOpen = true → s.coord.segEpoch = e → src ∉ s.coord.segAcks →
      ∃ t, exec (.segmentAcknowledgement src e) s = .next t ∧ t.coord.segAcks = s.coord.segAcks ++ [src] ∧
        (t.coord.segOpen = false ↔ ∀ k ∈ s.members, k ∈ s.coord.segAcks ∨ k = src) ∧
        t = { s with coord := t.coord }) ∧
    (s.sheaf.nextSeg = some (e, p, se) → s.coord.isCoord = true → s.coord.segOpen = true → s.nowNs + 11000000 < 2 ^ 64 →
      (∃ k ∈ s.members, k ∉ s.coord.segAcks) →
      ∃ t, exec .epochNotAcknowledged s = .next t ∧ t.time.epoch.toNat % 1000000 = 0 ∧
        s.now.toNat + 10000000 * 2 ^ 16 ≤ t.time.epoch.toNat * 2 ^ 16 ∧
        t.time.epoch.toNat * 2 ^ 16 < s.now.toNat + 11000000 * 2 ^ 16 ∧
        t.coord.segEpoch = t.time.epoch ∧ t.sheaf.nextSeg = some (t.time.epoch, p, se) ∧ t.sheaf.step = s.sheaf.step)

/-- network time (R50, quoted): T = OFFSET + (FRC − ANCHOR) × RATE, the product exact, truncated to 16 fractional bits and
added modulo 2^80. -/
def Obligations.NetworkTimeFormula : Prop :=
  ∀ s : State, s.now.toNat =
    (s.time.offset.toNat + (s.time.frc - s.time.anchor).toNat * s.time.rate.toNat / 2 ^ 24) % 2 ^ 80

/-- The staged update (R52): NEXT_ARM with a place not after FRC is late, with a RATE out of its band is refused, each with its own
flag, otherwise it is armed; in the FRC cycle of NEXT_ANCHOR all three values load and NEXT_ARM clears; a capture read copies the whole value (R62). -/
def Sys2Proof.Claims.StagedTimeUpdate : Prop :=
  ∀ (s : State) (v : Word32),
    let x := s.time
    let out : Prop := x.nextRate.toNat + 0x40000000 < 0x00F3CF3CF3CF ∨ 0x00F3CF3CF3CF + 0x40000000 < x.nextRate.toNat
    (v.getLsbD 0 = false → exec (.nextArmWrite v) s = .next s) ∧
    (v.getLsbD 0 = true → x.nextAnchor.toNat ≤ x.frc.toNat →
      (out → exec (.nextArmWrite v) s = .next { s with time := { x with nextPending := false, nextLate := true, nextRange := true } }) ∧
      (¬out → exec (.nextArmWrite v) s = .next { s with time := { x with nextPending := false, nextLate := true } })) ∧
    (v.getLsbD 0 = true → x.frc.toNat < x.nextAnchor.toNat → out →
      exec (.nextArmWrite v) s = .next { s with time := { x with nextPending := false, nextRange := true } }) ∧
    (v.getLsbD 0 = true → x.frc.toNat < x.nextAnchor.toNat → ¬out →
      exec (.nextArmWrite v) s = .next { s with time := { x with nextPending := true } }) ∧
    (x.nextPending = true → x.frc = x.nextAnchor → exec .stagedTimeLoad s = .next { s with time := { x with
      offset := x.nextOffset, rate := x.nextRate, anchor := x.nextAnchor, nextPending := false } }) ∧
    (x.nextPending = false → exec .stagedTimeLoad s = .next s) ∧
    exec (.captureRead .tFrac) s = .next { s with time := { x with copies := { x.copies with t := s.now } } } ∧
    exec (.captureRead .frcLo) s = .next { s with time := { x with copies := { x.copies with frc := x.frc } } } ∧
    exec (.captureRead .sheafCountLo) s = .next { s with time := { x with copies := { x.copies with sheafCount := s.sheaf.sheafCount } } }

/-- The exchanges and the holdover (R54 to R58): a master advances its sequence, a module asks its parent and stamps t1, a request
is answered on its link, 5 ms without an advance enters HOLDOVER with RATE kept, and its end is flagged and logged; it aborts the
step only where the machine does not hold at its boundary already. -/
def Sys2Proof.Claims.TimeServoEvents : Prop :=
  ∀ (s : State) (l : Fin 56) (n : Nat) (src : Key) (id : Word32),
    (s.servo.state = .master → exec .timeExchange s = .next { s with
      servo := { s.servo with masterSeq := s.servo.masterSeq + 1 }, holds := { s.holds with timeSync := false } }) ∧
    (s.servo.state ≠ .master → s.parent = none → ∃ t, exec .timeExchange s = .next t ∧ t = { s with servo := t.servo } ∧
      t.servo.parentLink = 0x3F ∧ ((s.servo.state = .locked ∨ s.servo.state = .acquire) → t.servo.state = .unlocked)) ∧
    (s.servo.state ≠ .master → s.parent = some n → ∃ t, exec .timeExchange s = .next t ∧ t.servo.t1 = s.now ∧
      t.servo.parentLink = BitVec.ofNat 6 n ∧ (t.link n).queue.length = (s.link n).queue.length + 1 ∧ t.time = s.time) ∧
    (∃ t, exec (.timeExchangeRequest l src id) s = .next t ∧ t = { s with links := t.links, bypass := t.bypass } ∧
      (∀ x, x ≠ l.val → t.link x = s.link x) ∧ ∃ q, (t.link l).queue = (s.link l).queue ++ [q] ∧ q.msg.mtype = 0x11) ∧
    ((s.servo.state = .locked ∨ s.servo.state = .acquire ∨ (s.servo.state = .unlocked ∧ s.servo.master ≠ 0xFFFF)) →
      ∃ t, exec .masterSequenceTimeout s = .next t ∧
      t.servo.state = .holdover ∧ t.time = s.time ∧ t = { s with servo := t.servo } ∧ (s.jobRuns = true → t.servo.resync = true)) ∧
    (s.servo.state = .holdover → ∃ t, exec .holdoverExpired s = .next t ∧ t.servo.holdoverExpired = true ∧ t.time = s.time ∧
      (∃ e, t.fault.log.getLast? = some e ∧ e.code = 0x0602) ∧
      (s.coord.isCoord = true → s.jobRuns = true → (s.holds.timeSync = false ∨ s.sheaf.atBoundary = false) → s.relay = false →
        s.inCommit = false → t.fault.abort.isSome = true) ∧
      (s.holds.timeSync = true → s.sheaf.atBoundary = true → t.fault.abort = s.fault.abort))

/-- The servo's judgement of an answer from its parent (R54, R56): with offset (t4 − t3 − t2 + t1)/2, eight in a row within 10 ns lock it and
three in a row beyond 50 ns unlock it; a changed master enters HOLDOVER.  RATE, OFFSET and ANCHOR change only through the
staging registers. -/
def Sys2Proof.Claims.ServoJudgesExchanges : Prop :=
  ∀ (s : State) (l : Fin 56) (t2 t3 : BitVec 80) (m : Key) (q : Word32), s.servo.state ≠ .master → s.servo.parentLink.toNat = l.val →
    let d := (signed 80 (s.now - t3).toNat - signed 80 (t2 - s.servo.t1).toNat).natAbs
    ∃ t, exec (.timeExchangeResponse l t2 t3 m q) s = .next t ∧ t.time.offset = s.time.offset ∧ t.time.rate = s.time.rate ∧
      t.time.anchor = s.time.anchor ∧ t.mem = s.mem ∧
      (s.servo.master ≠ 0xFFFF → m ≠ s.servo.master → t.servo.state = .holdover ∧ t.servo.master = m) ∧
      ((s.servo.master = 0xFFFF ∨ m = s.servo.master) → (s.servo.state = .acquire ∨ s.servo.state = .unlocked) →
        (d ≤ 20 * 65536 → 7 ≤ s.servo.lockRun → t.servo.state = .locked) ∧
        ((20 * 65536 < d ∨ s.servo.lockRun < 7) → t.servo.state = .acquire)) ∧
      (m = s.servo.master → s.servo.state = .locked →
        (100 * 65536 < d → 2 ≤ s.servo.missRun → t.servo.state = .acquire) ∧
        ((d ≤ 100 * 65536 ∨ s.servo.missRun < 2) → t.servo.state = .locked)) ∧
      (s.servo.state = .holdover → s.servo.master ≠ 0xFFFF → m = s.servo.master → q = s.servo.masterSeq → t = s)

/-- pulses and captures (R60, R61): a pending pulse begins and an active one ends once T has reached its edge; a control write
outside the limits leaves ENABLE at 0; a capture takes the first free entry and otherwise counts an overrun.  That an output whose
START equals T is not armed is the model's choice (log entry 92). -/
def Obligations.PulsesAndCaptures : Prop :=
  ∀ (s : State) (v : Word32) (rising : Bool) (r : Nat),
    let p := s.time.pulse0
    let p1 := s.time.pulse1
    (p.enable = true → p.active = false → p.rise = some r →
      (r ≤ s.nowNs → exec (.pulseEdge 0) s = .next { s with time := { s.time with
        pulse0 := { p with active := true, begun := p.begun + 1, armed := p.mode != 0, high := !p.polarity, fall := r + p.width.toNat
                           rise := if p.mode = 1 then some (r + p.period.toNat) else none } } }) ∧
      (s.nowNs < r → exec (.pulseEdge 0) s = .next s)) ∧
    (p1.enable = true → p1.active = true →
      (p1.fall ≤ s.nowNs → exec (.pulseEdge 1) s = .next { s with time := { s.time with
        pulse1 := { p1 with active := false, high := p1.polarity } } }) ∧
      (s.nowNs < p1.fall → exec (.pulseEdge 1) s = .next s)) ∧
    ((p.width.toNat < 10 ∨ v.extractLsb' 2 2 = 3 ∨ (v.extractLsb' 2 2 = 1 ∧ (p.period.toNat < 20 ∨ p.period.toNat ≤ p.width.toNat))) →
      ∃ t, exec (.tpulseCtrlWrite 0 v) s = .next t ∧ t.time.pulse0.enable = false ∧ t.time.pulse0.high = false ∧
        t = { s with time := { s.time with pulse0 := t.time.pulse0 } }) ∧
    (v.getLsbD 0 = true → 10 ≤ p.width.toNat → v.extractLsb' 2 2 = 0 → ∃ t, exec (.tpulseCtrlWrite 0 v) s = .next t ∧
      t.time.pulse0.enable = true ∧ (t.time.pulse0.armed = true ↔ s.nowNs < p.start.toNat)) ∧
    (s.time.capEnable = true → s.time.capEdge.getLsbD (if rising then 0 else 1) = true →
      (s.time.valid0 = false → exec (.tcaptureEdge rising) s = .next { s with time := { s.time with
        valid0 := true, cap0 := { t := s.now, rising := rising } } }) ∧
      (s.time.valid0 = true → s.time.valid1 = false → exec (.tcaptureEdge rising) s = .next { s with time := { s.time with
        valid1 := true, cap1 := { t := s.now, rising := rising } } }) ∧
      (s.time.valid0 = true → s.time.valid1 = true → exec (.tcaptureEdge rising) s = .next { s with time := { s.time with
        capOverrun := satInc s.time.capOverrun } }))

/-! The rota and the tables -/

/-- One rota part's record becomes `k`, and its region's freeze follows it; the other parts and regions stay. -/
def Sys2Proof.Claims.PartIs (s t : State) (n : Nat) (k : Net) : Prop :=
  t.net n = k ∧ (∀ x, x ≠ n → t.net x = s.net x) ∧ (t.region (netRegion n)).stall = k.stallOf ∧
    ∀ r, r ≠ netRegion n → t.region r = s.region r

/-- A part whose next entry, as the plan has it, stands in the window in the read cycle of its slot (R211, R215, R216). -/
def Sys2Proof.Claims.Reads (s : State) (n : Nat) (w : Word128) : Prop :=
  s.partRuns n = true ∧ s.readsEntry n w = true ∧ (s.net n).read < (s.net n).fetched

/-- A part with its entry left behind; entries that a refused fetch left blank are passed too (R156). -/
def Sys2Proof.Claims.passed (k : Net) : Net := ({ k with read := k.read + 1 } : Net).pass

/-- An active entry on an enabled link whose buffer has room latches one DATA packet (R208 to R211, R215, R225, R238, R337): SEND
and STAGE_FWD take the egress vector, CUT takes the forward store's, which becomes invalid; the sequence number advances, a token
takes the packet to the region of its link, and the part moves on.  MAINT opens a maintenance window of its link. -/
def Sys2Proof.Claims.RotaEntriesLatch : Prop :=
  ∀ (s : State) (n : Fin 4) (w e : Word128) (v : Vec512), Claims.Reads s n w → rotaRead w = .clean e → s.debugMode = false →
    Claims.Clocked s (netRegion n) → bit e (109 + s.tables.form.toNat) = true → (s.portAt (field e 18 6)).enabled = true →
    let phys := (s.portAt (field e 18 6)).phys.toNat
    let l := s.link phys
    let ix := field e 27 12
    let packet (v : Vec512) : Latched := {
      part := n, slot := entrySlot e, dst := BitVec.ofNat 32 (field e 61 32), dgrp := BitVec.ofNat 12 (field e 93 12)
      op := BitVec.ofNat 4 (field e 105 4), payload := v }
    let latched (t : State) (v : Vec512) : Prop :=
      t.link phys = { l with nextSeq := l.nextSeq + 1, counters := (t.link phys).counters
                             replay := l.replay ++ [{ seq := l.nextSeq, data := packet v, crossing := true, sent := 0, lastSent := 0 }] } ∧
      t.tokens = s.tokens ++ [{ src := netRegion n, dst := netRegion (phys / 14), sent := s.cyc (netRegion n)
                                release := s.cyc (netRegion n) + 14, payload := .rota phys l.nextSeq }] ∧
      (∀ x, x ≠ phys → t.link x = s.link x) ∧ (∀ x, x ≠ n.val → t.net x = s.net x) ∧ t.mem = s.mem ∧ t.egress = s.egress ∧
      t.blocks = s.blocks ∧ t.fault = s.fault
    l.declared = false → l.replay.length < 1024 →
    (field e 24 3 = 0 → ∃ t, exec (.send n w) s = .next t ∧ latched t (s.egressVec n ix) ∧ t.forward = s.forward ∧
      t.net n = Claims.passed (s.net n)) ∧
    (field e 24 3 = 1 → get none s.forward ix = some v → ∃ t, exec (.cut n w) s = .next t ∧ latched t v ∧
      get none t.forward ix = none ∧ (∀ x, x ≠ ix → get none t.forward x = get none s.forward x) ∧
      t.role.fwdCut = satInc s.role.fwdCut ∧ t.net n = Claims.passed (s.net n)) ∧
    (field e 24 3 = 2 → ∃ t, exec (.stageFwd n w) s = .next t ∧ latched t (s.egressVec n ix) ∧ t.forward = s.forward ∧
      t.net n = Claims.passed { s.net n with digest := (s.net n).digest + s.contribTerm (s.egressVec n ix) }) ∧
    (field e 24 3 = 3 → ∃ t, exec (.maint n w) s = .next t ∧ t = { s with nets := t.nets, links := t.links } ∧
      t.net n = Claims.passed (s.net n) ∧ t.link phys = { l with maint := l.maint ++ [entrySlot e] } ∧
      (∀ x, x ≠ phys → t.link x = s.link x) ∧ ∀ x, x ≠ n.val → t.net x = s.net x)

/-- What an entry does otherwise (R209, R211, R213, R216, R225, R226, R228, R260, R261): one that is not the part's next in its read
cycle does nothing, one not yet fetched stalls the window; an entry of another form is passed over, one on a
disabled link is a dark skip that aborts, an invalid forward entry or a full buffer freezes the region before the entry, a
link declared failed flushes it till the boundary that disables it, a corrected one counts as it is left behind, and an uncorrectable one sends nothing and aborts. -/
def Sys2Proof.Claims.RotaEntriesOtherwise : Prop :=
  ∀ (s : State) (n : Fin 4) (w e : Word128), s.debugMode = false →
    (s.readsEntry n w = false → exec (.send n w) s = .next s ∧ exec (.cut n w) s = .next s ∧ exec (.stageFwd n w) s = .next s ∧
      exec (.maint n w) s = .next s) ∧
    (s.partRuns n = true → s.readsEntry n w = true → (s.net n).fetched ≤ (s.net n).read →
      ∃ t, exec (.send n w) s = .next t ∧ t = { s with nets := t.nets, regions := t.regions } ∧
        Claims.PartIs s t n { s.net n with windowStall := true }) ∧
    (Claims.Reads s n w →
    let next := (Claims.passed (s.net n)).read
    let i := field e 18 6
    let l := s.link (s.portAt i).phys.toNat
    let active := bit e (109 + s.tables.form.toNat)
    (rotaRead w = .clean e → field e 24 3 = 0 → active = false →
      ∃ t, exec (.send n w) s = .next t ∧ t = { s with nets := t.nets } ∧ t.net n = Claims.passed (s.net n) ∧
        ∀ x, x ≠ n.val → t.net x = s.net x) ∧
    (rotaRead w = .corrected e → field e 24 3 = 0 → active = false → ∃ t, exec (.send n w) s = .next t ∧ t = { s with nets := t.nets } ∧
      t.net n = { Claims.passed (s.net n) with corrected := inc16 (s.net n).corrected } ∧ ∀ x, x ≠ n.val → t.net x = s.net x) ∧
    (rotaRead w = .clean e → field e 24 3 = 0 → active = true → (s.portAt i).enabled = false → s.relay = false → s.inCommit = false →
      ∃ t, exec (.send n w) s = .next t ∧ (t.net n).darkSkips = satInc (s.net n).darkSkips ∧ t.links = s.links ∧
        (t.net n).read = next ∧ t.fault.abort.isSome = true) ∧
    (rotaRead w = .clean e → field e 24 3 = 1 → active = true → (s.portAt i).enabled = true →
      get none s.forward (field e 27 12) = none → ∃ t, exec (.cut n w) s = .next t ∧ t = { s with nets := t.nets, regions := t.regions } ∧
        Claims.PartIs s t n { s.net n with fwdHold := true, heldEntry := BitVec.ofNat 12 (field e 27 12) }) ∧
    (rotaRead w = .clean e → field e 24 3 = 0 → active = true → (s.portAt i).enabled = true → l.declared = false →
      1024 ≤ l.replay.length → ∃ t, exec (.send n w) s = .next t ∧ t = { s with nets := t.nets, regions := t.regions } ∧
        Claims.PartIs s t n { s.net n with rotaHold := true, heldLink := (s.portAt i).phys }) ∧
    (rotaRead w = .clean e → field e 24 3 = 0 → active = true → (s.portAt i).enabled = true → l.declared = true →
      ∃ t, exec (.send n w) s = .next t ∧ t = { s with nets := t.nets, links := t.links } ∧
        (t.link (s.portAt i).phys.toNat).replay = l.replay ∧ (t.net n).read = next ∧
        (t.link (s.portAt i).phys.toNat).counters.flushed = satInc l.counters.flushed) ∧
    (rotaRead w = .bad → s.relay = false → s.inCommit = false → ∃ t, exec (.send n w) s = .next t ∧ t.links = s.links ∧
      (t.net n).read = next ∧ (t.net n).uncorrected = inc16 (s.net n).uncorrected ∧ t.fault.abort.isSome = true))

/-- The freezes of a network region (R216, R225, R260, R276): a fetch fills the half of the window that the region has left and ends
a window stall whose entry has come, a hold for a
forward entry or a full buffer stands until its cause has gone; the region's stall is the part's. -/
def Sys2Proof.Claims.RotaFreezes : Prop :=
  ∀ (s : State) (n : Fin 4) (l : Fin 56) (ix : BitVec 12) (c : Nat),
    let k := s.net n
    let freezes (t : State) (x : Net) : Prop := t = { s with nets := t.nets, regions := t.regions } ∧ Claims.PartIs s t n x
    (k.active = true → k.read < k.length → k.fetched ≤ k.read → ∃ t, exec (.windowStall n) s = .next t ∧
      freezes t { k with windowStall := true }) ∧
    (∃ t, exec (.rotaFetch n c) s = .next t ∧ (t.net n).fetched = k.fetched + min c k.room ∧ (t.net n).length = k.length ∧
      (t.net n).windowStall = (k.windowStall && decide ((t.net n).fetched ≤ (t.net n).read)) ∧
      (t.region (netRegion n)).stall = (t.net n).stallOf ∧ (∀ x, x ≠ n.val → t.net x = s.net x) ∧
      (∀ r, r ≠ netRegion n → t.region r = s.region r) ∧ t.mem = s.mem ∧ t.blocks = s.blocks ∧ t.sheaf = s.sheaf ∧
      (k.blank = [] → s.sheaf.running = false → (t.net n).read = k.read ∧ (t.net n).blank = [])) ∧
    (k.active = true → get none s.forward ix.toNat = none → ∃ t, exec (.forwardHold n ix) s = .next t ∧
      freezes t { k with fwdHold := true, heldEntry := ix }) ∧
    (k.active = true → 1024 ≤ (s.link l).replay.length → (s.link l).state ≠ .failed → ∃ t, exec (.rotaHold n l) s = .next t ∧
      freezes t { k with rotaHold := true, heldLink := BitVec.ofNat 6 l }) ∧
    (((s.link k.heldLink.toNat).replay.length < 1024 ∨ (s.link k.heldLink.toNat).state = .failed) →
      ∃ t, exec (.rotaHoldEnd n) s = .next t ∧ freezes t { k with rotaHold := false }) ∧
    (1024 ≤ (s.link k.heldLink.toNat).replay.length → (s.link k.heldLink.toNat).state ≠ .failed →
      exec (.rotaHoldEnd n) s = .next s)

/-- table updates (R222, R315): a module stages a newer update and acknowledges it, a board spare to which it gives a position instantiates
that position first, where its budgets are the plan's (log entry 128); a module acknowledges one that it has already, and leaves an
older one aside; the coordinator commits once every member has acknowledged, the commit marks the staged generation, and a module
without it asks again.  That newer means the half-space of the generation's 16 bits is the model's reading (log entry 86). -/
def Obligations.TableUpdateProtocol : Prop :=
  ∀ (s : State) (src : Key) (gen : BitVec 16) (form : Fin 9) (ps : List Nat) (u : TableSet),
    (s.tables.staged = none → genNewer gen s.tables.gen = true → s.seatFits ps = true → ∃ t, exec (.tableUpdate src gen form ps) s = .next t ∧
      t.tables = { s.tables with staged := some { gen := gen, form := form, positions := ps, committed := false, localOnly := false } } ∧
      t.sheaf = s.sheaf ∧ t.mem = (s.prepare ps).mem ∧ t.blocks = (s.prepare ps).blocks ∧
      (s.seats ps = false → t = { s with tables := t.tables, links := t.links, bypass := t.bypass })) ∧
    (s.seats ps = true → s.store.cur = none → gen ≠ s.tables.gen → s.tables.staged = none → exec (.tableUpdate src gen form ps) s = .next s) ∧
    (s.tables.staged = some u → u.localOnly = false → u.committed = false → genNewer gen s.tables.gen = true → genNewer gen u.gen = true →
      s.seatFits ps = true → ∃ t, exec (.tableUpdate src gen form ps) s = .next t ∧
        t.tables = { s.tables with staged := some { gen := gen, form := form, positions := ps, committed := false, localOnly := false } }) ∧
    (gen = s.tables.gen → ∃ t, exec (.tableUpdate src gen form ps) s = .next t ∧ t = { s with links := t.links, bypass := t.bypass }) ∧
    (s.tables.staged = none → gen ≠ s.tables.gen → genNewer gen s.tables.gen = false → exec (.tableUpdate src gen form ps) s = .next s) ∧
    (s.coord.isCoord = true → s.tables.offered = some u → u.gen = gen → u.committed = false → src ∉ s.tables.ackedBy →
      (∀ k ∈ s.members, k = src ∨ k ∈ s.tables.ackedBy) → ∃ t, exec (.tableAcknowledgement src gen) s = .next t ∧
        t.tables = { s.tables with ackedBy := s.tables.ackedBy ++ [src], offered := some { u with committed := true } }) ∧
    (s.coord.isCoord = true → s.tables.offered = some u → u.gen = gen → u.committed = false → src ∉ s.tables.ackedBy →
      (∃ k ∈ s.members, k ≠ src ∧ k ∉ s.tables.ackedBy) →
      exec (.tableAcknowledgement src gen) s = .next { s with tables := { s.tables with ackedBy := s.tables.ackedBy ++ [src] } }) ∧
    (s.tables.staged = some u → u.gen = gen → u.localOnly = false → exec (.tableCommit gen) s = .next { s with
      tables := { s.tables with staged := some { u with committed := true } } }) ∧
    (s.tables.staged = none → s.tables.gen ≠ gen → s.coord.coordKey ≠ s.mgmt.key → ∃ t, exec (.tableCommit gen) s = .next t ∧
      t.tables = s.tables ∧ t = { s with links := t.links, bypass := t.bypass }) ∧
    (s.coord.isCoord = true → s.tables.offered = some u → u.gen = gen → ∃ t, exec (.tableResendRequest src gen) s = .next t ∧
      t = { s with links := t.links, bypass := t.bypass } ∧
      t.bypass.number = s.bypass.number + Nat.max 1 (ceilDiv (4 + u.positions.length) 52))

/-! Links -/

/-- The rest of the machine stays while links, and what they tell, change. -/
def Sys2Proof.Claims.OnlyLinks (s t : State) : Prop := t = { s with links := t.links }

/-- DATA in sequence (R241): the packet expected next is accepted for landing and the base moves past it and past every
number already seen; one ahead of it inside the window is accepted, marked, and asks for what is missing; one seen before is a
duplicate and lands nowhere. -/
def Sys2Proof.Claims.DataSequence : Prop :=
  ∀ (s : State) (l : Fin 56) (h : PktHdr) (dgrp : BitVec 12) (dst : Word32) (op : BitVec 4) (v : Vec512),
    let k := s.link l
    let d : Latched := { part := 0, slot := 0, dst := dst, dgrp := dgrp, op := op, payload := v }
    k.state = .up → h.nak = false →
    (h.seq = k.base → get false k.seen h.seq.toNat = false → get false k.seen (h.seq + 1).toNat = false →
      ∃ t, exec (.data l h dgrp dst op v) s = .next t ∧ (t.link l).landing = k.landing ++ [d] ∧
        (t.link l).base = h.seq + 1 ∧ (t.link l).naking = false ∧ t.mem = s.mem ∧ t.blocks = s.blocks) ∧
    (h.seq ≠ k.base → (h.seq - k.base).toNat < 1024 → get false k.seen h.seq.toNat = false →
      ∃ t, exec (.data l h dgrp dst op v) s = .next t ∧ (t.link l).landing = k.landing ++ [d] ∧ (t.link l).base = k.base ∧
        get false (t.link l).seen h.seq.toNat = true ∧ (t.link l).naking = true ∧ t.mem = s.mem) ∧
    ((32768 ≤ (h.seq - k.base).toNat ∨ get false k.seen h.seq.toNat = true ∧ (h.seq - k.base).toNat < 1024) →
      ∃ t, exec (.data l h dgrp dst op v) s = .next t ∧ (t.link l).landing = k.landing ∧ (t.link l).base = k.base ∧
        (t.link l).counters.dups = satInc k.counters.dups ∧ t.mem = s.mem)

/-- Every received header (R242, R243, R250, R269): its ACK frees the packets up to it, its credits are added up to 32, the codewords
corrected with it count; IDLE, NAKREC,
BYPASS and the reserved types carry nothing else but their own content; a bad CRC discards the packet, asks again, counts the codewords that FEC
could not correct and writes an entry to the log (R331). -/
def Sys2Proof.Claims.HeadersAndControlPackets : Prop :=
  ∀ (s : State) (l : Fin 56) (h : PktHdr) (a b n : BitVec 16) (cause : BitVec 8),
    let k := s.link l
    let freed (x : Link) : Prop := x.replay = k.replay.filter (fun p => !seqFrom h.ack p.seq) ∧
      x.credits = min 32 (k.credits + h.credit.toNat) ∧ x.landing = k.landing ∧ x.base = k.base ∧
      x.counters.fecCorrected = satAdd k.counters.fecCorrected h.corrected.toNat
    k.state = .up → h.nak = false →
    (∃ t, exec (.idle l h) s = .next t ∧ freed (t.link l) ∧ t.mem = s.mem ∧ t.blocks = s.blocks ∧
      (h.seq ≠ k.base → seqFrom h.seq k.base = true → (t.link l).naking = true)) ∧
    (∃ t, exec (.bypass l h []) s = .next t ∧ freed (t.link l) ∧ t.mem = s.mem) ∧
    (∃ t, exec (.reservedTypePacket l h) s = .next t ∧ freed (t.link l) ∧ bit (t.link l).err 2 = true ∧ t.mem = s.mem) ∧
    (∃ t, exec (.packetCrcFailure ⟨l, n⟩) s = .next t ∧ (t.link l).naking = true ∧ bit (t.link l).err 0 = true ∧
      (t.link l).counters.crc = satInc k.counters.crc ∧
      (t.link l).counters.fecUncorrectable = satAdd k.counters.fecUncorrectable n.toNat ∧ (t.link l).landing = k.landing ∧ (t.link l).replay = k.replay ∧
      t = { s with links := t.links, free := s.free + 1, fault := { s.fault with log := t.fault.log, nextSeq := t.fault.nextSeq } } ∧
      ∀ x, x ≠ l.val → t.link x = s.link x) ∧
    (∀ p, (k.replay.filter (fun x => !seqFrom h.ack x.seq)).find? (fun x => x.seq == a) = some p → 0 < p.sent → p.sent < 16 →
      k.replayFrom = none → 21 * (k.latency.toNat + 120) ≤ 40 * (s.time.frc.toNat - p.lastSent) →
      ∃ t, exec (.nakrec l h a b cause) s = .next t ∧ (t.link l).replayAt = some a ∧ t.mem = s.mem)

/-- No routed packet that waits at another link leaves by this one (R249). -/
def Sys2Proof.Claims.Gathered (s : State) (l : Nat) : Prop :=
  ∀ x < 56, x ≠ l → ∀ q ∈ (s.link x).queue, q.msg.dest ≠ 0xFFFF → ∀ r, s.route q.msg.dest = some r → r.1 ≠ l

/-- The transmitter, PACKET_POSITION (R235 to R240, R244, R250): while no job runs a link sends a replay packet first, then a packet latched
and not yet sent, then bypass packets within the credits, then NAKREC or IDLE; DATA goes with its latched content, and every packet
with the CRC of its header and payload.  A replay goes on to the next packet that was sent before, and ends where there is none. -/
def Sys2Proof.Claims.BackToBackPositions : Prop :=
  ∀ (s : State) (l : Fin 56) (mt : Bool) (p : Held),
    let k := s.link l
    k.state = .up → s.sheaf.running = false → s.role.fatal = false →
    let sent (t : State) (ty : BitVec 3) (q : BitVec 16) (x : Sent) : Prop := (t.link l).wire = k.wire ++ [x] ∧ x.type = ty ∧ x.seq = q ∧
      x.ack = k.base - 1 ∧ x.nak = k.naking ∧ x.crc = crc32 (leBytes 12 x.header.toNat ++ leBytes 512 x.payload.toNat) ∧ t.mem = s.mem ∧ t.blocks = s.blocks
    let goesOn := (k.replay.find? (fun x => seqFrom x.seq (p.seq + 1))).any (fun x => x.sent != 0)
    let carried (x : Sent) : Prop := x.dgrp = p.data.dgrp ∧ x.dst = p.data.dst ∧ x.op = p.data.op ∧ x.payload = p.data.payload
    (k.nextReplay = some p → p.sent < 16 → ∃ t x, exec (.packetPosition l mt) s = .next t ∧ sent t 0 p.seq x ∧ carried x ∧
      (t.link l).counters.replayed = satInc k.counters.replayed ∧ (t.link l).replayAt = if goesOn = true then some (p.seq + 1) else none) ∧
    (k.nextReplay = none → k.nextNew = some p → k.replayAt = none → ∃ t x, exec (.packetPosition l mt) s = .next t ∧ sent t 0 p.seq x ∧ carried x ∧
      (t.net p.data.part).sent = satInc (s.net p.data.part).sent ∧ (t.link l).replayAt = none) ∧
    (k.nextReplay = none → k.nextNew = none → k.queue = [] → Claims.Gathered s l → ∃ t x, exec (.packetPosition l mt) s = .next t ∧
      sent t (if k.naking then 3 else 2) k.nextSeq x ∧ Claims.OnlyLinks s t) ∧
    (k.nextReplay = none → k.nextNew = none → k.queue ≠ [] → 8 ≤ k.queue.length → (∀ q ∈ k.queue, q.via = none) → 16 ≤ k.credits →
      (∀ q ∈ k.queue, s.leavesBy l q.msg = true) → Claims.Gathered s l →
      ∃ t x, exec (.packetPosition l mt) s = .next t ∧ sent t 1 k.nextSeq x ∧ x.msgs = (k.queue.take 8).map (fun q => s.leaving l q.msg) ∧
        (t.link l).credits = k.credits - 8 ∧ (t.link l).maintWanted = k.maintWanted ∧ Claims.OnlyLinks s t)

/-- The replay timer and the forward timer (R244, R251): the oldest packet is sent again from its number, the 17th sending of one is a
link-down condition; the oldest waiting bypass packet that neither of its links can carry is dropped and counted. -/
def Sys2Proof.Claims.LinkTimers : Prop :=
  ∀ (s : State) (l : Fin 56) (p : Held) (rest : List Held) (q : Queued) (qs : List Queued),
    let k := s.link l
    (k.state = .up → k.replay = p :: rest → 0 < p.sent → p.sent < 16 → ∃ t, exec (.replayTimeout l) s = .next t ∧
      Claims.OnlyLinks s t ∧ t.link l = { k with replayAt := some p.seq, replayFrom := some p.seq } ∧
      ∀ x, x ≠ l.val → t.link x = s.link x) ∧
    (k.state = .up → k.replay = p :: rest → 16 ≤ p.sent → ∃ t, exec (.replayTimeout l) s = .next t ∧
      (t.link l).state = .fastRetrain ∧ bit (t.link l).err 7 = true ∧ bit (t.link l).err 4 = true ∧ t.mem = s.mem) ∧
    (k.queue = q :: qs → q.via = none → (∀ x ∈ s.linksFor l q.msg, (s.link x).canCarry q.msg = false) → ∃ t, exec (.bypassForwardTimeout l) s = .next t ∧
      (t.link l).queue = qs ∧ (t.link l).counters.bypDrops = satInc k.counters.bypDrops ∧ bit (t.link l).err 8 = true ∧
      Claims.OnlyLinks s t)

/-- The states of a link, LIGHT_DETECTED, FAILED_LINK_RETRY, FEC_LOCK, TRAINING_TIMEOUT, FAST_RETRAIN_TIMEOUT, LIGHT_LOSS_TIMEOUT, ALIGN_COMPLETE, LINK_DOWN,
LANE_FAILURE, MAINTENANCE_RETRAIN and PROBE (R252 to R256, R258, R267): what takes it from SEEK through ADAPT and ALIGN to DISCOVER or UP, and what takes it out
again; at the end of ALIGN the replay from the peer's base starts where a negative acknowledgement that names it would (R243, R254).  The lasers of a relay with a fatal fault stay
off (R280). -/
def Sys2Proof.Claims.LinkStateChanges : Prop :=
  ∀ (s : State) (l : Fin 56) (lat : BitVec 14) (a b : BitVec 16) (lanes : LaneResult) (lit : Bool) (p : Held) (cause : DownCause) (lane : Fin 4),
    let k := s.link l
    let goes (o : Host.Outcome State Fault Refusal) (x : LinkState) : Prop := ∃ t, o = .next t ∧ (t.link l).state = x ∧ t.mem = s.mem ∧
      t.blocks = s.blocks ∧ t.sheaf = s.sheaf
    (s.role.fatal = false → (k.state = .seek ∨ k.state = .failed) → goes (exec (.lightDetected l) s) .adapt) ∧
    (s.role.fatal = false → k.state = .failed → goes (exec (.failedLinkRetry l) s) .adapt) ∧
    (s.role.fatal = true → exec (.lightDetected l) s = .next s ∧ exec (.failedLinkRetry l) s = .next s ∧ exec (.probe l lit) s = .next s) ∧
    ((k.state = .adapt ∨ k.state = .fastRetrain) → goes (exec (.fecLock l) s) .align) ∧
    (k.state = .adapt → goes (exec (.trainingTimeout l) s) .adapt ∧
      ∃ t, exec (.trainingTimeout l) s = .next t ∧ (t.link l).counters.fullTrainings = inc16 k.counters.fullTrainings) ∧
    (k.state = .fastRetrain → goes (exec (.fastRetrainTimeout l) s) .adapt) ∧
    ((k.state = .adapt ∨ k.state = .align ∨ k.state = .discover ∨ k.state = .fastRetrain) →
      goes (exec (.lightLossTimeout l) s) .seek ∧ ∃ t, exec (.lightLossTimeout l) s = .next t ∧ (t.link l).laserOn = false) ∧
    (k.state = .align → k.discoverAfter = true → goes (exec (.alignComplete l lat a b lanes) s) .discover) ∧
    (k.state = .align → k.discoverAfter = false → goes (exec (.alignComplete l lat a b lanes) s) .up) ∧
    (k.state = .align → ∃ t, exec (.alignComplete l lat a b lanes) s = .next t ∧ (t.link l).latency = lat ∧
      (t.link l).credits = 32 ∧ (k.freshSeq = true → (t.link l).nextSeq = 0 ∧ (t.link l).base = 0 ∧ (t.link l).replay = []) ∧
      (k.freshSeq = false → (t.link l).replay = k.replay.filter (fun p => !seqFrom (b - 1) p.seq)) ∧
      (k.freshSeq = false → (∀ x ∈ k.replay, x.seq ≠ b) → (t.link l).replayAt = none) ∧
      (k.freshSeq = false → (k.replay.filter (fun x => !seqFrom (b - 1) x.seq)).find? (fun x => x.seq == b) = some p → 0 < p.sent →
        21 * (lat.toNat + 120) ≤ 40 * (s.time.frc.toNat - p.lastSent) → (t.link l).replayAt = some b)) ∧
    (k.state = .up → goes (exec (.linkDown l cause) s) .fastRetrain ∧
      ∃ t, exec (.linkDown l cause) s = .next t ∧ (t.link l).asked = some .fast) ∧
    (k.state = .up → goes (exec (.laneFailure l lane lit) s) .fastRetrain) ∧
    (k.state = .up → k.maintWanted = true → s.sheaf.running = false → goes (exec (.maintenanceRetrain l) s) .fastRetrain) ∧
    (s.role.fatal = false → (k.state = .seek ∨ k.state = .failed) → ∃ t, exec (.probe l lit) s = .next t ∧ Claims.OnlyLinks s t ∧
      t.link l = { k with laserOn := lit, txOff := 0 } ∧ ∀ x, x ≠ l.val → t.link x = s.link x)

/-- Training requests, TRAIN (R256, R257): a peer's request starts the retrain it asks for on a link that is UP, and when it meets this
end's own the deeper one is performed; a swap takes the free spare lane of the group, and is a link-down condition where it is not free. -/
def Sys2Proof.Claims.TrainingRequests : Prop :=
  ∀ (s : State) (l : Fin 56) (h : PktHdr) (key : Key) (pl : BitVec 6) (i : Fin 4), h.nak = false →
    let k := s.link l
    (k.state = .up → ∃ t, exec (.train l h (.swap i) key pl) s = .next t ∧ (t.link l).state = .fastRetrain ∧
      (s.spareFree l = true → (t.link l).laneMap = spareLanes l i) ∧
      (s.spareFree l = false → (t.link l).laneMap = k.laneMap ∧ bit (t.link l).err 4 = true)) ∧
    (k.state = .up → ∃ t, exec (.train l h .fast key pl) s = .next t ∧ (t.link l).state = .fastRetrain) ∧
    (k.state = .up → ∃ t, exec (.train l h .full key pl) s = .next t ∧ (t.link l).state = .adapt) ∧
    (k.state = .fastRetrain → k.asked = some .fast → ∃ t, exec (.train l h .full key pl) s = .next t ∧
      (t.link l).state = .adapt ∧ (t.link l).asked = none) ∧
    (k.state = .fastRetrain → k.asked = none → ∃ t, exec (.train l h .full key pl) s = .next t ∧ (t.link l).state = .adapt) ∧
    (k.state = .fastRetrain → k.asked = some .full → ∃ t, exec (.train l h .fast key pl) s = .next t ∧
      (t.link l).state = .fastRetrain ∧ (t.link l).asked = none) ∧
    (∃ t, exec (.train l h .none key pl) s = .next t ∧ (t.link l).asked = none)

/-- Grace and failure (R259, R261): at the end of its grace a link that is not UP is declared failed: its replay buffer is flushed and
counted, holds on it end, its lasers go dark and its error is logged. -/
def Sys2Proof.Claims.GraceExpiryFailsLink : Prop :=
  ∀ (s : State) (l : Fin 56),
    let k := s.link l
    (k.grace.isSome = true → k.state ≠ .up → ∃ t, exec (.graceExpired l) s = .next t ∧ (t.link l).state = .failed ∧
      (t.link l).declared = true ∧ (t.link l).replay = [] ∧ (t.link l).laserOn = false ∧ (t.link l).grace = none ∧
      bit (t.link l).err 5 = true ∧ (t.link l).counters.flushed = satAdd k.counters.flushed k.replay.length ∧
      (∀ n < 4, (t.net n).rotaHold = true → (t.net n).heldLink.toNat ≠ l.val) ∧ t.mem = s.mem ∧ t.blocks = s.blocks ∧
      (s.jobRuns = true → s.formUses l = true → s.relay = false → s.inCommit = false → t.fault.abort.isSome = true)) ∧
    ((k.grace = none ∨ k.state = .up) → exec (.graceExpired l) s = .next s)

/-- Discovery, IDENTITY, IDENTITY_RESULT, IDENTITY_REPEAT and LINK_MISSING_TIMEOUT (R262 to R265): an identity is recorded and answered with this end's code; two MATCH codes bring the link UP; a code of
another kind quarantines it, and NOT_LISTED darkens it; IDENTITY repeats until a result comes; a listed link that never
reached ALIGN is reported.  That a link that is UP joins the discovery its peer begins is the model's reading (log entry 93). -/
def Sys2Proof.Claims.DiscoveryOutcomes : Prop :=
  ∀ (s : State) (l : Fin 56) (id : IdBlock) (c : BitVec 4),
    let k := s.link l
    (k.state = .discover → k.peerCode = 0 → ∃ t, exec (.identity l id) s = .next t ∧ (t.link l).peerKey = id.key ∧
      (t.link l).peerSerial = id.serial ∧ (t.link l).ownCode = s.discoveryCode l id ∧ (t.link l).state = .discover ∧
      (t.link l).queue.length = k.queue.length + 1 ∧ t.mem = s.mem) ∧
    (k.state = .up → ∃ t, exec (.identity l id) s = .next t ∧ (t.link l).state = .discover ∧ (t.link l).peerKey = id.key ∧
      (t.link l).ownCode = s.discoveryCode l id ∧ t.mem = s.mem) ∧
    (k.state = .discover → k.ownCode = 5 → k.declared = false → (∀ x ∈ s.tables.remaps, x.1 ≠ l ∧ x.2 ≠ l) →
      ∃ t, exec (.identityResult l 5) s = .next t ∧
      (t.link l).state = .up ∧ (t.link l).grace = none ∧ Claims.OnlyLinks s t) ∧
    (k.state = .discover → k.ownCode = 1 → c ≠ 0 → ∃ t, exec (.identityResult l c) s = .next t ∧ (t.link l).state = .dark ∧
      (t.link l).laserOn = false ∧ bit (t.link l).err 9 = true) ∧
    (k.state = .discover → s.bench = false → (k.ownCode = 2 ∨ k.ownCode = 3 ∨ k.ownCode = 4 ∨ k.ownCode = 7) → c ≠ 0 → c ≠ 1 → c ≠ 8 →
      ∃ t, exec (.identityResult l c) s = .next t ∧ (t.link l).state = .quarantine ∧ bit (t.link l).err 9 = true) ∧
    (k.state = .discover → k.peerCode = 0 → ∃ t, exec (.identityRepeat l) s = .next t ∧
      (t.link l).queue.length = k.queue.length + 1 ∧ t = { s with links := t.links, bypass := t.bypass }) ∧
    ((s.mapEntry l).isSome = true → k.trainedOnce = false → k.state ∉ [LinkState.dark, .discover, .up, .quarantine] →
      ∃ t, exec (.linkMissingTimeout l) s = .next t ∧
      (t.link l).disc = 9 ∧ (t.link l).state = k.state ∧ t.mgmt.alert = true ∧
      t = { s with links := t.links, mgmt := t.mgmt, out := t.out })

/-- Vectors land, VECTOR_LANDING (R117, R140, R142, R171, R172, R212, R221): a WRITE of 512 bytes counts in its group at once and waits at its place for
the arrival port; so does a staging vector, at its slot plus its sender's staging index, and a forward vector at its entry; a vector
beyond the expected count fails its group and aborts. -/
def Sys2Proof.Claims.VectorsLand : Prop :=
  ∀ (s : State) (l : Fin 56) (g : BitVec 12) (dst : Word32) (op : BitVec 4) (v : Vec512) (b x : Nat), s.debugMode = false →
    let d : Latched := { part := 0, slot := 0, dst := dst, dgrp := g, op := op, payload := v }
    let n := dst.toNat % 2 ^ 30
    let grp := g.toNat % 64
    let u := g.toNat / 64
    let bytes := leBytes 512 v.toNat
    d ∈ (s.link l).landing →
    (s.physOf u = some b → u < s.logicalCount → dst.toNat / 2 ^ 30 = 0 → n < 12288 → op = 0 → (s.block b).isolated = false →
      (s.block b).groups.have grp < (s.block b).groups.expect grp → ∃ t, exec (.vectorLanding l g dst op v) s = .next t ∧
        (t.block b).groups.have grp = (s.block b).groups.have grp + 1 ∧
        (t.block b).arrivals = (s.block b).arrivals ++ [{ place := 512 * n, loose := false, bytes := bytes }] ∧
        t = { s with links := t.links, blocks := t.blocks } ∧ ∀ y, y ≠ b → t.block y = s.block y) ∧
    (s.physOf u = some b → u < s.logicalCount → dst.toNat / 2 ^ 30 = 0 → n < 12288 → op = 1 → bit (s.block b).groups.loose grp = true →
      (s.block b).isolated = false → (s.block b).groups.have grp < (s.block b).groups.expect grp →
      ∃ t, exec (.vectorLanding l g dst op v) s = .next t ∧ (t.block b).groups.have grp = (s.block b).groups.have grp + 1 ∧
        (t.block b).arrivals = (s.block b).arrivals ++ [{ place := 512 * n, loose := true, bytes := bytes }] ∧ t.mem = s.mem) ∧
    (s.physOf u = some b → u < s.logicalCount → dst.toNat / 2 ^ 30 = 0 → (s.block b).isolated = false →
      (s.block b).groups.expect grp ≤ (s.block b).groups.have grp → s.relay = false → s.inCommit = false →
      ∃ t, exec (.vectorLanding l g dst op v) s = .next t ∧ bit (t.block b).groups.failed grp = true ∧ t.mem = s.mem ∧
        t.fault.abort.isSome = true) ∧
    (u < 12 → dst.toNat / 2 ^ 30 = 1 → (op = 2 ∨ op = 3) → s.logicalLink l = some x → bit (get 0 s.tables.stage x) 7 = true →
      n < 32768 → n % 512 + field (get 0 s.tables.stage x) 0 6 < 512 →
      (s.stack u).groups.have grp < (s.stack u).groups.expect grp → ∃ t, exec (.vectorLanding l g dst op v) s = .next t ∧
        (t.stack u).groups.have grp = (s.stack u).groups.have grp + 1 ∧
        (t.stack u).arrivals = (s.stack u).arrivals ++
          [{ place := stageBase u 0 + 512 * (n + field (get 0 s.tables.stage x) 0 6), bytes := bytes }] ∧ t.mem = s.mem) ∧
    (dst.toNat / 2 ^ 30 = 2 → op = 0 → g = 0 → n < 4096 → ∃ t, exec (.vectorLanding l g dst op v) s = .next t ∧
      t.fwdArrivals = s.fwdArrivals ++ [{ link := l, entry := n, vec := v }] ∧
      t = { s with links := t.links, fwdArrivals := t.fwdArrivals })

/-- What the arrival ports store (R117, R140, R159, R225, R276): the bytes of a WRITE at its place and no others; for a loose accumulate
the sums of its elements and the bytes that stood there; a forward vector makes its entry valid, and one for a valid entry changes
none and is counted.  The plan writes that become readable by cycle `c` are older than the arrival and lie under it. -/
def Sys2Proof.Claims.ArrivalsStored : Prop :=
  ∀ (s : State) (b i c : Nat) (x : Arrival) (y : Arrival) (f : FwdArrival), x.bytes.length = 512 →
    let a := blockBase b + x.place
    ((s.block b).arrivals = [x] → s.weakness a 512 = 0 →
      let t := s.landArrivals b c
      let bs := if x.loose = true then looseAdd (s.sramBytes b x.place 512 c) x.bytes else x.bytes
      (t.block b).arrivals = [] ∧ readBytes t.mem a 512 = bs ∧
      ((∀ d ∈ (s.block b).pend, d.stored c = false) → s.sramBytes b x.place 512 c = readBytes s.mem a 512 ∧ (t.block b).pend = (s.block b).pend) ∧
      (t.block b).pend = (s.block b).pend.map (fun d => if d.stored c = true then d.under x.place bs else d) ∧
      ∀ z, (z < a ∨ a + 512 ≤ z) → readByte t.mem z = readByte s.mem z) ∧
    ((s.stack i).arrivals = [y] →
      let t := s.landStaged i c
      (t.stack i).arrivals = [] ∧ readBytes t.mem y.place y.bytes.length = y.bytes ∧
      ∀ z, (z < y.place ∨ y.place + y.bytes.length ≤ z) → readByte t.mem z = readByte s.mem z) ∧
    (s.fwdArrivals = [f] → get none s.forward f.entry = none →
      let t := s.settleForward
      t.fwdArrivals = [] ∧ get none t.forward f.entry = some f.vec ∧ (∀ e, e ≠ f.entry → get none t.forward e = get none s.forward e) ∧
      t.role.fwdStored = satInc s.role.fwdStored ∧ t.mem = s.mem) ∧
    (s.fwdArrivals = [f] → (get none s.forward f.entry).isSome = true →
      let t := s.settleForward
      t.forward = s.forward ∧ (t.net (netOf f.link)).collides = satInc (s.net (netOf f.link)).collides)

/-! Faults, recovery and the assay -/

/-- a failed board link that no module failure explains (R334, quoted): of its two modules the one that reported more failed links in
the current step is declared failed, on a tie the one of higher logical slot. -/
def Obligations.UnexplainedLinkAttribution : Prop :=
  ∀ (s : State) (r : LinkReport) (a b : Nat), keyRelay r.src = false → keyRelay r.peer = false → r.src ≠ r.peer →
    r.src ∉ s.coord.failed → r.peer ∉ s.coord.failed →
    logicalSlot s.tables.positions r.src = some a → logicalSlot s.tables.positions r.peer = some b → a ≠ b →
    let count (k : Key) : Nat :=
      (s.coord.reports.filter (fun x => (x.event == 1 || x.event == 3) && x.src == k &&
        x.step.toNat == s.sheaf.step.toNat % 2 ^ 48)).length
    let t := s.declareByLink r
    (count r.peer < count r.src → t.coord.failed = s.coord.failed ++ [r.src]) ∧
    (count r.src < count r.peer → t.coord.failed = s.coord.failed ++ [r.peer]) ∧
    (count r.src = count r.peer → t.coord.failed = s.coord.failed ++ [if b < a then r.src else r.peer])

/-- What the coordinator hears, LINK_EVENT, FAILING and REMOVAL (R226, R333, R460): a link report is kept, a second accuser fails the module accused, a module that
says it fails or leaves is declared failed, at the step's next boundary where a fatal fault or a suspect mark within the step is the
cause (R340; that FAILING's cause 3 tells of both is log entry 109's reading); each message is acknowledged; another module ignores them. -/
def Sys2Proof.Claims.CoordinatorHearsReports : Prop :=
  ∀ (s : State) (src peer : Key) (ph lg : BitVec 6) (ev cause : BitVec 8) (step : BitVec 48) (seq id : Word32),
    let r : LinkReport := { src := src, event := ev, logical := lg.toNat, peer := peer, step := step }
    (s.coord.isCoord = true → ∃ t, exec (.linkEvent src ph ev peer step lg id) s = .next t ∧ r ∈ t.coord.reports ∧
      t.sheaf = s.sheaf ∧ t.blocks = s.blocks ∧ t.mem = s.mem ∧
      ((ev = 1 ∨ ev = 3) → src ≠ peer → (∃ q ∈ s.coord.reports, q.bad = true ∧ q.peer = peer ∧ q.src ≠ src ∧ q.src ≠ peer) →
        keyRelay peer = false → peer ∈ t.coord.failed) ∧
      ((ev = 1 ∨ ev = 3) → keyRelay src = true → src = peer → src ∈ t.coord.failedRelays)) ∧
    (let later := cause = 3 ∧ s.jobRuns = true ∧ s.sheaf.begun = true ∧ s.sheaf.atBoundary = false
     s.coord.isCoord = true → keyRelay src = false → ∃ t, exec (.failing src cause seq id) s = .next t ∧ t.sheaf = s.sheaf ∧ t.blocks = s.blocks ∧
      (¬later → src ∈ t.coord.failed ∧ (src ∉ s.coord.failed → t.fault.recoveryActive = true)) ∧
      (later → src ∈ t.coord.failDue ∧ t.coord.failed = s.coord.failed) ∧ t.mem = s.mem) ∧
    (s.coord.isCoord = true → ∀ k, keyRelay k = false → (k ∈ s.coord.failDue ∨ k ∈ s.coord.excluded) → k ∈ s.declareDue.coord.failed) ∧
    (s.coord.isCoord = true → keyRelay src = true → ∃ t, exec (.removal src id) s = .next t ∧ src ∈ t.coord.failedRelays ∧
      t.sheaf = s.sheaf ∧ t.blocks = s.blocks) ∧
    (s.coord.isCoord = true → keyRelay src = false → s.coord.failed = [] → s.spares s.tables.positions src ≠ [] →
      ∃ t, exec (.removal src id) s = .next t ∧ t.coord.failed = [src] ∧ t.fault.recoveryActive = true ∧ t.sheaf = s.sheaf) ∧
    (s.coord.isCoord = false → exec (.linkEvent src ph ev peer step lg id) s = .next s ∧
      exec (.failing src cause seq id) s = .next s ∧ exec (.removal src id) s = .next s)

/-- Orders from the coordinator and the ends of a recovery (R330, R335, R336, R343): the refill list, one for all the messages of its
generation, the excluded keys with an entry for each eight of them, a module's report, by whose both bits a module that set
COMMIT_FAULT asks for its refill (log entry 110), and the stall after the time limit. -/
def Sys2Proof.Claims.RecoveryOrders : Prop :=
  ∀ (s : State) (src : Key) (step : BitVec 48) (gen : BitVec 16) (rs : List (BitVec 16)) (ks : List Key) (rep ref : Bool) (id : Word32),
    (gen ≠ s.coord.refillGen → exec (.refillOrder step gen rs) s = .next { s with coord := { s.coord with refill := (rs.take 16).dedup, refillGen := gen } }) ∧
    (gen = s.coord.refillGen → exec (.refillOrder step gen rs) s = .next { s with coord := { s.coord with refill := (s.coord.refill ++ rs.take 16).dedup } }) ∧
    (∃ t, exec (.exclude step ks) s = .next t ∧ (∀ k ∈ ks.take 16, k ∈ t.coord.excluded) ∧
      (∀ k ∈ s.coord.excluded, k ∈ t.coord.excluded) ∧ t.sheaf = s.sheaf ∧
      (s.mgmt.key ∈ ks.take 16 → t.fault.excluded = true) ∧
      t.fault.nextSeq = s.fault.nextSeq + BitVec.ofNat 32 (ceilDiv (min 16 ks.length) 8)) ∧
    (s.coord.isCoord = true → ∃ t, exec (.recoveryDone src step gen rep ref id) s = .next t ∧
      (src, gen, rep, ref) ∈ t.coord.recoveries ∧ t.sheaf = s.sheaf ∧
      (rep = true → ref = true → (logicalSlot s.tables.positions src).isSome = true → replicaIndex s.tables.positions src ∈ t.coord.wanted)) ∧
    (s.fault.recoveryActive = true → ∃ t, exec .recoveryTimeout s = .next t ∧ t.fault.recoveryStalled = true ∧
      t.holds.stalled = true ∧ (∃ e, t.fault.log.getLast? = some e ∧ e.code = 0x070E) ∧ t.sheaf = s.sheaf)

/-- Beats and succession, COORD_BEAT_SEND, COORD_BEAT and COORD_BEAT_TIMEOUT (R332): the coordinator numbers its beats; a beat from a module no
later in the order makes it the coordinator followed, to which the messages not yet acknowledged that a coordinator must hear are
addressed from then on; 5 ms of silence pass the office to the next, which treats the old one as failed when the next is itself. -/
def Sys2Proof.Claims.BeatsAndSuccession : Prop :=
  ∀ (s : State) (src k : Key) (n : Word32) (step : BitVec 48) (gen : BitVec 16), s.job.joining = false →
    (s.coord.isCoord = true → ∃ t, exec .coordBeatSend s = .next t ∧ t.coord.beat = s.coord.beat + 1 ∧ t.sheaf = s.sheaf ∧
      t.coord.coordKey = s.coord.coordKey) ∧
    (src ∈ s.succession → s.succession.idxOf src ≤ s.succession.idxOf s.coord.coordKey →
      ∃ t, exec (.coordBeat src n step gen) s = .next t ∧ t.coord.coordKey = src ∧ t.coord.heardStep = step ∧
        t.coord.heardAt = some s.frcUs ∧ (src ≠ s.coord.coordKey → t.coord.isCoord = (src == s.mgmt.key) ∧
          ∀ u ∈ s.coord.unacked, u.moves = true → { u with dest := src } ∈ t.coord.unacked) ∧ t.sheaf = s.sheaf) ∧
    (src ∈ s.succession → s.succession.idxOf s.coord.coordKey < s.succession.idxOf src →
      exec (.coordBeat src n step gen) s = .next s) ∧
    (s.coord.isCoord = false → s.coord.coordKey ≠ 0xFFFF → s.succession[s.succession.idxOf s.coord.coordKey + 1]? = some k →
      k ≠ s.coord.coordKey → ∃ t, exec .coordBeatTimeout s = .next t ∧ t.coord.coordKey = k ∧
        (k = s.mgmt.key → t.coord.isCoord = true ∧
          (keyRelay s.coord.coordKey = false → s.coord.coordKey ∈ t.coord.failed)) ∧ t.sheaf = s.sheaf)

/-- Retries and acknowledgements (R345): an ASSAY_ACK takes the message out, MESSAGE_RETRY sends every other kept message
again and JOIN_RETRY the JOINs, with their own MSG_ID; the kept list stays. -/
def Sys2Proof.Claims.MessageRetries : Prop :=
  ∀ (s : State) (id : Word32),
    exec (.assayAck id) s = .next { s with coord := { s.coord with unacked := s.coord.unacked.filter (fun u => u.msgId != id) } } ∧
    (∃ t, exec .messageRetry s = .next t ∧ t.coord = s.coord ∧ t = { s with links := t.links, bypass := t.bypass } ∧
      t.bypass.number = s.bypass.number) ∧
    (∃ t, exec .joinRetry s = .next t ∧ t.coord = s.coord ∧ t = { s with links := t.links, bypass := t.bypass }) ∧
    (∀ u, s.coord.unacked = [u] → u.mtype ≠ 0x56 → ∀ l b, s.route u.dest = some (l, b) → u.dest ≠ s.mgmt.key →
      ∃ t, exec .messageRetry s = .next t ∧ ∃ q, (t.link l).queue = (s.link l).queue ++ [q] ∧ q.msg.msgId = u.msgId ∧
        q.msg.mtype = u.mtype ∧ q.msg.body = u.body ∧ q.msg.dest = u.dest)

/-- JOIN at the coordinator (R459): with both hashes right and the place free the module is no longer failed and is told the segment
and the tables, 22 packets in all (the table's content goes as a series of 20); with a hash wrong it is refused and stays; the answer is kept for a repeat (R251).  A module
that is not the coordinator ignores it. -/
def Obligations.JoinAtCoordinator : Prop :=
  ∀ (s : State) (key : Key) (ph mh : Word128) (st : BitVec 8) (id : Word32) (p : Plan) (m : MachineMap),
    let head (h : Hash) : Word128 := BitVec.ofNat 128 (leNat ((hashBytes h).take 16))
    (s.coord.isCoord = false → exec (.join key ph mh st id) s = .next s) ∧
    (s.coord.isCoord = true → s.store.cur = some p → s.store.map = some m → (∀ x ∈ s.bypass.answers, x.1 ≠ key) → key ≠ s.mgmt.key →
      (ph = head p.hash → mh = head m.hash → keyRelay key = false → logicalSlot s.tables.positions key = none →
        ∃ t, exec (.join key ph mh st id) s = .next t ∧ key ∉ t.coord.failed ∧ (∀ r ∈ t.coord.reports, r.src ≠ key ∧ r.peer ≠ key) ∧
          t.bypass.number = s.bypass.number + 22 ∧ t.sheaf = s.sheaf ∧ t.tables = s.tables) ∧
      ((ph ≠ head p.hash ∨ mh ≠ head m.hash) → ∃ t, exec (.join key ph mh st id) s = .next t ∧ t.coord = s.coord ∧
        t.bypass.number = s.bypass.number + 1 ∧ (∃ x ∈ t.bypass.answers, x.1 = key ∧ x.2.1 = id) ∧ t.tables = s.tables))

/-- The vote over the parameter digests (R338, R339): all equal is PASS; a minority on boards of its own is REFILL with the majority's digest, and no strict majority or
two of the minority on one board is SPLIT. -/
def Sys2Proof.Claims.VerdictOfDigests : Prop :=
  ∀ (l : List (Key × BitVec 16 × Word128)) (d : Word128), l ≠ [] →
    let votes := (l.filter (fun x => x.2.2 == d)).length
    let minor := l.filter (fun x => x.2.2 != d)
    ((∀ x ∈ l, x.2.2 = d) → verdictOf l = (1, d, [])) ∧
    (l.length < 2 * votes → minor ≠ [] → (minor.map (fun x => x.2.1.toNat / 16)).Nodup → verdictOf l = (2, d, minor)) ∧
    (l.length < 2 * votes → ¬(minor.map (fun x => x.2.1.toNat / 16)).Nodup → (verdictOf l).1 = 3) ∧
    ((∀ e, 2 * (l.filter (fun x => x.2.2 == e)).length ≤ l.length) → verdictOf l = (3, 0, []))

/-- The assay's messages (R338, R339): a digest of the step under vote is kept, one for each position, an older one only acknowledged; PASS
opens the gate, REFILL aborts and marks the minority, SPLIT aborts and holds; a spare keeps the verdict for the gate of the redo that it may be switched into (R328). -/
def Sys2Proof.Claims.AssayMessages : Prop :=
  ∀ (s : State) (src k : Key) (step : BitVec 48) (rep : BitVec 16) (d : Word128) (id : Word32),
    (s.coord.isCoord = true → s.coord.voteStep.toNat < step.toNat → k ∈ s.voters → k ≠ src →
      ∃ t, exec (.assayParam src step rep d id) s = .next t ∧ t.coord.voteStep = step ∧ t.coord.digests = [(src, rep, d)] ∧
        t.fault = s.fault ∧ t.holds = s.holds) ∧
    (s.coord.isCoord = true → step.toNat < s.coord.voteStep.toNat → ∃ t, exec (.assayParam src step rep d id) s = .next t ∧
      t.coord.digests = s.coord.digests ∧ t.coord.voteStep = s.coord.voteStep) ∧
    (s.ownSlot = none → ∃ t, exec (.assayVerdict step 1 false d src id) s = .next t ∧ t.assay.passed = some step ∧ t.fault = s.fault ∧
      t.holds = s.holds ∧ t.assay.verdictPending = s.assay.verdictPending) ∧
    (s.assay.verdictPending = true → s.assay.step = step → s.ownSlot.isSome = true → s.relay = false → s.inCommit = false →
      (∃ t, exec (.assayVerdict step 1 false d src id) s = .next t ∧ t.assay.passed = some step ∧ t.assay.verdictPending = false ∧
        t.assay.verdict = 1 ∧ t.fault = s.fault ∧ t.holds = s.holds) ∧
      (∃ t, exec (.assayVerdict step 2 false d src id) s = .next t ∧ t.assay.passed = some step ∧ t.assay.verdict = 2 ∧
        t.fault.abort.isSome = true ∧ t.fault.suspect = s.fault.suspect) ∧
      (∃ t, exec (.assayVerdict step 2 true d src id) s = .next t ∧ t.fault.abort.isSome = true ∧ t.fault.suspect = true) ∧
      (∃ t, exec (.assayVerdict step 3 false d src id) s = .next t ∧ t.assay.passed = s.assay.passed ∧
        t.fault.abort.isSome = true ∧ t.holds.split = true))

/-- the comparison of twins (R341, R342): equal contribution digests settle the step's comparison, unequal ones abort it;
a coordinator keeps each relay's result, and a wait that expires turns comparison off and lets the gate pass. -/
def Obligations.TwinComparison : Prop :=
  ∀ (s : State) (src : Key) (step : BitVec 48) (o form : BitVec 8) (d : Word128) (own : DigestRec) (id : Word32),
    (s.counterpart = some src → s.relay = false → s.inCommit = false → step.toNat = s.sheaf.step.toNat → s.assay.twinPending = true →
      findDigest s.assay.kept step 0 = some own → s.assay.heard = [] →
      (own.digest = d → ∃ t, exec (.twinContrib src step 0 form d) s = .next t ∧ t.assay.twinPending = false ∧
        t.assay.twinOutcome = 1 ∧ t.holds.twin = false ∧ t.fault = s.fault) ∧
      (own.digest ≠ d → ∃ t, exec (.twinContrib src step 0 form d) s = .next t ∧ t.assay.twinOutcome = 2 ∧
        t.assay.twinPending = true ∧ t.fault.abort.isSome = true)) ∧
    (s.counterpart = some src → findDigest s.assay.kept step 0 = none → ∃ t, exec (.twinContrib src step 0 form d) s = .next t ∧
      t = { s with assay := t.assay } ∧ { step := step, attempt := 0, form := form, digest := d } ∈ t.assay.heard) ∧
    (s.coord.isCoord = true → ∃ t, exec (.twinResult src step 0 o id) s = .next t ∧
      (src, step, 0, o) ∈ t.coord.twinResults ∧ (∀ r ∈ s.coord.twinResults, r.1 ≠ src → r ∈ t.coord.twinResults) ∧ t.sheaf = s.sheaf) ∧
    (s.holds.twin = true → ∃ t, exec .twinWaitExpired s = .next t ∧ t.assay.twinLost = true ∧ t.holds = { s.holds with twin := false } ∧
      (∃ e, t.fault.log.getLast? = some e ∧ e.code = 0x0707) ∧ t.sheaf = s.sheaf)

/-- Relays (R38, R274, R280): a relay's local cause of ABORT sets none of its own bits but asks the coordinator; the coordinator sets HOLD or ABORT
for it; a relay's fatal fault names itself and, once that has left by its links, turns off its lasers. -/
def Sys2Proof.Claims.RelayRequests : Prop :=
  ∀ (s : State) (src : Key) (c : AbortCause),
    (s.relay = true → s.job.phase = .running → (s.abortFor c).fault = s.fault ∧ (s.abortFor c).holds = s.holds ∧
      (s.abortFor c).role.abortReqs = inc16 s.role.abortReqs ∧ (s.abortFor c).bypass.number = s.bypass.number + 1) ∧
    (s.coord.isCoord = true → ∃ t, exec (.relayHoldRequest src false) s = .next t ∧ t.holds.relayRequest = true ∧
      src ∈ t.coord.relayHold ∧ t = { s with holds := t.holds, coord := t.coord }) ∧
    (s.coord.isCoord = true → s.relay = false → s.inCommit = false → ∃ t, exec (.relayHoldRequest src true) s = .next t ∧
      t.fault.abort.isSome = true ∧ t = { s with fault := t.fault }) ∧
    (s.relay = true → ∃ t, exec .relayFatalFault s = .next t ∧ t.role.fatal = true ∧ t.coord.unacked.length = s.coord.unacked.length + 1 ∧
      t.mem = s.mem ∧
      ((∀ l < 56, ∀ q ∈ (t.link l).queue, ¬(namesRelay q.msg = true ∧ q.msg.src = s.mgmt.key)) →
        ∀ l < 56, (t.link l).laserOn = false ∧ ((s.link l).state ≠ .dark → (t.link l).state = .failed)))

/-- Neighbours (R457): the last MGMT body of each link is kept, and MGMT_SEND puts one message on each link whose lasers are
lit. -/
def Sys2Proof.Claims.NeighbourMessages : Prop :=
  ∀ (s : State) (l : Fin 56) (b : BitVec 160),
    (∃ t, exec (.mgmt l b) s = .next t ∧ get 0 t.mgmt.neighbours l = b ∧
      (∀ x, x ≠ l.val → get 0 t.mgmt.neighbours x = get 0 s.mgmt.neighbours x) ∧ t = { s with mgmt := t.mgmt }) ∧
    (∃ t, exec .mgmtSend s = .next t ∧ t = { s with links := t.links, bypass := t.bypass } ∧
      (t.link l).queue.length = (s.link l).queue.length + (if (s.link l).lit then 1 else 0))

/-! The mailboxes and the Birtur commands -/

/-- An address that no record of up to 8,192 bytes reaches: the journal is off, or the address lies outside its range (R290, R291). -/
def Sys2Proof.Claims.OutsideJournal (s : State) (a : Nat) : Prop :=
  s.glean.on = false ∨ a < s.glean.base ∨ s.glean.base + max s.glean.length 8192 ≤ a

/-- Memory stays but for records of the journal. -/
def Sys2Proof.Claims.JournalOnly (s t : State) : Prop := ∀ a, Claims.OutsideJournal s a → readByte t.mem a = readByte s.mem a

/-- The mailbox's command is the only one posted at its port, and the port's turn has come (R360). -/
def Sys2Proof.Claims.OnTurn (s : State) (p : Fin 4) (m : Fin 8) : Prop :=
  (s.port p).posted = [m.val] ∧ s.nextServed = some (p.val, m.val)

/-- The state in which firmware has taken a command of a port: the turn passes to the next port (R360). -/
def Sys2Proof.Claims.served (s : State) (p : Fin 4) : State := { s with turn := BitVec.ofNat 2 (p.val + 1) }

/-- A command well posted (R358 to R360, R362, R375): Birtur runs, the mailbox holds a posted command with this opcode, CMD_VERSION 1, the
length that the opcode's body takes and every reserved byte 0, under an ID that no completed and no other running command of the port has,
and firmware comes to it next. -/
def Sys2Proof.Claims.Posted (s : State) (p : Fin 4) (m : Fin 8) (op size : Nat) (reserved : List (Nat × Nat)) : Prop :=
  let k := s.mbx p m
  s.rst.birtur = true ∧ Claims.OnTurn s p m ∧ k.state = .posted ∧ k.opcode = op ∧ leNat (readBytes k.cmd 2 2) = 1 ∧ k.len = 16 + 4 * ceilDiv size 4 ∧
  (∀ d ∈ (s.port p).dups, d.id ≠ k.id) ∧ s.runningTwin p m = none ∧
  k.reservedHead = none ∧ k.reservedBody { op := op, size := size, permit := .any, relayOk := true } reserved = none

/-- A mailbox holds a finished command with this status. -/
def Sys2Proof.Claims.Done (s : State) (p m : Nat) (status : BitVec 16) : Prop := (s.mbx p m).state = .done ∧ (s.mbx p m).status = status

/-- The rows of R376 with the reserved bytes of R379 to R393: mailbox, opcode, body size, ports, relay role, the acceptance state's refusal, and the
reserved spans of the body. -/
def Sys2Proof.Claims.rowOf (s : State) : Instr → Option (Fin 4 × Fin 8 × CmdRule × Option Nat × List (Nat × Nat))
  | .identify p m => some (p, m, ⟨0x01, 0, .any, true⟩, none, [])
  | .getStatus p m => some (p, m, ⟨0x02, 0, .any, true⟩, none, [])
  | .loadPlan p m _ _ => some (p, m, ⟨0x10, 96, .ownerOrFree, true⟩, s.loadState p m, [(2, 6)])
  | .verifyPlan p m => some (p, m, ⟨0x11, 0, .ownerOnly, true⟩, s.needPlan, [])
  | .unloadPlan p m => some (p, m, ⟨0x12, 0, .ownerOnly, true⟩, firstOf s.needPlan s.needNoJob, [])
  | .bindMachine p m _ => some (p, m, ⟨0x20, 48, .ownerOrFree, true⟩,
      firstOf (if s.mgmt.key != 0xFFFF then none else some 0x0303) s.needNoJob, [])
  | .startJob p m => some (p, m, ⟨0x30, 16, .ownerOnly, true⟩, s.startState, [(1, 3)])
  | .holdAtStep p m => some (p, m, ⟨0x31, 8, .ownerOnly, true⟩, s.needJob, [])
  | .resume p m => some (p, m, ⟨0x32, 0, .ownerOnly, true⟩, s.needJob, [])
  | .stopJob p m => some (p, m, ⟨0x33, 1, .ownerOnly, true⟩, s.needJob, [])
  | .resultAck p m => some (p, m, ⟨0x42, 16, .readers, false⟩, none, [(1, 7)])
  | .restoreState p m _ => some (p, m, ⟨0x51, 16, .ownerOnly, false⟩, firstOf s.needPlan s.needNoJob, [])
  | .journalConfig p m _ => some (p, m, ⟨0x60, 40, .ownerOnly, false⟩, s.needNoJob, [(2, 6)])
  | .replayStart p m _ => some (p, m, ⟨0x61, 40, .ownerOnly, false⟩, s.startState, [(1, 3), (14, 2), (22, 2)])
  | .assayConfig p m => some (p, m, ⟨0x70, 32, .ownerOnly, true⟩, s.needNoJob, [(1, 3), (8, 8)])
  | .timeConfig p m => some (p, m, ⟨0x80, 12, .ownerOnly, true⟩, none, [(1, 3)])
  | .pulseConfig p m => some (p, m, ⟨0x81, 28, .ownerOnly, true⟩, none, [(1, 3)])
  | .readCounters p m => some (p, m, ⟨0x90, 8, .readers, true⟩, none, [])
  | .readErrors p m => some (p, m, ⟨0x91, 6, .readers, true⟩, none, [])
  | .grantRole p m => some (p, m, ⟨0xA0, 2, .ownerOnly, true⟩, none, [])
  | .powerCap p m => some (p, m, ⟨0xB0, 2, .ownerOnly, true⟩, none, [])
  | .reset p m => some (p, m, ⟨0xF0, 1, .ownerOrFree, true⟩, none, [])
  | .feedRegister p m _ => some (p, m, ⟨0x40, 32, .feeders, false⟩, firstOf s.needPlan
      (if s.job.phase != .none && !s.feed.ring.isEmpty then some 0x010B else none), [(1, 15)])
  | .resultRegister p m _ => some (p, m, ⟨0x41, 32, .readers, false⟩, s.needPlan, [(3, 13)])
  | .saveState p m _ => some (p, m, ⟨0x50, 32, .ownerOnly, false⟩, firstOf s.needJob
      (if s.save.phase == .idle then none else some 0x010B), [(1, 15)])
  | _ => none

/-- what every command of R376 is refused for before its own checks (R358, R375 to R377): a wrong version, a wrong length, a port without the right,
relay role, a state in which it is not taken, a reserved byte that is not 0, of the body the first that offends or one before it.  Their order is log entry 29's.  A command that
comes in its turn (R360) passes the turn on, whatever its answer.  Nothing is served before Birtur runs, and a mailbox with
another row's opcode is not touched. -/
def Obligations.CommandChecksRefuse : Prop :=
  ∀ (s : State) (c : Instr) (p : Fin 4) (m : Fin 8) (r : CmdRule) (state : Option Nat) (reserved : List (Nat × Nat)),
    Claims.rowOf s c = some (p, m, r, state, reserved) →
    let k := s.mbx p m
    (s.rst.birtur = false → exec c s = .next s) ∧
    (s.rst.birtur = true → Claims.OnTurn s p m → k.state = .posted → 16 ≤ k.len → k.len ≤ 4096 → k.len % 4 = 0 → (∀ d ∈ (s.port p).dups, d.id ≠ k.id) →
      s.runningTwin p m = none → k.opcode ∈ opcodes →
      (k.opcode ≠ r.op → exec c s = .next s) ∧
      (k.opcode = r.op →
        let version := leNat (readBytes k.cmd 2 2)
        let fits := k.len = 16 + 4 * ceilDiv r.size 4
        (version ≠ 1 → exec c s = .next ((Claims.served s p).refuse p m 3 0)) ∧
        (version = 1 → ¬fits → exec c s = .next ((Claims.served s p).refuse p m 2 0)) ∧
        (version = 1 → fits → ∀ x, s.permission p r.permit = some x → exec c s = .next ((Claims.served s p).refuse p m x 0)) ∧
        (version = 1 → fits → s.permission p r.permit = none →
          (s.relay = true → r.relayOk = false → exec c s = .next ((Claims.served s p).refuse p m 0x0105 0)) ∧
          ((s.relay = true → r.relayOk = true) →
            (∀ x, state = some x → exec c s = .next ((Claims.served s p).refuse p m x 0)) ∧
            (state = none → ∀ o, k.reservedHead = some o → exec c s = .next ((Claims.served s p).refuse p m 0x0106 o)) ∧
            (state = none → k.reservedHead = none → ∀ o, k.reservedBody r reserved = some o →
              ∃ t, exec c s = .next t ∧ Claims.Done t p m 0x0106 ∧ leNat (readBytes (t.mbx p m).resp 12 2) ≤ o)))))

/-- A completion (R361, R362): the mailbox is DONE with its status and a response of the ID, status, opcode, length, DETAIL and body; the completion word
is written to host memory where it is enabled; the port's event bit is set; the record for duplicates is kept, except for the
three statuses that leave none; a mailbox that waited for this command completes with it. -/
def Sys2Proof.Claims.CompletionEffects : Prop :=
  ∀ (s : State) (p : Fin 4) (m : Fin 8) (status : BitVec 16) (detail : Nat) (body : List Byte),
    let k := s.mbx p m
    let t := s.complete p m status.toNat detail body
    let resp := writeBytes [] 0 (responseBytes k.id k.opcode status.toNat detail body)
    Claims.Done t p m status ∧ (t.mbx p m).dup = false ∧ (t.mbx p m).resp = resp ∧ (t.mbx p m).id = k.id ∧
    (k.cplEn = true → (s.port p).up = true →
      Out.hostWrite p k.cplAddr.toNat (leBytes 8 (k.id.toNat + status.toNat * 2 ^ 32 + m.val * 2 ^ 48 + 2 ^ 63)) ∈ t.out) ∧
    bit (t.port p).events m = true ∧
    (status ≠ 1 → status ≠ 2 → status ≠ 6 → { id := k.id, hash := k.hash, status := status, resp := resp } ∈ (t.port p).dups) ∧
    ((status = 1 ∨ status = 2 ∨ status = 6) → (t.port p).dups = (s.port p).dups) ∧
    (∀ f : Fin 8, f ≠ m → (s.mbx p f).busy = true → (s.mbx p f).follows = some m →
      Claims.Done t p f status ∧ (t.mbx p f).dup = true ∧ (t.mbx p f).resp = resp) ∧
    (∀ f : Fin 8, f ≠ m → ((s.mbx p f).busy = false ∨ (s.mbx p f).follows ≠ some m) → t.mbx p f = s.mbx p f) ∧
    (∀ q, q ≠ p.val → t.port q = s.port q) ∧
    t = { s with ports := t.ports, out := t.out, counts := t.counts }

/-- A post (R359, R362, R363): a busy mailbox keeps its command and notes OVERPOST; an idle or done one takes the command; firmware refuses a wrong length and an unknown
opcode, answers a repeated ID from its record, refuses the ID under other bytes, and lets the same running ID wait for its answer, once no
command posted before it at the port waits to start (R360); a wrong length is refused at once (R359). -/
def Sys2Proof.Claims.Posts : Prop :=
  ∀ (s : State) (p : Fin 4) (m : Fin 8) (v : Word32),
    let k := s.mbx p m
    let n := field v 0 13
    let k1 : Mailbox := { k with state := .posted, overpost := false, dup := false, status := 0, resp := [], len := n, id := k.postLo, follows := none }
    let good := 16 ≤ n ∧ n ≤ 4096 ∧ n % 4 = 0
    ∃ t, exec (.mbxPost p m v) s = .next t ∧ t.mem = s.mem ∧ t.job = s.job ∧ (∀ q, q ≠ p.val → t.port q = s.port q) ∧
    (k.busy = true → t.mbx p m = { k with overpost := true } ∧ ∀ f : Fin 8, f ≠ m → t.mbx p f = s.mbx p f) ∧
    (k.busy = false → s.rst.birtur = false → t.mbx p m = k1) ∧
    (k.busy = false → s.rst.birtur = true → ¬good → Claims.Done t p m 2) ∧
    (k.busy = false → s.rst.birtur = true → (∀ f ∈ (s.port p).posted, f ≠ m.val → (s.mbx p f).state ≠ .posted) →
      (good → ∀ d, (s.port p).dups.find? (fun d => d.id == k.postLo) = some d →
        (d.hash = k1.hash → Claims.Done t p m d.status ∧ (t.mbx p m).dup = true ∧ (t.mbx p m).resp = d.resp) ∧
        (d.hash ≠ k1.hash → Claims.Done t p m 5)) ∧
      (good → (∀ d ∈ (s.port p).dups, d.id ≠ k.postLo) →
        let twin (f : Fin 8) : Prop := f ≠ m ∧ (s.mbx p f).state = .inProgress ∧ (s.mbx p f).follows = none ∧ (s.mbx p f).id = k.postLo
        ((∃ f, twin f) → (t.mbx p m).state = .inProgress ∧ ∃ f, twin f ∧ (t.mbx p m).follows = some f) ∧
        ((∀ f, ¬twin f) →
          (k.opcode ∈ opcodes → t.mbx p m = k1) ∧ (k.opcode ∉ opcodes → Claims.Done t p m 1))))

/-- posts and completions of mailboxes. -/
def Obligations.PostsAndCompletions : Prop := Claims.Posts ∧ Claims.CompletionEffects

/-- IDENTIFY, GET_STATUS, READ_COUNTERS and READ_ERRORS (R379, R391): who may ask, what the answer holds, and that asking
changes no plan state. -/
def Obligations.InformationCommands : Prop :=
  ∀ (s : State) (p : Fin 4) (m : Fin 8),
    let k := s.mbx p m
    (Claims.Posted s p m 0x01 0 [] → exec (.identify p m) s = .next ((Claims.served s p).succeed p m s.identifyBody) ∧
      s.identifyBody.length = 96 ∧ fieldLE s.identifyBody 0 2 = s.rst.vendorId.toNat ∧ fieldLE s.identifyBody 2 2 = 0x4856 ∧
      fieldLE s.identifyBody 4 8 = s.rst.serial.toNat ∧ fieldLE s.identifyBody 16 1 = (if s.relay then 1 else 0)) ∧
    (Claims.Posted s p m 0x02 0 [] → exec (.getStatus p m) s = .next ((Claims.served s p).succeed p m s.statusBody) ∧
      fieldLE s.statusBody 0 1 = (if s.store.cur.isNone then 0 else if s.store.next.isNone then 1 else 2) ∧
      fieldLE s.statusBody 1 1 = (if s.store.map.isSome then 1 else 0) ∧ fieldLE s.statusBody 4 6 = s.sheaf.step.toNat % 2 ^ 48 ∧
      fieldLE s.statusBody 12 4 = s.holds.word.toNat) ∧
    (Claims.Posted s p m 0x90 8 [] → (s.port p).role ≠ .none →
      let off := k.field 0 4
      let n := k.field 4 4
      (off % 4 = 0 → 0x100000 ≤ off → off < 0x1A1000 → 1 ≤ n → n ≤ 1016 → off + 4 * n ≤ 0x1A1000 →
        ∃ t, exec (.readCounters p m) s = .next t ∧ Claims.Done t p m 0 ∧ t.mem = s.mem ∧ t.job = s.job ∧ t.blocks = s.blocks) ∧
      ((off % 4 ≠ 0 ∨ off < 0x100000 ∨ 0x1A1000 ≤ off) → exec (.readCounters p m) s = .next ((Claims.served s p).refuse p m 0x0106 0)) ∧
      (off % 4 = 0 → 0x100000 ≤ off → off < 0x1A1000 → (n < 1 ∨ 1016 < n ∨ 0x1A1000 < off + 4 * n) →
        exec (.readCounters p m) s = .next ((Claims.served s p).refuse p m 0x0106 4))) ∧
    (Claims.Posted s p m 0x91 6 [] → (s.port p).role ≠ .none →
      let first : Word32 := BitVec.ofNat 32 (k.field 0 4)
      let most := k.field 4 1
      let least := k.field 5 1
      let fits := (s.fault.readFrom first).1.filter (fun e => decide (least ≤ e.severity.toNat))
      (1 ≤ most → most ≤ 62 → least ≤ 4 → ∃ body, exec (.readErrors p m) s = .next ((Claims.served s p).complete p m 0 (s.fault.readFrom first).2 body) ∧
        body.length = 16 + 64 * min most fits.length ∧ fieldLE body 8 1 = min most fits.length ∧
        (fits.length ≤ most → fieldLE body 0 4 = s.fault.nextSeq.toNat)) ∧
      ((most < 1 ∨ 62 < most) → exec (.readErrors p m) s = .next ((Claims.served s p).refuse p m 0x0106 4)) ∧
      (1 ≤ most → most ≤ 62 → 4 < least → exec (.readErrors p m) s = .next ((Claims.served s p).refuse p m 0x0106 5)))

/-- registered buffers (R378, R388, R372): a feed ring of 2 to 64 slots and a stream's 1 to 64 slots are registered as their windows; a RESULT_ACK of the
generation that a slot holds frees it, of any other is refused. -/
def Obligations.BufferCommands : Prop :=
  ∀ (s : State) (p : Fin 4) (m : Fin 8) (ranges : Option (List TableEntry)) (bs : List HostBuffer) (r : ResultSpec),
    let k := s.mbx p m
    let i := k.field 0 1
    let old := get {} s.results i
    (Claims.Posted s p m 0x40 32 [(1, 15)] → ((s.port p).role = .owner ∨ (s.port p).role = .feeder) → s.relay = false →
      s.store.cur.isSome = true → (s.job.phase = .none ∨ s.feed.ring = []) →
      (2 ≤ i → i ≤ 64 → (s.dropWindows s.feed.ring).takeBuffers p k 16 i (64 + s.body.feedLength) ranges = .ok bs →
        ∃ t, exec (.feedRegister p m ranges) s = .next t ∧ Claims.Done t p m 0 ∧ t.feed.ring = bs ∧ t.feed.port = p.val ∧
          t.feed.staged = [] ∧ t.feed.pulling = none ∧ (∀ b ∈ bs, b ∈ (t.port p).windows) ∧ t.mem = s.mem ∧ t.job = s.job) ∧
      ((i < 2 ∨ 64 < i) → exec (.feedRegister p m ranges) s = .next ((Claims.served s p).refuse p m 0x0106 0))) ∧
    (Claims.Posted s p m 0x41 32 [(3, 13)] → (s.port p).role ≠ .none → s.relay = false → s.store.cur.isSome = true → i ≤ 63 →
      1 ≤ k.field 1 1 → k.field 1 1 ≤ 64 → k.field 2 1 ≤ 1 → s.resultSpec i = some r →
      (k.field 2 1 = 1 → r.overwritable = false → exec (.resultRegister p m ranges) s = .next ((Claims.served s p).refuse p m 0x0502 0)) ∧
      ((k.field 2 1 = 1 → r.overwritable = true) → (s.job.phase = .none ∨ old.slots = []) →
        (s.dropWindows old.slots).takeBuffers p k 16 (k.field 1 1) (64 + r.length) ranges = .ok bs →
        ∃ t, exec (.resultRegister p m ranges) s = .next t ∧ Claims.Done t p m 0 ∧
          (let n := get {} t.results i
           n.slots = bs ∧ n.port = p.val ∧ n.overwrite = (k.field 2 1 == 1) ∧ (s.job.phase = .none → n.produced = 0 ∧ n.waiting = []) ∧
             (s.job.phase ≠ .none → n.produced = old.produced ∧ n.waiting = old.waiting)) ∧
          (∀ x, x ≠ i → get {} t.results x = get {} s.results x) ∧ (∀ b ∈ bs, b ∈ (t.port p).windows) ∧ t.mem = s.mem)) ∧
    (Claims.Posted s p m 0x42 16 [(1, 7)] → (s.port p).role ≠ .none → s.relay = false → i ≤ 63 → old.slots ≠ [] → old.port = p.val →
      let g := k.field 8 8
      let slot := (g - 1) % old.slots.length
      (g ≠ 0 → old.gens.getD slot 0 = g → ∃ t, exec (.resultAck p m) s = .next t ∧ Claims.Done t p m 0 ∧
        (get {} t.results i).acked.getD slot 0 = g ∧ (get {} t.results i).free slot = true ∧
        (∀ x, x ≠ i → get {} t.results x = get {} s.results x) ∧ t.mem = s.mem) ∧
      ((g = 0 ∨ old.gens.getD slot 0 ≠ g) → exec (.resultAck p m) s = .next ((Claims.served s p).refuse p m 0x0503 0)))

/-- settings (R390, R392, R60): the assay key and twin wait, the holdover budget and capture, a pulse output's values, a port's role and the power cap, each with what it is
refused for. -/
def Obligations.SettingCommands : Prop :=
  ∀ (s : State) (p : Fin 4) (m : Fin 8), (s.port p).role = .owner →
    let k := s.mbx p m
    let b0 := k.field 0 1
    (Claims.Posted s p m 0x70 32 [(1, 3), (8, 8)] → s.job.phase = .none → b0 ≤ 1 →
      let wait := k.field 4 4
      let h : Word128 := BitVec.ofNat 128 (k.field 16 16)
      ((wait = 0 ∨ 10 ≤ wait ∧ wait ≤ 60000) → h ≠ 0 → ∃ t, exec (.assayConfig p m) s = .next t ∧ Claims.Done t p m 0 ∧
        t.assay = { s.assay with keySet := true, key := h, twinOn := b0 == 1,
                                 twinWait := if wait = 0 then s.assay.twinWait else BitVec.ofNat 32 wait }) ∧
      ((wait = 0 ∨ 10 ≤ wait ∧ wait ≤ 60000) → h = 0 → exec (.assayConfig p m) s = .next ((Claims.served s p).refuse p m 0x0106 16))) ∧
    (Claims.Posted s p m 0x80 12 [(1, 3)] → b0 ≤ 3 →
      let ms := k.field 4 4
      let cap := k.field 8 4
      (b0 % 2 = 1 → 10 ≤ ms ∧ ms ≤ 5000) → (2 ≤ b0 → cap ≤ 7) → ∃ t, exec (.timeConfig p m) s = .next t ∧ Claims.Done t p m 0 ∧
        (b0 % 2 = 1 → s.servo.state ≠ .holdover → t.servo.holdoverBudget = BitVec.ofNat 32 ms) ∧
        (b0 % 2 = 1 → s.servo.state = .holdover → t.servo.holdoverBudget = s.servo.holdoverBudget ∧ t.servo.budgetNext = some (BitVec.ofNat 32 ms)) ∧
        (b0 % 2 = 0 → t.servo = s.servo) ∧
        (2 ≤ b0 → t.time.capEnable = decide (cap % 2 = 1) ∧ t.time.capEdge = BitVec.ofNat 2 (cap / 2)) ∧ (b0 < 2 → t.time = s.time)) ∧
    (Claims.Posted s p m 0x81 28 [(1, 3)] → b0 ≤ 1 → k.field 4 4 ≤ 15 →
      let ctrl : Word32 := BitVec.ofNat 32 (k.field 4 4)
      let q : Pulse := { s.time.pulse b0 with
        start := BitVec.ofNat 64 (k.field 8 8), period := BitVec.ofNat 64 (k.field 16 8), width := BitVec.ofNat 32 (k.field 24 4) }
      (q.limits (field ctrl 2 2) = true → ∃ t, exec (.pulseConfig p m) s = .next t ∧ Claims.Done t p m 0 ∧
        t.time.pulse b0 = q.write ctrl s.nowNs ∧ t.time.pulse (1 - b0) = s.time.pulse (1 - b0)) ∧
      (q.limits (field ctrl 2 2) = false → exec (.pulseConfig p m) s = .next ((Claims.served s p).refuse p m 0x0602 0))) ∧
    (Claims.Posted s p m 0xA0 2 [] → b0 ≤ 3 → k.field 1 1 ≤ 2 →
      (b0 = p.val → exec (.grantRole p m) s = .next ((Claims.served s p).refuse p m 0x0603 0)) ∧
      (b0 ≠ p.val → s.roleInUse b0 (k.field 1 1) = false → ∃ t, exec (.grantRole p m) s = .next t ∧ Claims.Done t p m 0 ∧
        (t.port b0).role = (if k.field 1 1 = 0 then .none else if k.field 1 1 = 1 then .observer else .feeder) ∧
        (∀ q, q ≠ b0 → (t.port q).role = (s.port q).role))) ∧
    (Claims.Posted s p m 0xB0 2 [] →
      let cap := if k.field 0 2 = 0 then 2800 else k.field 0 2
      let needed := max (s.slotEnvelope s.store.cur) (s.slotEnvelope s.store.next)
      ((cap < 1800 ∨ 3000 < cap) → exec (.powerCap p m) s = .next ((Claims.served s p).refuse p m 0x0106 0)) ∧
      (1800 ≤ cap → cap ≤ 3000 → cap < needed → exec (.powerCap p m) s = .next ((Claims.served s p).refuse p m 0x0601 0)) ∧
      (1800 ≤ cap → cap ≤ 3000 → needed ≤ cap → ∃ t, exec (.powerCap p m) s = .next t ∧ Claims.Done t p m 0 ∧ t.mgmt = { s.mgmt with cap := cap }))

/-- plans and maps (R380 to R384, R357): a load that passes every check stores the plan, makes the port owner and places the sections; one that fails stores nothing; VERIFY_PLAN answers from its checks,
UNLOAD_PLAN frees the module, BIND_MACHINE installs a good map that lists the module. -/
def Obligations.PlanCommands : Prop :=
  ∀ (s : State) (p : Fin 4) (m : Fin 8),
    let k := s.mbx p m
    (∀ image body bytes, Claims.Posted s p m 0x10 96 [(2, 6)] → ((s.port p).role = .owner ∨ s.owner = none) → s.loadState p m = none →
      s.loadParam k = none → k.field 0 1 = 0 → s.rst.scrubHbm = false →
      let s1 := (Claims.served s p).onPort p (fun q => { q with role := .owner })
      let keys := if k.field 1 1 = 1 then [readBytes k.cmd 48 64] else s1.acceptedKeys
      s1.takeImage p k 16 1 image = .ok bytes →
      (s1.loadChecks keys bytes (planOf bytes body) = [] → ∃ t, exec (.loadPlan p m image body) s = .next t ∧ Claims.Done t p m 0 ∧
        t.store.cur = some (planOf bytes body) ∧ t.store.next = s.store.next ∧ (t.port p).role = .owner ∧ t.job.restored = none ∧
        t.feed = s.feed.drop ∧ t.mem = (s1.placeSections bytes).mem) ∧
      (s1.loadChecks keys bytes (planOf bytes body) ≠ [] → ∃ t, exec (.loadPlan p m image body) s = .next t ∧ (t.mbx p m).state = .done ∧
        t.store = s.store ∧ t.mem = s.mem ∧ (t.port p).role = .owner)) ∧
    (∀ x, Claims.Posted s p m 0x11 0 [] → (s.port p).role = .owner → s.store.cur = some x →
      ((Claims.served s p).verifyChecks x = [] → exec (.verifyPlan p m) s = .next ((Claims.served s p).succeed p m [])) ∧
      (s.store.map = none → (Claims.served s p).verifyChecks x ≠ []) ∧
      (∀ c l, (Claims.served s p).verifyChecks x = c :: l → c.status = 0x0101 → exec (.verifyPlan p m) s = .next ((Claims.served s p).refuse p m 0x0101 0)) ∧
      (∀ c l, (Claims.served s p).verifyChecks x = c :: l → c.status ≠ 0x0101 → ∃ body, exec (.verifyPlan p m) s = .next ((Claims.served s p).complete p m c.status (l.length + 1) body))) ∧
    (Claims.Posted s p m 0x12 0 [] → (s.port p).role = .owner → s.store.cur.isSome = true → s.job.phase = .none →
      ∃ t, exec (.unloadPlan p m) s = .next t ∧ Claims.Done t p m 0 ∧ t.store.cur = none ∧ t.store.next = none ∧ t.store.ownerKey = none ∧
        t.feed = {} ∧ t.results = [] ∧ t.owner = none ∧ t.rst.scrubHbm = true ∧ t.rst.scrubDdr = !s.relay ∧ t.mem = s.mem) ∧
    (∀ image bs, Claims.Posted s p m 0x20 48 [] → ((s.port p).role = .owner ∨ s.owner = none) → s.mgmt.key ≠ 0xFFFF → s.job.phase = .none →
      (Claims.served s p).takeImage p k 0 1 image = .ok bs →
      let x := mapOf bs
      let want := readBytes k.cmd 32 32
      let named := (∀ b ∈ want, b = 0) ∨ want = hashBytes x.hash
      ((mapGood bs x = false ∨ ¬named) → exec (.bindMachine p m image) s = .next ((Claims.served s p).refuse p m 0x0301 0)) ∧
      (mapGood bs x = true → named → (s.mgmt.key, s.relay) ∉ x.coords → exec (.bindMachine p m image) s = .next ((Claims.served s p).refuse p m 0x0302 0)) ∧
      (mapGood bs x = true → named → (s.mgmt.key, s.relay) ∈ x.coords → ∃ t, exec (.bindMachine p m image) s = .next t ∧ Claims.Done t p m 0 ∧
        t.store = { s.store with map := some x } ∧ t.tables.gen = 0 ∧ t.tables.form = 0 ∧ t.tables.positions = positionsOf x.positions ∧
        t.coord.isCoord = (t.coord.coordKey == s.mgmt.key) ∧ t.mem = s.mem))

/-- The commands that start, hold and stop a job (R385 to R387). -/
def Sys2Proof.Claims.JobControl : Prop :=
  ∀ (s : State) (p : Fin 4) (m : Fin 8), (s.port p).role = .owner →
    let k := s.mbx p m
    (∀ w x, Claims.Posted s p m 0x30 16 [(1, 3)] → s.store.cur = some x → s.store.map.isSome = true → s.job.phase = .none → k.field 0 1 ≤ 1 →
      startWaitOf (k.field 4 4) = some w →
      (s.assay.keySet = false → exec (.startJob p m) s = .next ((Claims.served s p).refuse p m 0x030A 0)) ∧
      (s.assay.keySet = true → s.rst.scrubDdr = false → s.synced = false →
        ∃ t, exec (.startJob p m) s = .next t ∧ t.job.phase = .starting ∧ t.job.startWait = w ∧ t.job.reported = false ∧
          t.job.replayMode = false ∧ t.job.firstStep = (match s.job.restored with | some y => y.1 | none => 0) ∧
          t.job.seed = (if k.field 0 1 = 1 then BitVec.ofNat 64 (k.field 8 8) else match s.job.restored with | some y => y.2 | none => x.seed) ∧
          (t.mbx p m).state = .inProgress ∧ t.time.period = BitVec.ofNat 32 x.period ∧ t.tables.gen = 0)) ∧
    (Claims.Posted s p m 0x31 8 [] → s.job.phase = .running → k.field 0 8 ≠ 2 ^ 64 - 1 →
      (s.cutoffPassed (k.field 0 8) = true → exec (.holdAtStep p m) s = .next ((Claims.served s p).refuse p m 0x0308 0)) ∧
      (s.cutoffPassed (k.field 0 8) = false → ∃ t, exec (.holdAtStep p m) s = .next t ∧ (t.mbx p m).state = .inProgress ∧
        t.job = { s.job with hostArm := some (BitVec.ofNat 64 (k.field 0 8)),
                             hostMbx := s.job.hostMbx ++ [(p.val, m.val, BitVec.ofNat 64 (k.field 0 8))] } ∧
        t.sheaf = s.sheaf ∧ t.holds = s.holds)) ∧
    (Claims.Posted s p m 0x32 0 [] → s.job.phase = .running → ∃ t, exec (.resume p m) s = .next t ∧
      t.holds = { s.holds with host := false, replayEnd := false } ∧
      t.job = { s.job with hostArm := none, hostMbx := [], resumeMbx := s.job.resumeMbx ++ [(p.val, m.val)] } ∧ t.sheaf = s.sheaf) ∧
    (Claims.Posted s p m 0x33 1 [] → s.job.phase = .running →
      (2 ≤ k.field 0 1 → exec (.stopJob p m) s = .next ((Claims.served s p).refuse p m 0x0106 0)) ∧
      (k.field 0 1 ≤ 1 → (s.held = true ∨ s.holds.split = true ∨ s.holds.debug = true ∨ s.sheaf.begun = false) →
        ∃ t, exec (.stopJob p m) s = .next t ∧ t.job.phase = .none ∧ t.holds = {} ∧ t.store.cur = s.store.cur ∧ Claims.JournalOnly s t) ∧
      (k.field 0 1 ≤ 1 → s.held = false → s.holds.split = false → s.holds.debug = false → s.sheaf.begun = true →
        ∃ t, exec (.stopJob p m) s = .next t ∧ t.job = { s.job with stopMode := some (BitVec.ofNat 8 (k.field 0 1)), stopMbx := s.job.stopMbx ++ [(p.val, m.val)] } ∧
          (t.mbx p m).state = .inProgress ∧ t.holds = s.holds ∧ t.sheaf = s.sheaf))

/-- How a start goes on (R385, R459): reports that differ end it, the wait's end names what was missing, a refused JOIN ends it; within
a job the coordinator collects the modules' next plans (R380; that they come in this message is log entry 122's choice). -/
def Sys2Proof.Claims.StartProgress : Prop :=
  ∀ (s : State) (src k : Key) (r r0 : StartReport) (o : BitVec 8) (gen : BitVec 16),
    let busy := (s.mbx s.job.port s.job.mbx).busy = true
    (s.coord.isCoord = true → s.jobRuns = true → ∃ t, exec (.startReadinessReport src r) s = .next t ∧ t = { s with coord := t.coord } ∧
      (src, r) ∈ t.coord.nextPlans ∧ ∀ x ∈ s.coord.nextPlans, x.1 ≠ src → x ∈ t.coord.nextPlans) ∧
    (s.coord.isCoord = true → s.jobRuns = false → s.coord.starts = [] → k ∈ s.members → k ≠ src →
      exec (.startReadinessReport src r) s = .next { s with coord := { s.coord with starts := [(src, r)] } }) ∧
    (s.coord.isCoord = true → s.coord.starts = [(k, r0)] → k ≠ src → r0 ≠ r → s.job.phase = .starting →
      ∃ t, exec (.startReadinessReport src r) s = .next t ∧ t.job.phase = .none ∧ t.coord.starts = [] ∧
        (busy → Claims.Done t s.job.port s.job.mbx 0x0306) ∧ t.store = s.store ∧ t.mem = s.mem) ∧
    (s.coord.isCoord = false → s.job.phase = .starting →
      (r = s.ownReport → exec (.startReadinessReport src r) s = .next s) ∧
      (r ≠ s.ownReport → ∃ t, exec (.startReadinessReport src r) s = .next t ∧ t.job.phase = .none ∧
        (busy → Claims.Done t s.job.port s.job.mbx 0x0306))) ∧
    (s.job.phase = .starting → s.sheaf.nextSeg = none → ∃ t, exec .startWaitExpired s = .next t ∧ t.job.phase = .none ∧ t.store = s.store ∧
      (busy → Claims.Done t s.job.port s.job.mbx
        (if s.job.joining then 0x0306 else if !s.synced then 0x0304 else if !s.linksReady then 0x0305 else 0x0307))) ∧
    (s.sheaf.nextSeg.isSome = true → exec .startWaitExpired s = .next s) ∧
    (s.job.phase = .starting → s.job.joining = true →
      (o = 1 → exec (.joinResult o gen) s = .next { s with coord := { s.coord with unacked := s.coord.unacked.filter (fun u => u.mtype != 0x56) } }) ∧
      (o ≠ 1 → ∃ t, exec (.joinResult o gen) s = .next t ∧ t.job.phase = .none ∧ (∀ u ∈ t.coord.unacked, u.mtype ≠ 0x56) ∧
        (busy → Claims.Done t s.job.port s.job.mbx 0x0306)))

/-- job control and the progress of a start. -/
def Obligations.JobCommands : Prop := Claims.JobControl ∧ Claims.StartProgress

/-- Save and restore (R301 to R303, R389). -/
def Sys2Proof.Claims.SaveAndRestore : Prop :=
  ∀ (s : State) (p : Fin 4) (m : Fin 8),
    let k := s.mbx p m
    (∀ ranges b, Claims.Posted s p m 0x50 32 [(1, 15)] → (s.port p).role = .owner → s.relay = false → s.job.phase = .running →
      s.save.phase = .idle → k.field 0 1 ≤ 1 → (Claims.served s p).takeBuffers p k 16 1 0 ranges = .ok [b] →
      (b.size < s.saveLength → exec (.saveState p m ranges) s = .next ((Claims.served s p).refuse p m 0x0401 0)) ∧
      (s.saveLength ≤ b.size → ∃ t, exec (.saveState p m ranges) s = .next t ∧ (t.mbx p m).state = .inProgress ∧
        t.save = { phase := .armed, port := p, mbx := m, holdAfter := k.field 0 1 == 1, image := some b } ∧ t.holds = s.holds ∧ Claims.JournalOnly s t)) ∧
    (∀ b, s.save.phase = .capturing → s.save.image = some b → (∀ x ∈ s.savedRanges.flatMap s.rangeParts, s.lostUnits x.1 x.2 = []) →
      ((∀ x ∈ s.saveLayout, x.2.2.isSome = true) ∨ (s.port b.port).up = true) → ∃ t, exec .saveCaptureEnd s = .next t ∧
      t.save.phase = .uploading ∧ t.save.head = s.saveHeader ++ s.saveDirectory ∧ t.save.size = s.saveLength ∧
      t.save.parts = s.save.parts ++ s.saveLayout.filterMap (fun x => x.2.2.map (fun a => { offset := x.2.1, place := a, length := pad4k x.1.length })) ∧
      t.save.step.toNat = s.sheaf.step.toNat % 2 ^ 48 ∧
      t.holds = { s.holds with save := false, host := s.holds.host || s.save.holdAfter } ∧ t.sheaf = s.sheaf ∧
      (∀ r o a, s.saveLayout = [(r, o, some a)] → s.glean.on = false →
        readBytes t.mem a (s.savedBytes r).length = s.savedBytes r ∧
        ∀ z, z < a ∨ a + (s.savedBytes r).length ≤ z → readByte t.mem z = readByte s.mem z) ∧
      (s.saveLayout = [] → Claims.JournalOnly s t)) ∧
    (s.save.phase = .capturing → (∃ x ∈ s.savedRanges.flatMap s.rangeParts, s.lostUnits x.1 x.2 ≠ []) → ∃ t, exec .saveCaptureEnd s = .next t ∧
      t.save = {} ∧ t.holds.save = false ∧ t.mem = s.mem ∧ ((s.mbx s.save.port s.save.mbx).busy = true → (t.mbx s.save.port s.save.mbx).state = .done)) ∧
    (s.save.phase ≠ .capturing → exec .saveCaptureEnd s = .next s) ∧
    (∀ (e : BitVec 16) (b : HostBuffer), s.save.phase = .uploading → s.save.image = some b → (s.mbx s.save.port s.save.mbx).busy = true →
      (s.uploadRuns = true → (e ≠ 0 ∨ (s.port b.port).up = true ∧ ∀ x ∈ s.save.parts, s.lostUnits x.place x.length = []) → ∃ t, exec (.saveUploadComplete e) s = .next t ∧ t.save = {} ∧
        Claims.Done t s.save.port s.save.mbx e ∧ t.job = s.job ∧ t.holds = s.holds ∧ t.mem = s.mem) ∧
      (s.uploadRuns = true → (s.port b.port).up = true → (∃ x ∈ s.save.parts, s.lostUnits x.place x.length ≠ []) →
        ∃ t, exec (.saveUploadComplete 0) s = .next t ∧ t.save = {} ∧ (t.mbx s.save.port s.save.mbx).state = .done ∧ t.job = s.job ∧ t.mem = s.mem) ∧
      (s.uploadRuns = true → (s.port b.port).up = false → ∃ t, exec (.saveUploadComplete 0) s = .next t ∧ t.save = {} ∧
        Claims.Done t s.save.port s.save.mbx 0x0108 ∧ t.counts.hostUnavail = satInc s.counts.hostUnavail ∧ t.job = s.job ∧ t.mem = s.mem) ∧
      (s.uploadRuns = false → exec (.saveUploadComplete e) s = .next s)) ∧
    (∀ image bs, Claims.Posted s p m 0x51 16 [] → (s.port p).role = .owner → s.relay = false → s.store.cur.isSome = true → s.job.phase = .none →
      (Claims.served s p).takeImage p k 0 1 image = .ok bs →
      let hash : Hash := match s.store.cur with | some x => x.hash | none => 0
      let sound := fieldLE bs 0 4 = 0x53475A53 ∧ fieldLE bs 4 2 = 1 ∧ slice bs 72 32 = sha256 (slice bs 256 (64 * fieldLE bs 60 4))
      let fits := slice bs 8 32 = hashBytes hash ∧ fieldLE bs 56 2 = s.job.replica.toNat ∧ fieldLE bs 58 2 = s.replicaCount
      (¬sound → exec (.restoreState p m image) s = .next ((Claims.served s p).refuse p m 0x0403 0)) ∧
      (sound → ¬fits → exec (.restoreState p m image) s = .next ((Claims.served s p).refuse p m 0x0402 0)) ∧
      (sound → fits → (∀ x ∈ saveParts bs, sha256 (slice bs x.2.2.2 x.2.1) = x.2.2.1) → ∃ t, exec (.restoreState p m image) s = .next t ∧
        Claims.Done t p m 0 ∧ t.job.phase = .none ∧
        t.job.restored = some (BitVec.ofNat 48 (fieldLE bs 48 8), BitVec.ofNat 64 (fieldLE bs 40 8))))

/-- The journal and replay (R290, R295, R296, R389). -/
def Sys2Proof.Claims.JournalAndReplay : Prop :=
  ∀ (s : State) (p : Fin 4) (m : Fin 8), (s.port p).role = .owner → s.relay = false →
    let k := s.mbx p m
    (∀ ranges b, Claims.Posted s p m 0x60 40 [(2, 6)] → s.job.phase = .none → k.field 0 1 ≤ 1 → k.field 1 1 ≤ 1 →
      (k.field 16 8 = 0 → ∃ t, exec (.journalConfig p m ranges) s = .next t ∧ Claims.Done t p m 0 ∧ t.glean = {} ∧ t.mem = s.mem) ∧
      (k.field 16 8 ≠ 0 → s.journalRangeOk (k.field 8 8) (k.field 16 8) = false →
        exec (.journalConfig p m ranges) s = .next ((Claims.served s p).refuse p m 0x0406 0)) ∧
      (k.field 16 8 ≠ 0 → s.journalRangeOk (k.field 8 8) (k.field 16 8) = true → (Claims.served s p).takeBuffers p k 24 1 0 ranges = .ok [b] →
        ∃ t, exec (.journalConfig p m ranges) s = .next t ∧ Claims.Done t p m 0 ∧ t.glean.on = true ∧ t.glean.base = k.field 8 8 ∧
          t.glean.length = k.field 16 8 ∧ t.glean.full = (k.field 0 1 == 1) ∧ t.glean.dropPolicy = (k.field 1 1 == 1) ∧
          t.glean.spill = some b ∧ t.glean.records = [] ∧ b ∈ (t.port p).windows)) ∧
    (∀ ro, (s.glean.on = false ∨ s.engineFree s.glean.base = false) → exec (.journalSpill ro) s = .next s) ∧
    (∀ ro (b : HostBuffer) (i : JournalItem) (w : Nat), s.glean.on = true → s.engineFree s.glean.base = true → s.lostRecords = [] → s.journalCorrected = 0 → s.glean.dropPolicy = false → s.glean.spill = some b →
      ((s.port b.port).up = false → exec (.journalSpill ro) s = .next { s with counts := { s.counts with hostUnavail := satInc s.counts.hostUnavail } }) ∧
      ((s.port b.port).up = true → s.glean.records = [i] → i.spilled = false →
        spillPlace b.size s.glean.spillOffset (max 64 ro) (32 + i.entry.body.length) = some (0, w) →
        ∃ t, exec (.journalSpill ro) s = .next t ∧ t.glean = { s.glean with records := [{ i with spilled := true }], spillOffset := w, spilledSeq := i.entry.rseq } ∧
          t.mem = s.mem ∧ t.job = s.job) ∧
      ((s.port b.port).up = true → (∀ j ∈ s.glean.records, j.spilled = true) → exec (.journalSpill ro) s = .next s)) ∧
    (∀ records l w x, Claims.Posted s p m 0x61 40 [(1, 3), (14, 2), (22, 2)] → s.store.cur = some x → s.store.map.isSome = true → s.job.phase = .none →
      k.field 0 1 ≤ 1 → startWaitOf (k.field 4 4) = some w → s.assay.keySet = true → s.rst.scrubDdr = false →
      (Claims.served s p).takeImage p k 24 (k.field 36 4) records = .ok l →
      (∀ e, (Claims.served s p).replayCheck l (k.field 8 6) (k.field 16 6) = .error e → exec (.replayStart p m records) s = .next ((Claims.served s p).refuse p m e.1 e.2)) ∧
      (∀ job, (Claims.served s p).replayCheck l (k.field 8 6) (k.field 16 6) = .ok job → s.synced = false →
        ∃ t, exec (.replayStart p m records) s = .next t ∧ t.job.phase = .starting ∧ t.job.replayMode = true ∧
          t.job.firstStep.toNat = k.field 8 6 ∧ t.job.seed = replaySeed job ∧ t.glean.replay.active = true ∧ t.glean.replay.records = job ∧
          t.glean.replay.last.toNat = k.field 16 6 ∧ (t.mbx p m).state = .inProgress))

/-- save and restore, the journal and replay. -/
def Obligations.SaveAndJournal : Prop := Claims.SaveAndRestore ∧ Claims.JournalAndReplay

/-! Host ports: aborts, losses, resets, data, registers -/

/-- No command of a port's eight mailboxes is posted or runs. -/
def Sys2Proof.Claims.Quiet (s : State) (p : Nat) : Prop := ∀ m : Fin 8, (s.mbx p m).busy = false

/-- ABORT and its time limit (R364 to R366): every command of the port that runs completes with ABORTED, a finished one keeps its response; the owner's abort ends
the job and keeps the plan.  After 5 ms the hardware ends the abort itself: for the owner with a forced reset of the job's reach. -/
def Sys2Proof.Claims.Aborts : Prop :=
  ∀ (s : State) (p : Fin 4) (v : Word32),
    ((v ≠ 0xA5 ∨ (s.port p).abortPending = true) → exec (.abort p v) s = .next s) ∧
    (v = 0xA5 → (s.port p).abortPending = false → ∃ t, exec (.abort p v) s = .next t ∧ (t.port p).abortPending = true ∧
      (t.port p).abortDone = false ∧ (t.port p).abortForced = false ∧ Claims.Quiet t p ∧
      (∀ m : Fin 8, (s.mbx p m).busy = true → Claims.Done t p m 6) ∧
      (∀ m : Fin 8, (s.mbx p m).busy = false → t.mbx p m = s.mbx p m) ∧ (t.port p).role = (s.port p).role ∧
      t.store.cur = s.store.cur ∧ Claims.JournalOnly s t ∧
      ((s.port p).role ≠ .owner → t.job = s.job.forget p ∧ t.mem = s.mem ∧ (t.port p).jobAborted = false) ∧
      ((s.port p).role = .owner → t.job.phase = .none ∧ (s.job.phase ≠ .none → (t.port p).jobAborted = s.jobRuns ∧ t.holds = {}))) ∧
    ((s.port p).abortPending = false → exec (.abortTimeout p) s = .next s) ∧
    ((s.port p).abortPending = true → ∃ t, exec (.abortTimeout p) s = .next t ∧ (t.port p).abortPending = false ∧ (t.port p).abortDone = true ∧
      (t.port p).abortForced = true ∧ (t.port p).abortCount = (s.port p).abortCount + 1 ∧ Claims.Quiet t p ∧
      ((s.port p).role ≠ .owner → t.job = s.job ∧ t.rst = s.rst ∧ t.mem = s.mem) ∧
      ((s.port p).role = .owner → (∀ q : Fin 4, Claims.Quiet t q) ∧ t.rst.birtur = false ∧ .forcedAbort ∈ t.rst.episode ∧
        (s.rst.episode = [] → t.job.phase = .none ∧ ∀ a, 0x200000000000 ≤ a → readByte t.mem a = 0)))

/-- A port that goes away, comes back or is reset (R374): mailboxes, roles and the job stay; a reset also ends the port's commands, records and
registrations and is noted in RESET_CAUSE. -/
def Sys2Proof.Claims.PortLosses : Prop :=
  ∀ (s : State) (p : Fin 4),
    ((s.port p).up = true → ∃ t, exec (.portLinkDown p) s = .next t ∧ t.port p = { s.port p with up := false } ∧ t.job = s.job ∧
      t.mem = s.mem ∧ (∀ q, q ≠ p.val → t.port q = s.port q)) ∧
    ((s.port p).up = false → exec (.portLinkDown p) s = .next s) ∧
    ((s.port p).up = true → exec (.portLinkUp p) s = .next s) ∧
    ((s.port p).up = false → ∃ t, exec (.portLinkUp p) s = .next t ∧ (t.port p).up = true ∧ (t.port p).boxes = (s.port p).boxes ∧
      (t.port p).role = (s.port p).role ∧ t.job = s.job ∧ t.mem = s.mem ∧
      (bit (s.port p).events 12 = true → bit (s.port p).mask 12 = true → bit (get 1 (s.port p).msix 51) 0 = false →
        t.out = s.out ++ [.msix p 12])) ∧
    (∃ t, exec (.portReset p) s = .next t ∧ Claims.Quiet t p ∧ (∀ m : Fin 8, (s.mbx p m).busy = true → (t.mbx p m).status = 6) ∧
      (t.port p).dups = [] ∧ (t.port p).mask = 0 ∧ (t.port p).msix = [] ∧ (t.port p).pba = 0 ∧ (t.port p).windows = [] ∧
      (t.port p).role = (s.port p).role ∧ t.job = s.job.forget p ∧ t.mem = s.mem ∧ (∀ q, q ≠ p.val → t.port q = s.port q) ∧
      (s.feed.port = p.val → t.feed.ring = []) ∧ (s.relay = false → t.rst.cause = setBit s.rst.cause (12 + p.val)))

/-- aborts, loss, return and reset of a port. -/
def Obligations.PortEvents : Prop := Claims.Aborts ∧ Claims.PortLosses

/-- A pulled feed and a written result, FEED_POLL and RESULT_WRITE (R191, R203, R367 to R372): while the place's engine belongs to planned moves
nothing moves; a port that is down ends the transfer with HOST_UNAVAILABLE; a feed pulled again whose bytes have changed holds the job (R294). -/
def Sys2Proof.Claims.FeedAndResults : Prop :=
  ∀ (s : State) (i : Fin 64) (step seq second : Word64) (len : Nat) (ret : Word128) (payload : List Byte) (w : Waiting) (rest : List Waiting),
    (s.feed.pulling = none → ∀ x, exec (.feedPoll x) s = .next s) ∧
    (s.feed.pulling = some step → s.feed.ring ≠ [] → s.pullRuns step.toNat = false → ∀ x, exec (.feedPoll x) s = .next s) ∧
    (s.feed.pulling = some step → s.feed.ring ≠ [] → s.pullRuns step.toNat = true → (s.port s.feed.port).up = false →
      ∀ x, exec (.feedPoll x) s = .next { s with counts := { s.counts with hostUnavail := satInc s.counts.hostUnavail } }) ∧
    (s.feed.pulling = some step → s.feed.ring ≠ [] → s.pullRuns step.toNat = true → (s.port s.feed.port).up = true →
      let rejected := { s with counts := { s.counts with feedRejects := satInc s.counts.feedRejects } }
      exec (.feedPoll .transferFailed) s = .next { s with counts := { s.counts with hostUnavail := satInc s.counts.hostUnavail } } ∧
      (seq ≠ step → (seq = 0xFFFFFFFFFFFFFFFF ∨ seq = step - BitVec.ofNat 64 s.feed.ring.length) →
        exec (.feedPoll (.header seq len ret payload second)) s = .next s) ∧
      (seq ≠ step → seq ≠ 0xFFFFFFFFFFFFFFFF → seq ≠ step - BitVec.ofNat 64 s.feed.ring.length →
        exec (.feedPoll (.header seq len ret payload second)) s = .next rejected) ∧
      (len ≤ s.body.feedLength → second ≠ step → exec (.feedPoll (.header step len ret payload second)) s = .next rejected) ∧
      (s.body.feedLength < len → ∃ t, exec (.feedPoll (.header step len ret payload second)) s = .next t ∧
        t.counts.feedRejects = satInc s.counts.feedRejects ∧ t.feed = s.feed ∧ t.mem = s.mem) ∧
      let bytes := slice payload 0 len
      let other (y : FeedBytes) : Bool := s.feedPlace y.step.toNat != s.feedPlace step.toNat
      let lost := s.feed.lost.filter (fun y => y != step && (s.feed.validated.filter other).any (fun z => z.step == y))
      let beyond (x : Nat) : Prop := s.glean.on = false ∨ x < s.glean.base ∨ s.glean.base + max s.glean.length (len + 8192) ≤ x
      (len ≤ s.body.feedLength → s.glean.replay.active = false → s.feed.find step = none →
        ∃ t, exec (.feedPoll (.header step len ret payload step)) s = .next t ∧
          t.feed = { s.feed with pulling := lost.head?, validated := some { step := step, length := len, digest := hashOf bytes }
                                 prior := s.feed.validated.filter other, lost := lost, retention := ret } ∧
          t.counts.feedPulls = satInc s.counts.feedPulls ∧ t.counts.feedRejects = s.counts.feedRejects ∧ t.job = s.job ∧
          (∀ a, s.feedPlace step.toNat = some a →
            (∀ n < len, beyond (a + n) → readByte t.mem (a + n) = bytes.getD n 0) ∧
            (∀ x, x < a ∨ a + len ≤ x → beyond x → readByte t.mem x = readByte s.mem x)) ∧
          (s.feedPlace step.toNat = none → ∀ x, beyond x → readByte t.mem x = readByte s.mem x)) ∧
      (∀ f, len ≤ s.body.feedLength → s.glean.replay.active = false → s.feed.find step = some f → f.digest ≠ hashOf bytes →
        exec (.feedPoll (.header step len ret payload step)) s =
          .next { s with glean := { s.glean with feedChanged := true }, holds := { s.holds with feed := true } })) ∧
    (let r := get {} s.results i
     let slot := w.q % r.slots.length
     (r.waiting = [] → exec (.resultWrite i) s = .next s) ∧
     (r.waiting = w :: rest → r.slots ≠ [] →
      (r.free slot = false → r.overwrite = false → exec (.resultWrite i) s = .next s) ∧
      ((r.free slot = true ∨ r.overwrite = true) → s.resultRuns i = false → exec (.resultWrite i) s = .next s) ∧
      ((r.free slot = true ∨ r.overwrite = true) → s.resultRuns i = true →
        ((s.port r.port).up = false → exec (.resultWrite i) s = .next { s with counts := { s.counts with hostUnavail := satInc s.counts.hostUnavail } }) ∧
        ((s.port r.port).up = true → ∃ t, exec (.resultWrite i) s = .next t ∧
          (let n := get {} t.results i
           n.waiting = rest ∧ n.gens.getD slot 0 = w.q + 1 ∧ n.overruns = 0 ∧ n.slots = r.slots ∧ n.produced = r.produced ∧ n.acked = r.acked) ∧
          (∀ x, x ≠ i.val → get {} t.results x = get {} s.results x) ∧ t.counts.resultWrites = satInc s.counts.resultWrites ∧
          t.counts.resultOverruns = satAdd s.counts.resultOverruns (if r.free slot then 0 else 1) ∧ t.mem = s.mem ∧ t.job = s.job))))

/-- BAR2, BAR2_ACCESS (R147, R181, R186, R373, R456): the owner's access reaches memory where it is served; a read returns zeros and a write nothing for
a byte that is not, and the cause is kept; a read of a unit that its memory cannot correct fails; another port reaches nothing, but for
port 0 in a recovery wait over it. -/
def Sys2Proof.Claims.Bar2 : Prop :=
  ∀ (s : State) (p : Fin 4) (offset : BitVec 36) (n : Nat) (data : List Byte) (ue : Bool),
    let a := s.bar2Place p offset
    (s.recoveryP0 p = false → a = (s.port p).bar2Base.toNat * 2 ^ 36 + offset.toNat ∧ (s.bar2Owner p = true ↔ (s.port p).role = .owner)) ∧
    (s.recoveryP0 p = true → a = offset.toNat ∧ s.bar2Owner p = true) ∧
    (s.bar2Owner p = false →
      (∃ t, exec (.bar2Access p offset (.read n) ue) s = .next t ∧ t.out = s.out ++ [.unsupported p] ∧ (t.port p).bar2Cause = 4 ∧ t.mem = s.mem) ∧
      (∃ t, exec (.bar2Access p offset (.write data) ue) s = .next t ∧ t.out = s.out ∧ (t.port p).bar2Cause = 4 ∧ t.mem = s.mem)) ∧
    (s.bar2Owner p = true →
      ((∀ x, x < n → s.bar2Cause (a + x) = none) → s.weakness a n = 0 →
        exec (.bar2Access p offset (.read n) false) s = .next { s with out := s.out ++ [.completion p true ((List.range n).map (fun x => readByte s.mem (a + x)))] }) ∧
      ((∃ x, x < n ∧ s.bar2Cause (a + x) ≠ none) → s.weakness a n = 0 → ∃ t c, exec (.bar2Access p offset (.read n) false) s = .next t ∧
        t.out = s.out ++ [.completion p true ((List.range n).map (fun x => if s.bar2Cause (a + x) = none then readByte s.mem (a + x) else 0))] ∧
        (t.port p).bar2Cause = BitVec.ofNat 3 c ∧ (c = 1 ∨ c = 2) ∧ t.mem = s.mem) ∧
      ((∃ x, x < n ∧ s.bar2Cause (a + x) = none) → s.weakness a n = 0 → ∃ t, exec (.bar2Access p offset (.read n) true) s = .next t ∧
        t.out.getLast? = some (.completion p false []) ∧ t.mem = s.mem ∧ (s.bar2Cause a = none → (t.port p).bar2Cause = 3) ∧
        (∀ c, s.bar2Cause a = some c → (t.port p).bar2Cause = BitVec.ofNat 3 c)) ∧
      ((∀ x, x < n → s.bar2Cause (a + x) = none) → (∃ x, x < n ∧ s.lostUnits (a + x) 1 ≠ []) →
        ∃ t, exec (.bar2Access p offset (.read n) ue) s = .next t ∧ t.out.getLast? = some (.completion p false []) ∧
          (t.port p).bar2Cause = 3) ∧
      (∃ t, exec (.bar2Access p offset (.write data) ue) s = .next t ∧
        (∀ x, x < data.length → readByte t.mem (a + x) = if s.bar2Cause (a + x) = none then data.getD x 0 else readByte s.mem (a + x)) ∧
        (∀ x, x < a ∨ a + data.length ≤ x → readByte t.mem x = readByte s.mem x) ∧ t.out = s.out ∧ t.job = s.job))

/-- the feed, the results and BAR2. -/
def Obligations.HostDataMoves : Prop := Claims.FeedAndResults ∧ Claims.Bar2

/-- writes of registers (R11, R270, R351 to R359, R416): one aligned word, or 8 aligned bytes as two words, the lower first; a host writes its own port's block, command areas and table, the control processor what an access type allows it; whatever
else is addressed does not change. -/
def Obligations.RegisterWrites : Prop :=
  ∀ (s : State) (p : Fin 4) (v : Word32) (off : BitVec 24) (data : List Byte),
    let host (o : BitVec 24) := exec (.registerWrite (.host p) o (leBytes 4 v.toNat)) s
    let proc (o : BitVec 24) := exec (.registerWrite .processor o (leBytes 4 v.toNat)) s
    let outside := off.toNat < 0x10000 ∨ 0x20000 ≤ off.toNat
    (outside → ((data.length ≠ 4 ∧ data.length ≠ 8) ∨ off.toNat % data.length ≠ 0) →
      exec (.registerWrite (.host p) off data) s = .next { s with out := s.out ++ [.unsupported p] }) ∧
    (outside → data.length = 8 → off.toNat % 8 = 0 → ∃ t, exec (.registerWrite (.host p) off (data.take 4)) s = .next t ∧
      exec (.registerWrite (.host p) off data) s = exec (.registerWrite (.host p) (off + 4) (data.drop 4)) t) ∧
    (off.toNat % 4 ≠ 0 → host off = .next { s with out := s.out ++ [.unsupported p] } ∧ proc off = .next s) ∧
    (∃ t, host 0x008 = .next t ∧ t.port p = { s.port p with events := (s.port p).events &&& ~~~ v } ∧ t.mem = s.mem ∧ t.job = s.job) ∧
    (∃ t, host 0x00C = .next t ∧ t.port p = { s.port p with mask := v &&& 0x00003FFF } ∧ t.mem = s.mem ∧ t.job = s.job) ∧
    ((s.port p).role = .owner → ∃ t, host 0x018 = .next t ∧ t.port p = { s.port p with bar2Base := BitVec.ofNat 12 v.toNat } ∧ t.mem = s.mem) ∧
    ((s.port p).role ≠ .owner → host 0x018 = .next s) ∧
    (∀ (m : Fin 8) (o : BitVec 24), o.toNat = 0x100 + 0x20 * m.val → ∃ t, host o = .next t ∧ t.mbx p m = { s.mbx p m with postLo := v } ∧
      (∀ x, x ≠ m.val → t.mbx p x = s.mbx p x)) ∧
    (∀ (m : Fin 8) (o : BitVec 24) (n : Nat), n < 0x1000 → n % 4 = 0 → o.toNat = 0x10000 + 0x2000 * m.val + n →
      ((s.mbx p m).busy = true → ∃ t, host o = .next t ∧ t.mbx p m = { s.mbx p m with overpost := true }) ∧
      ((s.mbx p m).busy = false → ∃ t, host o = .next t ∧ readBytes (t.mbx p m).cmd n 4 = leBytes 4 v.toNat ∧
        (∀ x, x < n ∨ n + 4 ≤ x → readByte (t.mbx p m).cmd x = readByte (s.mbx p m).cmd x) ∧ (t.mbx p m).state = (s.mbx p m).state)) ∧
    (0x100000 ≤ off.toNat → off.toNat % 4 = 0 → off.toNat ≠ 0x100144 → host off = .next s) ∧
    (off.toNat < 0x100000 → off.toNat % 4 = 0 → proc off = .next s) ∧
    (proc 0x1A0800 = .next { s with rst := { s.rst with cause := s.rst.cause &&& ~~~ v } }) ∧
    (proc 0x100068 = .next { s with time := { s.time with period := v } }) ∧
    (1 ≤ v.toNat → v.toNat ≤ 50 → proc 0x161C04 = .next { s with bypass := { s.bypass with graceLimit := v } })

/-! Resets, power, pins and management -/

/-- What a reset of reach 1 to 3 leaves once its source has asserted (R395, R396): the episode with its source latched, no firmware and no job, every on-die byte 0; a cold reset clears all memory, a warm
one keeps HBM and DDR5. -/
def Sys2Proof.Claims.WideReset (s t : State) (x : ResetSource) : Prop :=
  x ∈ t.rst.episode ∧ bit t.rst.latch x.bitIx = true ∧ t.rst.birtur = false ∧ t.job = {} ∧ t.store = {} ∧ t.holds = {} ∧
  (∀ a, 0x200000000000 ≤ a → readByte t.mem a = 0) ∧ (x.reach ≤ 2 → t.mem = [] ∧ t.fault.log = []) ∧
  (x.reach = 3 → (∀ a, a < 0x200000000000 → readByte t.mem a = readByte s.mem a) ∧ t.fault.log = s.fault.log) ∧
  t.fault.nextSeq = 0 ∧ t.pending = s.pending ∧ t.granary.startCount = s.granary.startCount ∧ t.rst.cause = s.rst.cause

/-- A source asserts in any state (R395, R399): it joins the episode, which it opens where none is, its bit is latched, and it is active
while its condition holds. -/
def Sys2Proof.Claims.Asserts (c : Instr) (s : State) (x : ResetSource) : Prop :=
  ∃ t, exec c s = .next t ∧ x ∈ t.rst.episode ∧ bit t.rst.latch x.bitIx = true ∧ (∀ y ∈ s.rst.episode, y ∈ t.rst.episode) ∧
    (x.level = true → x ∈ t.rst.active) ∧ t.pending = s.pending ∧ t.rst.cause = s.rst.cause

/-- POWER_GOOD, SUPPLY_MONITOR, RST_N, THERMAL_TRIP, WATCHDOG, FIRMWARE_REGION_RESET and FIRMWARE_BLOCK_RESET complete in every state (R395, R440):
each source asserts when its condition begins, also within an episode, and a level source is released when it ends. -/
def Sys2Proof.Claims.ResetSourcesComplete : Prop :=
  ∀ (s : State) (r : Fin 33) (b : Fin 64),
    (s.mgmt.powered = true → Claims.Asserts (.powerGood false) s .powerGood) ∧
    (s.mgmt.powered = false → exec (.powerGood false) s = .next { s with mgmt := { s.mgmt with pgOut := false } }) ∧
    exec (.powerGood true) s = .next { s with
      mgmt := { s.mgmt with pgOut := true }, rst := { s.rst with active := s.rst.active.filter (· != .powerGood) } } ∧
    Claims.Asserts (.supplyMonitor true) s .supply ∧
    exec (.supplyMonitor false) s = .next { s with rst := { s.rst with active := s.rst.active.filter (· != .supply) } } ∧
    Claims.Asserts (.rstN true) s .rstPin ∧
    exec (.rstN false) s = .next { s with rst := { s.rst with active := s.rst.active.filter (· != .rstPin) } } ∧
    Claims.Asserts (.thermalTrip true) s .thermal ∧
    exec (.thermalTrip false) s = .next { s with rst := { s.rst with active := s.rst.active.filter (· != .thermal) } } ∧
    (s.rst.birtur = true → Claims.Asserts .watchdog s .watchdog ∧ Claims.Asserts (.firmwareRegionReset r) s .fwRegion ∧
      Claims.Asserts (.firmwareBlockReset b) s .fwBlock)

/-- What the sources of a reset do (R395 to R398): each asserts its reach and is released when its condition ends; firmware resets one region or one
block, which stays away until it rejoins, and a running step is aborted. -/
def Sys2Proof.Claims.ResetReaches : Prop :=
  ∀ (s : State) (r : Fin 33) (b : Fin 64),
    let released (c : Instr) (x : ResetSource) : Prop := ∃ t, exec c s = .next t ∧ x ∉ t.rst.active ∧
      (∀ y, y ≠ x → (y ∈ t.rst.active ↔ y ∈ s.rst.active)) ∧ t.rst.episode = s.rst.episode ∧ t.mem = s.mem ∧ t.job = s.job
    (s.rst.episode = [] →
      (s.mgmt.powered = true → ∃ t, exec (.powerGood false) s = .next t ∧ Claims.WideReset s t .powerGood ∧ t.mgmt.pgOut = false) ∧
      (∃ t, exec (.supplyMonitor true) s = .next t ∧ Claims.WideReset s t .supply ∧ t.mgmt.pgOut = false) ∧
      (∃ t, exec (.rstN true) s = .next t ∧ Claims.WideReset s t .rstPin ∧ t.rst.rstDriven = false) ∧
      (∃ t, exec (.thermalTrip true) s = .next t ∧ Claims.WideReset s t .thermal) ∧
      (s.rst.birtur = true → ∃ t, exec .watchdog s = .next t ∧ Claims.WideReset s t .watchdog)) ∧
    released (.powerGood true) .powerGood ∧ released (.supplyMonitor false) .supply ∧ released (.rstN false) .rstPin ∧
    released (.thermalTrip false) .thermal ∧
    (s.rst.birtur = false → exec .watchdog s = .next s ∧ exec (.firmwareRegionReset r) s = .next s ∧ exec (.firmwareBlockReset b) s = .next s) ∧
    (s.rst.birtur = true → s.rst.episode = [] →
      (∃ t, exec (.firmwareRegionReset r) s = .next t ∧ t.rst.episode = [.fwRegion] ∧ field t.rst.target 0 6 = r.val ∧ (t.region r).away = true ∧
        (∀ j, j ≠ r.val → t.region j = s.region j) ∧ (s.relay = false → s.inCommit = false → s.job.phase = .running → t.fault.abort.isSome = true)) ∧
      (∃ t, exec (.firmwareBlockReset b) s = .next t ∧ t.rst.episode = [.fwBlock] ∧ field t.rst.target 6 6 = b.val ∧
        (t.block b).isolated = true ∧ (t.block b).failed = (s.block b).failed ∧ (∀ j, j ≠ b.val → t.block j = s.block j) ∧
        (∀ a, blockBase b ≤ a → a < blockBase b + 0x800000 → readByte t.mem a = 0) ∧
        (∀ a, a < blockBase b ∨ blockBase b + 0x800000 ≤ a → readByte t.mem a = readByte s.mem a) ∧
        (s.relay = false → s.inCommit = false → s.job.phase = .running → t.fault.abort.isSome = true)))

/-- the sources of a reset (R395 to R398): each asserts its reach and is released when its condition ends, in every state; firmware resets one region or one block, which stays away
until it rejoins, and a running step is aborted. -/
def Obligations.ResetSources : Prop := Claims.ResetSourcesComplete ∧ Claims.ResetReaches

/-- The end of an episode, RESET_EXIT and RECOVERY_IMAGE_POST (R49, R399, R401, R403, R408, R414, R456): only once every source has released; a narrow one gives the units back, a wide one boots the image that the ROM accepts and
scrubs, or waits for an image; FRC is 0 at the exit of a power-on or cold reset. -/
def Sys2Proof.Claims.ResetExits : Prop :=
  ∀ (s : State) (x : ExitSight) (signed : Bool) (version : Word32),
    let latched (reach : Nat) : Word32 := BitVec.ofNat 32 (s.rst.latch.toNat + reach * 2 ^ 16)
    ((s.rst.episode = [] ∨ s.rst.active ≠ [] ∨ s.rst.recoveryWait = true) → exec (.resetExit x) s = .next s) ∧
    (s.rst.episode ≠ [] → s.rst.active = [] → s.rst.recoveryWait = false → 4 ≤ widest s.rst.episode → s.relay = false →
      ∃ t, exec (.resetExit x) s = .next t ∧ t.rst.episode = [] ∧ t.rst.birtur = true ∧ t.rst.lastCause = latched (widest s.rst.episode) ∧
        t.rst.cause = s.rst.cause ||| s.rst.latch.setWidth 32 ∧ t.mem = s.mem ∧ t.job = s.job) ∧
    (s.rst.episode ≠ [] → s.rst.active = [] → s.rst.recoveryWait = false → widest s.rst.episode ≤ 2 →
      ∃ t, exec (.resetExit x) s = .next t ∧ t.time.frc = 0) ∧
    (widest s.rst.episode = 3 → s.rst.active = [] → s.rst.recoveryWait = false → x.absent = [] → s.relay = false →
      (∀ a, s.chooseImage x = some a → ∃ t, exec (.resetExit x) s = .next t ∧ t.rst.episode = [] ∧ t.rst.birtur = true ∧
        t.rst.booted = (if a then 0 else 1) ∧ t.rst.lastCause = latched 3 ∧ t.rst.cause = s.rst.cause ||| s.rst.latch.setWidth 32 ∧
        t.rst.scrubHbm = true ∧ t.rst.scrubDdr = true ∧ t.rst.startupMs = x.startupMs ∧ t.granary.startCount = s.granary.startCount + 1 ∧
        t.mgmt.hotplug = .powered ∧ (∀ a, 0x200000000000 ≤ a → readByte t.mem a = 0) ∧
        (∀ a, a < 0x200000000000 → readByte t.mem a = readByte s.mem a)) ∧
      (s.chooseImage x = none → ∃ t, exec (.resetExit x) s = .next t ∧ t.rst.episode = s.rst.episode ∧ t.rst.recoveryWait = true ∧
        t.rst.bootFail = (s.rst.bootSrc == 0 || s.rst.bootSrc == 1) ∧ t.rst.birtur = s.rst.birtur ∧ t.mem = s.mem)) ∧
    (s.rst.sight = some x → s.rst.recoveryWait = true →
      ((signed = false ∨ version.toNat < s.floor) → exec (.recoveryImagePost signed version) s = .next s) ∧
      (signed = true → s.floor ≤ version.toNat → ∃ t, exec (.recoveryImagePost signed version) s = .next t ∧ t.rst.birtur = true ∧
        t.rst.recoveryWait = false ∧ t.rst.booted = (if s.rst.bootSrc = 2 then 2 else 3) ∧ t.rst.imageVersion = version ∧ t.rst.episode = [] ∧
        t.rst.scrubHbm = true)) ∧
    (s.rst.sight = none → exec (.recoveryImagePost signed version) s = .next s)

/-- The scrub and RESET (R393, R397). -/
def Sys2Proof.Claims.ScrubAndReset : Prop :=
  ∀ (s : State) (p : Fin 4) (m : Fin 8),
    let k := s.mbx p m
    let isDdr (a : Nat) : Prop := 0x100010000000 ≤ a ∧ a < 0x130000000000
    ((s.rst.scrubHbm = true ∨ s.rst.scrubDdr = true) → ∃ t, exec .scrub s = .next t ∧ (∀ a, 0x200000000000 ≤ a → readByte t.mem a = 0) ∧
      (∀ a, a < 0x200000000000 → readByte t.mem a = readByte s.mem a) ∧ t.rst = s.rst) ∧
    (s.rst.scrubHbm = true → ∃ t, exec .scrubEnd s = .next t ∧ (∀ a, a < 0x00C000000000 → readByte t.mem a = 0) ∧
      (∀ a, 0x00C000000000 ≤ a → readByte t.mem a = readByte s.mem a) ∧ t.rst = { s.rst with scrubHbm := false }) ∧
    (s.rst.scrubHbm = false → s.rst.scrubDdr = true → ∃ t, exec .scrubEnd s = .next t ∧ (∀ a, isDdr a → readByte t.mem a = 0) ∧
      (∀ a, ¬isDdr a → readByte t.mem a = readByte s.mem a) ∧ t.rst = { s.rst with scrubDdr := false }) ∧
    (s.rst.scrubHbm = false → s.rst.scrubDdr = false → exec .scrub s = .next s ∧ exec .scrubEnd s = .next s) ∧
    (Claims.Posted s p m 0xF0 1 [] → ((s.port p).role = .owner ∨ s.owner = none) →
      (k.field 0 1 = 1 → ∃ t, exec (.reset p m) s = .next t ∧ Claims.Done t p m 0 ∧ t.rst = { s.rst with due := s.rst.due ++ [.hostWarm] } ∧
        t.job = s.job ∧ t.mem = s.mem) ∧
      (k.field 0 1 = 2 → s.rst.episode = [] → ∃ t, exec (.reset p m) s = .next t ∧ t.rst.jobMbx = some (p.val, m.val) ∧
        t.rst.episode = [.hostJob] ∧ t.job.phase = .none ∧ t.store.cur = s.store.cur ∧ (∀ a, 0x200000000000 ≤ a → readByte t.mem a = 0) ∧
        (∀ a, a < 0x200000000000 → Claims.OutsideJournal s a → readByte t.mem a = readByte s.mem a)) ∧
      (k.field 0 1 = 2 → ∃ t, exec (.reset p m) s = .next t ∧ t.rst.jobMbx = some (p.val, m.val) ∧ .hostJob ∈ t.rst.episode) ∧
      (k.field 0 1 ≠ 1 → k.field 0 1 ≠ 2 → exec (.reset p m) s = .next ((Claims.served s p).refuse p m 0x0106 0)))

/-- the end of a reset, the scrub after it, and the host's RESET. -/
def Obligations.ResetExitsAndScrub : Prop := Claims.ResetExits ∧ Claims.ScrubAndReset

/-- power, sensors and the attention pins (R439 to R441, R447, R448, R458 to R462): PWR_EN, the gating fraction's rises and falls, the excursions that COUNTERS keeps (R425), sensor events, and a removal asked for or taken. -/
def Obligations.PowerAndPins : Prop :=
  ∀ (s : State) (w h : Nat) (x : Sensor) (crit : Bool),
    let g := s.mgmt
    let trip : Mgmt := { g with g := 48, holdTicks := 10, downTicks := 0 }
    let now : Mgmt := { g with hot := decide (105 < h) }
    let counted : Granary := if 105 < h then { s.granary with
      thermalTrips := s.granary.thermalTrips + (if g.hot then 0 else 1), thermalPeak := max s.granary.thermalPeak h } else s.granary
    let told : List Out := if g.address.isSome then s.out ++ [.management "IBI" []] else s.out
    let event : PlatformEvent := { what := "SENSOR", value := sensorIndex x + (if crit then 128 else 0) }
    (g.powered = true → exec .pwrEnRise s = .next s ∧ ∃ t, exec .pwrEnLow s = .next t ∧ t.mgmt.powered = false ∧ t.mgmt.pgOut = false ∧
      t.mem = [] ∧ t.job = {} ∧ t.rst.episode = [] ∧ t.pending = s.pending) ∧
    (g.powered = false → exec .pwrEnLow s = .next s ∧ ∃ t, exec .pwrEnRise s = .next t ∧ t.mgmt.powered = true ∧ t.mgmt.pgOut = false ∧
      .powerGood ∈ t.rst.episode ∧ t.mem = [] ∧ t.job = {}) ∧
    (exec .overCurrentWarning s = .next { s with mgmt := trip }) ∧
    (∃ t, exec (.gatingFractionUpdate w h true) s = .next t ∧ t.mgmt = { trip with hot := decide (105 < h) } ∧
      t = { s with mgmt := t.mgmt, role := t.role, granary := counted }) ∧
    (∃ t, exec (.gatingFractionUpdate w h false) s = .next t ∧ t = { s with mgmt := t.mgmt, role := t.role, granary := counted } ∧
      t.role.inputPower = BitVec.ofNat 12 (min w 4095) ∧
      (0 < g.holdTicks → t.mgmt = { now with holdTicks := g.holdTicks - 1 }) ∧
      (g.holdTicks = 0 → (g.cap < w ∨ 100 ≤ h) → t.mgmt = { now with g := min 48 (g.g + 1), downTicks := 0 }) ∧
      (g.holdTicks = 0 → w + 50 ≤ g.cap → h < 97 → g.downTicks < 9 → t.mgmt = { now with downTicks := g.downTicks + 1 }) ∧
      (g.holdTicks = 0 → w + 50 ≤ g.cap → h < 97 → 9 ≤ g.downTicks → t.mgmt = { now with g := g.g - 1, downTicks := 0 }) ∧
      (g.holdTicks = 0 → w ≤ g.cap → h < 100 → (g.cap < w + 50 ∨ 97 ≤ h) → t.mgmt = { now with downTicks := 0 })) ∧
    (g.events.length < 64 → exec (.sensorThresholdCrossing x crit) s = .next { s with mgmt := { g with events := g.events ++ [event], alert := true }, out := told }) ∧
    (64 ≤ g.events.length → exec (.sensorThresholdCrossing x crit) s = .next { s with mgmt := { g with lostEvents := true, alert := true } }) ∧
    (s.rst.birtur = false → exec .attnN s = .next s) ∧
    (s.rst.birtur = true → g.removal = true → exec .attnN s = .next s) ∧
    (s.rst.birtur = true → g.removal = false → s.job.phase = .none → s.servo.state ≠ .master →
      ∃ t, exec .attnN s = .next t ∧ t.mgmt.removal = true ∧ t.mgmt.rmvOk = true ∧ t.mgmt.hotplug = .safe ∧
        (∀ l < 56, (t.link l).laserOn = false) ∧ t.mem = s.mem) ∧
    (s.rst.birtur = true → g.removal = false → s.job.phase = .running → g.hotplug ≠ .spare → s.coord.isCoord = false →
      ∃ t, exec .attnN s = .next t ∧ t.mgmt.removal = true ∧ t.mgmt.hotplug = .leaving ∧ t.mgmt.rmvOk = g.rmvOk ∧
        (∃ u ∈ t.coord.unacked, u.mtype = 0x55 ∧ u.dest = s.coord.coordKey) ∧ t.job = s.job ∧ t.mem = s.mem) ∧
    (∃ t, exec .surpriseRemoval s = .next t ∧ t.mgmt.g = 48 ∧ t.mgmt.hotplug = .leaving ∧ t.granary.pfActive = true ∧
      (s.granary.pfActive = false → (∀ l < 56, (t.link l).laserOn = false) ∧ t.granary.powerLosses = satInc s.granary.powerLosses) ∧ t.mem = s.mem)

/-- A management message answered with a code, a status and no fields. -/
def Sys2Proof.Claims.Answers (c : Instr) (s : State) (code : Nat) (status : Byte) : Prop :=
  exec c s = .next { s with out := s.out ++ [.management "VENDOR" [BitVec.ofNat 8 code, status, 0, 0]] }

/-- The vendor messages that change state, with their session flag and code (R453). -/
def Sys2Proof.Claims.vendorCode (session : Bool) : Instr → Option Nat
  | .setPosition b _ _ => if b = session then some 2 else none
  | .nameTimeMaster b _ => if b = session then some 3 else none
  | .mgmtReset b _ => if b = session then some 4 else none
  | .mgmtUnloadPlan b => if b = session then some 5 else none
  | .setPlanKeys b _ => if b = session then some 6 else none
  | .programFuses b _ _ => if b = session then some 7 else none
  | .raiseFloor b _ => if b = session then some 8 else none
  | .requestRemoval b => if b = session then some 9 else none
  | .cancelRemoval b => if b = session then some 10 else none
  | .clearCause b _ => if b = session then some 12 else none
  | _ => none

/-- vendor messages (R14, R15, R451, R453 to R456, R460, R416): outside a secured session status 1; a job bars those that need none; otherwise the effect of each with
status 0. -/
def Obligations.VendorMessages : Prop :=
  ∀ (s : State) (key : Key) (tag mask : Word32) (kind f : BitVec 8) (keys : List (BitVec 512)) (bank back : List Byte),
    (s.endpoint = false → ∀ c b n, Claims.vendorCode b c = some n → exec c s = .next s) ∧
    (s.endpoint = true → ∀ c n, Claims.vendorCode false c = some n → Claims.Answers c s n 1) ∧
    (s.endpoint = true → s.mgmt.sessions = [] → ∀ c n, Claims.vendorCode true c = some n → Claims.Answers c s n 1) ∧
    (s.endpoint = true → s.mgmt.sessions ≠ [] →
      (s.job.phase ≠ .none → Claims.Answers (.setPosition true key tag) s 2 2 ∧ Claims.Answers (.mgmtUnloadPlan true) s 5 2 ∧
        Claims.Answers (.programFuses true bank back) s 7 2 ∧ Claims.Answers (.raiseFloor true f) s 8 2) ∧
      (s.job.phase = .none → key ≠ 0xFFFF →
        (keyValid key = false → Claims.Answers (.setPosition true key tag) s 2 4) ∧
        (keyValid key = true → keyRelay key ≠ s.relay → Claims.Answers (.setPosition true key tag) s 2 3) ∧
        (keyValid key = true → keyRelay key = s.relay → ∃ t, exec (.setPosition true key tag) s = .next t ∧ t.mgmt.key = key ∧ t.mgmt.tag = tag ∧
          t.mgmt.hotplug = .placed ∧ t.out.getLast? = some (.management "VENDOR" [2, 0, 0, 0]) ∧ t.store = s.store ∧ t.mem = s.mem)) ∧
      (keyValid key = false → Claims.Answers (.nameTimeMaster true key) s 3 4) ∧
      (s.store.map.isSome = true → key ∉ s.present → Claims.Answers (.nameTimeMaster true key) s 3 4) ∧
      (keyValid key = true → (s.store.map = none ∨ key ∈ s.present) → key ≠ 0xFFFF → s.mgmt.key ≠ 0xFFFF → s.mgmt.removal = false → ∃ t, exec (.nameTimeMaster true key) s = .next t ∧
        t.servo.master = key ∧ t.servo.named = true ∧ (key = s.mgmt.key → t.servo.state = .master) ∧
        (key ≠ s.mgmt.key → s.servo.master ≠ 0xFFFF → s.servo.master ≠ key → t.servo.state = .holdover) ∧ t.mem = s.mem) ∧
      (kind ≠ 1 → kind ≠ 2 → Claims.Answers (.mgmtReset true kind) s 4 4) ∧
      ((kind = 1 ∨ kind = 2) → ∃ t, exec (.mgmtReset true kind) s = .next t ∧
        t.rst = { s.rst with due := s.rst.due ++ [if kind = 1 then .mgmtCold else .mgmtWarm] } ∧ t.job = s.job ∧ t.mem = s.mem) ∧
      (s.job.phase = .none → s.store.cur.isSome = true → ∃ t, exec (.mgmtUnloadPlan true) s = .next t ∧ t.store.cur = none ∧ t.owner = none ∧
        t.rst.scrubHbm = true ∧ t.mem = s.mem) ∧
      (s.job.phase = .none → s.store.cur = none → Claims.Answers (.mgmtUnloadPlan true) s 5 5) ∧
      (4 < keys.length → Claims.Answers (.setPlanKeys true keys) s 6 4) ∧
      (keys.length ≤ 4 → s.store.cur = none → (s.record 3).running = none → s.granary.pfActive = false → (s.record 3).recent = false →
        s.takes 3 false = true → ∃ t, exec (.setPlanKeys true keys) s = .next t ∧ t.granary.planKeys = keys ∧
        t.out.getLast? = some (.management "VENDOR" [6, 0, 0, 0]) ∧ t.mem = s.mem) ∧
      (s.job.phase = .none → s.rst.blownBank = [] → bank.length = 64 → ∃ t, exec (.programFuses true bank back) s = .next t ∧
        t.rst.blownBank = blownBank bank back ∧ t.rst.integratorBank = s.rst.integratorBank ∧ t.mem = s.mem) ∧
      (s.job.phase = .none → s.rst.blownBank ≠ [] → Claims.Answers (.programFuses true bank back) s 7 5) ∧
      (s.job.phase = .none → s.rst.fuseFloor < f.toNat → f.toNat ≤ 64 → f.toNat * 2 ^ 24 ≤ s.rst.imageVersion.toNat →
        (∀ v ∈ s.rst.validVersions, f.toNat * 2 ^ 24 ≤ v.toNat) → ∃ t, exec (.raiseFloor true f) s = .next t ∧
        t.rst = { s.rst with fuseFloor := f.toNat } ∧ t.mem = s.mem) ∧
      (∀ t, exec .attnN s = .next t → s.rst.birtur = true → ∃ u, exec (.requestRemoval true) s = .next u ∧
        u = { t with out := t.out ++ [.management "VENDOR" [9, 0, 0, 0]] }) ∧
      (s.mgmt.removal = true → s.removalCommitted = true → Claims.Answers (.cancelRemoval true) s 10 7) ∧
      (s.mgmt.removal = true → s.removalCommitted = false → ∃ t, exec (.cancelRemoval true) s = .next t ∧ t.mgmt.removal = false ∧
        t.mgmt.rmvOk = false ∧ t.mgmt.blocked = false ∧ (∀ u ∈ t.coord.unacked, u.mtype ≠ 0x55) ∧ t.job = s.job ∧ t.mem = s.mem) ∧
      (∃ t, exec (.clearCause true mask) s = .next t ∧ t.rst = { s.rst with cause := s.rst.cause &&& ~~~ mask } ∧ t.mem = s.mem))

/-- what management reads, polls and updates, and SPDM (R431, R445, R448 to R451, R453, R457). -/
def Obligations.ManagementReads : Prop :=
  ∀ (s : State) (e : PlatformEvent) (es : List PlatformEvent) (v : Word32) (root : Hash) (n : Nat) (a : BitVec 7),
    (s.endpoint = false → exec .getInfo s = .next s ∧ exec .getNeighbours s = .next s ∧ exec (.pollPlatformEvent true) s = .next s ∧
      (∀ r, exec (.spdmRequest r) s = .next s) ∧ exec (.entdaa a) s = .next s ∧ exec (.firmwareUpdate v true) s = .next s) ∧
    (s.endpoint = true →
      (∃ body, exec .getInfo s = .next { s with out := s.out ++ [.management "VENDOR" ([1, 0, 0, 0] ++ body)] } ∧ body.length = 20 ∧
        fieldLE body 0 8 = s.rst.serial.toNat ∧ fieldLE body 12 2 = s.mgmt.key.toNat ∧ fieldLE body 16 4 = s.mgmt.tag.toNat) ∧
      (∃ body, exec .getNeighbours s = .next { s with out := s.out ++ [.management "VENDOR" ([11, 0, 0, 0] ++ body)] } ∧
        body.length = 4 + 20 * s.mgmt.neighbours.length ∧ fieldLE body 0 1 = s.mgmt.neighbours.length % 256) ∧
      (s.mgmt.events = e :: es →
        let read : Out := .management e.what (leBytes 4 e.value ++ [if s.mgmt.lostEvents then 1 else 0])
        exec (.pollPlatformEvent false) s = .next { s with out := s.out ++ [read], mgmt := { s.mgmt with lostEvents := false, alert := true } } ∧
        exec (.pollPlatformEvent true) s = .next { s with
          out := s.out ++ [read], mgmt := { s.mgmt with lostEvents := false, events := es, alert := !es.isEmpty } }) ∧
      (s.mgmt.events = [] → exec (.pollPlatformEvent true) s = .next { s with mgmt := { s.mgmt with alert := false } }) ∧
      (exec (.firmwareUpdate v false) s = .next s) ∧ (v.toNat < s.floor → exec (.firmwareUpdate v true) s = .next s) ∧
      (s.floor ≤ v.toNat → ∃ t, exec (.firmwareUpdate v true) s = .next t ∧ t.rst.validVersions = [s.rst.imageVersion, v] ∧
        (s.rst.booted = 0 → t.granary.newestA = false) ∧ (s.rst.booted = 1 → t.granary.newestA = true) ∧ t.mem = s.mem) ∧
      (∃ t, exec (.entdaa a) s = .next t ∧ t.mgmt = { s.mgmt with address := some a } ∧ t.mem = s.mem) ∧
      (s.mgmt.sessions.length + s.mgmt.opening.length < 2 → s.rootHash = none → ∃ t, exec (.spdmRequest (.keyExchange root)) s = .next t ∧
        t.mgmt = { s.mgmt with opening := s.mgmt.opening ++ [s.mgmt.nextSession], nextSession := s.mgmt.nextSession + 1 } ∧ t.free = s.free + 1) ∧
      (2 ≤ s.mgmt.sessions.length + s.mgmt.opening.length → exec (.spdmRequest (.keyExchange root)) s =
        .next { s with out := s.out ++ [.management "ERROR" []] }) ∧
      (n ∈ s.mgmt.opening → ∃ t, exec (.spdmRequest (.finish n)) s = .next t ∧ n ∈ t.mgmt.sessions ∧ n ∉ t.mgmt.opening ∧ t.mem = s.mem) ∧
      (∃ t, exec (.spdmRequest (.endSession n)) s = .next t ∧ n ∉ t.mgmt.sessions ∧ t.mem = s.mem) ∧
      (∀ r, ∃ t, exec (.spdmRequest r) s = .next t ∧ t.out.length = s.out.length + 1 ∧ t = { s with out := t.out, mgmt := t.mgmt, free := t.free }))

/-! Families whose parts are stated together -/

/-- the tree slot, and a block that does not run (R119, R132). -/
def Obligations.TreeSlots : Prop := Claims.TreeSlotResults ∧ Claims.StoppedBlockIgnoresSlots

/-- a chunk's issue and its end. -/
def Obligations.ChunkLife : Prop := Claims.ChunkIssues ∧ Claims.ChunkEndRoundsOnce

/-- moves inside a block's memories and out of it. -/
def Obligations.LocalAndOutwardMoves : Prop := Claims.LocalMoveResults ∧ Claims.OutwardMoveResults

/-- waits for arrival groups. -/
def Obligations.ArrivalWaits : Prop := Claims.WaitProceedsOrGates ∧ Claims.GatedRegionWaits ∧ Claims.WaitProceedResumes

/-- signals and marked reads. -/
def Obligations.SignalsAndMarkedReads : Prop := Claims.SignalCrossesOrFaults ∧ Claims.MarkedReadResults

/-- a block's loops, its end, fetches and instruction stalls. -/
def Obligations.BlockControl : Prop := Claims.BlockLoopControl ∧ Claims.FetchAndInstructionStall

/-- illegal bundles and stack instructions. -/
def Obligations.IllegalInstructionsAbort : Prop := Claims.IllegalBundleAborts ∧ Claims.IllegalStackInstructionAborts

/-- stack operations and busy engines. -/
def Obligations.StackOperations : Prop := Claims.StackOperationsRun ∧ Claims.BusyEngineDropsOperation

/-- what stack operations compute. -/
def Obligations.StackResults : Prop := Claims.StackElementResults ∧ Claims.OptimizerKernelElements ∧ Claims.FixedTreeOrder

/-- a stack sequencer's control and the refresh of its memory. -/
def Obligations.StackControlAndRefresh : Prop := Claims.StackControl ∧ Claims.RefreshDebt

/-- a region's margin and its clock. -/
def Obligations.RegionClocks : Prop := Claims.MarginMeasured ∧ Claims.DroopAndHolds

/-- crossings between regions. -/
def Obligations.Crossings : Prop := Claims.CrossingDelivers ∧ Claims.BadCrossingsAbort

/-- granary updates and commits. -/
def Obligations.GranaryRecords : Prop := Claims.GranaryUpdateProcedure ∧ Claims.GranaryCommits

/-- the temper history, and loss and return of the input power. -/
def Obligations.TemperAndPowerLoss : Prop := Claims.TemperHistory ∧ Claims.PowerLossAndReturn

/-- step boundaries: commit, abort and a job's first tick. -/
def Obligations.BoundaryOutcomes : Prop := Claims.AbortRestsAtOwnBoundary ∧ Claims.StepCommitsAtBoundary ∧ Claims.JobBeginsAtEpoch

/-- segments and staged time updates. -/
def Obligations.SegmentsAndStagedTime : Prop := Claims.SegmentHandshake ∧ Claims.StagedTimeUpdate

/-- the time servo. -/
def Obligations.TimeServo : Prop := Claims.TimeServoEvents ∧ Claims.ServoJudgesExchanges

/-- the rota's entries and what freezes them. -/
def Obligations.RotaParts : Prop := Claims.RotaEntriesLatch ∧ Claims.RotaEntriesOtherwise ∧ Claims.RotaFreezes

/-- packets received and sent. -/
def Obligations.LinkTransport : Prop := Claims.DataSequence ∧ Claims.HeadersAndControlPackets ∧ Claims.BackToBackPositions

/-- a link's timers, states and training. -/
def Obligations.LinkStates : Prop := Claims.LinkTimers ∧ Claims.LinkStateChanges ∧ Claims.TrainingRequests ∧ Claims.GraceExpiryFailsLink

/-- discovery, the landing of accepted vectors, and their storing. -/
def Obligations.DiscoveryAndLanding : Prop := Claims.DiscoveryOutcomes ∧ Claims.VectorsLand ∧ Claims.ArrivalsStored

/-- beats, succession and the retries of messages. -/
def Obligations.BeatsAndRetries : Prop := Claims.BeatsAndSuccession ∧ Claims.MessageRetries

/-- the vote over parameter digests and its messages. -/
def Obligations.AssayVotes : Prop := Claims.VerdictOfDigests ∧ Claims.AssayMessages

/-- the cutoff's sample, the latched consensus, the sheaf that starts on it, and the limit of held ticks. -/
def Obligations.TicksAndConsensus : Prop := Claims.SheafStartsOnConsensus ∧ Claims.LatchTakesConsensus ∧ Claims.CutoffSamplesLocalBits ∧ Claims.HeldTickLimitAborts

/-- reports to the coordinator, its orders, requests of relays and neighbour messages. -/
def Obligations.CoordinatorDuties : Prop := Claims.CoordinatorHearsReports ∧ Claims.RecoveryOrders ∧ Claims.RelayRequests ∧ Claims.NeighbourMessages

/-! The whole machine -/

/-- every command answers with a next state, whatever the state, and leaves the queue of waiting commands as it is. -/
def Obligations.EveryCommandCompletes : Prop :=
  ∀ (c : Instr) (s : State), ∃ t, exec c s = .next t ∧ t.pending = s.pending

/-- every step, of any command and of the idle clock, keeps device memory and the egress buffers in their canonical form (log entry 49). -/
def Obligations.EveryStepKeepsCanonicalMemory : Prop :=
  ∀ s t : State, s.Inv → step s = .next t → t.Inv

/-- a step takes the command at the front of the queue and runs it on the state with the queue's rest; with none waiting one period of the network clock passes
(log entry 40); no table word spells a command (log entry 3). -/
def Obligations.StepRunsFrontCommand : Prop :=
  (∀ (c : Instr) (rest : List Instr) (s : State), step { s with pending := c :: rest } = exec c { s with pending := rest }) ∧
  (∀ s : State, s.pending = [] → step s = .next s.idle ∧ (s.rst.due = [] → s.idle.time.frc = s.time.frc + 1)) ∧
  (∀ (s : State) (n w : Nat), decodeTableWord n w = none ∧ s.withFetchWord n w = s)

/-- what the module holds right after a power-on reset (R49, R157, R265, R396, R441): the invariant, no job, plan, map, coordinate, owner or assay key, links DARK with
their lasers off, ports away, FRC 0, gating fraction 0, every on-die byte 0, no command waiting. -/
def Obligations.ResetState : Prop :=
  let s := State.reset
  s.Inv ∧ s.pending = [] ∧ s.job.phase = .none ∧ s.store.cur = none ∧ s.store.next = none ∧ s.store.map = none ∧ s.mgmt.key = 0xFFFF ∧
  s.owner = none ∧ s.assay.keySet = false ∧ s.time.frc = 0 ∧ s.mgmt.g = 0 ∧ s.fault.log = [] ∧ s.rst.episode = [.powerGood] ∧
  (∀ l, (s.link l).state = .dark ∧ (s.link l).laserOn = false) ∧ (∀ p, (s.port p).up = false ∧ (s.port p).role = .none) ∧
  (∀ b, (s.block b).active = false ∧ (s.block b).isolated = false) ∧ (∀ a, 0x200000000000 ≤ a → readByte s.mem a = 0)

/-- device memory by bytes (R185): a run of bytes written is read back, every other byte and everything else stays; a zeroed range reads 0; the
canonical form stays. -/
def Obligations.MemoryReadsBack : Prop :=
  ∀ (s : State) (a k : Nat) (bs : List Byte),
    (s.poke a bs).peek a bs.length = bs ∧
    (∀ x, x < a ∨ a + bs.length ≤ x → readByte (s.poke a bs).mem x = readByte s.mem x) ∧
    s.poke a bs = { s with mem := (s.poke a bs).mem, weak := (s.poke a bs).weak } ∧
    readBytes (s.zeroMem a k).mem a k = List.replicate k 0 ∧
    (∀ x, x < a ∨ a + k ≤ x → readByte (s.zeroMem a k).mem x = readByte s.mem x) ∧
    (s.Inv → (s.poke a bs).Inv ∧ (s.zeroMem a k).Inv) ∧
    (∀ m n : Memory, Memory.wf m = true → Memory.wf n = true → (∀ x, readByte m x = readByte n x) → m = n)

/-- FP32 arithmetic (R128): every NaN result is the canonical NaN; the smaller and larger of two numbers, with −0 below +0, and the canonical NaN where either is a NaN;
a sum and a product do not depend on the operands' order. -/
def Obligations.CanonicalNanAndOrder : Prop :=
  ∀ x y z : Word32,
    (∀ r ∈ [fadd x y, fsub x y, fmul x y, ffma x y z, fdiv x y, fsqrt x, fmin x y, fmax x y], isNan r = true → r = 0x7FC00000) ∧
    ((isNan x = true ∨ isNan y = true) → fmin x y = 0x7FC00000 ∧ fmax x y = 0x7FC00000) ∧
    (isNan x = false → isNan y = false → (fmin x y = x ∨ fmin x y = y) ∧ (fmax x y = x ∨ fmax x y = y) ∧
      flt y (fmin x y) = false ∧ flt x (fmin x y) = false ∧ flt (fmax x y) x = false ∧ flt (fmax x y) y = false) ∧
    fmin 0x80000000 0 = 0x80000000 ∧ fmin 0 0x80000000 = 0x80000000 ∧ fmax 0x80000000 0 = 0 ∧ fmax 0 0x80000000 = 0 ∧
    fadd x y = fadd y x ∧ fmul x y = fmul y x
end

