-- ==== Sys2Proof/Laws/Table.lean ====
section
/-! SUPPORT. The laws of the sparse tables and of memory: what a read sees after a write, and that every operation keeps the
canonical form. -/

namespace Sys2Proof.Machine

open Sys2Proof

section
variable {α : Type}

@[simp] theorem get_nil (d : α) (i : Nat) : get d [] i = d := rfl

theorem get_cons (d : α) (k : Nat) (v : α) (m : Sparse α) (i : Nat) :
    get d ((k, v) :: m) i = if i = k then v else get d m i := rfl

@[simp] theorem get_drop_same (d : α) (m : Sparse α) (i : Nat) : get d (drop m i) i = d := by
  induction m with
  | nil => rfl
  | cons p m ih =>
    obtain ⟨k, v⟩ := p
    by_cases h : k = i
    · simpa [drop, h] using ih
    · simpa [drop, get_cons, h, Ne.symm h, List.filter_cons] using ih

theorem get_drop_other (d : α) (m : Sparse α) {i j : Nat} (h : j ≠ i) : get d (drop m i) j = get d m j := by
  induction m with
  | nil => rfl
  | cons p m ih =>
    obtain ⟨k, v⟩ := p
    by_cases hk : k = i
    · subst hk; simpa [drop, get_cons, List.filter_cons, h] using ih
    · by_cases hj : j = k <;> simp_all [drop, get_cons]

@[simp] theorem get_insert_same (d : α) (m : Sparse α) (i : Nat) (v : α) : get d (insert m i v) i = v := by
  induction m with
  | nil => simp [insert, get_cons]
  | cons p m ih =>
    obtain ⟨k, w⟩ := p
    simp only [insert]
    split
    · simp [get_cons]
    · split
      · simp [get_cons]
      · simp_all [get_cons]

theorem get_insert_other (d : α) (m : Sparse α) {i j : Nat} (v : α) (h : j ≠ i) : get d (insert m i v) j = get d m j := by
  induction m with
  | nil => simp [insert, get_cons, h]
  | cons p m ih =>
    obtain ⟨k, w⟩ := p
    simp only [insert]
    split
    · simp_all [get_cons]
    · split
      · simp [get_cons, h]
      · simp_all [get_cons]

theorem drop_insert (m : Sparse α) (i : Nat) (v : α) : drop (insert m i v) i = drop m i := by
  induction m with
  | nil => simp [insert, drop]
  | cons p m ih =>
    obtain ⟨k, x⟩ := p
    simp only [insert]
    split
    · simp_all [drop]
    · split <;> simp_all [drop, List.filter_cons]

theorem insert_insert (m : Sparse α) (i : Nat) (v w : α) : insert (insert m i v) i w = insert m i w := by
  induction m with
  | nil => simp [insert]
  | cons p m ih =>
    obtain ⟨k, x⟩ := p
    by_cases h : i = k
    · simp [insert, h]
    · by_cases h' : i < k <;> simp [insert, h, h', ih]

variable [DecidableEq α]

/-- A read of the index just written gives the value written. -/
@[simp] theorem get_put_same (d : α) (m : Sparse α) (i : Nat) (v : α) : get d (put d m i v) i = v := by
  unfold put; split <;> simp_all

/-- A write leaves every other index alone. -/
theorem get_put_other (d : α) (m : Sparse α) {i j : Nat} (v : α) (h : j ≠ i) : get d (put d m i v) j = get d m j := by
  unfold put; split
  · exact get_drop_other d m h
  · exact get_insert_other d m v h

@[simp] theorem get_upd_same (d : α) (m : Sparse α) (i : Nat) (f : α → α) : get d (upd d m i f) i = f (get d m i) := by
  simp [upd]

/-- Of two writes of one index the second stands. -/
theorem put_put (d : α) (m : Sparse α) (i : Nat) (v w : α) (hv : v ≠ d) : put d (put d m i v) i w = put d m i w := by
  unfold put; simp only [hv, if_false]; split <;> simp [drop_insert, insert_insert]

theorem get_upd_other (d : α) (m : Sparse α) {i j : Nat} (f : α → α) (h : j ≠ i) : get d (upd d m i f) j = get d m j :=
  get_put_other d m _ h

end

/-! The canonical form -/

section
variable {α : Type}

theorem rising_mono {lo lo' : Nat} (h : lo' ≤ lo) : ∀ {m : Sparse α}, rising lo m = true → rising lo' m = true
  | [], _ => rfl
  | (k, v) :: m, hr => by
    simp only [rising, Bool.and_eq_true, decide_eq_true_eq] at hr ⊢
    exact ⟨by omega, hr.2⟩

theorem rising_filter (q : Nat × α → Bool) : ∀ {lo : Nat} {m : Sparse α}, rising lo m = true → rising lo (m.filter q) = true
  | _, [], _ => rfl
  | lo, (k, v) :: m, hr => by
    simp only [rising, Bool.and_eq_true, decide_eq_true_eq] at hr
    have ih := rising_filter q hr.2
    rw [List.filter_cons]
    split
    · simp only [rising, Bool.and_eq_true, decide_eq_true_eq]; exact ⟨hr.1, ih⟩
    · exact rising_mono (by omega) ih

theorem rising_insert (i : Nat) (v : α) : ∀ {lo : Nat} {m : Sparse α}, lo ≤ i → rising lo m = true →
    rising lo (insert m i v) = true
  | lo, [], h, _ => by simp [insert, rising, h]
  | lo, (k, w) :: m, h, hr => by
    simp only [rising, Bool.and_eq_true, decide_eq_true_eq] at hr
    simp only [insert]
    split
    · simp only [rising, Bool.and_eq_true, decide_eq_true_eq]
      rename_i hk
      exact ⟨h, hk ▸ hr.2⟩
    · split
      · simp only [rising, Bool.and_eq_true, decide_eq_true_eq]
        exact ⟨h, by omega, hr.2⟩
      · simp only [rising, Bool.and_eq_true, decide_eq_true_eq]
        exact ⟨hr.1, rising_insert i v (by omega) hr.2⟩

theorem all_insert (q : Nat × α → Bool) (i : Nat) (v : α) (hv : q (i, v) = true) : ∀ {m : Sparse α}, m.all q = true →
    (insert m i v).all q = true
  | [], _ => by simp [insert, hv]
  | (k, w) :: m, h => by
    simp only [List.all_cons, Bool.and_eq_true] at h
    simp only [insert]
    split
    · simp [hv, h.2]
    · split
      · simp [hv, h.1, h.2]
      · simp only [List.all_cons, Bool.and_eq_true]
        exact ⟨h.1, all_insert q i v hv h.2⟩

variable [DecidableEq α]

/-- Taking entries out keeps the canonical form. -/
theorem canon_filter (d : α) (q : Nat × α → Bool) {m : Sparse α} (h : canon d m = true) : canon d (m.filter q) = true := by
  simp only [canon, Bool.and_eq_true] at h ⊢
  refine ⟨rising_filter q h.1, ?_⟩
  simp only [List.all_eq_true] at h ⊢
  intro x hx
  exact h.2 x (List.mem_filter.mp hx).1

/-- A write keeps the canonical form. -/
theorem canon_put (d : α) {m : Sparse α} (i : Nat) (v : α) (h : canon d m = true) : canon d (put d m i v) = true := by
  unfold put; split
  · exact canon_filter d _ h
  · rename_i hv
    simp only [canon, Bool.and_eq_true] at h ⊢
    exact ⟨rising_insert i v (Nat.zero_le i) h.1, all_insert _ i v (by simpa using hv) h.2⟩

end

/-! Memory -/

theorem wf_writeByte {m : Memory} (a : Nat) (v : Byte) (h : Memory.wf m = true) : Memory.wf (writeByte m a v) = true :=
  canon_put 0 a v h

/-- Writing a run of bytes keeps the canonical form. -/
theorem wf_writeBytes : ∀ (bs : List Byte) {m : Memory} (a : Nat), Memory.wf m = true → Memory.wf (writeBytes m a bs) = true
  | [], _, _, h => h
  | b :: bs, _, a, h => wf_writeBytes bs (a + 1) (wf_writeByte a b h)

/-- Taking entries out of memory keeps the canonical form. -/
theorem wf_filter (q : Nat × Byte → Bool) {m : Memory} (h : Memory.wf m = true) : Memory.wf (m.filter q) = true :=
  canon_filter 0 q h

theorem wf_zeroSpan {m : Memory} (a k : Nat) (h : Memory.wf m = true) : Memory.wf (zeroSpan m a k) = true := wf_filter _ h

theorem readByte_writeByte_same (m : Memory) (a : Nat) (v : Byte) : readByte (writeByte m a v) a = v := get_put_same 0 m a v

theorem readByte_writeByte_other (m : Memory) {a x : Nat} (v : Byte) (h : x ≠ a) :
    readByte (writeByte m a v) x = readByte m x := get_put_other 0 m v h

/-- A run of bytes written leaves every byte outside it alone. -/
theorem readByte_writeBytes_outside : ∀ (bs : List Byte) (m : Memory) (a x : Nat), x < a ∨ a + bs.length ≤ x →
    readByte (writeBytes m a bs) x = readByte m x
  | [], _, _, _, _ => rfl
  | b :: bs, m, a, x, h => by
    simp only [List.length_cons] at h
    rw [writeBytes, readByte_writeBytes_outside bs _ (a + 1) x (by omega), readByte_writeByte_other m b (by omega)]

end Sys2Proof.Machine
end

