-- ==== Sys2Proof/Laws/State.lean ====
section
/-! SUPPORT. One lemma for each field under each update of one unit's record or of memory: an update of one field leaves the
others, and a unit read back is the unit written. -/

namespace Sys2Proof.Machine

open Sys2Proof

section
variable (s : State) (r : Nat) (f : Region → Region)

@[simp] theorem onRegion_pending : (s.onRegion r f).pending = s.pending := rfl
@[simp] theorem onRegion_time : (s.onRegion r f).time = s.time := rfl
@[simp] theorem onRegion_servo : (s.onRegion r f).servo = s.servo := rfl
@[simp] theorem onRegion_sheaf : (s.onRegion r f).sheaf = s.sheaf := rfl
@[simp] theorem onRegion_holds : (s.onRegion r f).holds = s.holds := rfl
@[simp] theorem onRegion_fault : (s.onRegion r f).fault = s.fault := rfl
@[simp] theorem onRegion_assay : (s.onRegion r f).assay = s.assay := rfl
@[simp] theorem onRegion_coord : (s.onRegion r f).coord = s.coord := rfl
@[simp] theorem onRegion_glean : (s.onRegion r f).glean = s.glean := rfl
@[simp] theorem onRegion_hazard : (s.onRegion r f).hazard = s.hazard := rfl
@[simp] theorem onRegion_store : (s.onRegion r f).store = s.store := rfl
@[simp] theorem onRegion_job : (s.onRegion r f).job = s.job := rfl
@[simp] theorem onRegion_save : (s.onRegion r f).save = s.save := rfl
@[simp] theorem onRegion_ports : (s.onRegion r f).ports = s.ports := rfl
@[simp] theorem onRegion_feed : (s.onRegion r f).feed = s.feed := rfl
@[simp] theorem onRegion_results : (s.onRegion r f).results = s.results := rfl
@[simp] theorem onRegion_counts : (s.onRegion r f).counts = s.counts := rfl
@[simp] theorem onRegion_rst : (s.onRegion r f).rst = s.rst := rfl
@[simp] theorem onRegion_granary : (s.onRegion r f).granary = s.granary := rfl
@[simp] theorem onRegion_mgmt : (s.onRegion r f).mgmt = s.mgmt := rfl
@[simp] theorem onRegion_tokens : (s.onRegion r f).tokens = s.tokens := rfl
@[simp] theorem onRegion_blocks : (s.onRegion r f).blocks = s.blocks := rfl
@[simp] theorem onRegion_stks : (s.onRegion r f).stks = s.stks := rfl
@[simp] theorem onRegion_ddr : (s.onRegion r f).ddr = s.ddr := rfl
@[simp] theorem onRegion_nets : (s.onRegion r f).nets = s.nets := rfl
@[simp] theorem onRegion_tables : (s.onRegion r f).tables = s.tables := rfl
@[simp] theorem onRegion_links : (s.onRegion r f).links = s.links := rfl
@[simp] theorem onRegion_bypass : (s.onRegion r f).bypass = s.bypass := rfl
@[simp] theorem onRegion_role : (s.onRegion r f).role = s.role := rfl
@[simp] theorem onRegion_mem : (s.onRegion r f).mem = s.mem := rfl
@[simp] theorem onRegion_weak : (s.onRegion r f).weak = s.weak := rfl
@[simp] theorem onRegion_egress : (s.onRegion r f).egress = s.egress := rfl
@[simp] theorem onRegion_forward : (s.onRegion r f).forward = s.forward := rfl
@[simp] theorem onRegion_out : (s.onRegion r f).out = s.out := rfl
@[simp] theorem onRegion_fwdArrivals : (s.onRegion r f).fwdArrivals = s.fwdArrivals := rfl
@[simp] theorem onRegion_turn : (s.onRegion r f).turn = s.turn := rfl
@[simp] theorem onRegion_free : (s.onRegion r f).free = s.free := rfl

end

section
variable (s : State) (b : Nat) (f : Block → Block)

@[simp] theorem onBlock_pending : (s.onBlock b f).pending = s.pending := rfl
@[simp] theorem onBlock_time : (s.onBlock b f).time = s.time := rfl
@[simp] theorem onBlock_servo : (s.onBlock b f).servo = s.servo := rfl
@[simp] theorem onBlock_sheaf : (s.onBlock b f).sheaf = s.sheaf := rfl
@[simp] theorem onBlock_holds : (s.onBlock b f).holds = s.holds := rfl
@[simp] theorem onBlock_fault : (s.onBlock b f).fault = s.fault := rfl
@[simp] theorem onBlock_assay : (s.onBlock b f).assay = s.assay := rfl
@[simp] theorem onBlock_coord : (s.onBlock b f).coord = s.coord := rfl
@[simp] theorem onBlock_glean : (s.onBlock b f).glean = s.glean := rfl
@[simp] theorem onBlock_hazard : (s.onBlock b f).hazard = s.hazard := rfl
@[simp] theorem onBlock_store : (s.onBlock b f).store = s.store := rfl
@[simp] theorem onBlock_job : (s.onBlock b f).job = s.job := rfl
@[simp] theorem onBlock_save : (s.onBlock b f).save = s.save := rfl
@[simp] theorem onBlock_ports : (s.onBlock b f).ports = s.ports := rfl
@[simp] theorem onBlock_feed : (s.onBlock b f).feed = s.feed := rfl
@[simp] theorem onBlock_results : (s.onBlock b f).results = s.results := rfl
@[simp] theorem onBlock_counts : (s.onBlock b f).counts = s.counts := rfl
@[simp] theorem onBlock_rst : (s.onBlock b f).rst = s.rst := rfl
@[simp] theorem onBlock_granary : (s.onBlock b f).granary = s.granary := rfl
@[simp] theorem onBlock_mgmt : (s.onBlock b f).mgmt = s.mgmt := rfl
@[simp] theorem onBlock_regions : (s.onBlock b f).regions = s.regions := rfl
@[simp] theorem onBlock_tokens : (s.onBlock b f).tokens = s.tokens := rfl
@[simp] theorem onBlock_stks : (s.onBlock b f).stks = s.stks := rfl
@[simp] theorem onBlock_ddr : (s.onBlock b f).ddr = s.ddr := rfl
@[simp] theorem onBlock_nets : (s.onBlock b f).nets = s.nets := rfl
@[simp] theorem onBlock_tables : (s.onBlock b f).tables = s.tables := rfl
@[simp] theorem onBlock_links : (s.onBlock b f).links = s.links := rfl
@[simp] theorem onBlock_bypass : (s.onBlock b f).bypass = s.bypass := rfl
@[simp] theorem onBlock_role : (s.onBlock b f).role = s.role := rfl
@[simp] theorem onBlock_mem : (s.onBlock b f).mem = s.mem := rfl
@[simp] theorem onBlock_weak : (s.onBlock b f).weak = s.weak := rfl
@[simp] theorem onBlock_egress : (s.onBlock b f).egress = s.egress := rfl
@[simp] theorem onBlock_forward : (s.onBlock b f).forward = s.forward := rfl
@[simp] theorem onBlock_out : (s.onBlock b f).out = s.out := rfl
@[simp] theorem onBlock_fwdArrivals : (s.onBlock b f).fwdArrivals = s.fwdArrivals := rfl
@[simp] theorem onBlock_turn : (s.onBlock b f).turn = s.turn := rfl
@[simp] theorem onBlock_free : (s.onBlock b f).free = s.free := rfl

end

section
variable (s : State) (i : Nat) (f : Stack → Stack)

@[simp] theorem onStack_pending : (s.onStack i f).pending = s.pending := rfl
@[simp] theorem onStack_time : (s.onStack i f).time = s.time := rfl
@[simp] theorem onStack_servo : (s.onStack i f).servo = s.servo := rfl
@[simp] theorem onStack_sheaf : (s.onStack i f).sheaf = s.sheaf := rfl
@[simp] theorem onStack_holds : (s.onStack i f).holds = s.holds := rfl
@[simp] theorem onStack_fault : (s.onStack i f).fault = s.fault := rfl
@[simp] theorem onStack_assay : (s.onStack i f).assay = s.assay := rfl
@[simp] theorem onStack_coord : (s.onStack i f).coord = s.coord := rfl
@[simp] theorem onStack_glean : (s.onStack i f).glean = s.glean := rfl
@[simp] theorem onStack_hazard : (s.onStack i f).hazard = s.hazard := rfl
@[simp] theorem onStack_store : (s.onStack i f).store = s.store := rfl
@[simp] theorem onStack_job : (s.onStack i f).job = s.job := rfl
@[simp] theorem onStack_save : (s.onStack i f).save = s.save := rfl
@[simp] theorem onStack_ports : (s.onStack i f).ports = s.ports := rfl
@[simp] theorem onStack_feed : (s.onStack i f).feed = s.feed := rfl
@[simp] theorem onStack_results : (s.onStack i f).results = s.results := rfl
@[simp] theorem onStack_counts : (s.onStack i f).counts = s.counts := rfl
@[simp] theorem onStack_rst : (s.onStack i f).rst = s.rst := rfl
@[simp] theorem onStack_granary : (s.onStack i f).granary = s.granary := rfl
@[simp] theorem onStack_mgmt : (s.onStack i f).mgmt = s.mgmt := rfl
@[simp] theorem onStack_regions : (s.onStack i f).regions = s.regions := rfl
@[simp] theorem onStack_tokens : (s.onStack i f).tokens = s.tokens := rfl
@[simp] theorem onStack_blocks : (s.onStack i f).blocks = s.blocks := rfl
@[simp] theorem onStack_ddr : (s.onStack i f).ddr = s.ddr := rfl
@[simp] theorem onStack_nets : (s.onStack i f).nets = s.nets := rfl
@[simp] theorem onStack_tables : (s.onStack i f).tables = s.tables := rfl
@[simp] theorem onStack_links : (s.onStack i f).links = s.links := rfl
@[simp] theorem onStack_bypass : (s.onStack i f).bypass = s.bypass := rfl
@[simp] theorem onStack_role : (s.onStack i f).role = s.role := rfl
@[simp] theorem onStack_mem : (s.onStack i f).mem = s.mem := rfl
@[simp] theorem onStack_weak : (s.onStack i f).weak = s.weak := rfl
@[simp] theorem onStack_egress : (s.onStack i f).egress = s.egress := rfl
@[simp] theorem onStack_forward : (s.onStack i f).forward = s.forward := rfl
@[simp] theorem onStack_out : (s.onStack i f).out = s.out := rfl
@[simp] theorem onStack_fwdArrivals : (s.onStack i f).fwdArrivals = s.fwdArrivals := rfl
@[simp] theorem onStack_turn : (s.onStack i f).turn = s.turn := rfl
@[simp] theorem onStack_free : (s.onStack i f).free = s.free := rfl

end

section
variable (s : State) (c : Nat) (f : Ddr → Ddr)

@[simp] theorem onChan_pending : (s.onChan c f).pending = s.pending := rfl
@[simp] theorem onChan_time : (s.onChan c f).time = s.time := rfl
@[simp] theorem onChan_servo : (s.onChan c f).servo = s.servo := rfl
@[simp] theorem onChan_sheaf : (s.onChan c f).sheaf = s.sheaf := rfl
@[simp] theorem onChan_holds : (s.onChan c f).holds = s.holds := rfl
@[simp] theorem onChan_fault : (s.onChan c f).fault = s.fault := rfl
@[simp] theorem onChan_assay : (s.onChan c f).assay = s.assay := rfl
@[simp] theorem onChan_coord : (s.onChan c f).coord = s.coord := rfl
@[simp] theorem onChan_glean : (s.onChan c f).glean = s.glean := rfl
@[simp] theorem onChan_hazard : (s.onChan c f).hazard = s.hazard := rfl
@[simp] theorem onChan_store : (s.onChan c f).store = s.store := rfl
@[simp] theorem onChan_job : (s.onChan c f).job = s.job := rfl
@[simp] theorem onChan_save : (s.onChan c f).save = s.save := rfl
@[simp] theorem onChan_ports : (s.onChan c f).ports = s.ports := rfl
@[simp] theorem onChan_feed : (s.onChan c f).feed = s.feed := rfl
@[simp] theorem onChan_results : (s.onChan c f).results = s.results := rfl
@[simp] theorem onChan_counts : (s.onChan c f).counts = s.counts := rfl
@[simp] theorem onChan_rst : (s.onChan c f).rst = s.rst := rfl
@[simp] theorem onChan_granary : (s.onChan c f).granary = s.granary := rfl
@[simp] theorem onChan_mgmt : (s.onChan c f).mgmt = s.mgmt := rfl
@[simp] theorem onChan_regions : (s.onChan c f).regions = s.regions := rfl
@[simp] theorem onChan_tokens : (s.onChan c f).tokens = s.tokens := rfl
@[simp] theorem onChan_blocks : (s.onChan c f).blocks = s.blocks := rfl
@[simp] theorem onChan_stks : (s.onChan c f).stks = s.stks := rfl
@[simp] theorem onChan_nets : (s.onChan c f).nets = s.nets := rfl
@[simp] theorem onChan_tables : (s.onChan c f).tables = s.tables := rfl
@[simp] theorem onChan_links : (s.onChan c f).links = s.links := rfl
@[simp] theorem onChan_bypass : (s.onChan c f).bypass = s.bypass := rfl
@[simp] theorem onChan_role : (s.onChan c f).role = s.role := rfl
@[simp] theorem onChan_mem : (s.onChan c f).mem = s.mem := rfl
@[simp] theorem onChan_weak : (s.onChan c f).weak = s.weak := rfl
@[simp] theorem onChan_egress : (s.onChan c f).egress = s.egress := rfl
@[simp] theorem onChan_forward : (s.onChan c f).forward = s.forward := rfl
@[simp] theorem onChan_out : (s.onChan c f).out = s.out := rfl
@[simp] theorem onChan_fwdArrivals : (s.onChan c f).fwdArrivals = s.fwdArrivals := rfl
@[simp] theorem onChan_turn : (s.onChan c f).turn = s.turn := rfl
@[simp] theorem onChan_free : (s.onChan c f).free = s.free := rfl

end

section
variable (s : State) (n : Nat) (f : Net → Net)

@[simp] theorem onNet_pending : (s.onNet n f).pending = s.pending := rfl
@[simp] theorem onNet_time : (s.onNet n f).time = s.time := rfl
@[simp] theorem onNet_servo : (s.onNet n f).servo = s.servo := rfl
@[simp] theorem onNet_sheaf : (s.onNet n f).sheaf = s.sheaf := rfl
@[simp] theorem onNet_holds : (s.onNet n f).holds = s.holds := rfl
@[simp] theorem onNet_fault : (s.onNet n f).fault = s.fault := rfl
@[simp] theorem onNet_assay : (s.onNet n f).assay = s.assay := rfl
@[simp] theorem onNet_coord : (s.onNet n f).coord = s.coord := rfl
@[simp] theorem onNet_glean : (s.onNet n f).glean = s.glean := rfl
@[simp] theorem onNet_hazard : (s.onNet n f).hazard = s.hazard := rfl
@[simp] theorem onNet_store : (s.onNet n f).store = s.store := rfl
@[simp] theorem onNet_job : (s.onNet n f).job = s.job := rfl
@[simp] theorem onNet_save : (s.onNet n f).save = s.save := rfl
@[simp] theorem onNet_ports : (s.onNet n f).ports = s.ports := rfl
@[simp] theorem onNet_feed : (s.onNet n f).feed = s.feed := rfl
@[simp] theorem onNet_results : (s.onNet n f).results = s.results := rfl
@[simp] theorem onNet_counts : (s.onNet n f).counts = s.counts := rfl
@[simp] theorem onNet_rst : (s.onNet n f).rst = s.rst := rfl
@[simp] theorem onNet_granary : (s.onNet n f).granary = s.granary := rfl
@[simp] theorem onNet_mgmt : (s.onNet n f).mgmt = s.mgmt := rfl
@[simp] theorem onNet_regions : (s.onNet n f).regions = s.regions := rfl
@[simp] theorem onNet_tokens : (s.onNet n f).tokens = s.tokens := rfl
@[simp] theorem onNet_blocks : (s.onNet n f).blocks = s.blocks := rfl
@[simp] theorem onNet_stks : (s.onNet n f).stks = s.stks := rfl
@[simp] theorem onNet_ddr : (s.onNet n f).ddr = s.ddr := rfl
@[simp] theorem onNet_tables : (s.onNet n f).tables = s.tables := rfl
@[simp] theorem onNet_links : (s.onNet n f).links = s.links := rfl
@[simp] theorem onNet_bypass : (s.onNet n f).bypass = s.bypass := rfl
@[simp] theorem onNet_role : (s.onNet n f).role = s.role := rfl
@[simp] theorem onNet_mem : (s.onNet n f).mem = s.mem := rfl
@[simp] theorem onNet_weak : (s.onNet n f).weak = s.weak := rfl
@[simp] theorem onNet_egress : (s.onNet n f).egress = s.egress := rfl
@[simp] theorem onNet_forward : (s.onNet n f).forward = s.forward := rfl
@[simp] theorem onNet_out : (s.onNet n f).out = s.out := rfl
@[simp] theorem onNet_fwdArrivals : (s.onNet n f).fwdArrivals = s.fwdArrivals := rfl
@[simp] theorem onNet_turn : (s.onNet n f).turn = s.turn := rfl
@[simp] theorem onNet_free : (s.onNet n f).free = s.free := rfl

end

section
variable (s : State) (l : Nat) (f : Link → Link)

@[simp] theorem onLink_pending : (s.onLink l f).pending = s.pending := rfl
@[simp] theorem onLink_time : (s.onLink l f).time = s.time := rfl
@[simp] theorem onLink_servo : (s.onLink l f).servo = s.servo := rfl
@[simp] theorem onLink_sheaf : (s.onLink l f).sheaf = s.sheaf := rfl
@[simp] theorem onLink_holds : (s.onLink l f).holds = s.holds := rfl
@[simp] theorem onLink_fault : (s.onLink l f).fault = s.fault := rfl
@[simp] theorem onLink_assay : (s.onLink l f).assay = s.assay := rfl
@[simp] theorem onLink_coord : (s.onLink l f).coord = s.coord := rfl
@[simp] theorem onLink_glean : (s.onLink l f).glean = s.glean := rfl
@[simp] theorem onLink_hazard : (s.onLink l f).hazard = s.hazard := rfl
@[simp] theorem onLink_store : (s.onLink l f).store = s.store := rfl
@[simp] theorem onLink_job : (s.onLink l f).job = s.job := rfl
@[simp] theorem onLink_save : (s.onLink l f).save = s.save := rfl
@[simp] theorem onLink_ports : (s.onLink l f).ports = s.ports := rfl
@[simp] theorem onLink_feed : (s.onLink l f).feed = s.feed := rfl
@[simp] theorem onLink_results : (s.onLink l f).results = s.results := rfl
@[simp] theorem onLink_counts : (s.onLink l f).counts = s.counts := rfl
@[simp] theorem onLink_rst : (s.onLink l f).rst = s.rst := rfl
@[simp] theorem onLink_granary : (s.onLink l f).granary = s.granary := rfl
@[simp] theorem onLink_mgmt : (s.onLink l f).mgmt = s.mgmt := rfl
@[simp] theorem onLink_regions : (s.onLink l f).regions = s.regions := rfl
@[simp] theorem onLink_tokens : (s.onLink l f).tokens = s.tokens := rfl
@[simp] theorem onLink_blocks : (s.onLink l f).blocks = s.blocks := rfl
@[simp] theorem onLink_stks : (s.onLink l f).stks = s.stks := rfl
@[simp] theorem onLink_ddr : (s.onLink l f).ddr = s.ddr := rfl
@[simp] theorem onLink_nets : (s.onLink l f).nets = s.nets := rfl
@[simp] theorem onLink_tables : (s.onLink l f).tables = s.tables := rfl
@[simp] theorem onLink_bypass : (s.onLink l f).bypass = s.bypass := rfl
@[simp] theorem onLink_role : (s.onLink l f).role = s.role := rfl
@[simp] theorem onLink_mem : (s.onLink l f).mem = s.mem := rfl
@[simp] theorem onLink_weak : (s.onLink l f).weak = s.weak := rfl
@[simp] theorem onLink_egress : (s.onLink l f).egress = s.egress := rfl
@[simp] theorem onLink_forward : (s.onLink l f).forward = s.forward := rfl
@[simp] theorem onLink_out : (s.onLink l f).out = s.out := rfl
@[simp] theorem onLink_fwdArrivals : (s.onLink l f).fwdArrivals = s.fwdArrivals := rfl
@[simp] theorem onLink_turn : (s.onLink l f).turn = s.turn := rfl
@[simp] theorem onLink_free : (s.onLink l f).free = s.free := rfl

end

section
variable (s : State) (p : Nat) (f : Port → Port)

@[simp] theorem onPort_pending : (s.onPort p f).pending = s.pending := rfl
@[simp] theorem onPort_time : (s.onPort p f).time = s.time := rfl
@[simp] theorem onPort_servo : (s.onPort p f).servo = s.servo := rfl
@[simp] theorem onPort_sheaf : (s.onPort p f).sheaf = s.sheaf := rfl
@[simp] theorem onPort_holds : (s.onPort p f).holds = s.holds := rfl
@[simp] theorem onPort_fault : (s.onPort p f).fault = s.fault := rfl
@[simp] theorem onPort_assay : (s.onPort p f).assay = s.assay := rfl
@[simp] theorem onPort_coord : (s.onPort p f).coord = s.coord := rfl
@[simp] theorem onPort_glean : (s.onPort p f).glean = s.glean := rfl
@[simp] theorem onPort_hazard : (s.onPort p f).hazard = s.hazard := rfl
@[simp] theorem onPort_store : (s.onPort p f).store = s.store := rfl
@[simp] theorem onPort_job : (s.onPort p f).job = s.job := rfl
@[simp] theorem onPort_save : (s.onPort p f).save = s.save := rfl
@[simp] theorem onPort_feed : (s.onPort p f).feed = s.feed := rfl
@[simp] theorem onPort_results : (s.onPort p f).results = s.results := rfl
@[simp] theorem onPort_counts : (s.onPort p f).counts = s.counts := rfl
@[simp] theorem onPort_rst : (s.onPort p f).rst = s.rst := rfl
@[simp] theorem onPort_granary : (s.onPort p f).granary = s.granary := rfl
@[simp] theorem onPort_mgmt : (s.onPort p f).mgmt = s.mgmt := rfl
@[simp] theorem onPort_regions : (s.onPort p f).regions = s.regions := rfl
@[simp] theorem onPort_tokens : (s.onPort p f).tokens = s.tokens := rfl
@[simp] theorem onPort_blocks : (s.onPort p f).blocks = s.blocks := rfl
@[simp] theorem onPort_stks : (s.onPort p f).stks = s.stks := rfl
@[simp] theorem onPort_ddr : (s.onPort p f).ddr = s.ddr := rfl
@[simp] theorem onPort_nets : (s.onPort p f).nets = s.nets := rfl
@[simp] theorem onPort_tables : (s.onPort p f).tables = s.tables := rfl
@[simp] theorem onPort_links : (s.onPort p f).links = s.links := rfl
@[simp] theorem onPort_bypass : (s.onPort p f).bypass = s.bypass := rfl
@[simp] theorem onPort_role : (s.onPort p f).role = s.role := rfl
@[simp] theorem onPort_mem : (s.onPort p f).mem = s.mem := rfl
@[simp] theorem onPort_weak : (s.onPort p f).weak = s.weak := rfl
@[simp] theorem onPort_egress : (s.onPort p f).egress = s.egress := rfl
@[simp] theorem onPort_forward : (s.onPort p f).forward = s.forward := rfl
@[simp] theorem onPort_out : (s.onPort p f).out = s.out := rfl
@[simp] theorem onPort_fwdArrivals : (s.onPort p f).fwdArrivals = s.fwdArrivals := rfl
@[simp] theorem onPort_turn : (s.onPort p f).turn = s.turn := rfl
@[simp] theorem onPort_free : (s.onPort p f).free = s.free := rfl

end

section
variable (s : State) (p m : Nat) (f : Mailbox → Mailbox)

@[simp] theorem onMbx_pending : (s.onMbx p m f).pending = s.pending := rfl
@[simp] theorem onMbx_time : (s.onMbx p m f).time = s.time := rfl
@[simp] theorem onMbx_servo : (s.onMbx p m f).servo = s.servo := rfl
@[simp] theorem onMbx_sheaf : (s.onMbx p m f).sheaf = s.sheaf := rfl
@[simp] theorem onMbx_holds : (s.onMbx p m f).holds = s.holds := rfl
@[simp] theorem onMbx_fault : (s.onMbx p m f).fault = s.fault := rfl
@[simp] theorem onMbx_assay : (s.onMbx p m f).assay = s.assay := rfl
@[simp] theorem onMbx_coord : (s.onMbx p m f).coord = s.coord := rfl
@[simp] theorem onMbx_glean : (s.onMbx p m f).glean = s.glean := rfl
@[simp] theorem onMbx_hazard : (s.onMbx p m f).hazard = s.hazard := rfl
@[simp] theorem onMbx_store : (s.onMbx p m f).store = s.store := rfl
@[simp] theorem onMbx_job : (s.onMbx p m f).job = s.job := rfl
@[simp] theorem onMbx_save : (s.onMbx p m f).save = s.save := rfl
@[simp] theorem onMbx_feed : (s.onMbx p m f).feed = s.feed := rfl
@[simp] theorem onMbx_results : (s.onMbx p m f).results = s.results := rfl
@[simp] theorem onMbx_counts : (s.onMbx p m f).counts = s.counts := rfl
@[simp] theorem onMbx_rst : (s.onMbx p m f).rst = s.rst := rfl
@[simp] theorem onMbx_granary : (s.onMbx p m f).granary = s.granary := rfl
@[simp] theorem onMbx_mgmt : (s.onMbx p m f).mgmt = s.mgmt := rfl
@[simp] theorem onMbx_regions : (s.onMbx p m f).regions = s.regions := rfl
@[simp] theorem onMbx_tokens : (s.onMbx p m f).tokens = s.tokens := rfl
@[simp] theorem onMbx_blocks : (s.onMbx p m f).blocks = s.blocks := rfl
@[simp] theorem onMbx_stks : (s.onMbx p m f).stks = s.stks := rfl
@[simp] theorem onMbx_ddr : (s.onMbx p m f).ddr = s.ddr := rfl
@[simp] theorem onMbx_nets : (s.onMbx p m f).nets = s.nets := rfl
@[simp] theorem onMbx_tables : (s.onMbx p m f).tables = s.tables := rfl
@[simp] theorem onMbx_links : (s.onMbx p m f).links = s.links := rfl
@[simp] theorem onMbx_bypass : (s.onMbx p m f).bypass = s.bypass := rfl
@[simp] theorem onMbx_role : (s.onMbx p m f).role = s.role := rfl
@[simp] theorem onMbx_mem : (s.onMbx p m f).mem = s.mem := rfl
@[simp] theorem onMbx_weak : (s.onMbx p m f).weak = s.weak := rfl
@[simp] theorem onMbx_egress : (s.onMbx p m f).egress = s.egress := rfl
@[simp] theorem onMbx_forward : (s.onMbx p m f).forward = s.forward := rfl
@[simp] theorem onMbx_out : (s.onMbx p m f).out = s.out := rfl
@[simp] theorem onMbx_fwdArrivals : (s.onMbx p m f).fwdArrivals = s.fwdArrivals := rfl
@[simp] theorem onMbx_turn : (s.onMbx p m f).turn = s.turn := rfl
@[simp] theorem onMbx_free : (s.onMbx p m f).free = s.free := rfl

end

section
variable (s : State) (ty : Nat) (f : GranRecord → GranRecord)

@[simp] theorem onRecord_pending : (s.onRecord ty f).pending = s.pending := rfl
@[simp] theorem onRecord_time : (s.onRecord ty f).time = s.time := rfl
@[simp] theorem onRecord_servo : (s.onRecord ty f).servo = s.servo := rfl
@[simp] theorem onRecord_sheaf : (s.onRecord ty f).sheaf = s.sheaf := rfl
@[simp] theorem onRecord_holds : (s.onRecord ty f).holds = s.holds := rfl
@[simp] theorem onRecord_fault : (s.onRecord ty f).fault = s.fault := rfl
@[simp] theorem onRecord_assay : (s.onRecord ty f).assay = s.assay := rfl
@[simp] theorem onRecord_coord : (s.onRecord ty f).coord = s.coord := rfl
@[simp] theorem onRecord_glean : (s.onRecord ty f).glean = s.glean := rfl
@[simp] theorem onRecord_hazard : (s.onRecord ty f).hazard = s.hazard := rfl
@[simp] theorem onRecord_store : (s.onRecord ty f).store = s.store := rfl
@[simp] theorem onRecord_job : (s.onRecord ty f).job = s.job := rfl
@[simp] theorem onRecord_save : (s.onRecord ty f).save = s.save := rfl
@[simp] theorem onRecord_ports : (s.onRecord ty f).ports = s.ports := rfl
@[simp] theorem onRecord_feed : (s.onRecord ty f).feed = s.feed := rfl
@[simp] theorem onRecord_results : (s.onRecord ty f).results = s.results := rfl
@[simp] theorem onRecord_counts : (s.onRecord ty f).counts = s.counts := rfl
@[simp] theorem onRecord_rst : (s.onRecord ty f).rst = s.rst := rfl
@[simp] theorem onRecord_mgmt : (s.onRecord ty f).mgmt = s.mgmt := rfl
@[simp] theorem onRecord_regions : (s.onRecord ty f).regions = s.regions := rfl
@[simp] theorem onRecord_tokens : (s.onRecord ty f).tokens = s.tokens := rfl
@[simp] theorem onRecord_blocks : (s.onRecord ty f).blocks = s.blocks := rfl
@[simp] theorem onRecord_stks : (s.onRecord ty f).stks = s.stks := rfl
@[simp] theorem onRecord_ddr : (s.onRecord ty f).ddr = s.ddr := rfl
@[simp] theorem onRecord_nets : (s.onRecord ty f).nets = s.nets := rfl
@[simp] theorem onRecord_tables : (s.onRecord ty f).tables = s.tables := rfl
@[simp] theorem onRecord_links : (s.onRecord ty f).links = s.links := rfl
@[simp] theorem onRecord_bypass : (s.onRecord ty f).bypass = s.bypass := rfl
@[simp] theorem onRecord_role : (s.onRecord ty f).role = s.role := rfl
@[simp] theorem onRecord_mem : (s.onRecord ty f).mem = s.mem := rfl
@[simp] theorem onRecord_weak : (s.onRecord ty f).weak = s.weak := rfl
@[simp] theorem onRecord_egress : (s.onRecord ty f).egress = s.egress := rfl
@[simp] theorem onRecord_forward : (s.onRecord ty f).forward = s.forward := rfl
@[simp] theorem onRecord_out : (s.onRecord ty f).out = s.out := rfl
@[simp] theorem onRecord_fwdArrivals : (s.onRecord ty f).fwdArrivals = s.fwdArrivals := rfl
@[simp] theorem onRecord_turn : (s.onRecord ty f).turn = s.turn := rfl
@[simp] theorem onRecord_free : (s.onRecord ty f).free = s.free := rfl

end

section
variable (s : State) (a : Nat) (bs : List Byte)

@[simp] theorem pokeEgress_pending : (s.pokeEgress a bs).pending = s.pending := rfl
@[simp] theorem pokeEgress_time : (s.pokeEgress a bs).time = s.time := rfl
@[simp] theorem pokeEgress_servo : (s.pokeEgress a bs).servo = s.servo := rfl
@[simp] theorem pokeEgress_sheaf : (s.pokeEgress a bs).sheaf = s.sheaf := rfl
@[simp] theorem pokeEgress_holds : (s.pokeEgress a bs).holds = s.holds := rfl
@[simp] theorem pokeEgress_fault : (s.pokeEgress a bs).fault = s.fault := rfl
@[simp] theorem pokeEgress_assay : (s.pokeEgress a bs).assay = s.assay := rfl
@[simp] theorem pokeEgress_coord : (s.pokeEgress a bs).coord = s.coord := rfl
@[simp] theorem pokeEgress_glean : (s.pokeEgress a bs).glean = s.glean := rfl
@[simp] theorem pokeEgress_hazard : (s.pokeEgress a bs).hazard = s.hazard := rfl
@[simp] theorem pokeEgress_store : (s.pokeEgress a bs).store = s.store := rfl
@[simp] theorem pokeEgress_job : (s.pokeEgress a bs).job = s.job := rfl
@[simp] theorem pokeEgress_save : (s.pokeEgress a bs).save = s.save := rfl
@[simp] theorem pokeEgress_ports : (s.pokeEgress a bs).ports = s.ports := rfl
@[simp] theorem pokeEgress_feed : (s.pokeEgress a bs).feed = s.feed := rfl
@[simp] theorem pokeEgress_results : (s.pokeEgress a bs).results = s.results := rfl
@[simp] theorem pokeEgress_counts : (s.pokeEgress a bs).counts = s.counts := rfl
@[simp] theorem pokeEgress_rst : (s.pokeEgress a bs).rst = s.rst := rfl
@[simp] theorem pokeEgress_granary : (s.pokeEgress a bs).granary = s.granary := rfl
@[simp] theorem pokeEgress_mgmt : (s.pokeEgress a bs).mgmt = s.mgmt := rfl
@[simp] theorem pokeEgress_regions : (s.pokeEgress a bs).regions = s.regions := rfl
@[simp] theorem pokeEgress_tokens : (s.pokeEgress a bs).tokens = s.tokens := rfl
@[simp] theorem pokeEgress_blocks : (s.pokeEgress a bs).blocks = s.blocks := rfl
@[simp] theorem pokeEgress_stks : (s.pokeEgress a bs).stks = s.stks := rfl
@[simp] theorem pokeEgress_ddr : (s.pokeEgress a bs).ddr = s.ddr := rfl
@[simp] theorem pokeEgress_nets : (s.pokeEgress a bs).nets = s.nets := rfl
@[simp] theorem pokeEgress_tables : (s.pokeEgress a bs).tables = s.tables := rfl
@[simp] theorem pokeEgress_links : (s.pokeEgress a bs).links = s.links := rfl
@[simp] theorem pokeEgress_bypass : (s.pokeEgress a bs).bypass = s.bypass := rfl
@[simp] theorem pokeEgress_role : (s.pokeEgress a bs).role = s.role := rfl
@[simp] theorem pokeEgress_mem : (s.pokeEgress a bs).mem = s.mem := rfl
@[simp] theorem pokeEgress_weak : (s.pokeEgress a bs).weak = s.weak := rfl
@[simp] theorem pokeEgress_forward : (s.pokeEgress a bs).forward = s.forward := rfl
@[simp] theorem pokeEgress_out : (s.pokeEgress a bs).out = s.out := rfl
@[simp] theorem pokeEgress_fwdArrivals : (s.pokeEgress a bs).fwdArrivals = s.fwdArrivals := rfl
@[simp] theorem pokeEgress_turn : (s.pokeEgress a bs).turn = s.turn := rfl
@[simp] theorem pokeEgress_free : (s.pokeEgress a bs).free = s.free := rfl

end

section
variable (s : State) (a k : Nat)

@[simp] theorem zeroMem_pending : (s.zeroMem a k).pending = s.pending := rfl
@[simp] theorem zeroMem_time : (s.zeroMem a k).time = s.time := rfl
@[simp] theorem zeroMem_servo : (s.zeroMem a k).servo = s.servo := rfl
@[simp] theorem zeroMem_sheaf : (s.zeroMem a k).sheaf = s.sheaf := rfl
@[simp] theorem zeroMem_holds : (s.zeroMem a k).holds = s.holds := rfl
@[simp] theorem zeroMem_fault : (s.zeroMem a k).fault = s.fault := rfl
@[simp] theorem zeroMem_assay : (s.zeroMem a k).assay = s.assay := rfl
@[simp] theorem zeroMem_coord : (s.zeroMem a k).coord = s.coord := rfl
@[simp] theorem zeroMem_glean : (s.zeroMem a k).glean = s.glean := rfl
@[simp] theorem zeroMem_hazard : (s.zeroMem a k).hazard = s.hazard := rfl
@[simp] theorem zeroMem_store : (s.zeroMem a k).store = s.store := rfl
@[simp] theorem zeroMem_job : (s.zeroMem a k).job = s.job := rfl
@[simp] theorem zeroMem_save : (s.zeroMem a k).save = s.save := rfl
@[simp] theorem zeroMem_ports : (s.zeroMem a k).ports = s.ports := rfl
@[simp] theorem zeroMem_feed : (s.zeroMem a k).feed = s.feed := rfl
@[simp] theorem zeroMem_results : (s.zeroMem a k).results = s.results := rfl
@[simp] theorem zeroMem_counts : (s.zeroMem a k).counts = s.counts := rfl
@[simp] theorem zeroMem_rst : (s.zeroMem a k).rst = s.rst := rfl
@[simp] theorem zeroMem_granary : (s.zeroMem a k).granary = s.granary := rfl
@[simp] theorem zeroMem_mgmt : (s.zeroMem a k).mgmt = s.mgmt := rfl
@[simp] theorem zeroMem_regions : (s.zeroMem a k).regions = s.regions := rfl
@[simp] theorem zeroMem_tokens : (s.zeroMem a k).tokens = s.tokens := rfl
@[simp] theorem zeroMem_blocks : (s.zeroMem a k).blocks = s.blocks := rfl
@[simp] theorem zeroMem_stks : (s.zeroMem a k).stks = s.stks := rfl
@[simp] theorem zeroMem_ddr : (s.zeroMem a k).ddr = s.ddr := rfl
@[simp] theorem zeroMem_nets : (s.zeroMem a k).nets = s.nets := rfl
@[simp] theorem zeroMem_tables : (s.zeroMem a k).tables = s.tables := rfl
@[simp] theorem zeroMem_links : (s.zeroMem a k).links = s.links := rfl
@[simp] theorem zeroMem_bypass : (s.zeroMem a k).bypass = s.bypass := rfl
@[simp] theorem zeroMem_role : (s.zeroMem a k).role = s.role := rfl
@[simp] theorem zeroMem_weak : (s.zeroMem a k).weak = s.weak := rfl
@[simp] theorem zeroMem_egress : (s.zeroMem a k).egress = s.egress := rfl
@[simp] theorem zeroMem_forward : (s.zeroMem a k).forward = s.forward := rfl
@[simp] theorem zeroMem_out : (s.zeroMem a k).out = s.out := rfl
@[simp] theorem zeroMem_fwdArrivals : (s.zeroMem a k).fwdArrivals = s.fwdArrivals := rfl
@[simp] theorem zeroMem_turn : (s.zeroMem a k).turn = s.turn := rfl
@[simp] theorem zeroMem_free : (s.zeroMem a k).free = s.free := rfl

end

section
variable (s : State) (a n : Nat)

@[simp] theorem healed_pending : (s.healed a n).pending = s.pending := rfl
@[simp] theorem healed_time : (s.healed a n).time = s.time := rfl
@[simp] theorem healed_servo : (s.healed a n).servo = s.servo := rfl
@[simp] theorem healed_sheaf : (s.healed a n).sheaf = s.sheaf := rfl
@[simp] theorem healed_holds : (s.healed a n).holds = s.holds := rfl
@[simp] theorem healed_fault : (s.healed a n).fault = s.fault := rfl
@[simp] theorem healed_assay : (s.healed a n).assay = s.assay := rfl
@[simp] theorem healed_coord : (s.healed a n).coord = s.coord := rfl
@[simp] theorem healed_glean : (s.healed a n).glean = s.glean := rfl
@[simp] theorem healed_hazard : (s.healed a n).hazard = s.hazard := rfl
@[simp] theorem healed_store : (s.healed a n).store = s.store := rfl
@[simp] theorem healed_job : (s.healed a n).job = s.job := rfl
@[simp] theorem healed_save : (s.healed a n).save = s.save := rfl
@[simp] theorem healed_ports : (s.healed a n).ports = s.ports := rfl
@[simp] theorem healed_feed : (s.healed a n).feed = s.feed := rfl
@[simp] theorem healed_results : (s.healed a n).results = s.results := rfl
@[simp] theorem healed_counts : (s.healed a n).counts = s.counts := rfl
@[simp] theorem healed_rst : (s.healed a n).rst = s.rst := rfl
@[simp] theorem healed_granary : (s.healed a n).granary = s.granary := rfl
@[simp] theorem healed_mgmt : (s.healed a n).mgmt = s.mgmt := rfl
@[simp] theorem healed_regions : (s.healed a n).regions = s.regions := rfl
@[simp] theorem healed_tokens : (s.healed a n).tokens = s.tokens := rfl
@[simp] theorem healed_blocks : (s.healed a n).blocks = s.blocks := rfl
@[simp] theorem healed_stks : (s.healed a n).stks = s.stks := rfl
@[simp] theorem healed_ddr : (s.healed a n).ddr = s.ddr := rfl
@[simp] theorem healed_nets : (s.healed a n).nets = s.nets := rfl
@[simp] theorem healed_tables : (s.healed a n).tables = s.tables := rfl
@[simp] theorem healed_links : (s.healed a n).links = s.links := rfl
@[simp] theorem healed_bypass : (s.healed a n).bypass = s.bypass := rfl
@[simp] theorem healed_role : (s.healed a n).role = s.role := rfl
@[simp] theorem healed_mem : (s.healed a n).mem = s.mem := rfl
@[simp] theorem healed_egress : (s.healed a n).egress = s.egress := rfl
@[simp] theorem healed_forward : (s.healed a n).forward = s.forward := rfl
@[simp] theorem healed_out : (s.healed a n).out = s.out := rfl
@[simp] theorem healed_fwdArrivals : (s.healed a n).fwdArrivals = s.fwdArrivals := rfl
@[simp] theorem healed_turn : (s.healed a n).turn = s.turn := rfl
@[simp] theorem healed_free : (s.healed a n).free = s.free := rfl

end

section
variable (s : State) (a : Nat) (bs : List Byte)

@[simp] theorem poke_pending : (s.poke a bs).pending = s.pending := rfl
@[simp] theorem poke_time : (s.poke a bs).time = s.time := rfl
@[simp] theorem poke_servo : (s.poke a bs).servo = s.servo := rfl
@[simp] theorem poke_sheaf : (s.poke a bs).sheaf = s.sheaf := rfl
@[simp] theorem poke_holds : (s.poke a bs).holds = s.holds := rfl
@[simp] theorem poke_fault : (s.poke a bs).fault = s.fault := rfl
@[simp] theorem poke_assay : (s.poke a bs).assay = s.assay := rfl
@[simp] theorem poke_coord : (s.poke a bs).coord = s.coord := rfl
@[simp] theorem poke_glean : (s.poke a bs).glean = s.glean := rfl
@[simp] theorem poke_hazard : (s.poke a bs).hazard = s.hazard := rfl
@[simp] theorem poke_store : (s.poke a bs).store = s.store := rfl
@[simp] theorem poke_job : (s.poke a bs).job = s.job := rfl
@[simp] theorem poke_save : (s.poke a bs).save = s.save := rfl
@[simp] theorem poke_ports : (s.poke a bs).ports = s.ports := rfl
@[simp] theorem poke_feed : (s.poke a bs).feed = s.feed := rfl
@[simp] theorem poke_results : (s.poke a bs).results = s.results := rfl
@[simp] theorem poke_counts : (s.poke a bs).counts = s.counts := rfl
@[simp] theorem poke_rst : (s.poke a bs).rst = s.rst := rfl
@[simp] theorem poke_granary : (s.poke a bs).granary = s.granary := rfl
@[simp] theorem poke_mgmt : (s.poke a bs).mgmt = s.mgmt := rfl
@[simp] theorem poke_regions : (s.poke a bs).regions = s.regions := rfl
@[simp] theorem poke_tokens : (s.poke a bs).tokens = s.tokens := rfl
@[simp] theorem poke_blocks : (s.poke a bs).blocks = s.blocks := rfl
@[simp] theorem poke_stks : (s.poke a bs).stks = s.stks := rfl
@[simp] theorem poke_ddr : (s.poke a bs).ddr = s.ddr := rfl
@[simp] theorem poke_nets : (s.poke a bs).nets = s.nets := rfl
@[simp] theorem poke_tables : (s.poke a bs).tables = s.tables := rfl
@[simp] theorem poke_links : (s.poke a bs).links = s.links := rfl
@[simp] theorem poke_bypass : (s.poke a bs).bypass = s.bypass := rfl
@[simp] theorem poke_role : (s.poke a bs).role = s.role := rfl
@[simp] theorem poke_egress : (s.poke a bs).egress = s.egress := rfl
@[simp] theorem poke_forward : (s.poke a bs).forward = s.forward := rfl
@[simp] theorem poke_out : (s.poke a bs).out = s.out := rfl
@[simp] theorem poke_fwdArrivals : (s.poke a bs).fwdArrivals = s.fwdArrivals := rfl
@[simp] theorem poke_turn : (s.poke a bs).turn = s.turn := rfl
@[simp] theorem poke_free : (s.poke a bs).free = s.free := rfl

end

/-! Units read back -/

@[simp] theorem region_onRegion_same (s : State) (x : Nat) (f : Region → Region) : (s.onRegion x f).region x = f (s.region x) :=
  get_upd_same _ _ _ _

theorem region_onRegion_other (s : State) {x y : Nat} (f : Region → Region) (h : y ≠ x) : (s.onRegion x f).region y = s.region y :=
  get_upd_other _ _ f h

@[simp] theorem block_onRegion (s : State) (x y : Nat) (f : Region → Region) : (s.onRegion x f).block y = s.block y := rfl
@[simp] theorem stack_onRegion (s : State) (x y : Nat) (f : Region → Region) : (s.onRegion x f).stack y = s.stack y := rfl
@[simp] theorem chan_onRegion (s : State) (x y : Nat) (f : Region → Region) : (s.onRegion x f).chan y = s.chan y := rfl
@[simp] theorem net_onRegion (s : State) (x y : Nat) (f : Region → Region) : (s.onRegion x f).net y = s.net y := rfl
@[simp] theorem link_onRegion (s : State) (x y : Nat) (f : Region → Region) : (s.onRegion x f).link y = s.link y := rfl
@[simp] theorem port_onRegion (s : State) (x y : Nat) (f : Region → Region) : (s.onRegion x f).port y = s.port y := rfl

@[simp] theorem block_onBlock_same (s : State) (x : Nat) (f : Block → Block) : (s.onBlock x f).block x = f (s.block x) :=
  get_upd_same _ _ _ _

theorem block_onBlock_other (s : State) {x y : Nat} (f : Block → Block) (h : y ≠ x) : (s.onBlock x f).block y = s.block y :=
  get_upd_other _ _ f h

@[simp] theorem region_onBlock (s : State) (x y : Nat) (f : Block → Block) : (s.onBlock x f).region y = s.region y := rfl
@[simp] theorem stack_onBlock (s : State) (x y : Nat) (f : Block → Block) : (s.onBlock x f).stack y = s.stack y := rfl
@[simp] theorem chan_onBlock (s : State) (x y : Nat) (f : Block → Block) : (s.onBlock x f).chan y = s.chan y := rfl
@[simp] theorem net_onBlock (s : State) (x y : Nat) (f : Block → Block) : (s.onBlock x f).net y = s.net y := rfl
@[simp] theorem link_onBlock (s : State) (x y : Nat) (f : Block → Block) : (s.onBlock x f).link y = s.link y := rfl
@[simp] theorem port_onBlock (s : State) (x y : Nat) (f : Block → Block) : (s.onBlock x f).port y = s.port y := rfl

@[simp] theorem stack_onStack_same (s : State) (x : Nat) (f : Stack → Stack) : (s.onStack x f).stack x = f (s.stack x) :=
  get_upd_same _ _ _ _

theorem stack_onStack_other (s : State) {x y : Nat} (f : Stack → Stack) (h : y ≠ x) : (s.onStack x f).stack y = s.stack y :=
  get_upd_other _ _ f h

@[simp] theorem region_onStack (s : State) (x y : Nat) (f : Stack → Stack) : (s.onStack x f).region y = s.region y := rfl
@[simp] theorem block_onStack (s : State) (x y : Nat) (f : Stack → Stack) : (s.onStack x f).block y = s.block y := rfl
@[simp] theorem chan_onStack (s : State) (x y : Nat) (f : Stack → Stack) : (s.onStack x f).chan y = s.chan y := rfl
@[simp] theorem net_onStack (s : State) (x y : Nat) (f : Stack → Stack) : (s.onStack x f).net y = s.net y := rfl
@[simp] theorem link_onStack (s : State) (x y : Nat) (f : Stack → Stack) : (s.onStack x f).link y = s.link y := rfl
@[simp] theorem port_onStack (s : State) (x y : Nat) (f : Stack → Stack) : (s.onStack x f).port y = s.port y := rfl

@[simp] theorem chan_onChan_same (s : State) (x : Nat) (f : Ddr → Ddr) : (s.onChan x f).chan x = f (s.chan x) :=
  get_upd_same _ _ _ _

theorem chan_onChan_other (s : State) {x y : Nat} (f : Ddr → Ddr) (h : y ≠ x) : (s.onChan x f).chan y = s.chan y :=
  get_upd_other _ _ f h

@[simp] theorem region_onChan (s : State) (x y : Nat) (f : Ddr → Ddr) : (s.onChan x f).region y = s.region y := rfl
@[simp] theorem block_onChan (s : State) (x y : Nat) (f : Ddr → Ddr) : (s.onChan x f).block y = s.block y := rfl
@[simp] theorem stack_onChan (s : State) (x y : Nat) (f : Ddr → Ddr) : (s.onChan x f).stack y = s.stack y := rfl
@[simp] theorem net_onChan (s : State) (x y : Nat) (f : Ddr → Ddr) : (s.onChan x f).net y = s.net y := rfl
@[simp] theorem link_onChan (s : State) (x y : Nat) (f : Ddr → Ddr) : (s.onChan x f).link y = s.link y := rfl
@[simp] theorem port_onChan (s : State) (x y : Nat) (f : Ddr → Ddr) : (s.onChan x f).port y = s.port y := rfl

@[simp] theorem net_onNet_same (s : State) (x : Nat) (f : Net → Net) : (s.onNet x f).net x = f (s.net x) :=
  get_upd_same _ _ _ _

theorem net_onNet_other (s : State) {x y : Nat} (f : Net → Net) (h : y ≠ x) : (s.onNet x f).net y = s.net y :=
  get_upd_other _ _ f h

@[simp] theorem region_onNet (s : State) (x y : Nat) (f : Net → Net) : (s.onNet x f).region y = s.region y := rfl
@[simp] theorem block_onNet (s : State) (x y : Nat) (f : Net → Net) : (s.onNet x f).block y = s.block y := rfl
@[simp] theorem stack_onNet (s : State) (x y : Nat) (f : Net → Net) : (s.onNet x f).stack y = s.stack y := rfl
@[simp] theorem chan_onNet (s : State) (x y : Nat) (f : Net → Net) : (s.onNet x f).chan y = s.chan y := rfl
@[simp] theorem link_onNet (s : State) (x y : Nat) (f : Net → Net) : (s.onNet x f).link y = s.link y := rfl
@[simp] theorem port_onNet (s : State) (x y : Nat) (f : Net → Net) : (s.onNet x f).port y = s.port y := rfl

@[simp] theorem link_onLink_same (s : State) (x : Nat) (f : Link → Link) : (s.onLink x f).link x = f (s.link x) :=
  get_upd_same _ _ _ _

theorem link_onLink_other (s : State) {x y : Nat} (f : Link → Link) (h : y ≠ x) : (s.onLink x f).link y = s.link y :=
  get_upd_other _ _ f h

@[simp] theorem region_onLink (s : State) (x y : Nat) (f : Link → Link) : (s.onLink x f).region y = s.region y := rfl
@[simp] theorem block_onLink (s : State) (x y : Nat) (f : Link → Link) : (s.onLink x f).block y = s.block y := rfl
@[simp] theorem stack_onLink (s : State) (x y : Nat) (f : Link → Link) : (s.onLink x f).stack y = s.stack y := rfl
@[simp] theorem chan_onLink (s : State) (x y : Nat) (f : Link → Link) : (s.onLink x f).chan y = s.chan y := rfl
@[simp] theorem net_onLink (s : State) (x y : Nat) (f : Link → Link) : (s.onLink x f).net y = s.net y := rfl
@[simp] theorem port_onLink (s : State) (x y : Nat) (f : Link → Link) : (s.onLink x f).port y = s.port y := rfl

@[simp] theorem port_onPort_same (s : State) (x : Nat) (f : Port → Port) : (s.onPort x f).port x = f (s.port x) :=
  get_upd_same _ _ _ _

theorem port_onPort_other (s : State) {x y : Nat} (f : Port → Port) (h : y ≠ x) : (s.onPort x f).port y = s.port y :=
  get_upd_other _ _ f h

@[simp] theorem region_onPort (s : State) (x y : Nat) (f : Port → Port) : (s.onPort x f).region y = s.region y := rfl
@[simp] theorem block_onPort (s : State) (x y : Nat) (f : Port → Port) : (s.onPort x f).block y = s.block y := rfl
@[simp] theorem stack_onPort (s : State) (x y : Nat) (f : Port → Port) : (s.onPort x f).stack y = s.stack y := rfl
@[simp] theorem chan_onPort (s : State) (x y : Nat) (f : Port → Port) : (s.onPort x f).chan y = s.chan y := rfl
@[simp] theorem net_onPort (s : State) (x y : Nat) (f : Port → Port) : (s.onPort x f).net y = s.net y := rfl
@[simp] theorem link_onPort (s : State) (x y : Nat) (f : Port → Port) : (s.onPort x f).link y = s.link y := rfl

/-- Two rewrites of one unit are one. -/
theorem onRegion_onRegion (s : State) (x : Nat) (f g : Region → Region) (h : f (s.region x) ≠ {}) :
    (s.onRegion x f).onRegion x g = s.onRegion x (fun k => g (f k)) := by
  simp only [State.onRegion, upd, get_put_same]
  have h2 : f (get {} s.regions x) ≠ {} := h
  rw [put_put _ _ _ _ _ h2]

/-- Two rewrites of one unit are one. -/
theorem onBlock_onBlock (s : State) (x : Nat) (f g : Block → Block) (h : f (s.block x) ≠ {}) :
    (s.onBlock x f).onBlock x g = s.onBlock x (fun k => g (f k)) := by
  simp only [State.onBlock, upd, get_put_same]
  have h2 : f (get {} s.blocks x) ≠ {} := h
  rw [put_put _ _ _ _ _ h2]

/-- Two rewrites of one unit are one. -/
theorem onStack_onStack (s : State) (x : Nat) (f g : Stack → Stack) (h : f (s.stack x) ≠ {}) :
    (s.onStack x f).onStack x g = s.onStack x (fun k => g (f k)) := by
  simp only [State.onStack, upd, get_put_same]
  have h2 : f (get {} s.stks x) ≠ {} := h
  rw [put_put _ _ _ _ _ h2]

/-- Two rewrites of one unit are one. -/
theorem onChan_onChan (s : State) (x : Nat) (f g : Ddr → Ddr) (h : f (s.chan x) ≠ {}) :
    (s.onChan x f).onChan x g = s.onChan x (fun k => g (f k)) := by
  simp only [State.onChan, upd, get_put_same]
  have h2 : f (get {} s.ddr x) ≠ {} := h
  rw [put_put _ _ _ _ _ h2]

/-- Two rewrites of one unit are one. -/
theorem onNet_onNet (s : State) (x : Nat) (f g : Net → Net) (h : f (s.net x) ≠ {}) :
    (s.onNet x f).onNet x g = s.onNet x (fun k => g (f k)) := by
  simp only [State.onNet, upd, get_put_same]
  have h2 : f (get {} s.nets x) ≠ {} := h
  rw [put_put _ _ _ _ _ h2]

/-- Two rewrites of one unit are one. -/
theorem onLink_onLink (s : State) (x : Nat) (f g : Link → Link) (h : f (s.link x) ≠ {}) :
    (s.onLink x f).onLink x g = s.onLink x (fun k => g (f k)) := by
  simp only [State.onLink, upd, get_put_same]
  have h2 : f (get {} s.links x) ≠ {} := h
  rw [put_put _ _ _ _ _ h2]

/-- Two rewrites of one unit are one. -/
theorem onPort_onPort (s : State) (x : Nat) (f g : Port → Port) (h : f (s.port x) ≠ {}) :
    (s.onPort x f).onPort x g = s.onPort x (fun k => g (f k)) := by
  simp only [State.onPort, upd, get_put_same]
  have h2 : f (get {} s.ports x) ≠ {} := h
  rw [put_put _ _ _ _ _ h2]

end Sys2Proof.Machine
end

