-- ==== Sys2Proof/Laws/Ops.lean ====
section
/-! SUPPORT. What the shared operations can touch: entries of the error log, messages, plan faults, aborts and completions each change a
few named parts of the state and nothing else.  Memory and the queue of commands are in none of them. -/

namespace Sys2Proof.Machine

open Sys2Proof

/-- `t` differs from `s` at most in what an entry of the error log reaches: the log, the granary, management's events, the ports and what is sent out. -/
def Logs (s t : State) : Prop := ∃ f g m p o, t = { s with fault := f, granary := g, mgmt := m, ports := p, out := o }
/-- `t` differs from `s` at most in what a message reaches: the links, the bypass block, the kept messages. -/
def Sends (s t : State) : Prop := ∃ l b c, t = { s with links := l, bypass := b, coord := c }
/-- `t` differs from `s` at most in what a local error reaches: what an entry and a message reach, a relay's counts, the blocks, the stacks, the hazard record and the holds. -/
def Errs (s t : State) : Prop :=
  ∃ f g m p o l b c r k x h d, t = { s with
    fault := f, granary := g, mgmt := m, ports := p, out := o, links := l, bypass := b, coord := c, role := r, blocks := k, stks := x, hazard := h, holds := d }
/-- `t` differs from `s` at most in what a completion reaches: the ports, what is sent out and the host counters. -/
def Completes (s t : State) : Prop := ∃ p o c, t = { s with ports := p, out := o, counts := c }

theorem Logs.refl (s : State) : Logs s s := ⟨_, _, _, _, _, rfl⟩
theorem Sends.refl (s : State) : Sends s s := ⟨_, _, _, rfl⟩
theorem Errs.refl (s : State) : Errs s s := ⟨_, _, _, _, _, _, _, _, _, _, _, _, _, rfl⟩
theorem Completes.refl (s : State) : Completes s s := ⟨_, _, _, rfl⟩

variable {s t u : State}

theorem Logs.trans (h : Logs s t) (k : Logs t u) : Logs s u := by
  obtain ⟨_, _, _, _, _, rfl⟩ := h; obtain ⟨_, _, _, _, _, rfl⟩ := k; exact ⟨_, _, _, _, _, rfl⟩
theorem Sends.trans (h : Sends s t) (k : Sends t u) : Sends s u := by
  obtain ⟨_, _, _, rfl⟩ := h; obtain ⟨_, _, _, rfl⟩ := k; exact ⟨_, _, _, rfl⟩
theorem Completes.trans (h : Completes s t) (k : Completes t u) : Completes s u := by
  obtain ⟨_, _, _, rfl⟩ := h; obtain ⟨_, _, _, rfl⟩ := k; exact ⟨_, _, _, rfl⟩
theorem Errs.trans (h : Errs s t) (k : Errs t u) : Errs s u := by
  obtain ⟨_, _, _, _, _, _, _, _, _, _, _, _, _, rfl⟩ := h
  obtain ⟨_, _, _, _, _, _, _, _, _, _, _, _, _, rfl⟩ := k
  exact ⟨_, _, _, _, _, _, _, _, _, _, _, _, _, rfl⟩
theorem Logs.errs (h : Logs s t) : Errs s t := by
  obtain ⟨_, _, _, _, _, rfl⟩ := h; exact ⟨_, _, _, _, _, _, _, _, _, _, _, _, _, rfl⟩
theorem Sends.errs (h : Sends s t) : Errs s t := by
  obtain ⟨_, _, _, rfl⟩ := h; exact ⟨_, _, _, _, _, _, _, _, _, _, _, _, _, rfl⟩

/-- What an error never touches. -/
theorem Errs.rest (h : Errs s t) : t.mem = s.mem ∧ t.egress = s.egress ∧ t.pending = s.pending ∧ t.sheaf = s.sheaf ∧ t.time = s.time ∧ t.store = s.store ∧
    t.job = s.job ∧ t.rst = s.rst ∧ t.regions = s.regions ∧ t.tokens = s.tokens ∧ t.nets = s.nets ∧ t.ddr = s.ddr ∧ t.tables = s.tables := by
  obtain ⟨_, _, _, _, _, _, _, _, _, _, _, _, _, rfl⟩ := h
  exact ⟨rfl, rfl, rfl, rfl, rfl, rfl, rfl, rfl, rfl, rfl, rfl, rfl, rfl⟩
/-- What a completion never touches. -/
theorem Completes.rest (h : Completes s t) : t.mem = s.mem ∧ t.egress = s.egress ∧ t.pending = s.pending ∧ t.sheaf = s.sheaf ∧ t.store = s.store ∧
    t.job = s.job ∧ t.rst = s.rst ∧ t.holds = s.holds ∧ t.fault = s.fault ∧ t.mgmt = s.mgmt := by
  obtain ⟨_, _, _, rfl⟩ := h
  exact ⟨rfl, rfl, rfl, rfl, rfl, rfl, rfl, rfl, rfl, rfl⟩

/-! Entries of the log -/

variable (s)

theorem committed_logs (ty : Nat) : Logs s (s.committed ty) := by
  unfold State.committed; split <;> exact ⟨_, _, _, _, _, rfl⟩
theorem platform_logs (what : String) (v : Nat) : Logs s (s.platform what v) := by
  unfold State.platform; split <;> exact ⟨_, _, _, _, _, rfl⟩
theorem vector_logs (p v : Nat) : Logs s (s.vector p v) := by
  unfold State.vector; repeat' split
  all_goals exact ⟨_, _, _, _, _, rfl⟩
theorem event_logs (p i : Nat) : Logs s (s.event p i) := by
  have h : Logs s (s.onPort p (fun q => { q with events := setBit q.events i })) := ⟨_, _, _, _, _, rfl⟩
  unfold State.event; dsimp only
  split
  · exact h.trans (vector_logs _ p i)
  · exact h
theorem ownerEvent_logs (i : Nat) : Logs s (s.ownerEvent i) := by
  unfold State.ownerEvent; split
  · exact event_logs s _ i
  · exact Logs.refl s
theorem logNew_logs (e : LogEntry) : Logs s (s.logNew e) := by
  have h1 : Logs s (s.appendLog e) := ⟨_, _, _, _, _, rfl⟩
  unfold State.logNew; dsimp only
  have h2 : ∀ v : State, Logs s v → Logs s (if e.severity.toNat ≥ 3 then (v.platform "ERROR" e.code.toNat).ownerEvent 9 else v) := by
    intro v h; split
    · exact (h.trans (platform_logs v _ _)).trans (ownerEvent_logs _ _)
    · exact h
  apply h2
  split
  · refine (h1.trans ?_).trans (committed_logs _ _)
    exact ⟨_, _, _, _, _, rfl⟩
  · exact h1
/-- An entry of the error log (R346, R348). -/
theorem log_logs (a : LogArgs) : Logs s (s.log a) := by
  unfold State.log; dsimp only
  split
  · split
    · exact ⟨_, _, _, _, _, rfl⟩
    · exact logNew_logs s _
  · exact logNew_logs s _

/-! Messages -/

theorem enqueue_sends (l : Nat) (m : BypMsg) : Sends s (s.enqueue l m) := ⟨_, _, _, rfl⟩
/-- A packet of this module queued, delivered to itself, or lost (R249). -/
theorem queueFor_sends (m : BypMsg) : Sends s (s.queueFor m) := by
  unfold State.queueFor
  split
  · exact ⟨_, _, _, rfl⟩
  · split
    · exact enqueue_sends s _ _
    · exact Sends.refl s
@[simp] theorem queueFor_number (m : BypMsg) : (s.queueFor m).bypass.number = s.bypass.number := by
  unfold State.queueFor
  repeat' split
  all_goals rfl
theorem sendWith_sends (dest : Key) (mtype len body : Nat) (id : Word32) : Sends s (s.sendWith dest mtype len body id) :=
  queueFor_sends s _
/-- A message under the next MSG_ID (R247). -/
theorem send_sends (dest : Key) (mtype len body : Nat) : Sends s (s.send dest mtype len body) := by
  unfold State.send
  exact (sendWith_sends s dest mtype len body s.msgId).trans ⟨_, _, _, rfl⟩
theorem send_number (dest : Key) (mtype len body : Nat) : (s.send dest mtype len body).bypass.number = s.bypass.number + 1 := by
  simp [State.send, State.sendWith]
/-- Content of any length (R247). -/
theorem sendSeries_sends (dest : Key) (mtype : Nat) (content : List Byte) : Sends s (s.sendSeries dest mtype content) := by
  unfold State.sendSeries; dsimp only
  generalize List.range _ = l
  induction l generalizing s with
  | nil => exact Sends.refl s
  | cons i l ih => exact ((queueFor_sends s _).trans ⟨_, _, _, rfl⟩).trans (ih _)
/-- An answer, kept for a duplicate of its request (R251). -/
theorem answerTo_sends (src : Key) (id : Word32) (mtype len body : Nat) : Sends s (s.answerTo src id mtype len body) := by
  unfold State.answerTo
  exact (send_sends s _ _ _ _).trans ⟨_, _, _, rfl⟩
theorem sendKept_sends (dest : Key) (mtype len body : Nat) : Sends s (s.sendKept dest mtype len body) := by
  unfold State.sendKept
  exact (send_sends s dest mtype len body).trans ⟨_, _, _, rfl⟩
theorem sendLink_sends (l mtype len body : Nat) : Sends s (s.sendLink l mtype len body) := ⟨_, _, _, rfl⟩
theorem sendAll_sends (ds : List Key) (mtype len body : Nat) : Sends s (s.sendAll ds mtype len body) := by
  unfold State.sendAll
  induction ds generalizing s with
  | nil => exact Sends.refl s
  | cons d ds ih => exact (send_sends s d mtype len body).trans (ih _)
theorem sendAllKept_sends (ds : List Key) (mtype len body : Nat) : Sends s (s.sendAllKept ds mtype len body) := by
  unfold State.sendAllKept
  induction ds generalizing s with
  | nil => exact Sends.refl s
  | cons d ds ih => exact (sendKept_sends s d mtype len body).trans (ih _)

/-! Aborts, plan faults and hazards -/

theorem relayRequest_errs (a : Bool) : Errs s (s.relayRequest a) := by
  unfold State.relayRequest
  refine Errs.trans ?_ (send_sends _ _ _ _ _).errs
  exact ⟨_, _, _, _, _, _, _, _, _, _, _, _, _, rfl⟩
/-- A local cause of ABORT (R37, R274, R329). -/
theorem abortFor_errs (c : AbortCause) : Errs s (s.abortFor c) := by
  unfold State.abortFor; dsimp only
  split
  · split
    · exact relayRequest_errs s true
    · exact Errs.refl s
  · split <;> exact ⟨_, _, _, _, _, _, _, _, _, _, _, _, _, rfl⟩
theorem commitFault_errs (seq : Word32) : Errs s (s.commitFault seq) := by
  unfold State.commitFault; split
  · refine Errs.trans ?_ (log_logs _ _).errs
    exact ⟨_, _, _, _, _, _, _, _, _, _, _, _, _, rfl⟩
  · exact Errs.refl s
theorem stepError_errs (a : LogArgs) : Errs s (s.stepError a) := by
  have h : ∀ (v : State) (n : Word32), Errs v (({ v with fault := { v.fault with abortSeq := n } } : State).abortFor .localError) :=
    fun v n => Errs.trans ⟨_, _, _, _, _, _, _, _, _, _, _, _, _, rfl⟩ (abortFor_errs _ _)
  exact (log_logs s _).errs.trans (h _ _)
theorem hardError_errs (a : LogArgs) : Errs s (s.hardError a) := (stepError_errs s a).trans (commitFault_errs _ _)
theorem blockErr_errs (b i : Nat) : Errs s (s.blockErr b i) := ⟨_, _, _, _, _, _, _, _, _, _, _, _, _, rfl⟩
theorem stackErr_errs (i j l e : Nat) : Errs s (s.stackErr i j l e) := ⟨_, _, _, _, _, _, _, _, _, _, _, _, _, rfl⟩
theorem planFault_errs (b kind : Nat) : Errs s (s.planFault b kind) := by
  unfold State.planFault; dsimp only
  refine Errs.trans ?_ (Errs.trans (blockErr_errs _ b 13) (log_logs _ _).errs)
  exact ⟨_, _, _, _, _, _, _, _, _, _, _, _, _, rfl⟩
theorem stackFault_errs (i kind line engine : Nat) : Errs s (s.stackFault i kind line engine) := by
  unfold State.stackFault; dsimp only
  refine Errs.trans ?_ (log_logs _ _).errs
  exact ⟨_, _, _, _, _, _, _, _, _, _, _, _, _, rfl⟩
theorem onBlock_errs (b : Nat) (f : Block → Block) : Errs s (s.onBlock b f) := ⟨_, _, _, _, _, _, _, _, _, _, _, _, _, rfl⟩
theorem onStack_errs (i : Nat) (f : Stack → Stack) : Errs s (s.onStack i f) := ⟨_, _, _, _, _, _, _, _, _, _, _, _, _, rfl⟩
theorem sramCorrect_errs (b off len : Nat) : Errs s (s.sramCorrect b off len) := by
  unfold State.sramCorrect; dsimp only
  split
  · exact Errs.refl s
  · exact (onBlock_errs s b _).trans (log_logs _ _).errs
theorem sramLost_errs (b : Nat) (units : List Nat) : Errs s (s.sramLost b units) := by
  unfold State.sramLost
  split
  · exact Errs.refl _
  · exact (onBlock_errs _ b _).trans (Errs.trans (blockErr_errs _ b 9) (hardError_errs _ _))
/-- A read of block SRAM (R147, R148). -/
theorem sramCheck_errs (b off len : Nat) : Errs s (s.sramCheck b off len) :=
  (sramCorrect_errs s b off len).trans (sramLost_errs _ b _)
/-- An illegal bundle, told once for one issue (R148). -/
theorem illegalBundle_errs (b : Nat) : Errs s (s.illegalBundle b) := by
  unfold State.illegalBundle; dsimp only
  split
  · exact Errs.refl s
  · exact (onBlock_errs s b _).trans ((blockErr_errs _ b 10).trans (stepError_errs _ _))
theorem illegalStack_errs (i e : Nat) : Errs s (s.illegalStack i e) := by
  unfold State.illegalStack; dsimp only
  split
  · exact Errs.refl s
  · exact (onStack_errs s i _).trans ((stackErr_errs _ i 4 _ e).trans (hardError_errs _ _))
theorem hazardAt_errs (r lb line cycle kind addr : Nat) : Errs s (s.hazardAt r lb line cycle kind addr) := by
  unfold State.hazardAt; dsimp only
  refine Errs.trans ?_ (log_logs _ _).errs
  exact ⟨_, _, _, _, _, _, _, _, _, _, _, _, _, rfl⟩
theorem blockHazard_errs (b kind addr : Nat) : Errs s (s.blockHazard b kind addr) := by
  unfold State.blockHazard; split
  · refine Errs.trans (Errs.trans ?_ (blockErr_errs _ b 14)) (hazardAt_errs _ _ _ _ _ _ _)
    exact ⟨_, _, _, _, _, _, _, _, _, _, _, _, _, rfl⟩
  · exact Errs.refl s
theorem stackHazard_errs (i kind addr : Nat) : Errs s (s.stackHazard i kind addr) := by
  unfold State.stackHazard; split
  · refine Errs.trans (Errs.trans ?_ (stackErr_errs _ i 7 _ 0)) (hazardAt_errs _ _ _ _ _ _ _)
    exact ⟨_, _, _, _, _, _, _, _, _, _, _, _, _, rfl⟩
  · exact Errs.refl s

theorem stackCorrect_errs (i a n e : Nat) : Errs s (s.stackCorrect i a n e) := by
  unfold State.stackCorrect; dsimp only
  split
  · exact Errs.refl s
  · exact (onStack_errs s i _).trans (log_logs _ _).errs
theorem stackLost_errs (i : Nat) (units : List Nat) (wide : Bool) (requester line e : Nat) :
    Errs s (s.stackLost i units wide requester line e) := by
  unfold State.stackLost
  split
  · exact Errs.refl _
  · split
    · exact (onStack_errs _ i _).trans ((stackErr_errs _ _ _ _ _).trans (hardError_errs _ _))
    · exact (stackErr_errs _ _ _ _ _).trans (hardError_errs _ _)
/-- A read of stack memory (R181, R182). -/
theorem stackCheck_errs (i a n : Nat) (wide : Bool) (requester line e : Nat) : Errs s (s.stackCheck i a n wide requester line e) :=
  (stackCorrect_errs s i a n e).trans (stackLost_errs _ i _ wide requester line e)
/-- A write of stack memory (R180). -/
theorem writeCheck_errs (i a n : Nat) (wide : Bool) (requester line e : Nat) : Errs s (s.writeCheck i a n wide requester line e) :=
  stackLost_errs s i _ wide requester line e

/-! Completions -/

theorem ite_completes (c : Bool) (h : Completes s t) : Completes s (if c = true then t else s) := by
  split
  · exact h
  · exact Completes.refl s

theorem vector_completes (p v : Nat) : Completes s (s.vector p v) := by
  unfold State.vector; repeat' split
  all_goals exact ⟨_, _, _, rfl⟩
theorem event_completes (p i : Nat) : Completes s (s.event p i) := by
  have h : Completes s (s.onPort p (fun q => { q with events := setBit q.events i })) := ⟨_, _, _, rfl⟩
  unfold State.event; dsimp only
  split
  · exact h.trans (vector_completes _ p i)
  · exact h
theorem hostWrite_completes (p a : Nat) (bs : List Byte) : Completes s (s.hostWrite p a bs) := by
  unfold State.hostWrite; split <;> exact ⟨_, _, _, rfl⟩
theorem respond_completes (p m status : Nat) (resp : Memory) (dup : Bool) : Completes s (s.respond p m status resp dup) := by
  have h : Completes s (s.onMbx p m (fun k => { k with
      resp := resp, state := .done, status := BitVec.ofNat 16 status, dup := dup, follows := none, waits := false })) := ⟨_, _, _, rfl⟩
  unfold State.respond; dsimp only
  split
  · exact (h.trans (hostWrite_completes _ _ _ _)).trans (event_completes _ p m)
  · exact h.trans (event_completes _ p m)
theorem recordDup_completes (p m status : Nat) : Completes s (s.recordDup p m status) := by
  unfold State.recordDup; dsimp only
  split
  · exact ⟨_, _, _, rfl⟩
  · exact Completes.refl s
theorem completeFollowers_completes (p m status : Nat) : Completes s (s.completeFollowers p m status) := by
  unfold State.completeFollowers; dsimp only
  have h : ∀ (l : List Nat) (v : State), Completes v (l.foldl (fun t f =>
      if (t.mbx p f).busy && (t.mbx p f).follows.map (·.val) == some m then t.respond p f status (s.mbx p m).resp true else t) v) := by
    intro l
    induction l with
    | nil => exact Completes.refl
    | cons f l ih =>
      intro v
      exact Completes.trans (ite_completes v _ (respond_completes v _ _ _ _ _)) (ih _)
  exact h _ s
/-- A completed command (R361, R362). -/
theorem complete_completes (p m status detail : Nat) (body : List Byte) : Completes s (s.complete p m status detail body) := by
  unfold State.complete
  exact Completes.trans (Completes.trans (respond_completes _ _ _ _ _ _) (recordDup_completes _ _ _ _)) (completeFollowers_completes _ _ _ _)
theorem hostAway_completes : Completes s s.hostAway := ⟨_, _, _, rfl⟩
theorem refuse_completes (p m status detail : Nat) : Completes s (s.refuse p m status detail) := by
  unfold State.refuse; dsimp only
  split
  · exact (complete_completes s _ _ _ _ _).trans (hostAway_completes _)
  · exact complete_completes s _ _ _ _ _
theorem succeed_completes (p m : Nat) (body : List Byte) : Completes s (s.succeed p m body) := complete_completes s _ _ _ _ _
/-- The sorting of a posted command (R359, R362, R363). -/
theorem sort_completes (p m : Nat) : Completes s (s.sort p m) := by
  unfold State.sort; dsimp only
  split
  · exact Completes.refl s
  · split
    · exact refuse_completes s _ _ _ _
    · split
      · have hc : ∀ (v : State) (c : HostCounters), Completes s v → Completes s { v with counts := c } :=
          fun v c h => h.trans ⟨_, _, _, rfl⟩
        split
        · exact hc _ _ (respond_completes s _ _ _ _ _)
        · exact respond_completes s _ _ _ _ _
      · split
        · exact ⟨_, _, _, rfl⟩
        · split
          · exact Completes.refl s
          · exact refuse_completes s _ _ _ _
/-- The sorting of a port's posted commands in their order (R360). -/
theorem sortPort_completes (p : Nat) : Completes s (s.sortPort p) := by
  unfold State.sortPort
  generalize (s.port p).posted = l
  induction l generalizing s with
  | nil => exact Completes.refl s
  | cons m l ih => exact Completes.trans (ite_completes s _ (sort_completes s p m)) (ih _)
theorem completeAll_completes (l : List (Nat × Nat)) (status : Nat) (body : State → List Byte) : Completes s (s.completeAll l status body) := by
  unfold State.completeAll
  induction l generalizing s with
  | nil => exact Completes.refl s
  | cons x l ih => exact Completes.trans (ite_completes s _ (complete_completes s _ _ _ _ _)) (ih _)

/-! Records and memory -/

/-- `t` differs from `s` at most in the journal and in the bytes of memory with their errors. -/
def Records (s t : State) : Prop := ∃ g m w, t = { s with glean := g, mem := m, weak := w }

theorem Records.refl : Records s s := ⟨_, _, _, rfl⟩
variable {s} in
theorem Records.trans (h : Records s t) (k : Records t u) : Records s u := by
  obtain ⟨_, _, _, rfl⟩ := h; obtain ⟨_, _, _, rfl⟩ := k; exact ⟨_, _, _, rfl⟩

theorem ringPoke_records (off : Nat) (bs : List Byte) : Records s (s.ringPoke off bs) := by
  unfold State.ringPoke
  have h : ∀ (l : List (Nat × Nat)) (x : State × List Byte),
      Records x.1 (l.foldl (fun acc p => (acc.1.poke p.1 (acc.2.take p.2), acc.2.drop p.2)) x).1 := by
    intro l
    induction l with
    | nil => exact fun x => Records.refl x.1
    | cons p l ih => exact fun x => Records.trans ⟨_, _, _, rfl⟩ (ih _)
  exact h _ (s, bs)
/-- A record is appended in the list and its bytes are written into the journal range (R290, R291). -/
theorem appendRecord_records (rtype : Nat) (flags : Byte) (step : BitVec 48) (n : BitVec 16) (body : List Byte) :
    Records s (s.appendRecord rtype flags step n body) := by
  unfold State.appendRecord; dsimp only
  split
  · exact Records.trans ⟨_, _, _, rfl⟩ (ringPoke_records _ _ _)
  · exact ⟨_, _, _, rfl⟩
theorem dropRecords_records : Records s s.dropRecords := by
  unfold State.dropRecords; dsimp only
  split
  · split
    · exact Records.refl s
    · exact Records.trans ⟨_, _, _, rfl⟩ (appendRecord_records _ _ _ _ _ _)
  · exact Records.refl s
/-- A record of the journal touches the journal and memory only. -/
theorem journal_records (rtype : Nat) (flags : Byte) (step : BitVec 48) (n : BitVec 16) (body : List Byte) :
    Records s (s.journal rtype flags step n body) := by
  unfold State.journal
  split
  · exact (appendRecord_records s _ _ _ _ _).trans (dropRecords_records _)
  · exact Records.refl s
/-- Without a configured journal nothing is recorded. -/
theorem journal_off (rtype : Nat) (flags : Byte) (step : BitVec 48) (n : BitVec 16) (body : List Byte) (h : s.glean.on = false) :
    s.journal rtype flags step n body = s := by simp [State.journal, h]

end Sys2Proof.Machine
end

