-- ==== Sys2Proof/Tests/Slice0.lean ====
section
/-! SUPPORT. Tests: the field checks refuse an ill-formed command each; for every statement, states and operands that meet its hypotheses, clause by clause; and
a few results worked out by hand from the spec. -/

namespace Sys2Proof.Tests

set_option Elab.async false

open Sys2Proof Sys2Proof.Machine

/-! Ill-formed commands (R123 to R133, R160, R166 to R173) -/

/-- Stack fields of one group, BF16 in and out. -/
def f0 : SFields :=
  { ara := 0, arb := 1, arc := 2, ard := 3, len := 0, count := 0, fmtIn := 0, fmtOut := 0, mode := 0, key := 0, kdesc := 0
    hash := false, eset := 0 }

theorem test_reserved_chunk_format : (Instr.chunk 0 0 0xD false 0).wellFormed = false := by decide
theorem test_reserved_predicate : (Instr.vcmp 0 0 0 0 4).wellFormed = false := by decide
theorem test_reserved_rounding_mode : (Instr.vcvtNarrow 0 0 0 3 0 0).wellFormed = false := by decide
theorem test_reserved_narrow_format : (Instr.vcvtNarrow 0 0 0 0 0xA 0).wellFormed = false := by decide
theorem test_key_without_stochastic : (Instr.vcvtNarrow 0 0 0 0 0 1).wellFormed = false := by decide
theorem test_reserved_wide_format : (Instr.vcvtWide 0 0 0 0xB).wellFormed = false := by decide
theorem test_empty_wait_mask : (Instr.waitFirst 0 0 0).wellFormed = false := by decide
theorem test_wait_beyond_groups : (Instr.waitFirst 0 62 4).wellFormed = false := by decide
theorem test_reserved_sample : (Instr.sample 0 5 0).wellFormed = false := by decide
theorem test_stack_mode : ∀ p ∈ Claims.stackOps, (p.2 0 { f0 with mode := 3 }).wellFormed = false := by decide
theorem test_stack_input : (Instr.add 0 { f0 with fmtIn := 5 }).wellFormed = false := by decide
theorem test_stack_output : (Instr.sqrt 0 { f0 with fmtOut := 0xA }).wellFormed = false := by decide
theorem test_quantize_output : (Instr.quantMx 0 { f0 with fmtOut := 4 }).wellFormed = false := by decide
theorem test_move_converts : (Instr.copy 0 { f0 with fmtIn := 1 }).wellFormed = false := by decide
theorem test_reduce_length : (Instr.stageReduce 0 f0).wellFormed = false := by decide
theorem test_reduce_format : (Instr.stageReduce 0 { f0 with len := 1, fmtIn := 1 }).wellFormed = false := by decide
theorem test_reduce_count : (Instr.stageReduce 0 { f0 with len := 1, count := 64 }).wellFormed = false := by decide
theorem test_well_formed : (∀ p ∈ Claims.stackOps, p.1 ≠ 0x09 → p.1 ≠ 0x12 → (p.2 0 f0).wellFormed = true) ∧
    (Instr.quantMx 0 { f0 with fmtOut := 5 }).wellFormed = true ∧ (Instr.stageReduce 0 { f0 with len := 1, count := 63 }).wellFormed = true := by
  decide

/-! States for the witnesses -/

/-- A machine state from an outcome. -/
def after (x : Host.Outcome State Fault Refusal) : State := match x with | .next t => t | _ => State.reset
/-- A small plan: P = 10 µs, steps of four sheaves with one commit sheaf. -/
def plan1 : Plan :=
  { hash := 1, profile := 1, cellMask := 1, flags := 0, period := 10000, stepLen := 4, commit := 1, margin := 8, skew := 0, grace := 50
    envelope := 2400, relayEnvelope := 900, mapHash := 0, seed := 7, length := 0, sections := [], body := {} }

/-- A map of one board: two modules and a link between them. -/
def map1 : MachineMap :=
  { hash := 2, twins := 1, racks := 0, cells := 256, master := 0, coord := 0, coords := [(0, false), (1, false)]
    links := [{ keyA := 0, linkA := 0, keyB := 1, linkB := 45, cls := 0 }], swap := [], positions := [] }

/-- The module at (0, 0, 0, 0) in a running job, in the first sheaf of its first step; it coordinates. -/
def jobS : State :=
  { store := { cur := some plan1, map := some map1 }, job := { phase := .running, cells := 256 }
    mgmt := { key := 0 }, sheaf := { begun := true, running := true }, coord := { coordKey := 0, isCoord := true }
    rst := { birtur := true, episode := [], latch := 0 }
    tables := { positions := [(0, 0), (1, 1)] } }

/-- Address registers: SRAM at 0, HBM at 0, the operand buffer at 0, the egress buffer at 0, logical block 1's SRAM, the other logical block's SRAM. -/
def ars : List AddrReg :=
  [{ space := .sram }, { space := .dev }, { space := .opb }, { space := .egress }, { space := .remote, aux := 1 }]

/-- Block 0 in its stream, with a loop table and a group that expects one arrival. -/
def blk : Block :=
  { active := true, logical := 0, seq := { ended := false, line := 2, length := 8, fetched := 1 }
    tables := { ar := ars, desc := [{}], trip := [3] }, groups := { expected := [(1, 1)] } }

/-- The job with blocks 0 and 1 in use and clocked regions. -/
def blkS : State :=
  { jobS with blocks := [(0, blk), (1, { blk with logical := 1 })], regions := [(0, { active := true }), (0x14, { active := true })] }
/-- The same with the line delivered: an empty bundle. -/
def lineS : State := { blkS with blocks := upd {} blkS.blocks 0 (fun k => { k with seq := { k.seq with fetched := 8 } }) }
/-- The same with a bundle whose cell slot 0, vector slot and sync slot hold reserved operations (R124, R127, R132). -/
def badLineS : State :=
  { lineS with mem := [(blockBase 0 + 0x600040, 5), (blockBase 0 + 0x60004A, 0x3F), (blockBase 0 + 0x600059, 0x60)] }

/-- Stack region 0 in its stream. -/
def stk : Stack :=
  { active := true, seq := { ended := false, line := 2, length := 8, fetched := 1 }
    tables := { ar := [{ space := .staging }, { space := .staging, base := 256 }, { space := .staging, base := 512 }, { space := .staging, base := 1024 }]
                eset := [1], trip := [3] }, groups := { expected := [(1, 1)] } }

/-- The job with stack region 0 in use. -/
def stkS : State := { jobS with stks := [(0, stk)], regions := [(0x14, { active := true })] }
/-- The same with an instruction of a reserved operation at its line (R160, R166). -/
def badStackS : State := { stkS with stks := [(0, { stk with seq := { stk.seq with fetched := 8 }, imem := [(32, 0x20)] })] }
/-- The job with a plan that holds a stream of two lines for logical block 0 and one for stack 0, and nothing under way. -/
def streamS : State :=
  let x : Stream := { sec := {}, unitIx := 0, pattern := 0, expected := [], loose := 0, words := [7, 8] }
  { blkS with store := { blkS.store with cur := some { plan1 with body := { streams := [x], stackStreams := [x] } } }, stks := [(0, stk)] }

/-! Blocks -/

theorem witness_calm : Claims.Calm blkS 0 := ⟨by decide, by decide, fun _ => rfl⟩
theorem empty_slot (n : Nat) : slotWord 0 0 n = .empty := by
  have z : ∀ a, (0 : Word256).extractLsb' a 20 = 0 := by simp
  match n with
  | 0 | 1 | 2 | 3 | 4 | 5 | 6 | 7 | 8 | 9 => decide +kernel
  | n + 10 => show cellSlot 0 _ _ = _; rw [z]; rfl
theorem witness_calm_line : Claims.Calm lineS 0 := by
  refine ⟨by decide +kernel, by decide +kernel, fun n => ?_⟩
  have e : lineS.bundleAt 0 (lineS.block 0).seq.line = 0 := by decide +kernel
  simp only [State.slotOffends, e, Bool.and_eq_false_iff]
  right
  unfold offends
  rw [show slotWord (Fin.ofNat 64 0) 0 n = .empty from empty_slot n]
theorem witness_vector_predicate : (3 : BitVec 3).toNat ≤ 3 := by decide
theorem witness_converts : (Instr.vcvtNarrow 0 0 0 1 0 0).wellFormed = true ∧ (Instr.vcvtWide 0 0 0 1).wellFormed = true ∧
    (∃ c, cvtFmt 0 = some c ∧ ∀ f, c ≠ .mx f) ∧ (1 : BitVec 3) ≠ 2 := by
  refine ⟨by decide, by decide, ⟨_, rfl, by intro f; nofun⟩, by decide⟩
theorem witness_tree_rows : Claims.Reaches (blkS.block 0) 0 .sram 1024 32 sramSize 0 ∧ Claims.Sound blkS 0 0 ∧
    get 0 (blkS.block 0).reads (blkS.cyc (compRegion 0)) < 2 ∧ get 0 (blkS.block 0).writes (blkS.cyc (compRegion 0) + 4) < 2 := by
  unfold Claims.Reaches Claims.Sound; decide
theorem witness_stopped_block : (State.reset.issues 0) = false ∧ State.reset.runsOn 0 = false := by decide
theorem witness_chunk : ∃ f, cellFmt 0 = some f := ⟨_, rfl⟩
theorem witness_chunk_free : get 0 (blkS.block 0).cellFree 0 ≤ blkS.cyc (compRegion 0) ∧
    (blkS.block 0).descBase ((blkS.block 0).tables.desc.getD 0 {}) 0 0 = 0 ∧ (blkS.block 0).descBase ((blkS.block 0).tables.desc.getD 0 {}) 3 0 = 0 := by decide
theorem witness_chunk_busy : blkS.cyc (compRegion 0) < get 0 (({ blk with cellFree := [(0, 9)] } : Block)).cellFree 0 := by decide
theorem witness_int8 : (64 : Nat) ≤ 64 ∧ (63 : Nat) < 64 := by decide
theorem witness_chunk_end : let r : ChunkRun := { fmt := 0, rb := false, issue := 0, pes := List.replicate 4096 {} }
    ({ blk with chunks := [(0, r)] } : Block).chunks = (0, r) :: [] ∧ r.pes.length = 4096 ∧ blkS.cyc (compRegion 0) < r.due ∧
    r.due ≤ ({ blkS with regions := [(0, { active := true, cycle := 99 })] } : State).cyc (compRegion 0) ∧ r.parityBad = false ∧
    r.residueBad = false ∧ r.rounders = {} ∧ (rounderWords [3, 4] [] != rounderWords [3, 4] []) = false ∧
    (rounderWords [3, 4] [(1, 5)] != rounderWords [3, 4] []) = true ∧
    r.pes.any PeRun.mismatch = false ∧ blkS.relay = false ∧ blkS.inCommit = false := by
  refine ⟨rfl, List.length_replicate, by decide +kernel, by decide +kernel, rfl, rfl, rfl, rfl, by decide, ?_, by decide, by decide⟩
  rw [List.any_replicate]; decide +kernel
theorem witness_drain_to_sram :
    let k := (blkS.finishChunks 0 (fun x => x == 0) (blkS.cyc (compRegion 0))).block 0
    Claims.Reaches k 0 .sram 1024 32 sramSize 0 ∧ get 0 k.writes (blkS.cyc (compRegion 0) + 2) < 2 := by
  unfold Claims.Reaches; decide +kernel
theorem witness_local_moves : get 0 (blkS.block 0).channelFree 0 ≤ blkS.cyc (compRegion 0) ∧
    Claims.Reaches (blkS.block 0) 0 .sram (1024 * 16) 32 sramSize 0 ∧ Claims.Reaches (blkS.block 0) 2 .opb (4 * 16) 1 1024 0 ∧
    Claims.portsFree (blkS.block 0).reads 0 16 ∧ (∀ d ∈ (blkS.block 0).pend, 0 < d.cycle) := by
  unfold Claims.Reaches Claims.portsFree; decide
theorem witness_outward_moves : Claims.Clocked blkS (compRegion 0) ∧ Claims.Reaches (blkS.block 0) 0 .sram 2048 32 sramSize 0 ∧
    Claims.Reaches (blkS.block 0) 1 .dev 2048 2048 hbmSize 0 ∧ Claims.portsFree (blkS.block 0).writes 112 2 ∧
    Claims.Reaches (blkS.block 0) 3 .egress (2 * 16) 1 4096 0 ∧ Claims.Reaches (blkS.block 0) 4 .remote (1024 * 16) 32 sramSize 0 ∧
    blkS.physOf ((blkS.block 0).areg 4).aux = some 1 ∧ Claims.portsFree (blkS.block 1).writes 20 16 := by
  unfold Claims.Reaches Claims.portsFree Claims.Clocked; decide
theorem witness_waits : (blkS.block 0).groups.ready 0 = true ∧ (blkS.block 0).groups.ready 1 = false ∧ (Instr.waitFirst 0 0 3).wellFormed = true ∧
    (3 : BitVec 4).getLsbD 0 = true ∧ (Instr.waitFirst 0 1 1).wellFormed = true ∧
    (∀ j < 4, (1 : BitVec 4).getLsbD j = true → (blkS.block 0).groups.ready (1 + j) = false) := by decide
theorem witness_gated_wait :
    let s := { blkS with regions := upd {} blkS.regions 0 (fun g => { g with stall := some .arrival }) }
    s.debugMode = false ∧ s.runsOn 0 = true ∧ (s.region (compRegion 0)).stall.isSome = true ∧ (s.block 0).groups.ready 1 = false ∧
    s.slotOffends 0 8 = false ∧ badLineS.slotOffends 0 8 = true := by decide +kernel
theorem witness_wait_proceeds :
    let s := { blkS with blocks := [(0, { blk with seq := { blk.seq with waiting := some (0, 0) } })],
                         stks := [(0, { stk with seq := { stk.seq with waiting := some (0, 0) } })] }
    (s.block 0).seq.waiting = some (0, 0) ∧ (s.block 0).groups.ready 0 = true ∧ (s.block 0).seq.stalled = false ∧
    (∀ x < 4, x ≠ 0 → (s.block x).seq.waiting = none ∧ (s.block x).seq.stalled = false) ∧
    (s.stack 0).seq.waiting = some (0, 0) ∧ (s.stack 0).groups.ready 0 = true ∧ (s.stack 0).seq.stalled = false := by decide
theorem witness_signals : Claims.Clocked blkS (compRegion 0) ∧ blkS.physOf 1 = some 1 ∧ 1 < blkS.logicalCount ∧
    ({ blkS with job := { blkS.job with cells := 192 } } : State).logicalCount ≤ (48 : BitVec 6).toNat := by unfold Claims.Clocked; decide
theorem witness_marked_reads : (4 : BitVec 6).toNat ≤ 4 := by decide
theorem witness_loops :
    let x : LoopLevel := { level := 0, iter := 0, trip := 3, body := 1 }
    (∀ y ∈ (blkS.block 0).seq.loops, y.level ≠ 0) ∧ x.level = 0 ∧ x.iter + 1 < x.trip ∧
    (let z : LoopLevel := { x with iter := 2 }; z.trip ≤ z.iter + 1) := by decide
theorem witness_illegal : blkS.relay = false ∧ blkS.inCommit = false ∧ (blkS.block 0).seq.reported = false ∧ (stkS.stack 0).seq.reported = false ∧
    badLineS.issues 0 = true ∧ badLineS.slotOffends 0 4 = true ∧ badLineS.slotOffends 0 0 = true ∧ badLineS.slotOffends 0 8 = true ∧
    (Instr.vcvtNarrow 0 0 0 3 0 0).wellFormed = false ∧ (Instr.waitFirst 0 0 0).wellFormed = false ∧
    badStackS.stackIssues 0 = true ∧ badStackS.lineBad 0 = true ∧ (4 : BitVec 3).toNat ≥ 4 ∧ (0xB : BitVec 4).toNat > 0xA ∧
    (blkS.block 0).seq.active 0 = false ∧ ({ blk.seq with loops := [{ level := 0, iter := 0, trip := 3, body := 1 }] } : Sequencer).active 0 = true ∧
    (stk.seq.active 0 = false) ∧ stkS.stackIssues 0 = true ∧ stkS.relay = false ∧ stkS.inCommit = false := by decide +kernel
theorem witness_instruction_stall : (blkS.block 0).seq.ended = false ∧ (blkS.block 0).seq.fetched ≤ (blkS.block 0).seq.line ∧
    (stkS.stack 0).seq.ended = false ∧ (stkS.stack 0).seq.fetched ≤ (stkS.stack 0).seq.line ∧ (blk.seq.stalled = false) ∧
    ({ blk.seq with stalled := true } : Sequencer).stalled = true := by decide
theorem witness_fetch : ∃ x y : Stream, streamS.unitStream (.block 0) streamS.sheaf.pattern = some x ∧
    streamS.unitStream (.stack 0) streamS.sheaf.pattern = some y ∧ streamS.placeOf x.sec = 0 ∧ streamS.placeOf y.sec = 0 ∧
    1 ≤ (streamS.block 0).seq.room 8192 ∧ 1 ≤ (streamS.stack 0).seq.room 4096 ∧ (streamS.block 0).seq.fetched + 0 < x.words.length ∧
    (streamS.stack 0).seq.fetched + 0 < y.words.length :=
  ⟨_, _, rfl, rfl, by decide +kernel, by decide +kernel, by decide +kernel, by decide +kernel, by decide +kernel, by decide +kernel⟩

/-! Stacks -/

theorem witness_stack_runs : Claims.StackIssues stkS 0 ∧ (Instr.add 0 f0).wellFormed = true ∧
    (∀ e < 64, ((stkS.stack 0).tables.eset.getD 0 0).getLsbD e = true → get 0 (stkS.stack 0).busy e ≤ stkS.cyc (stackRegion 0)) ∧
    2 ≤ ({ f0 with count := 1 } : SFields).count.toNat + 1 := by unfold Claims.StackIssues; decide
theorem witness_engine_busy : stkS.cyc (stackRegion 0) < get 0 ({ stk with busy := [(0, 5)] } : Stack).busy 0 := by decide
theorem witness_stack_elements : stkS.debugMode = false ∧ (stkS.stack 0).tables.eset.getD 0 0 = BitVec.ofNat 64 (2 ^ 0) ∧
    Claims.Staged (stkS.stack 0) 0 256 0 ∧ Claims.Staged (stkS.stack 0) 1 256 256 ∧ Claims.Staged (stkS.stack 0) 2 256 512 ∧
    Claims.Staged (stkS.stack 0) 3 256 1024 ∧ (∀ o n, stkS.weakness (stageBase 0 0 + o) n = 0) := by
  refine ⟨by decide, by decide, ?_, ?_, ?_, ?_, fun _ _ => rfl⟩ <;> (unfold Claims.Staged; decide)
theorem witness_tree_order : 2 ≤ [(1 : Word32), 2, 3].length ∧ 2 * 0 + 1 < [(1 : Word32), 2, 3].length ∧ [(1 : Word32), 2, 3].length = 2 * 1 + 1 := by decide
theorem witness_stack_control : (stkS.stack 0).groups.ready 0 = true ∧ (stkS.stack 0).groups.ready 1 = false ∧ (∀ y ∈ (stkS.stack 0).seq.loops, y.level ≠ 0) ∧
    (let s := { stkS with sheaf := { stkS.sheaf with sheafInStep := 3 } }
     s.stepLen ≤ s.sheaf.sheafInStep.toNat + 1 ∧ (s.stack 0).runs = [] ∧ (s.stack 0).digestValid = false) ∧
    stkS.sheaf.sheafInStep.toNat + 1 < stkS.stepLen := by decide
theorem witness_refresh : stkS.stackRuns 0 = true ∧
    sliceOwner [BitVec.ofNat 128 (2 ^ 33 + 2 ^ 97 + 3 * 2 ^ 113)] 0 0 (stkS.cyc (stackRegion 0) / 32) = 3 ∧
    State.reset.stackRuns 0 = false ∧ State.reset.job.phase ≠ .running ∧ (∀ u ∈ stkS.weak, u.2 ≠ 3) := by decide

/-! Regions, crossings, tier moves, the granary -/

/-- A token of a kind from block 0's region to another region. -/
def tok (dst : Nat) (p : Payload) : Token := { src := 0, dst := dst, sent := 0, release := 0, payload := p }

/-- A slice schedule that gives every bank group to the interface. -/
def ifaceSlices : List Word128 := [BitVec.ofNat 128 ((2 ^ 64 - 1) * 2 ^ 33 + (2 ^ 16 - 1) * 2 ^ 97 + 2 ^ 114)]

theorem witness_margin : (blkS.region 0).active = true ∧ 8 ≤ (8 : BitVec 6).toNat ∧ (7 : BitVec 6).toNat < 8 := by decide
theorem witness_droop : gateable 0 = true ∧ gateable 0x10 = false ∧ (blkS.region 0).active = true ∧
    (({ blkS with regions := [(0x10, { active := true })] } : State).region 0x10).active = true := by decide
theorem witness_crossings :
    let s (k : Token) : State := { blkS with tokens := [k] }
    let g : Nat := 0
    (s (tok 0 (.rows 1 0 [1] 5))).nextToken 0 0 = some (tok 0 (.rows 1 0 [1] 5)) ∧ (blkS.block 1).isolated = false ∧
    (s (tok 0 (.signal 1 1))).nextToken 0 0 = some (tok 0 (.signal 1 1)) ∧ (blkS.block 1).groups.have 1 < (blkS.block 1).groups.expect 1 ∧
    (blkS.block 1).groups.expect g ≤ (blkS.block 1).groups.have g ∧
    (s (tok 0x14 (.egress 0 [1]))).nextToken 0 0x14 = some (tok 0x14 (.egress 0 [1])) ∧
    (s (tok 0x14 (.hbmWrite 0 0 [1] 0))).nextToken 0 0x14 = some (tok 0x14 (.hbmWrite 0 0 [1] 0)) ∧
    (s (tok 0 (.hbmData 1 0 [1] 5))).nextToken 0 0 = some (tok 0 (.hbmData 1 0 [1] 5)) ∧
    (s (tok 0x14 (.rota 5 0))).nextToken 0 0x14 = some (tok 0x14 (.rota 5 0)) ∧ Claims.Clocked blkS 0x14 ∧ Claims.Clocked blkS 0 ∧
    blkS.debugMode = false ∧ ifaceOk ifaceSlices 0 2048 0 = true ∧ (∀ u ∈ blkS.weak, u.2 ≠ 3) := by unfold Claims.Clocked; decide +kernel
theorem witness_isolated :
    let s : State := { blkS with blocks := [(1, { blk with isolated := true })], tokens := [tok 0 (.rows 1 0 [1] 5)] }
    s.nextToken 0 0 = some (tok 0 (.rows 1 0 [1] 5)) ∧ (s.block 1).isolated = true ∧ s.relay = false ∧ s.inCommit = false := by decide +kernel
theorem witness_temper : blkS.jobRuns = true ∧ ({ mram := true } : Granary).mram = true ∧ (0 : Nat) < 33 ∧
    ((State.reset.temper 0).samples.foldl (fun a x => a + x.2) 0 < 1000) ∧
    (let t : Temper := { samples := [(20, 1000)] }
     1000 ≤ t.samples.foldl (fun a x => a + x.2) 0 ∧ t.medians.length < 520) := by decide
/-- A move of one unit from DDR5 channel 0 to HBM that a group of stack 0 waits for. -/
def move1 : TierMove :=
  { engine := 0, toHbm := true, units := 1, ddrAddr := 0x100000000000, hbmAddr := 0, start := 0, stop := 10, toStack := true, targetUnit := 0, group := 1 }
theorem witness_tier_moves :
    let k : Ddr := { queue := [move1] }
    let r : MoveRun := { move := move1, began := 0 }
    let u : State := { stkS with stks := [(0, { stk with slices := ifaceSlices })] }
    k.run = none ∧ move1.start ≤ stkS.cyc ioRegion ∧ stkS.moveServed r = false ∧ u.moveServed r = true ∧ u.moveServed { r with move := { move1 with toHbm := false } } = true ∧
    move1.hbmAddr + 2048 * move1.units ≤ hbmSize ∧ stkS.weakness move1.ddrAddr 2048 = 0 ∧ stkS.weakness move1.hbmAddr 2048 = 0 ∧ (stkS.stack 0).groups.have 1 < (stkS.stack 0).groups.expect 1 ∧
    stkS.relay = false ∧ stkS.inCommit = false ∧ ({ background := true } : Ddr).suspended = false ∧
    (∀ x ∈ ({ } : Ddr).queue, 0 < x.start) ∧ 0 < move1.units ∧ move1.hbmAddr < hbmSize ∧
    ({ jobS with rst := { jobS.rst with role := true } } : State).relay = true := by decide +kernel
theorem witness_no_posted_writes : ∀ i, (stkS.stack i).writes = [] := by
  intro i
  cases i <;> rfl
theorem witness_invariant : stkS.Inv := by unfold State.Inv; decide
theorem witness_granary : norRecords.contains (recCode .repairMap) = true ∧ (State.reset.record 0x10).running = none ∧
    State.reset.granary.pfActive = false ∧ (State.reset.record 0x10).recent = false ∧ ({ nor0 := true, nor1 := true } : Granary).nor0 = true ∧
    ({ nor0 := true, nor1 := true } : Granary).nor1 = true ∧ (State.reset.record 0x10).stopA = false ∧ (State.reset.record 0x10).stopB = false ∧
    (State.reset.record 0x10).eraseMax + 1 < 80000 ∧ ({ recent := true } : GranRecord).recent = true ∧
    ({ held := some [1] } : GranRecord).held = some [1] := by decide
theorem witness_granary_commits : (1299 : Nat) < 1300 ∧ State.reset.granary.laserLit = [] ∧ (State.reset.record 0x40).eraseMax + 1 < 80000 ∧
    (let s := { jobS with rst := { jobS.rst with imageVersion := 5 }, granary := { jobS.granary with delta := [{ seq := 1, kind := 2, place := 0, value := 0 }], deltaSeq := 1 } }
     s.rst.birtur = true ∧ s.granary.rollback.toNat < s.rst.imageVersion.toNat ∧ s.granary.delta ≠ [] ∧ (∀ d ∈ s.granary.delta, d.seq ≤ s.granary.deltaSeq)) := by decide
theorem witness_power_return : ({ pfActive := true } : Granary).pfActive = true ∧ ({ running := some [1] } : GranRecord).running = some [1] ∧
    (∀ x ∈ norRecords, (State.reset.record x).stopA = false ∧ (State.reset.record x).stopB = false ∧ (State.reset.record x).eraseMax + 1 < 80000) := by decide

/-! Ticks, segments, network time -/

/-- The job at the network time of a tick whose latched input is as given, in a sheaf of its step. -/
def tickS (latched : Byte) (n : BitVec 16) : State :=
  { jobS with sheaf := { jobS.sheaf with latched := latched, sheafInStep := n }
              time := { jobS.time with period := 10000, offset := BitVec.ofNat 80 (10000 * 2 ^ 16) } }

theorem witness_segment : Claims.InSegment (tickS 8 0) ∧ Claims.Starts (tickS 8 0) ∧ (tickS 8 0).sheaf.atBoundary = false ∧
    (tickS 8 0).sheaf.sheafInStep.toNat + 1 < (tickS 8 0).stepLen ∧ jobS.nearTick 0 = false := by unfold Claims.InSegment Claims.Starts; decide +kernel
theorem witness_held_tick : bit (tickS 0x18 0).sheaf.latched 5 = false ∧ bit (tickS 0x18 0).sheaf.latched 4 = true ∧ bit (tickS 0 0).sheaf.latched 3 = false := by decide
theorem witness_abort_tick : bit (tickS 0x20 0).sheaf.latched 5 = true ∧ (tickS 0x20 0).inCommit = false ∧ bit (tickS 0x20 0).sheaf.latched 3 = false := by decide
theorem witness_boundary : (tickS 8 3).stepLen ≤ (tickS 8 3).sheaf.sheafInStep.toNat + 1 ∧ (tickS 8 3).tables.staged = none ∧ (tickS 8 3).mgmt.removal = false ∧
    (tickS 8 3).fault.refillActive = false ∧ (tickS 8 3).coord.refill = [] ∧ (tickS 8 3).coord.removals = [] ∧ (tickS 8 3).glean.replay.active = false ∧
    (tickS 8 3).store.switchStep = none := by decide
theorem witness_epoch :
    let s (e : Word64) : State := { jobS with job := { jobS.job with phase := .starting }, sheaf := { nextSeg := some (e, 10000, 1) } }
    let w : State := { s 0 with coord := { (s 0).coord with segOpen := true } }
    (s 0).sheaf.nextSeg = some (0, 10000, 1) ∧ (s 0).job.phase = .starting ∧ (s 0).job.joining = false ∧ (0 : Word64).toNat ≤ (s 0).nowNs ∧
    (s 0).segmentWaits 0 = false ∧ w.segmentWaits 0 = true ∧ w.coord.isCoord = true ∧ (s 9).nowNs < (9 : Word64).toNat := by decide +kernel
theorem witness_cutoff : (tickS 8 0).job.phase = .running ∧ (tickS 8 0).sheaf.begun = true ∧ (tickS 8 0).nearTick 4500 = true ∧ (tickS 8 0).nearTick 1500 = true ∧
    (tickS 8 0).sheaf.cut = false ∧ (tickS 8 0).sheaf.taken = false ∧ (tickS 8 0).relay = false ∧ (tickS 8 0).ownSlot.isSome = true ∧
    jobS.nearTick 4500 = false ∧ jobS.nearTick 1500 = false ∧ ({ jobS with rst := { jobS.rst with role := true } } : State).relay = true ∧
    jobS.sheaf.awaitSeg = false := by decide +kernel
theorem witness_held_limit : jobS.coord.isCoord = true ∧ jobS.job.phase = .running ∧ (100 ≤ ({ jobS.sheaf with heldCount := 100 } : SheafState).heldCount) ∧
    ({ jobS.sheaf with heldSince := some 0 } : SheafState).heldSince = some 0 ∧
    0 + jobS.sheaf.heldPaused + 200000000 ≤ ({ jobS with time := { jobS.time with offset := BitVec.ofNat 80 (200000000 * 2 ^ 16) } } : State).nowNs ∧
    ¬(100 ≤ jobS.sheaf.heldCount) ∧ jobS.sheaf.heldSince = none ∧ jobS.inCommit = false ∧ (tickS 8 3).inCommit = true := by decide +kernel
theorem witness_consensus : jobS.oneBoard = true ∧ jobS.ownSlot.isSome = true ∧
    ({ jobS with store := { jobS.store with map := some { map1 with racks := 1 } } } : State).oneBoard = false := by decide
theorem witness_sync : jobS.job.joining = false ∧ (0x00 : Byte).toNat % 8 ≠ (jobS.sheaf.sheafCount.toNat + 7) % 8 ∧
    (0x07 : Byte).toNat % 8 = (jobS.sheaf.sheafCount.toNat + 7) % 8 ∧ (0x07 : Byte).toNat / 64 = jobS.sheaf.syncEpoch.toNat ∧
    (∀ x < 56, (jobS.link x).peerKey = 0 → (jobS.link x).rxSync = none) := by decide
/-- The coordinator with one module's acknowledgement of a segment. -/
def segS : State :=
  { jobS with coord := { jobS.coord with segOpen := true, segEpoch := 5, segAcks := [0] }, sheaf := { jobS.sheaf with nextSeg := some (5, 10000, 0) } }
theorem witness_segment_ack : segS.coord.isCoord = true ∧ segS.coord.segOpen = true ∧ (1 : Key) ∉ segS.coord.segAcks ∧ segS.nowNs + 11000000 < 2 ^ 64 ∧
    (1 : Key) ≠ segS.coord.coordKey := by decide
theorem witness_missing_ack : ∃ k ∈ segS.members, k ∉ segS.coord.segAcks := by
  have h : segS.members = [0, 1] := by decide +kernel
  exact ⟨1, by simp [h], by decide⟩
theorem witness_staged_time : (1 : Word32).getLsbD 0 = true ∧ (0 : Word32).getLsbD 0 = false ∧
    (let x : TimeBlock := { nextAnchor := 9, nextRate := 0x00F3CF3CF3CF }
     x.frc.toNat < x.nextAnchor.toNat ∧ 0x00F3CF3CF3CF ≤ x.nextRate.toNat + 0x40000000 ∧ x.nextRate.toNat ≤ 0x00F3CF3CF3CF + 0x40000000) ∧
    (({ nextAnchor := 9 } : TimeBlock).nextRate.toNat + 0x40000000 < 0x00F3CF3CF3CF) ∧
    (({ } : TimeBlock).nextAnchor.toNat ≤ ({ } : TimeBlock).frc.toNat) ∧ ({ } : TimeBlock).nextRate.toNat + 0x40000000 < 0x00F3CF3CF3CF ∧
    ¬(({ nextRate := 0x00F3CF3CF3CF } : TimeBlock).nextRate.toNat + 0x40000000 < 0x00F3CF3CF3CF) ∧ ({ } : TimeBlock).nextPending = false ∧
    (({ nextPending := true } : TimeBlock).nextPending = true ∧ ({ } : TimeBlock).frc = ({ } : TimeBlock).nextAnchor) := by decide
/-- A module that acquires, one UP link from the master. -/
def lkS : State := { jobS with mgmt := { key := 1 }, servo := { master := 0, state := .acquire }, links := [(45, { state := .up, peerKey := 0 })] }
theorem witness_holdover_ends : jobS.holds.timeSync = false ∧ jobS.jobRuns = true ∧
    (let s : State := { tickS 8 3 with holds := { timeSync := true }, sheaf := { jobS.sheaf with atBoundary := true } }
     s.holds.timeSync = true ∧ s.sheaf.atBoundary = true) := by decide +kernel
theorem witness_servo : ({ state := .locked } : TimeServo).state = .locked ∧ ({ state := .holdover } : TimeServo).state = .holdover ∧
    ({ state := .master } : TimeServo).state = .master ∧ ({ state := .unlocked, master := 0 } : TimeServo).master ≠ 0xFFFF ∧ lkS.servo.state ≠ .master ∧
    (jobS.servo.state ≠ .master ∧ jobS.parent = none) := ⟨rfl, rfl, rfl, by decide, by decide, by decide, by decide +kernel⟩
theorem witness_parent : ∃ n, lkS.parent = some n := by
  have h : lkS.parent = some 45 := by decide +kernel
  exact ⟨45, h⟩
theorem witness_servo_judges : ({ state := .acquire, lockRun := 7 } : TimeServo).state ≠ .master ∧ ({ parentLink := 5 } : TimeServo).parentLink.toNat = (5 : Fin 56).val ∧
    (signed 80 0 - signed 80 0).natAbs ≤ 20 * 65536 ∧ 20 * 65536 < (signed 80 (2 ^ 22) - signed 80 0).natAbs ∧ 7 ≤ ({ lockRun := 7 } : TimeServo).lockRun ∧
    100 * 65536 < (signed 80 (2 ^ 24) - signed 80 0).natAbs ∧ 2 ≤ ({ missRun := 2 } : TimeServo).missRun := by decide
theorem witness_pulses : (let p : Pulse := { enable := true, armed := true, width := 10, rise := some 5 }; p.enable = true ∧ p.active = false ∧ p.rise = some 5 ∧ 10 ≤ p.width.toNat) ∧
    5 ≤ (tickS 8 0).nowNs ∧ jobS.nowNs < 5 ∧
    (let p : Pulse := { enable := true, active := true, fall := 5 }; p.enable = true ∧ p.active = true ∧ p.fall ≤ (tickS 8 0).nowNs ∧ jobS.nowNs < p.fall) ∧
    (({ width := 9 } : Pulse).width.toNat < 10) ∧ (1 : Word32).extractLsb' 2 2 = 0 ∧ (4 : Word32).extractLsb' 2 2 = 1 ∧
    (let x : TimeBlock := { capEnable := true, capEdge := 3 }; x.capEdge.getLsbD 0 = true ∧ x.capEdge.getLsbD 1 = true ∧ x.valid0 = false ∧ x.valid1 = false) := by decide +kernel

/-! Rota, tables, links -/

/-- A rota part that runs, with links of every kind. -/
def netS : State := { jobS with nets := [(0, { active := true, length := 4, fetched := 1, budget := 100 })], regions := [(0x10, { active := true })] }

theorem witness_part : netS.partRuns 0 = true ∧ netS.debugMode = false ∧ (netS.net 0).read < (netS.net 0).length := by decide
/-- A rota word with its check bits (R312). -/
def rotaWord (e : Nat) : Word128 := BitVec.ofNat 128 (e + rotaCheck (BitVec.ofNat 128 e) * 2 ^ 120)
/-- A link of the part's tables. -/
def portS : State := { netS with tables := { netS.tables with ports := [(0, { phys := 5, enabled := true })] }, links := [(5, { state := .up, credits := 32 })] }

/-- The part with one active entry of slot 3, of a KIND, in its window and in the read cycle of its slot (R209, R211). -/
def readS (k fetched : Nat) : State :=
  let x : RotaPart := { sec := {}, pattern := 0, part := 0, entries := [rotaWord (2 ^ 109 + k * 2 ^ 24 + 3)] }
  { portS with store := { portS.store with cur := some { plan1 with body := { rota := [x] } } }
               nets := [(0, { active := true, length := 1, fetched := fetched, budget := 100 })], regions := [(0x10, { active := true, cycle := 6 })] }
theorem witness_reads : (∀ k < 4, Claims.Reads (readS k 1) 0 (rotaWord (2 ^ 109 + k * 2 ^ 24 + 3)) ∧
    rotaRead (rotaWord (2 ^ 109 + k * 2 ^ 24 + 3)) = .clean (rotaWord (2 ^ 109 + k * 2 ^ 24 + 3))) ∧ Claims.Clocked (readS 0 1) (netRegion 0) ∧
    (readS 0 0).partRuns 0 = true ∧ (readS 0 0).readsEntry 0 (rotaWord (2 ^ 109 + 3)) = true ∧ netS.readsEntry 0 0 = false ∧
    (readS 0 1).debugMode = false ∧ Claims.Reads (readS 0 1) 0 (rotaWord (2 ^ 109 + 3) ^^^ 0x100) ∧
    rotaRead (rotaWord (2 ^ 109 + 3) ^^^ 0x100) = .corrected (rotaWord (2 ^ 109 + 3)) ∧ Claims.Reads (readS 0 1) 0 3 := by
  unfold Claims.Reads Claims.Clocked; decide +kernel
theorem witness_rota_words : ∀ k < 4, rotaRead (rotaWord (2 ^ 109 + k * 2 ^ 24)) = .clean (rotaWord (2 ^ 109 + k * 2 ^ 24)) ∧
    bit (rotaWord (2 ^ 109 + k * 2 ^ 24)) 109 = true ∧ field (rotaWord (2 ^ 109 + k * 2 ^ 24)) 24 3 = k := by decide +kernel
theorem witness_rota_other : rotaRead (rotaWord (2 ^ 110)) = .clean (rotaWord (2 ^ 110)) ∧ bit (rotaWord (2 ^ 110)) 109 = false ∧ rotaRead 3 = .bad ∧
    (netS.portAt 0).enabled = false ∧ netS.relay = false ∧ netS.inCommit = false := by decide +kernel
theorem witness_rota_link : (portS.portAt 0).enabled = true ∧ (portS.link 5).declared = false ∧ ({ declared := true } : Link).declared = true ∧ (portS.link 5).replay.length < 1024 ∧
    get none ([(0, some 7)] : Sparse (Option Vec512)) 0 = some 7 ∧ get none portS.forward 0 = none ∧ ({ state := .failed } : Link).state = .failed := by decide +kernel
/-- A packet latched and not yet sent. -/
def held1 : Held := { seq := 0, data := { part := 0, slot := 0, dst := 0, dgrp := 0, op := 0, payload := 0 }, sent := 0, lastSent := 0 }
theorem witness_full_buffer : 1024 ≤ ({ replay := List.replicate 1024 held1 } : Link).replay.length := by
  show 1024 ≤ (List.replicate 1024 held1).length
  rw [List.length_replicate]
/-- A table update, and the coordinator with one module's acknowledgement of it. -/
def upd1 : TableSet := { gen := 1, form := 0, positions := [], committed := false, localOnly := false }
def updS : State := { jobS with tables := { jobS.tables with offered := some upd1, ackedBy := [0], staged := some upd1 } }
theorem witness_generations : genNewer 1 jobS.tables.gen = true ∧ genNewer 2 upd1.gen = true ∧ genNewer 0x8001 jobS.tables.gen = false ∧
    (0x8001 : BitVec 16) ≠ jobS.tables.gen ∧ upd1.localOnly = false ∧ upd1.committed = false ∧ updS.tables.staged = some upd1 ∧
    jobS.seats [] = false ∧ jobS.seatFits [] = true := by decide +kernel
theorem witness_tables : updS.coord.isCoord = true ∧ (1 : Key) ∉ updS.tables.ackedBy ∧ jobS.tables.staged = none ∧ jobS.tables.gen ≠ 1 ∧
    ({ jobS with coord := { coordKey := 1 } } : State).coord.coordKey ≠ jobS.mgmt.key := ⟨rfl, by decide, rfl, by decide, by decide⟩
theorem witness_acknowledged : (∀ k ∈ updS.members, k = 1 ∨ k ∈ updS.tables.ackedBy) ∧ (∃ k ∈ updS.members, k ≠ 5 ∧ k ∉ updS.tables.ackedBy) := by
  have h : updS.members = [0, 1] := by decide +kernel
  rw [h, show updS.tables.ackedBy = [0] from rfl]; simp
/-- A header that acknowledges nothing. -/
def hdr (seq : BitVec 16) : PktHdr := { seq := seq, ack := 0xFFFF, nak := false, sync := 0, credit := 0 }
theorem witness_data : (portS.link 5).state = .up ∧ (hdr 0).nak = false ∧ (hdr 0).seq = (portS.link 5).base ∧ get false (portS.link 5).seen 0 = false ∧
    get false (portS.link 5).seen 1 = false ∧ (hdr 2).seq ≠ (portS.link 5).base ∧ ((hdr 2).seq - (portS.link 5).base).toNat < 1024 ∧
    32768 ≤ ((hdr 0xFFFF).seq - (portS.link 5).base).toNat ∧ get false [(0x7, true)] 7 = true ∧ seqFrom (hdr 2).seq (portS.link 5).base = true := by decide
theorem witness_nakrec :
    let p : Held := { held1 with sent := 1 }
    (([p].filter (fun x => !seqFrom 0xFFFF x.seq)).find? (fun x => x.seq == 0)) = some p ∧ 0 < p.sent ∧ p.sent < 16 ∧ (portS.link 5).replayFrom = none ∧
    21 * ((portS.link 5).latency.toNat + 120) ≤ 40 * ((100 : Nat) - p.lastSent) := by decide +kernel
theorem witness_positions :
    let i : Link := { state := .up, credits := 32 }
    let m : BypMsg := { mtype := 0, flags := 0, dest := 1, src := 0, msgId := 0, series := 0, len := 0, body := 0 }
    let r : Link := { i with replay := [{ held1 with sent := 1 }], replayAt := some 0 }
    let n : Link := { i with replay := [held1] }
    let q : Link := { i with queue := List.replicate 8 { msg := m, since := 0 } }
    i.nextReplay = none ∧ i.nextNew = none ∧ i.queue = [] ∧ r.nextReplay = some { held1 with sent := 1 } ∧ n.nextReplay = none ∧ n.nextNew = some held1 ∧ n.replayAt = none ∧ held1.sent < 16 ∧
    q.nextReplay = none ∧ q.nextNew = none ∧ q.queue ≠ [] ∧ 8 ≤ q.queue.length ∧ (∀ x ∈ q.queue, x.via = none) ∧ 16 ≤ q.credits ∧
    State.reset.sheaf.running = false ∧ State.reset.role.fatal = false ∧ (∀ x ∈ q.queue, State.reset.leavesBy 5 x.msg = true) ∧
    (let g : Link := { i with replay := [{ held1 with sent := 1 }, { held1 with seq := 1, sent := 1 }] }
     (g.replay.find? (fun x => seqFrom x.seq (held1.seq + 1))).any (fun x => x.sent != 0) = true) := by decide +kernel
/-- A link with a packet to send, and the rest of the links without one. -/
theorem witness_gathered : Claims.Gathered portS 5 := by
  intro x hx hn q hq
  have e : ∀ x < 56, x ≠ 5 → (portS.link x).queue = [] := by decide +kernel
  rw [e x hx hn] at hq
  simp at hq
theorem witness_link_timers :
    let m : BypMsg := { mtype := 0, flags := 0, dest := 1, src := 0, msgId := 0, series := 0, len := 0, body := 0 }
    let k : Link := { state := .up, replay := [{ held1 with sent := 1 }], queue := [{ msg := m, since := 0 }] }
    let s : State := { jobS with links := [(5, k)] }
    k.state = .up ∧ k.replay = { held1 with sent := 1 } :: [] ∧ k.queue = { msg := m, since := 0 } :: [] ∧
    (∀ x ∈ s.linksFor 5 m, (s.link x).canCarry m = false) ∧
    16 ≤ ({ held1 with sent := 16 } : Held).sent := by decide +kernel
theorem witness_link_states : ({ state := .align, discoverAfter := true, freshSeq := true } : Link).state = .align ∧ ({ state := .align } : Link).freshSeq = false ∧
    ({ state := .up, maintWanted := true } : Link).maintWanted = true ∧ State.reset.sheaf.running = false ∧
    (let k : Link := { state := .align, replay := [{ held1 with sent := 1 }] }
     (∀ x ∈ k.replay, x.seq ≠ 7) ∧ (k.replay.filter (fun x => !seqFrom (0 - 1) x.seq)).find? (fun x => x.seq == 0) = some { held1 with sent := 1 } ∧
     21 * ((0 : BitVec 14).toNat + 120) ≤ 40 * ((1000 : Nat) - 0)) ∧
    ({ state := .fastRetrain, asked := some .fast } : Link).asked = some .fast ∧ ({ state := .fastRetrain, asked := some .full } : Link).asked = some .full ∧
    jobS.role.fatal = false ∧ ({ fatal := true } : RoleBlock).fatal = true ∧ ({ state := .fastRetrain } : Link).asked = none := by decide +kernel
theorem witness_grace : ({ state := .adapt, grace := some 5 } : Link).grace.isSome = true ∧ ({ state := .adapt, grace := some 5 } : Link).state ≠ .up ∧
    jobS.jobRuns = true ∧ jobS.relay = false ∧ jobS.inCommit = false ∧ (portS.formUses 5 = true ∨ portS.formUses 5 = false) ∧ ({ } : Link).grace = none := by decide
theorem witness_discovery : ({ state := .discover } : Link).peerCode = 0 ∧ ({ state := .discover, ownCode := 5 } : Link).declared = false ∧
    ({ state := .discover, ownCode := 1 } : Link).ownCode = 1 ∧ jobS.bench = false ∧ jobS.tables.remaps = [] ∧ (5 : BitVec 4) ≠ 0 ∧ (5 : BitVec 4) ≠ 1 ∧ (5 : BitVec 4) ≠ 8 ∧
    ({ state := .discover, ownCode := 4 } : Link).ownCode = 4 ∧ (jobS.mapEntry 0).isSome = true ∧ ({ state := .seek } : Link).trainedOnce = false ∧ ({ state := .seek } : Link).state ∉ [LinkState.dark, .discover, .up, .quarantine] := by decide
theorem witness_landing :
    let d : Latched := { part := 0, slot := 0, dst := 0, dgrp := 65, op := 0, payload := 0 }
    let s : State := { blkS with links := [(5, { landing := [d] })] }
    d ∈ (s.link 5).landing ∧ s.physOf (65 / 64) = some 1 ∧ 65 / 64 < s.logicalCount ∧ (s.block 1).isolated = false ∧
    (s.block 1).groups.have (65 % 64) < (s.block 1).groups.expect (65 % 64) ∧ (s.block 1).groups.expect 0 ≤ (s.block 1).groups.have 0 ∧
    s.relay = false ∧ s.inCommit = false ∧ get none s.forward 0 = none := by decide +kernel
theorem witness_arrivals :
    let x : Arrival := { place := 0, loose := true, bytes := List.replicate 512 1 }
    let f : FwdArrival := { link := 5, entry := 9, vec := 1 }
    let s : State := { blkS with blocks := [(0, { blk with arrivals := [x] })], stks := [(0, { stk with arrivals := [x] })], fwdArrivals := [f] }
    x.bytes.length = 512 ∧ (s.block 0).arrivals = [x] ∧ s.weakness (blockBase 0 + x.place) 512 = 0 ∧ (∀ d ∈ (s.block 0).pend, d.stored 7 = false) ∧
    (let d : Due := { cycle := 7, rank := 0, act := .sram 0 [1] }
     d.stored 7 = true ∧ d.stored 6 = false) ∧ (s.stack 0).arrivals = [x] ∧
    s.fwdArrivals = [f] ∧ get none s.forward f.entry = none ∧
    (get none ({ s with forward := [(9, some 1)] } : State).forward f.entry).isSome = true := by
  refine ⟨List.length_replicate, rfl, by decide +kernel, by decide +kernel, by decide +kernel, rfl, rfl, by decide, by decide⟩
theorem witness_staging :
    let s : State := { stkS with tables := { stkS.tables with ports := [(0, { phys := 5, enabled := true })], stage := [(0, 0x81)] } }
    s.logicalLink 5 = some 0 ∧ bit (get 0 s.tables.stage 0) 7 = true ∧ 0 % 512 + field (get 0 s.tables.stage 0) 0 6 < 512 ∧
    (s.stack 0).groups.have 1 < (s.stack 0).groups.expect 1 := by decide

/-! Commands of the mailboxes -/

/-- A mailbox with a posted command of an opcode and a body of whole words. -/
def post (op : Nat) (body : List Byte) : Mailbox :=
  { state := .posted, id := 7, len := 16 + body.length, cmd := writeBytes [] 0 (leBytes 2 op ++ leBytes 2 1 ++ List.replicate 12 0 ++ body) }
/-- A state with such a command in mailbox 0 of port 0, in a role. -/
def host (role : PortRole) (op : Nat) (body : List Byte) (s : State) : State :=
  { s with rst := { s.rst with birtur := true }, ports := [(0, { up := true, role := role, posted := [0], boxes := [(0, post op body)] })] }
/-- Bytes at their offsets in a body. -/
def bodyAt (size : Nat) (l : List (Nat × List Byte)) : List Byte :=
  readBytes (l.foldl (fun m x => writeBytes m x.1 x.2) []) 0 size
/-- A buffer reference (R378): a table at host address 0 with one entry for each buffer. -/
def ref (count : Nat) : List Byte := leBytes 8 0 ++ leBytes 4 count ++ leBytes 4 count
/-- A range table of one page. -/
def page1 : List TableEntry := [{ addr := 0, pages := 1, index := 0 }]
/-- A buffer of one page with what it holds. -/
def pull {α : Type} (x : α) : Pulled α := { table := some page1, content := some x }
/-- Whether a buffer table was taken. -/
def taken {ε α : Type} : Except ε α → Bool
  | .ok _ => true
  | .error _ => false
/-- The module with no job. -/
def calmS : State := { jobS with job := { replica := 0 }, sheaf := {} }
/-- The module with a busy mailbox of a port in a role. -/
def portP (role : PortRole) (s : State) : State := { s with ports := [(0, { up := true, role := role, boxes := [(0, { state := .inProgress, id := 7 })] })] }
/-- A posted command of mailbox 0 of port 0. -/
def posts (s : State) (op size : Nat) (r : List (Nat × Nat)) : Prop := Claims.Posted s 0 0 op size r

theorem witness_posted : posts (host .none 0x01 [] jobS) 0x01 0 [] ∧ posts (host .none 0x02 [] jobS) 0x02 0 [] ∧
    posts (host .observer 0x90 (bodyAt 8 [(0, leBytes 4 0x100000), (4, leBytes 4 1)]) jobS) 0x90 8 [] ∧
    posts (host .observer 0x91 (bodyAt 8 [(4, [62, 4])]) jobS) 0x91 6 [] := by unfold posts Claims.Posted Claims.OnTurn; decide +kernel
theorem witness_checks_refuse :
    let s (op v : Nat) (n : Nat) : State := { jobS with rst := { jobS.rst with birtur := true }, ports := [(0, { up := true, posted := [0], boxes := [(0,
      { state := .posted, len := n, cmd := writeBytes [] 0 (leBytes 2 op ++ leBytes 2 v) })] })] }
    Claims.OnTurn (s 0x01 1 16) 0 0 ∧ ((s 0x01 1 16).mbx 0 0).state = .posted ∧ (∀ d ∈ ((s 0x01 1 16).port 0).dups, d.id ≠ ((s 0x01 1 16).mbx 0 0).id) ∧
    ((s 0x02 1 16).mbx 0 0).opcode ≠ 0x01 ∧ ((s 0x02 1 16).mbx 0 0).opcode ∈ opcodes ∧
    leNat (readBytes ((s 0x01 2 16).mbx 0 0).cmd 2 2) ≠ 1 ∧ ((s 0x01 1 20).mbx 0 0).len ≠ 16 + 4 * ceilDiv 0 4 ∧
    (s 0x33 1 20).permission 0 .ownerOnly = some 4 ∧ (s 0x01 1 16).runningTwin 0 0 = none := by unfold Claims.OnTurn; decide +kernel
theorem witness_checks_in_order :
    let r : State := { jobS with rst := { jobS.rst with role := true } }
    (host .owner 0x51 (bodyAt 16 []) r).permission 0 .ownerOnly = none ∧ (host .owner 0x51 (bodyAt 16 []) r).relay = true ∧
    (host .owner 0x33 (bodyAt 4 []) calmS).needJob ≠ none ∧ (host .owner 0x33 (bodyAt 4 []) jobS).needJob = none ∧
    ((host .owner 0x33 (bodyAt 4 [(3, [1])]) jobS).mbx 0 0).reservedBody ⟨0x33, 1, .ownerOnly, true⟩ [] = some 3 ∧
    ({ post 0x33 (bodyAt 4 []) with cmd := writeBytes (post 0x33 (bodyAt 4 [])).cmd 4 [1] } : Mailbox).reservedHead ≠ none := by decide +kernel
theorem witness_posts :
    let s (p : Port) : State := { jobS with ports := [(0, p)] }
    let k := post 0x01 []
    let d : DupRec := { id := 7, hash := 0, status := 0, resp := [] }
    ((s { boxes := [(0, k)] }).mbx 0 0).busy = true ∧ ((s {}).mbx 0 0).busy = false ∧ (s {}).rst.birtur = true ∧ ((s {}).port 0).posted = [] ∧ State.reset.rst.birtur = false ∧
    ¬(16 ≤ field (15 : Word32) 0 13) ∧ (16 ≤ field (4096 : Word32) 0 13 ∧ field (4096 : Word32) 0 13 ≤ 4096 ∧ field (4096 : Word32) 0 13 % 4 = 0) ∧
    [d].find? (fun x => x.id == 7) = some d ∧ ((s { boxes := [(0, k)] }).mbx 0 0).id = 7 ∧ (0x05 : Nat) ∉ opcodes ∧
    (let p : Port := { boxes := [(0, { postLo := 7 }), (1, { state := .inProgress, id := 7 })] }
     (1 : Fin 8) ≠ 0 ∧ ((s p).mbx 0 1).state = .inProgress ∧ ((s p).mbx 0 1).follows = none ∧ ((s p).mbx 0 1).id = ((s p).mbx 0 0).postLo ∧
     ((s p).mbx 0 0).busy = false) := by decide +kernel
theorem witness_completion : ({ cplEn := true } : Mailbox).cplEn = true ∧ ({ up := true } : Port).up = true ∧
    ({ state := .inProgress, follows := some 0 } : Mailbox).busy = true ∧ ({ state := .inProgress, follows := some 0 } : Mailbox).follows = some 0 := by decide +kernel
theorem witness_setting_bodies :
    posts (host .owner 0x70 (bodyAt 32 [(4, leBytes 4 60000), (16, [1])]) calmS) 0x70 32 [(1, 3), (8, 8)] ∧
    posts (host .owner 0x80 (bodyAt 12 [(0, [3]), (4, leBytes 4 5000), (8, leBytes 4 7)]) jobS) 0x80 12 [(1, 3)] ∧
    posts (host .owner 0x81 (bodyAt 28 [(0, [1]), (4, leBytes 4 1), (16, leBytes 8 1000), (24, leBytes 4 100)]) jobS) 0x81 28 [(1, 3)] ∧
    (jobS.roleInUse 3 2) = false := by unfold posts Claims.Posted Claims.OnTurn; decide +kernel
theorem witness_role_and_cap : posts (host .owner 0xA0 (bodyAt 4 [(0, [3, 2])]) jobS) 0xA0 2 [] ∧ (jobS.roleInUse 3 2) = false ∧
    posts (host .owner 0xB0 (bodyAt 4 [(0, leBytes 2 3000)]) jobS) 0xB0 2 [] := by unfold posts Claims.Posted Claims.OnTurn; decide +kernel
theorem witness_settings_refused : max (jobS.slotEnvelope jobS.store.cur) (jobS.slotEnvelope jobS.store.next) = 2400 ∧
    ({ start := 0, period := 1000, width := 100 } : Pulse).limits 0 = true ∧ ({ start := 0, period := 1000, width := 9 } : Pulse).limits 0 = false := by decide +kernel
theorem witness_buffers :
    let e : Option (List TableEntry) := some [{ addr := 0, pages := 1, index := 0 }, { addr := 4096, pages := 1, index := 1 }]
    let s := host .feeder 0x40 (bodyAt 32 [(0, [2]), (16, ref 2)]) calmS
    posts s 0x40 32 [(1, 15)] ∧ taken ((s.dropWindows s.feed.ring).takeBuffers 0 (s.mbx 0 0) 16 2 (64 + s.body.feedLength) e) = true ∧ s.feed.ring = [] := by
  unfold posts Claims.Posted Claims.OnTurn; decide +kernel
/-- The job with one result stream registered at port 0, one slot, and a result of the first step waiting. -/
def resS : State :=
  { calmS with store := { calmS.store with cur := some { plan1 with body := { results := [(5, { length := 64, depth := 1, overwritable := false, source := 0 })] } } }
               results := [(5, { slots := [{ port := 0, window := 0, pieces := [(0, 4096)] }], gens := [1], acked := [0] })] }
theorem witness_result_commands :
    let s := host .observer 0x41 (bodyAt 32 [(0, [5, 1, 0]), (16, ref 1)]) resS
    let a := host .observer 0x42 (bodyAt 16 [(0, [5]), (8, [1])]) resS
    posts s 0x41 32 [(3, 13)] ∧ (s.resultSpec 5).isSome = true ∧
    taken ((s.dropWindows (get {} s.results 5).slots).takeBuffers 0 (s.mbx 0 0) 16 1 128 (some page1)) = true ∧
    posts a 0x42 16 [(1, 7)] ∧ (get {} a.results 5).slots ≠ [] ∧ (get {} a.results 5).gens.getD 0 0 = 1 := by
  unfold posts Claims.Posted Claims.OnTurn; decide +kernel
/-- A plan image with no section (R307). -/
def image1 : List Byte :=
  bodyAt 512 [(0, leBytes 4 0x504C5A47), (4, leBytes 2 0x100), (6, leBytes 2 512), (8, [1, 1]), (12, leBytes 4 20000), (16, leBytes 2 2),
    (18, leBytes 2 1), (20, leBytes 4 500), (24, leBytes 2 50), (26, leBytes 2 1), (28, leBytes 2 1800), (76, leBytes 4 512), (80, leBytes 8 512), (88, leBytes 4 0xf88be5f9)]
/-- A calm module with a DIMM and no plan, and LOAD_PLAN of slot 0, mode 0 posted by a port without an owner. -/
def loadS : State :=
  host .none 0x10 (bodyAt 96 [(16, ref 1)]) { calmS with store := { calmS.store with cur := none }, ddr := [(0, { present := true, trained := true, capacity := 64, speed := 6400 })] }
/-- The port of `loadS` as owner, which LOAD_PLAN makes it. -/
def loadS1 : State := (Claims.served loadS 0).onPort 0 (fun q => { q with role := .owner })
theorem witness_load : posts loadS 0x10 96 [(2, 6)] ∧ loadS.owner = none ∧ loadS.loadState 0 0 = none ∧ loadS.loadParam (loadS.mbx 0 0) = none ∧
    (loadS.mbx 0 0).field 0 1 = 0 ∧ (loadS.mbx 0 0).field 1 1 = 0 ∧ loadS.rst.scrubHbm = false ∧ taken (loadS1.takeImage 0 (loadS.mbx 0 0) 16 1 (pull image1)) = true := by
  unfold posts Claims.Posted Claims.OnTurn; decide +kernel
/-- One CRC-32C value after another, over parts of 16 B. -/
def crcChain (bs : List Byte) : Word32 → List Word32 → Bool
  | _, [] => true
  | v, w :: l => ((bs.take 16).foldl (fun c b => crcBits 0x82F63B78 8 (c ^^^ b.zeroExtend 32)) v == w) && crcChain (bs.drop 16) w l
theorem crc_of_chain : ∀ (l : List Word32) (bs : List Byte) (v : Word32), bs.length = 16 * l.length → crcChain bs v l = true →
    bs.foldl (fun c b => crcBits 0x82F63B78 8 (c ^^^ b.zeroExtend 32)) v = l.getLastD v := by
  intro l
  induction l with
  | nil => intro bs v h _; simp at h; simp [h]
  | cons w l ih =>
    intro bs v h hc
    simp only [crcChain, Bool.and_eq_true, beq_iff_eq] at hc
    rw [← List.take_append_drop 16 bs, List.foldl_append, hc.1, ih (bs.drop 16) w (by simp at h ⊢; omega) hc.2]
    cases l <;> rfl
/-- The values of the CRC of `image1`'s header after every 16 B. -/
def values1 : List Word32 :=
  [0x20ac35e9, 0x3e71e70e, 0x22312d8f, 0x2fcb72b1, 0x540f7728, 0xad95d7f4, 0x58c10162, 0xfd4f5fb1, 0xa54e1398, 0x14b9f728, 0xd5ce5789, 0x6f49cb36, 0x93255aec, 0x6b558f41, 0x47785def, 0x2a21520a, 0x40dce84e, 0xc780eb4d, 0x1719c155, 0x9c28cd64, 0x95170162, 0xe14b6852, 0xfb4f005a, 0xaa2c859a, 0xbf517926, 0x23af3478, 0xb6c7608d, 0x9363ddc0, 0xa10f6866, 0x13c31030, 0x2754813e, 0x7741a06]
theorem head1_crc : (crc32c (zeroBytes (zeroBytes (image1.take 512) 88 4) 256 96)).toNat = fieldLE image1 88 4 := by
  have h := crc_of_chain values1 (zeroBytes (zeroBytes (image1.take 512) 88 4) 256 96) 0xFFFFFFFF (by decide +kernel) (by decide +kernel)
  unfold crc32c crcWith
  rw [h]
  decide +kernel
theorem image_sound (image : List Byte)
    (hc : (crc32c (zeroBytes (zeroBytes (image.take 512) 88 4) 256 96)).toNat = fieldLE image 88 4) (hd : directory image = [])
    (hh : (fieldLE image 0 4 == 0x504C5A47 && fieldLE image 6 2 == 512 && fieldLE image 80 8 == image.length && decide (512 ≤ fieldLE image 80 8) &&
      decide (fieldLE image 80 8 ≤ 8 * 2 ^ 30) && (slice image 11 1).all (· == 0) && (slice image 92 164).all (· == 0) &&
      (slice image 352 160).all (· == 0) && fieldLE image 9 1 / 8 == 0 && fieldLE image 10 1 / 32 == 0) = true)
    (ht : fieldLE image 76 4 + 48 * fieldLE image 72 4 ≤ fieldLE image 80 8) : checkImage image = none := by
  simp only [checkImage, hd, hc, hh, ht, beq_self_eq_true, decide_true, Bool.and_self, Bool.not_true, Bool.false_eq_true, if_false, failAt]
  rfl
theorem header_directory : directory image1 = [] := by decide +kernel
theorem header_fields : (fieldLE image1 0 4 == 0x504C5A47 && fieldLE image1 6 2 == 512 && fieldLE image1 80 8 == image1.length &&
      decide (512 ≤ fieldLE image1 80 8) && decide (fieldLE image1 80 8 ≤ 8 * 2 ^ 30) && (slice image1 11 1).all (· == 0) &&
      (slice image1 92 164).all (· == 0) && (slice image1 352 160).all (· == 0) && fieldLE image1 9 1 / 8 == 0 && fieldLE image1 10 1 / 32 == 0) = true := by
  decide +kernel
theorem header_room : fieldLE image1 76 4 + 48 * fieldLE image1 72 4 ≤ fieldLE image1 80 8 := by decide +kernel
theorem image1_sound : checkImage image1 = none := image_sound image1 head1_crc header_directory header_fields header_room
theorem format1 : checkFormat image1 (planOf image1 {}) = none := by
  unfold checkFormat
  rw [image1_sound]
  decide +kernel
theorem load_of_checks (s : State) (keys : List (List Byte)) (image : List Byte) (p : Plan) (h : checkFormat image p = none)
    (l : failures [checkAbi image, checkSignature keys p, s.checkProfile p, s.checkGrade p, checkParam p, checkBudget p,
      s.checkPower p, checkStream p, checkRota p, s.checkMargin p, checkRefresh p, s.checkDimm, checkCapacity p, checkRelay p, checkForms p] = []) :
    s.loadChecks keys image p = [] := by
  unfold State.loadChecks
  rw [h]
  exact l
theorem other_checks : failures [checkAbi image1, checkSignature loadS1.acceptedKeys (planOf image1 {}), loadS1.checkProfile (planOf image1 {}),
    loadS1.checkGrade (planOf image1 {}), checkParam (planOf image1 {}), checkBudget (planOf image1 {}), loadS1.checkPower (planOf image1 {}),
    checkStream (planOf image1 {}), checkRota (planOf image1 {}), loadS1.checkMargin (planOf image1 {}), checkRefresh (planOf image1 {}), loadS1.checkDimm,
    checkCapacity (planOf image1 {}), checkRelay (planOf image1 {}), checkForms (planOf image1 {})] = [] := by decide +kernel
theorem witness_load_accepts : loadS1.loadChecks loadS1.acceptedKeys image1 (planOf image1 {}) = [] :=
  load_of_checks loadS1 loadS1.acceptedKeys image1 (planOf image1 {}) format1 other_checks
theorem witness_load_refuses : loadS1.loadChecks loadS1.acceptedKeys (image1.take 511) (planOf (image1.take 511) {}) ≠ [] := by decide +kernel

/-- A calm owner's module with the plan of `image1`, whose VERIFY_PLAN firmware serves, with or without a map. -/
def verifyS (map : Option MachineMap) : State :=
  Claims.served (host .owner 0x11 [] { calmS with store := { cur := some (planOf image1 {}), map := map }, ddr := loadS.ddr }) 0
/-- The map that the plan of `image1` is for. -/
def map0 : MachineMap := { map1 with hash := 0, cells := 192 }
theorem verify_of_checks (s : State) (p : Plan) (h : checkFormat p.image p = none) (m : s.store.map.isSome = true)
    (l : failures [checkAbi p.image, checkSignature s.acceptedKeys p, s.checkProfile p, s.checkGrade p, s.checkMapGrade p, s.checkMap p,
      checkParam p, checkBudget p, s.checkBudgetMatch p, s.checkPower p, checkStream p, checkRota p, s.checkLinks p, s.checkMargin p,
      s.checkLatency p, checkRefresh p, s.checkMoves p, s.checkDimm.or (s.checkDdr p), checkCapacity p, checkRelay p, checkForms p] = []) :
    s.verifyChecks p = [] := by
  unfold State.verifyChecks
  simp only [h, m, if_true]
  exact l
theorem witness_verify_passes : (verifyS (some map0)).verifyChecks (planOf image1 {}) = [] :=
  verify_of_checks (verifyS (some map0)) (planOf image1 {}) format1 rfl (by decide +kernel)
theorem witness_verify_needs_map : ((verifyS none).verifyChecks (planOf image1 {})).head?.map (·.status) = some 0x0101 := by
  unfold State.verifyChecks
  rw [show checkFormat (planOf image1 {}).image (planOf image1 {}) = none from format1]
  decide +kernel
theorem witness_plan_commands : posts (host .owner 0x11 [] calmS) 0x11 0 [] ∧ ((Claims.served (host .owner 0x11 [] calmS) 0).verifyChecks plan1).head?.map (·.status) = some 0x0201 ∧
    posts (host .owner 0x12 [] calmS) 0x12 0 [] ∧ calmS.store.cur.isSome = true ∧ calmS.job.phase = .none := by unfold posts Claims.Posted Claims.OnTurn; decide +kernel
/-- A map image of one module (R23): no racks, one coordinate, no link, logical slot 0 of its board held by slot 0. -/
def mapImage (key : Nat) : List Byte :=
  bodyAt 72 [(0, leBytes 4 0x50414D47), (4, leBytes 2 1), (6, [1, 0]), (8, leBytes 2 256), (10, leBytes 2 key), (12, leBytes 2 key), (16, leBytes 4 1),
    (24, leBytes 4 64), (28, leBytes 4 68), (32, leBytes 4 68), (36, leBytes 4 72), (40, leBytes 4 1096), (64, leBytes 2 key)] ++
  0 :: List.replicate 1023 0x1F
theorem witness_map : let s := host .owner 0x20 (bodyAt 48 [(0, ref 1)]) calmS
    posts s 0x20 48 [] ∧ taken ((Claims.served s 0).takeImage 0 (s.mbx 0 0) 0 1 (pull (mapImage 0))) = true ∧ (∀ b ∈ readBytes (s.mbx 0 0).cmd 32 32, b = 0) := by
  unfold posts Claims.Posted Claims.OnTurn; decide +kernel
theorem witness_job_control :
    posts (host .owner 0x30 (bodyAt 16 [(0, [1]), (8, [5])]) calmS) 0x30 16 [(1, 3)] ∧ startWaitOf 0 = some 60000 ∧ startWaitOf 600000 = some 600000 ∧
    calmS.store.map.isSome = true ∧ calmS.assay.keySet = false ∧ calmS.synced = false ∧ ({ keySet := true } : Assay).keySet = true ∧
    calmS.rst.scrubDdr = false := by unfold posts Claims.Posted Claims.OnTurn; decide +kernel
theorem witness_running_job : posts (host .owner 0x31 (bodyAt 8 [(0, [1])]) jobS) 0x31 8 [] ∧ jobS.cutoffPassed 1 = false ∧
    ({ jobS with sheaf := { jobS.sheaf with step := 9 } } : State).cutoffPassed 1 = true ∧
    posts (host .owner 0x32 [] jobS) 0x32 0 [] ∧ posts (host .owner 0x33 (bodyAt 4 [(0, [1])]) jobS) 0x33 1 [] ∧
    jobS.held = false ∧ jobS.holds.split = false ∧ ({ jobS with sheaf := { jobS.sheaf with begun := false } } : State).sheaf.begun = false := by
  unfold posts Claims.Posted Claims.OnTurn; decide +kernel
theorem witness_starts :
    let r : StartReport := { planHash := 1, replay := false, firstStep := 0, seed := 7, keyCheck := 0 }
    let s : State := { jobS with job := { jobS.job with phase := .starting }, coord := { jobS.coord with starts := [(0, r)] } }
    let o : State := { s with coord := { coordKey := 1 }, job := { s.job with reported := true, joining := true } }
    jobS.coord.starts = [] ∧ s.coord.starts = [(0, r)] ∧ (0 : Key) ≠ 1 ∧ r ≠ { r with seed := 8 } ∧ s.job.phase = .starting ∧ s.sheaf.nextSeg = none ∧
    o.coord.isCoord = false ∧ o.ownReport ≠ { o.ownReport with seed := 9 } ∧ o.job.joining = true ∧ (segS.sheaf.nextSeg.isSome = true) ∧
    jobS.jobRuns = true ∧ s.jobRuns = false := by decide +kernel
theorem witness_members : (0 : Key) ∈ jobS.members ∧ (0 : Key) ≠ 1 := by
  have h : jobS.members = [0, 1] := by decide +kernel
  exact ⟨by simp [h], by decide⟩
theorem witness_save : let s := host .owner 0x50 (bodyAt 32 [(0, [1]), (16, ref 1)]) jobS
    posts s 0x50 32 [(1, 15)] ∧ taken ((Claims.served s 0).takeBuffers 0 (s.mbx 0 0) 16 1 0 (some page1)) = true ∧ s.saveLength = 256 ∧ s.save.phase = .idle ∧
    (s.mbx 0 0).busy = true := by unfold posts Claims.Posted Claims.OnTurn; decide +kernel
/-- A save that captures one range of HBM, for which checkpoint staging has room or has not. -/
def saveS (room : Nat) : State :=
  let x : Plan := { plan1 with body := { ranges :=
    [{ id := 1, cls := 1, space := 0, block := 0, base := 0, length := 4096 }, { id := 2, cls := 4, space := 3, block := 0, base := 0x100000000000, length := room }] } }
  { portP .owner jobS with store := { jobS.store with cur := some x }
                           save := { phase := .capturing, image := some { port := 0, window := 0, pieces := [(0, 65536)] } } }
theorem witness_capture : (saveS 4096).save.phase = .capturing ∧
    (∀ x ∈ (saveS 4096).savedRanges.flatMap (saveS 4096).rangeParts, (saveS 4096).lostUnits x.1 x.2 = []) ∧
    (∃ r o a, (saveS 4096).saveLayout = [(r, o, some a)]) ∧ (∀ x ∈ (saveS 4096).saveLayout, x.2.2.isSome = true) ∧
    (saveS 4096).glean.on = false ∧ jobS.saveLayout = [] ∧
    (∃ x ∈ (saveS 0).saveLayout, x.2.2.isSome = false) ∧ ((saveS 0).port 0).up = true ∧
    (∃ x ∈ (saveS 4096).savedRanges.flatMap (saveS 4096).rangeParts, ({ saveS 4096 with weak := [(32, 2)] } : State).lostUnits x.1 x.2 ≠ []) ∧
    ({} : Save).phase ≠ .capturing := by
  refine ⟨rfl, by decide +kernel, ⟨_, _, _, rfl⟩, by decide +kernel, rfl, by decide +kernel, by decide +kernel, rfl, by decide +kernel, by decide⟩
theorem witness_upload :
    let p : SavePart := { offset := 256, place := 0x100000000000, length := 4096 }
    let s : State := { saveS 4096 with save := { (saveS 4096).save with phase := .uploading, parts := [p] } }
    s.save.phase = .uploading ∧ s.save.image.isSome = true ∧ (s.mbx s.save.port s.save.mbx).busy = true ∧ s.uploadRuns = true ∧ (s.port 0).up = true ∧
    (∀ x ∈ s.save.parts, s.lostUnits x.place x.length = []) ∧
    (∃ x ∈ s.save.parts, ({ s with weak := [(0x100000000000, 2)] } : State).lostUnits x.place x.length ≠ []) ∧ (1 : BitVec 16) ≠ 0 ∧
    ({ s with ports := [] } : State).uploadRuns = true ∧ (({ s with ports := [] } : State).port 0).up = false ∧
    ({ s with ddr := [(0, { suspended := true })] } : State).uploadRuns = false := by decide +kernel
/-- A save image of no range for `plan1` at step 3 (R302). -/
def saved1 : List Byte :=
  bodyAt 256 [(0, leBytes 4 0x53475A53), (4, leBytes 2 1), (8, hashBytes 1), (40, leBytes 8 7), (48, leBytes 8 3), (58, leBytes 2 16), (72, sha256 [])]
theorem witness_restore : let s := host .owner 0x51 (bodyAt 16 [(0, ref 1)]) calmS
    posts s 0x51 16 [] ∧ taken ((Claims.served s 0).takeImage 0 (s.mbx 0 0) 0 1 (pull saved1)) = true ∧
    (fieldLE saved1 0 4 = 0x53475A53 ∧ fieldLE saved1 4 2 = 1 ∧ slice saved1 72 32 = sha256 (slice saved1 256 (64 * fieldLE saved1 60 4))) ∧
    (slice saved1 8 32 = hashBytes plan1.hash ∧ fieldLE saved1 56 2 = s.job.replica.toNat ∧ fieldLE saved1 58 2 = s.replicaCount) ∧
    (∀ x ∈ saveParts saved1, sha256 (slice saved1 x.2.2.2 x.2.1) = x.2.2.1) ∧ fieldLE (saved1.drop 1) 0 4 ≠ 0x53475A53 := by
  unfold posts Claims.Posted Claims.OnTurn; decide +kernel
theorem witness_journal :
    let d (s : State) : State := { s with ddr := [(0, { present := true, trained := true, capacity := 64, speed := 6400 })] }
    let s := host .owner 0x60 (bodyAt 40 [(8, leBytes 8 0x100040000000), (16, leBytes 8 0x1000000), (24, ref 1)]) (d calmS)
    posts s 0x60 40 [(2, 6)] ∧ s.journalRangeOk 0x100040000000 0x1000000 = true ∧ s.journalRangeOk 0x100040000000 0x1000 = false ∧
    taken ((Claims.served s 0).takeBuffers 0 (s.mbx 0 0) 24 1 0 (some page1)) = true ∧
    posts (host .owner 0x60 (bodyAt 40 []) calmS) 0x60 40 [(2, 6)] := by unfold posts Claims.Posted Claims.OnTurn; decide +kernel
/-- A journal in use: one record that waits for its spill. -/
def glnS : State :=
  { jobS with ports := [(0, { up := true })]
              glean := { on := true, base := 0, length := 0x1000000, spill := some { port := 0, window := 0, pieces := [(0, 4096)] }, spillOffset := 64
                         records := [{ entry := { rtype := 1, flags := 0, rseq := 0, step := 0, sheafInStep := 0, body := [] }, spilled := false, at_ := 0 }] } }
theorem witness_spill : glnS.glean.on = true ∧ glnS.lostRecords = [] ∧ glnS.engineFree glnS.glean.base = true ∧ glnS.journalCorrected = 0 ∧
    ({ glnS with ddr := [(chanOf glnS.glean.base, { suspended := true })] } : State).engineFree glnS.glean.base = false ∧ glnS.glean.dropPolicy = false ∧ (glnS.port 0).up = true ∧
    (∃ i, glnS.glean.records = [i] ∧ i.spilled = false ∧ spillPlace 4096 glnS.glean.spillOffset (max 64 64) (32 + i.entry.body.length) = some (0, 96)) ∧
    jobS.glean.on = false := by
  refine ⟨rfl, by decide +kernel, by decide +kernel, by decide +kernel, by decide +kernel, rfl, rfl, ⟨_, rfl, rfl, by decide +kernel⟩, rfl⟩
theorem witness_replay :
    let r : JournalRec := { rtype := 1, flags := 0, rseq := 0, step := 0, sheafInStep := 0
                            body := bodyAt 112 [(0, hashBytes 1), (64, [7]), (82, leBytes 2 16), (86, [1]), (104, keyCheck 5)] }
    let s := host .owner 0x61 (bodyAt 40 [(24, leBytes 8 0), (32, leBytes 4 1), (36, leBytes 4 1)]) { calmS with assay := { keySet := true, key := 5 } }
    posts s 0x61 40 [(1, 3), (14, 2), (22, 2)] ∧ taken ((Claims.served s 0).takeImage 0 (s.mbx 0 0) 24 ((s.mbx 0 0).field 36 4) (pull [r])) = true ∧
    taken ((Claims.served s 0).replayCheck [r] 0 0) = true ∧ taken ((Claims.served s 0).replayCheck [] 0 0) = false ∧ s.startState = none ∧ s.rst.scrubDdr = false := by
  unfold posts Claims.Posted Claims.OnTurn; decide +kernel
theorem fieldLE_byte (bs : List Byte) (o : Nat) (h : o < bs.length) : fieldLE bs o 1 = (bs[o]).toNat := by
  unfold fieldLE slice
  rw [List.drop_eq_getElem_cons h]
  simp only [List.take_succ_cons, List.take_zero, List.length_cons, List.length_nil, Nat.sub_self, List.replicate_zero, List.append_nil, leNat]
  omega
theorem map_positions (h : List Byte) (k : Nat) (hk : h.length = k) (n : Nat) (i : Nat) (hi : i < n + 1) :
    fieldLE (h ++ 0 :: List.replicate n 0x1F) (k + i) 1 = if i = 0 then 0 else 0x1F := by
  rw [fieldLE_byte _ _ (by simp; omega)]
  subst hk
  rw [List.getElem_append_right (by omega)]
  cases i with
  | zero => simp
  | succ j => simp
theorem mapImage_positions (key : Nat) (po : fieldLE (mapImage key) 36 4 = 72) (hl : (mapImage key).length = 1096) :
    (mapOf (mapImage key)).positions = 0 :: List.replicate 1023 0x1F := by
  have e : ∀ i ∈ List.range 1024, fieldLE (mapImage key) (72 + i) 1 = if i = 0 then 0 else 0x1F := by
    intro i hi
    rw [List.mem_range] at hi
    unfold mapImage
    refine map_positions _ 72 ?_ 1023 i (by omega)
    simp only [mapImage, List.length_append, List.length_cons, List.length_replicate] at hl
    omega
  have p : (mapOf (mapImage key)).positions = (List.range 1024).map (fun i => if i = 0 then 0 else 0x1F) := by
    simp only [mapOf, po]
    exact List.map_congr_left e
  rw [p]; decide +kernel
theorem map_sound (bs : List Byte) (m : MachineMap) (ps : List Nat) (hp : m.positions = ps)
    (h : mapGood bs { m with positions := ps } = true) : mapGood bs m = true := by subst hp; exact h
theorem mapImage_good (key : Nat) (po : fieldLE (mapImage key) 36 4 = 72) (hl : (mapImage key).length = 1096)
    (h : mapGood (mapImage key) { mapOf (mapImage key) with positions := 0 :: List.replicate 1023 0x1F } = true) :
    mapGood (mapImage key) (mapOf (mapImage key)) = true := map_sound _ _ _ (mapImage_positions key po hl) h
theorem witness_map_good : mapGood (mapImage 0) (mapOf (mapImage 0)) = true ∧ mapGood (mapImage 1) (mapOf (mapImage 1)) = true :=
  ⟨mapImage_good 0 (by decide +kernel) (by decide +kernel) (by decide +kernel), mapImage_good 1 (by decide +kernel) (by decide +kernel) (by decide +kernel)⟩
theorem witness_map_lists : (calmS.mgmt.key, calmS.relay) ∈ (mapOf (mapImage 0)).coords ∧ (calmS.mgmt.key, calmS.relay) ∉ (mapOf (mapImage 1)).coords ∧
    mapGood ((mapImage 0).take 40) (mapOf ((mapImage 0).take 40)) = false := by decide +kernel

/-! Host ports and registers -/

theorem witness_aborts : (0xA5 : Word32) = 0xA5 ∧ (0xA4 : Word32) ≠ 0xA5 ∧ ((portP .owner jobS).port 0).abortPending = false ∧
    ((portP .owner jobS).port 0).role = .owner ∧ ((portP .feeder jobS).port 0).role ≠ .owner ∧ (portP .owner jobS).job.phase ≠ .none ∧
    ({ abortPending := true } : Port).abortPending = true ∧ jobS.rst.episode = [] ∧ ((portP .owner jobS).mbx 0 0).busy = true := by decide +kernel
theorem witness_port_losses : ({ up := true } : Port).up = true ∧ ({} : Port).up = false ∧
    (let p : Port := { events := 0x1000, mask := 0x1000, msix := [(51, 0)] }; bit p.events 12 = true ∧ bit p.mask 12 = true ∧ bit (get 1 p.msix 51) 0 = false) ∧
    jobS.feed.port = 0 ∧ jobS.relay = false := by decide +kernel
/-- A feed of two slots that waits for step 5, with or without a staging range. -/
def feedS (staged : Bool) : State :=
  let b (o : Nat) : HostBuffer := { port := 0, window := 0, pieces := [(o, 4096)] }
  let r : RangeEntry := { id := 1, cls := 0, space := 2, block := 0, base := 0x100010000000, length := 64 }
  let x : Plan := { plan1 with body := { feedLength := 64, ranges := if staged then [r] else [] } }
  { jobS with feed := { ring := [b 0, b 4096], pulling := some 5 }, store := { jobS.store with cur := some x } }
theorem witness_feed : (feedS true).feed.pulling = some 5 ∧ (feedS true).feed.ring ≠ [] ∧ jobS.feed.pulling = none ∧
    (5 : Word64) - BitVec.ofNat 64 (feedS true).feed.ring.length = 3 ∧ (4 : Word64) ≠ 5 ∧ 64 ≤ (feedS true).body.feedLength ∧ (feedS true).body.feedLength < 65 ∧
    (feedS true).glean.replay.active = false ∧ (feedS true).feed.find 5 = none ∧
    ({ (feedS true).feed with validated := some { step := 5, length := 64, digest := 1 } } : Feed).find 5 = some { step := 5, length := 64, digest := 1 } ∧ (feedS true).feedPlace 5 = some 0x100010000000 ∧
    (feedS false).feedPlace 5 = none ∧ (feedS true).pullRuns 5 = true ∧ ((feedS true).port 0).up = false ∧
    (({ feedS true with ports := [(0, { up := true })] } : State).port (feedS true).feed.port).up = true ∧
    ({ feedS true with ddr := [(0, { suspended := true })] } : State).pullRuns 5 = false := by decide +kernel
theorem witness_engine :
    let s : State := { jobS with store := { jobS.store with cur := some { plan1 with body := {
      results := [(5, { length := 64, depth := 1, overwritable := false, source := 0x100000000000 })]
      ranges := [{ id := 1, cls := 0, space := 3, block := 0, base := 0x100000000000, length := 4096 }] } } } }
    let t : State := { s with ddr := [(0, { run := some { move := move1, began := 0 } })] }
    s.resultRuns 5 = true ∧ t.resultRuns 5 = false ∧ s.uploadRuns = true ∧ t.uploadRuns = false := by decide +kernel
theorem witness_results :
    let b : HostBuffer := { port := 0, window := 0, pieces := [(0, 4096)] }
    let w : Waiting := { q := 0, step := 0, data := [1] }
    let r : ResultStream := { slots := [b], gens := [0], acked := [0], waiting := [w] }
    r.waiting = w :: [] ∧ r.slots ≠ [] ∧ r.free 0 = true ∧ ({ r with gens := [1] } : ResultStream).free 0 = false ∧ r.overwrite = false ∧
    ({} : ResultStream).waiting = [] := by refine ⟨rfl, by simp, by decide +kernel, by decide +kernel, rfl, rfl⟩
theorem witness_bar2 : ((portP .owner calmS).port 0).role = .owner ∧ ((portP .observer calmS).port 0).role ≠ .owner ∧
    (portP .owner calmS).bar2Owner 0 = true ∧ (portP .observer calmS).bar2Owner 0 = false ∧ (portP .owner calmS).recoveryP0 0 = false ∧
    ({ calmS with rst := { calmS.rst with recoveryWait := true, bootSrc := 2 } } : State).recoveryP0 0 = true ∧
    (∀ x, x < 4 → (portP .owner calmS).bar2Cause (0 + x) = none) ∧ (portP .owner calmS).weakness 0 4 = 0 ∧
    (∃ x, x < 4 ∧ (portP .owner jobS).bar2Cause (0 + x) ≠ none) ∧ (portP .owner jobS).weakness 0 4 = 0 ∧
    (∃ x, x < 4 ∧ ({ portP .owner calmS with weak := [(0, 2)] } : State).lostUnits (0 + x) 1 ≠ []) ∧ (∃ c, (portP .owner jobS).bar2Cause 0 = some c) := by
  refine ⟨by decide +kernel, by decide +kernel, by decide +kernel, by decide +kernel, by decide +kernel, by decide +kernel, by decide +kernel,
    by decide +kernel, ⟨0, by decide, by decide +kernel⟩, by decide +kernel, ⟨0, by decide, by decide +kernel⟩,
    Option.isSome_iff_exists.mp (by decide +kernel)⟩
theorem witness_register_writes : (0x009 : BitVec 24).toNat % 4 ≠ 0 ∧ (0x1E0 : BitVec 24).toNat = 0x100 + 0x20 * (7 : Fin 8).val ∧
    (0x1EFFC : BitVec 24).toNat = 0x10000 + 0x2000 * (7 : Fin 8).val + 0xFFC ∧ 0x100000 ≤ (0x100000 : BitVec 24).toNat ∧
    (0xFFFFC : BitVec 24).toNat < 0x100000 ∧ (0x100000 : BitVec 24).toNat ≠ 0x100144 ∧ ((portP .owner jobS).mbx 0 0).busy = true ∧
    ((portP .owner jobS).mbx 0 7).busy = false ∧ ([1, 2] : List Byte).length ≠ 4 ∧ ([1, 2] : List Byte).length ≠ 8 ∧ (0x00C : BitVec 24).toNat % 8 ≠ 0 ∧
    (leBytes 8 5).length = 8 ∧ (0x110 : BitVec 24).toNat % 8 = 0 ∧ (0x110 : BitVec 24).toNat < 0x10000 ∧ (0x20000 : BitVec 24).toNat ≥ 0x20000 ∧
    (1 ≤ (50 : Word32).toNat ∧ (50 : Word32).toNat ≤ 50) := by decide +kernel

/-! Resets, power and management -/

/-- The module in an episode of one source. -/
def epiS (x : ResetSource) : State := { jobS with rst := { jobS.rst with birtur := false, episode := [x], active := [] } }
/-- What the pins, the calibration and the devices show at an exit, with a good first image. -/
def sight1 : ExitSight :=
  { bootSrc := 0, clkMode := 0, role := false, delays := [], badCells := [], dimms := [], ddrFailed := [], imageA := some (0x01000000, true), imageB := none
    holdup := 0, startupMs := 1000, randomCount := 0, absent := [] }
theorem witness_reset_sources : jobS.rst.episode = [] ∧ ({ powered := false } : Mgmt).powered = false ∧ (epiS .rstPin).rst.episode ≠ [] ∧ ResetSource.rstPin.level = true ∧ ({ powered := true } : Mgmt).powered = true ∧ jobS.rst.birtur = true ∧ jobS.relay = false ∧
    jobS.inCommit = false ∧ jobS.job.phase = .running ∧ (epiS .rstPin).rst.birtur = false := by decide +kernel
theorem witness_exits : widest (epiS .rstPin).rst.episode ≤ 3 ∧ (epiS .watchdog).rst.episode ≠ [] ∧ widest (epiS .watchdog).rst.episode = 3 ∧
    (epiS .watchdog).rst.active = [] ∧ (epiS .watchdog).rst.recoveryWait = false ∧ sight1.absent = [] ∧ (epiS .watchdog).relay = false ∧
    (epiS .watchdog).chooseImage sight1 = some true ∧ (epiS .watchdog).chooseImage { sight1 with imageA := none } = none ∧
    4 ≤ widest (epiS .fwRegion).rst.episode ∧ (epiS .thermal).rst.episode ≠ [] ∧ widest (epiS .thermal).rst.episode ≤ 2 ∧ (0x01000000 : Word32).toNat ≥ (epiS .watchdog).floor := by decide +kernel
theorem witness_recovery_image : let s : State := { epiS .watchdog with rst := { (epiS .watchdog).rst with sight := some sight1, recoveryWait := true } }
    s.rst.sight = some sight1 ∧ s.rst.recoveryWait = true ∧ s.floor ≤ (0x01000000 : Word32).toNat ∧ jobS.rst.sight = none := by
  refine ⟨rfl, rfl, by decide +kernel, rfl⟩
theorem witness_scrub : ({ scrubHbm := true } : ResetBlock).scrubHbm = true ∧ ({ scrubDdr := true } : ResetBlock).scrubHbm = false ∧
    posts (host .owner 0xF0 (bodyAt 4 [(0, [1])]) calmS) 0xF0 1 [] ∧ posts (host .owner 0xF0 (bodyAt 4 [(0, [2])]) calmS) 0xF0 1 [] ∧
    posts (host .owner 0xF0 (bodyAt 4 [(0, [3])]) calmS) 0xF0 1 [] ∧ (host .owner 0xF0 [] calmS).rst.episode = [] := by
  unfold posts Claims.Posted Claims.OnTurn; decide +kernel
theorem witness_gating : (0 < ({ holdTicks := 1 } : Mgmt).holdTicks) ∧ ({ cap := 2800 } : Mgmt).cap < 2801 ∧ 2750 + 50 ≤ ({ cap := 2800 } : Mgmt).cap ∧
    2751 ≤ ({ cap := 2800 } : Mgmt).cap ∧ ({ cap := 2800 } : Mgmt).cap < 2751 + 50 ∧ ({ downTicks := 8 } : Mgmt).downTicks < 9 ∧
    9 ≤ ({ downTicks := 9 } : Mgmt).downTicks ∧ (96 : Nat) < 97 ∧ (97 : Nat) < 100 ∧ 97 ≤ (97 : Nat) ∧ 100 ≤ (100 : Nat) ∧ (105 : Nat) < 106 ∧ ({} : Mgmt).events.length < 64 := by decide +kernel
theorem witness_events_full : 64 ≤ ({ events := List.replicate 64 { what := "SENSOR", value := 0 } } : Mgmt).events.length := by
  show 64 ≤ (List.replicate 64 _).length
  rw [List.length_replicate]
theorem witness_attention : jobS.rst.birtur = true ∧ jobS.mgmt.removal = false ∧ calmS.job.phase = .none ∧ calmS.servo.state ≠ .master ∧
    jobS.job.phase = .running ∧ jobS.mgmt.hotplug ≠ .spare ∧ lkS.coord.isCoord = true ∧ ({ jobS with coord := { coordKey := 1 } } : State).coord.isCoord = false ∧
    ({ jobS with mgmt := { jobS.mgmt with removal := true } } : State).mgmt.removal = true ∧ jobS.granary.pfActive = false := by decide +kernel
/-- A module between jobs with one open session. -/
def sesS : State := { calmS with mgmt := { calmS.mgmt with sessions := [0] }, store := { calmS.store with cur := none },
                                 granary := { calmS.granary with mram := true, nor0 := true, nor1 := true } }
theorem witness_vendor : sesS.endpoint = true ∧ State.reset.endpoint = false ∧ sesS.mgmt.sessions ≠ [] ∧ jobS.mgmt.sessions = [] ∧ jobS.job.phase ≠ .none ∧
    sesS.job.phase = .none ∧ keyValid 0 = true ∧ keyRelay 0 = sesS.relay ∧ keyValid 0x0020 = false ∧ (0 : Key) ≠ 0xFFFF ∧ sesS.mgmt.key ≠ 0xFFFF ∧
    sesS.store.map.isSome = true ∧ 0 ∈ sesS.present ∧ 2 ∉ sesS.present ∧ sesS.mgmt.removal = false ∧ sesS.store.cur = none ∧ (sesS.record 3).running = none ∧
    sesS.granary.pfActive = false ∧ (sesS.record 3).recent = false ∧ sesS.takes 3 false = true ∧ sesS.rst.blownBank = [] ∧
    sesS.rst.fuseFloor < (1 : Byte).toNat ∧ sesS.rst.validVersions = [] ∧ sesS.removalCommitted = false := by decide +kernel
theorem witness_management :
    let e : PlatformEvent := { what := "SENSOR", value := 1 }
    let o : Mgmt := { events := [e], opening := [4] }
    o.events = e :: [] ∧ sesS.mgmt.events = [] ∧ (0x01000000 : Word32).toNat ≥ sesS.floor ∧ sesS.mgmt.sessions.length + sesS.mgmt.opening.length < 2 ∧
    sesS.rootHash = none ∧ 2 ≤ ({ sessions := [0, 1] } : Mgmt).sessions.length ∧ 4 ∈ o.opening ∧ ({ booted := 1 } : ResetBlock).booted = 1 ∧
    (0 : Word32).toNat < ({ sesS with rst := { sesS.rst with fuseFloor := 1 } } : State).floor := by
  refine ⟨rfl, by decide +kernel, by decide +kernel, by decide +kernel, by decide +kernel, by decide, by simp, rfl, by decide +kernel⟩

/-! Faults, recovery and the assay -/

/-- A report of a link between the two modules. -/
def rep1 : LinkReport := { src := 0, event := 3, logical := 0, peer := 1, step := 0 }
/-- The coordinator with that report. -/
def badS : State := { jobS with coord := { jobS.coord with reports := [rep1] } }
theorem witness_attribution : keyRelay rep1.src = false ∧ keyRelay rep1.peer = false ∧ rep1.src ≠ rep1.peer ∧ rep1.src ∉ badS.coord.failed ∧
    rep1.peer ∉ badS.coord.failed ∧ logicalSlot badS.tables.positions rep1.src = some 0 ∧ logicalSlot badS.tables.positions rep1.peer = some 1 ∧
    (badS.coord.reports.filter (fun x => (x.event == 1 || x.event == 3) && x.src == rep1.src && x.step.toNat == badS.sheaf.step.toNat % 2 ^ 48)).length = 1 ∧
    (badS.coord.reports.filter (fun x => (x.event == 1 || x.event == 3) && x.src == rep1.peer && x.step.toNat == badS.sheaf.step.toNat % 2 ^ 48)).length = 0 := by
  decide +kernel
theorem witness_reports : jobS.coord.isCoord = true ∧ jobS.coord.failed = [] ∧ ({ jobS with tables := { jobS.tables with positions := [(0, 0)] } } : State).spares [(0, 0)] 0 ≠ [] ∧ keyRelay (0 : Key) = false ∧ keyRelay (0x0400 : Key) = true ∧ rep1.bad = true ∧ rep1.src ≠ (2 : Key) ∧
    ({ recoveryActive := true } : FaultBlock).recoveryActive = true ∧ jobS.jobRuns = true ∧ jobS.sheaf.begun = true ∧ jobS.sheaf.atBoundary = false ∧
    (let s : State := { jobS with coord := { jobS.coord with failDue := [1], excluded := [2], reports := [{ rep1 with src := 2 }] } }
     1 ∈ s.coord.failDue ∧ 2 ∈ s.coord.excluded ∧ (∃ q ∈ s.coord.reports, q.bad = true ∧ q.peer = 1 ∧ q.src ≠ 0 ∧ q.src ≠ 1)) ∧
    (logicalSlot jobS.tables.positions 1).isSome = true ∧ (7 : BitVec 16) ≠ jobS.coord.refillGen := by decide +kernel
/-- The module at (0, 0, 0, 1), which follows the coordinator at slot 0. -/
def folS : State := { jobS with mgmt := { jobS.mgmt with key := 1 }, coord := { coordKey := 0 } }
theorem witness_succession : folS.succession = [0, 1] ∧ folS.job.joining = false ∧ folS.coord.isCoord = false ∧ folS.coord.coordKey ≠ 0xFFFF := by decide +kernel
theorem witness_next : folS.succession[folS.succession.idxOf folS.coord.coordKey + 1]? = some 1 ∧ (1 : Key) ≠ folS.coord.coordKey ∧
    folS.succession.idxOf folS.coord.coordKey < folS.succession.idxOf 1 ∧ folS.succession.idxOf 0 ≤ folS.succession.idxOf folS.coord.coordKey := by
  rw [witness_succession.1]; decide +kernel
theorem witness_retry :
    let u : Unacked := { mtype := 0x50, dest := 1, msgId := 9, body := 0, len := 4 }
    let s : State := { jobS with coord := { jobS.coord with unacked := [u] }, bypass := { jobS.bypass with routes := [(1, (0, 0))] }
                                 links := [(0, { state := .up })] }
    s.coord.unacked = [u] ∧ u.mtype ≠ 0x56 ∧ s.route u.dest = some (0, false) ∧ u.dest ≠ s.mgmt.key := by
  refine ⟨rfl, by decide, by decide +kernel, by decide⟩
theorem witness_join : jobS.store.cur = some plan1 ∧ jobS.store.map = some map1 ∧ (∀ x ∈ jobS.bypass.answers, x.1 ≠ 5) ∧ (5 : Key) ≠ jobS.mgmt.key ∧
    keyRelay 5 = false ∧ logicalSlot jobS.tables.positions 5 = none ∧
    (5 : Word128) ≠ BitVec.ofNat 128 (leNat ((hashBytes plan1.hash).take 16)) := by
  refine ⟨rfl, rfl, by simp [jobS], by decide, by decide, by decide +kernel, by decide +kernel⟩
theorem witness_votes :
    let l : List (Key × BitVec 16 × Word128) := [(0, 0, 7), (1, 1, 7), (2, 2, 8)]
    l ≠ [] ∧ l.length < 2 * (l.filter (fun x => x.2.2 == 7)).length ∧ l.filter (fun x => x.2.2 != 7) ≠ [] ∧
    ((l.filter (fun x => x.2.2 != 7)).map (fun x => x.2.1.toNat / 16)).Nodup ∧ (∀ x ∈ l.take 2, x.2.2 = 7) :=
  ⟨by simp, by decide +kernel, by decide +kernel, by decide +kernel, by simp⟩
theorem witness_split :
    let l : List (Key × BitVec 16 × Word128) := [(0, 0, 7), (1, 1, 7), (2, 2, 7), (3, 3, 8), (4, 4, 9)]
    l.length < 2 * (l.filter (fun x => x.2.2 == 7)).length ∧ ¬((l.filter (fun x => x.2.2 != 7)).map (fun x => x.2.1.toNat / 16)).Nodup := by decide +kernel
theorem witness_no_majority : ∀ e : Word128, 2 * ([((0 : Key), (0 : BitVec 16), (7 : Word128)), (1, 1, 8)].filter (fun x => x.2.2 == e)).length ≤ 2 := by
  intro e
  by_cases h : (7 : Word128) = e
  · subst h; decide
  · have : ((7 : Word128) == e) = false := by simpa using h
    simp only [List.filter_cons, this, Bool.false_eq_true, if_false]
    split <;> simp
theorem witness_assay : jobS.coord.isCoord = true ∧ jobS.coord.voteStep.toNat < (1 : BitVec 48).toNat ∧ (0 : BitVec 48).toNat < (1 : BitVec 48).toNat ∧
    ({ verdictPending := true, step := 3 } : Assay).verdictPending = true ∧ jobS.relay = false ∧ jobS.inCommit = false ∧ jobS.ownSlot.isSome = true ∧
    ({ jobS with tables := { jobS.tables with positions := [(1, 1)] } } : State).ownSlot = none := by decide +kernel
theorem witness_voters : jobS.voters = [0, 1] ∧ (1 : Key) ≠ 0 := by decide +kernel
/-- A module of twin 0 whose step's digest is known and whose comparison waits. -/
def twS : State :=
  { jobS with tables := { jobS.tables with positions := [(0, 0), (1, 1), (512, 0)] }, holds := { twin := true }
              assay := { twinPending := true, kept := [{ step := 0, attempt := 0, form := 0, digest := 7 }] } }
theorem witness_twins : twS.counterpart = some 0x8000 ∧ twS.relay = false ∧ twS.inCommit = false ∧ (0 : BitVec 48).toNat = twS.sheaf.step.toNat ∧
    twS.assay.twinPending = true ∧ findDigest twS.assay.kept 0 0 = some { step := 0, attempt := 0, form := 0, digest := 7 } ∧ twS.assay.heard = [] ∧
    findDigest twS.assay.kept 1 0 = none ∧ twS.holds.twin = true ∧ (7 : Word128) ≠ 8 := by decide +kernel
theorem witness_relays : let s : State := { jobS with rst := { jobS.rst with role := true } }
    s.relay = true ∧ s.job.phase = .running ∧ jobS.coord.isCoord = true ∧ jobS.relay = false ∧ (s.link 3).state = .dark ∧
    ({ state := .up } : Link).state ≠ .dark ∧ (∀ l < 56, ∀ q ∈ ((after (exec .relayFatalFault s)).link l).queue, ¬(namesRelay q.msg = true ∧ q.msg.src = s.mgmt.key)) := by
  decide +kernel

/-! The whole machine -/

theorem witness_step : State.reset.pending = [] ∧ State.reset.rst.due = [] ∧ State.reset.Inv := by unfold State.Inv; decide +kernel
theorem witness_numbers : isNan 0x7FC00001 = true ∧ isNan 0x3F800000 = false ∧ isNan (fadd 0x7F800000 0xFF800000) = true := by decide +kernel
theorem witness_memory : Memory.wf [(5, 1), (7, 2)] = true := by decide +kernel

/-! Results worked out in the spec's text, and standard vectors -/

/-- FIPS 180-4: SHA-256 of "abc". -/
theorem test_sha256 : sha256 [0x61, 0x62, 0x63] =
    [0xba, 0x78, 0x16, 0xbf, 0x8f, 0x01, 0xcf, 0xea, 0x41, 0x41, 0x40, 0xde, 0x5d, 0xae, 0x22, 0x23,
     0xb0, 0x03, 0x61, 0xa3, 0x96, 0x17, 0x7a, 0x9c, 0xb4, 0x10, 0xff, 0x61, 0xf2, 0x00, 0x15, 0xad] := by decide +kernel
/-- The published check values of CRC-32C and CRC-32 for "123456789". -/
theorem test_crc : crc32c [0x31, 0x32, 0x33, 0x34, 0x35, 0x36, 0x37, 0x38, 0x39] = 0xE3069283 ∧
    crc32 [0x31, 0x32, 0x33, 0x34, 0x35, 0x36, 0x37, 0x38, 0x39] = 0xCBF43926 := by decide +kernel
/-- "Worked example: tracing one module's links" (after R22): link 20 of (0, 3, 1, 5) meets link 31 of (0, 3, 1, 12), link 41 the relay's link 24. -/
theorem test_link_wiring : pairing (mkKey 0 3 1 5) 20 = some (mkKey 0 3 1 12, 31) ∧ pairing (mkKey 0 3 1 5) 22 = some (mkKey 0 3 1 12, 33) ∧
    pairing (mkKey 0 3 1 12) 32 = some (mkKey 0 3 1 5, 21) ∧ pairing (mkKey 0 3 1 5) 41 = some (mkKey 0 3 2 5, 24) ∧
    pairing (mkKey 0 3 2 5) 24 = some (mkKey 0 3 1 5, 41) := by decide +kernel
/-- "Worked example: one BF16 chunk, exact and naive" (after R98): 4096² + 1.5 − 4096² + 0.75 × 0.5 is 1.875. -/
theorem test_exact_chunk :
    let f (l : List Nat) : List CellVal := l.map (CellFmt.value (.fp .bf16) false)
    let a := dot {} (f [0x4580, 0x3FC0, 0xC580, 0x3F40]) (f [0x4580, 0x3F80, 0x4580, 0x3F00])
    roundOutput (.fp .bf16) a.v a.flags = 0x3FF00000 := by decide +kernel
/-- The same example summed in FP32: 2.375 in the order 0 to 3, 2.0 in the order 3 to 0. -/
theorem test_naive_sums : fadd (fadd (fadd 0x4B800000 0x3FC00000) 0xCB800000) 0x3EC00000 = 0x40180000 ∧
    fadd (fadd (fadd 0x3EC00000 0xCB800000) 0x3FC00000) 0x4B800000 = 0x40000000 := by decide +kernel
/-- "Worked example: a board-level stage-and-reduce" (after R173): the tree gives 1.0, the orders 3, 1, 0, 2 would give 2.0. -/
theorem test_stage_tree : treeCombine fadd 0 ([0x4B800000, 0x3F800000, 0xCB800000, 0x3F800000] ++ List.replicate 12 0) = 0x3F800000 := by decide +kernel
/-- "Worked example: placing one address" (after R187): 0x0052_3456_7800 is in stack S5, pseudo-channel 8, stack ID 1 and bank group 3. -/
theorem test_address_parts : 0x005234567800 / 2 ^ 36 = 5 ∧ pcOf 0x005234567800 = 8 ∧ bankGroupOf 0x005234567800 = 7 := by decide +kernel
/-- "Worked example: one BF16 tile with K = 128" (after R152): the bundle of cycle 20 names descriptor 5 in two cells and idles 71. -/
theorem test_bundle_word : let w : Word256 := BitVec.ofNat 256 (0x0000000050100501 + 0x2380000000000000 * 2 ^ 192)
    descsNamed w = [5, 5] ∧ bundleLine w = { idle := 71, ctl := 0, level := 0, trip := 0 } ∧ bundleIllegal 9 0 w = false ∧
    (List.range 10).map (slotWord 9 w) = [.op (.chunk 9 0 0 false 5), .op (.chunk 9 1 0 false 5)] ++ List.replicate 8 .empty := by decide +kernel
/-- The same example: cycle 0 loads 16 rows into each cell, cycle 98 adds T3 and T19, cycle 132 waits for group 7. -/
theorem test_example_slots :
    let w : Word256 := BitVec.ofNat 256 ((1 + 1 * 2 ^ 4 + 10 * 2 ^ 10 + 15 * 2 ^ 16) * 2 ^ 148 + (1 + 2 * 2 ^ 4 + 10 * 2 ^ 10 + 15 * 2 ^ 16 + 1 * 2 ^ 20) * 2 ^ 176)
    slotWord 9 w 6 = .op (.ldOpb 9 0 1 10 15 0) ∧ slotWord 9 w 7 = .op (.ldOpb 9 1 2 10 15 1) ∧
    slotWord 9 (BitVec.ofNat 256 ((1 + 3 * 2 ^ 3 + 3 * 2 ^ 8 + 19 * 2 ^ 13) * 2 ^ 128)) 5 = .op (.tadd 9 3 3 19) ∧
    slotWord 9 (BitVec.ofNat 256 ((1 + 7 * 2 ^ 3) * 2 ^ 204)) 8 = .op (.wait 9 7) := by decide +kernel
/-- R126, R127, R129, R133: a VFMA, a VCVT_NARROW to BF16 with SR and key 6, LOOP_BEGIN of level 2 with trip entry 5. -/
theorem test_slot_fields :
    slotWord 9 (BitVec.ofNat 256 ((4 + 3 * 2 ^ 6 + 1 * 2 ^ 11 + 2 * 2 ^ 16 + 4 * 2 ^ 21) * 2 ^ 80)) 4 = .op (.vfma 9 3 1 2 4) ∧
    slotWord 9 (BitVec.ofNat 256 ((0x0A + 3 * 2 ^ 6 + 1 * 2 ^ 11 + 2 * 2 ^ 26 + 6 * 2 ^ 33) * 2 ^ 80)) 4 = .op (.vcvtNarrow 9 3 1 2 0 6) ∧
    slotWord 9 (BitVec.ofNat 256 ((1 + 2 * 2 ^ 3 + 5 * 2 ^ 5) * 2 ^ 220)) 9 = .op (.loopBegin 9 2 5) := by decide +kernel
/-- R123: reserved bits and codes make the bundle illegal. -/
theorem test_reserved_bits : bundleIllegal 9 0 (BitVec.ofNat 256 (2 ^ 18)) = true ∧ bundleIllegal 9 0 (BitVec.ofNat 256 (2 ^ 240)) = true ∧
    bundleIllegal 9 0 (BitVec.ofNat 256 (0x12 * 2 ^ 80)) = true ∧ bundleIllegal 9 0 (BitVec.ofNat 256 (8 * 2 ^ 148)) = true ∧
    bundleIllegal 9 0 (BitVec.ofNat 256 (2 ^ 255)) = true ∧ bundleIllegal 9 0 0 = false := by decide +kernel
/-- R160, R166: MUL of AR1 and AR2 to AR3, 9 groups, FP16 in and BF16 out, engine set 4; a word with reserved bit 104 set. -/
theorem test_stack_word :
    let f : SFields := { f0 with ara := 1, arb := 2, arc := 0, ard := 3, count := 8, fmtIn := 1, eset := 4 }
    stackWord 2 (BitVec.ofNat 128 (3 + 1 * 2 ^ 6 + 2 * 2 ^ 12 + 3 * 2 ^ 24 + 8 * 2 ^ 38 + 1 * 2 ^ 54 + 4 * 2 ^ 87)) = .op (.mul 2 f) ∧
    stackWord 2 (BitVec.ofNat 128 (3 + 2 ^ 104)) = .bad := by decide +kernel
/-- "Worked example: three overlapping sources" (after R402): causes 2, 4 and 7 latched at cold reach read 0x0002_0094 in LAST_CAUSE. -/
theorem test_last_cause :
    let s : State := { epiS .watchdog with rst := { (epiS .watchdog).rst with episode := [.watchdog, .rstPin, .mgmtWarm], latch := 0x94 } }
    (after (exec (.resetExit sight1) s)).rst.lastCause = 0x00020094 := by decide +kernel
/-- R441: an over-current warning sets the gating fraction to 48/64. -/
theorem test_over_current : (after (exec .overCurrentWarning jobS)).mgmt.g = 48 := by decide +kernel
/-- R362: opcode 0x05 is in no row of R376 and completes with UNKNOWN_OPCODE, 1. -/
theorem test_unknown_opcode :
    let s : State := { jobS with ports := [(0, { up := true, boxes := [(0, { cmd := writeBytes [] 0 (leBytes 2 0x05 ++ leBytes 2 1) })] })] }
    let t := after (exec (.mbxPost 0 0 0x00000010) s)
    (t.mbx 0 0).state = .done ∧ (t.mbx 0 0).status = 1 := by decide +kernel
/-- R356, R362: STOP_JOB from a feeder is refused with status 4. -/
theorem test_stop_needs_owner : ((after (exec (.stopJob 0 0) (host .feeder 0x33 (bodyAt 4 []) jobS))).mbx 0 0).status = 4 := by decide +kernel
/-- R374: a port that goes away ends no job. -/
theorem test_port_loss : (after (exec (.portLinkDown 0) (portP .owner jobS))).job.phase = .running := by decide +kernel

end Sys2Proof.Tests
end

/-! SUPPORT. Register writes over BAR0 (R11, R354): what a write of one word does, by the writer and the register's address, and why 8 bytes
are two words. -/

section
namespace Sys2Proof.Machine

open Sys2Proof

/-! Bytes and words (R9) -/

@[simp] theorem length_leBytes (k v : Nat) : (leBytes k v).length = k := by
  induction k generalizing v with
  | zero => rfl
  | succ k ih => simp [leBytes, ih]

/-- The bytes of a number give back the number, modulo what they can hold. -/
theorem leNat_leBytes (k v : Nat) : leNat (leBytes k v) = v % 256 ^ k := by
  induction k generalizing v with
  | zero => simp [leBytes, leNat, Nat.mod_one]
  | succ k ih => rw [leBytes, leNat, ih, BitVec.toNat_ofNat, Nat.pow_succ' (m := 256), Nat.mod_mul]

@[simp] theorem slice_whole (bs : List Byte) : slice bs 0 bs.length = bs := by simp [slice]

/-- A slice that ends before the cut lies in the first part. -/
theorem slice_take (bs : List Byte) {o k n : Nat} (h : o + k ≤ n) : slice (bs.take n) o k = slice bs o k := by
  simp only [slice, List.drop_take, List.take_take, Nat.min_eq_left (show k ≤ n - o by omega)]

theorem slice_drop (bs : List Byte) (o k n : Nat) : slice (bs.drop n) o k = slice bs (n + o) k := by simp [slice]

/-- A run of bytes read back after it was written. -/
theorem readBytes_writeBytes_same (bs : List Byte) (m : Memory) (a : Nat) : readBytes (writeBytes m a bs) a bs.length = bs := by
  induction bs generalizing m a with
  | nil => rfl
  | cons b bs ih =>
    have first : readByte (writeBytes (writeByte m a b) (a + 1) bs) a = b := by
      rw [readByte_writeBytes_outside bs _ _ _ (by omega), readByte_writeByte_same]
    rw [List.length_cons, readBytes, writeBytes, first, ih]

/-! Mailboxes read back -/

@[simp] theorem mbx_onMbx_same (s : State) (p m : Nat) (f : Mailbox → Mailbox) : (s.onMbx p m f).mbx p m = f (s.mbx p m) := by
  simp [State.mbx, State.onMbx]

/-- A rewrite of one mailbox leaves the port's other mailboxes alone. -/
theorem mbx_onMbx_other (s : State) (p : Nat) {m x : Nat} (f : Mailbox → Mailbox) (h : x ≠ m) :
    (s.onMbx p m f).mbx p x = s.mbx p x := by
  simp [State.mbx, State.onMbx, get_upd_other _ _ _ h]

/-! The words of a write (R354) -/

/-- Four bytes are one word. -/
theorem wordsAt_word (o : Nat) (v : Word32) : wordsAt o (leBytes 4 v.toNat) = [(o, v)] := by
  have whole : slice (leBytes 4 v.toNat) 0 4 = leBytes 4 v.toNat := by
    simpa only [length_leBytes] using slice_whole (leBytes 4 v.toNat)
  have value : leNat (leBytes 4 v.toNat) = v.toNat := (leNat_leBytes 4 v.toNat).trans (Nat.mod_eq_of_lt v.isLt)
  simp [wordsAt, List.range_succ, whole, value]

/-- Eight bytes are the word of the lower four and, 4 further, the word of the upper four. -/
theorem wordsAt_pair (o : Nat) {data : List Byte} (h : data.length = 8) :
    wordsAt o data = wordsAt o (data.take 4) ++ wordsAt (o + 4) (data.drop 4) := by
  simp [wordsAt, h, List.range_succ, slice_take, slice_drop]

/-! Which writes BAR0 takes (R354; log entry 33) -/

/-- One word is taken at every multiple of 4. -/
theorem bar0Takes_word (o : Nat) : bar0Takes o 4 = decide (o % 4 = 0) := by
  unfold bar0Takes; split <;> simp [beq_eq_decide]

/-- Outside the mailbox areas a write is taken when it is 4 or 8 bytes at a multiple of its size. -/
theorem bar0Takes_outside {o : Nat} (n : Nat) (h : o < 0x10000 ∨ 0x20000 ≤ o) :
    bar0Takes o n = ((n == 4 || n == 8) && o % n == 0) :=
  if_neg (by omega)

section
variable (s : State) (p : Fin 4) (off : BitVec 24)

theorem exec_hostWrite_taken {data : List Byte} (h : bar0Takes off.toNat data.length = true) :
    exec (.registerWrite (.host p) off data) s = .next ((wordsAt off.toNat data).foldl (fun t x => t.writeHost p x.1 x.2) s) :=
  if_pos h

theorem exec_hostWrite_unsupported {data : List Byte} (h : bar0Takes off.toNat data.length = false) :
    exec (.registerWrite (.host p) off data) s = .next { s with out := s.out ++ [.unsupported p] } :=
  if_neg (by simp [h])

/-- A host's write of one word at a multiple of 4 (R354). -/
theorem exec_hostWrite_word (v : Word32) (h : off.toNat % 4 = 0) :
    exec (.registerWrite (.host p) off (leBytes 4 v.toNat)) s = .next (s.writeHost p off.toNat v) := by
  rw [exec_hostWrite_taken s p off (by simpa [bar0Takes_word] using h), wordsAt_word]; rfl

theorem exec_hostWrite_misaligned (v : Word32) (h : off.toNat % 4 ≠ 0) :
    exec (.registerWrite (.host p) off (leBytes 4 v.toNat)) s = .next { s with out := s.out ++ [.unsupported p] } :=
  exec_hostWrite_unsupported s p off (by simpa [bar0Takes_word] using h)

/-- Outside the mailbox areas a write of another size, or not at a multiple of its size, is an Unsupported Request (R354). -/
theorem exec_hostWrite_untaken {data : List Byte} (hout : off.toNat < 0x10000 ∨ 0x20000 ≤ off.toNat)
    (h : (data.length ≠ 4 ∧ data.length ≠ 8) ∨ off.toNat % data.length ≠ 0) :
    exec (.registerWrite (.host p) off data) s = .next { s with out := s.out ++ [.unsupported p] } := by
  refine exec_hostWrite_unsupported s p off ?_
  rw [bar0Takes_outside _ hout]
  obtain ⟨h4, h8⟩ | hmod := h
  · simp [h4, h8]
  · simp [hmod]

/-- Outside the mailbox areas 8 aligned bytes are two writes of 4, the lower first (R354). -/
theorem exec_hostWrite_pair {data : List Byte} (hout : off.toNat < 0x10000 ∨ 0x20000 ≤ off.toNat) (hlen : data.length = 8)
    (hmod : off.toNat % 8 = 0) :
    ∃ t, exec (.registerWrite (.host p) off (data.take 4)) s = .next t ∧
      exec (.registerWrite (.host p) off data) s = exec (.registerWrite (.host p) (off + 4) (data.drop 4)) t := by
  have upper : (off + 4).toNat = off.toNat + 4 := by bv_omega
  have whole : bar0Takes off.toNat data.length = true := by rw [bar0Takes_outside _ hout, hlen]; simp [hmod]
  have lowTaken : bar0Takes off.toNat (data.take 4).length = true := by
    rw [List.length_take, hlen, show min 4 8 = 4 from rfl, bar0Takes_word]; exact decide_eq_true (by omega)
  have highTaken : bar0Takes (off + 4).toNat (data.drop 4).length = true := by
    rw [List.length_drop, hlen, upper, bar0Takes_word]; exact decide_eq_true (by omega)
  refine ⟨_, exec_hostWrite_taken s p off lowTaken, ?_⟩
  rw [exec_hostWrite_taken s p off whole, exec_hostWrite_taken _ p _ highTaken, upper, wordsAt_pair _ hlen, List.foldl_append]

/-- The control processor's write of one word at a multiple of 4 (log entry 125). -/
theorem exec_processorWrite_word (v : Word32) (h : off.toNat % 4 = 0) :
    exec (.registerWrite .processor off (leBytes 4 v.toNat)) s = .next (s.writeProcessor off.toNat v) := by
  have taken : exec (.registerWrite .processor off (leBytes 4 v.toNat)) s =
      .next ((wordsAt off.toNat (leBytes 4 v.toNat)).foldl (fun t x => t.writeProcessor x.1 x.2) s) := if_pos h
  rw [taken, wordsAt_word]; rfl

theorem exec_processorWrite_misaligned (data : List Byte) (h : off.toNat % 4 ≠ 0) :
    exec (.registerWrite .processor off data) s = .next s :=
  if_neg h

end

/-! The registers that a host reaches (R351 to R359) -/

section
variable (s : State) (p : Nat) (v : Word32)

theorem writeHost_port {o : Nat} (h : o < 0x1000) : s.writeHost p o v = s.writePort p o v := if_pos h

/-- A mailbox's registers stand 0x20 apart in the port block (R355). -/
theorem writePort_mailbox {m o : Nat} (hm : m < 8) (ho : o < 0x20) :
    s.writePort p (0x100 + 0x20 * m + o) v = s.writeMailbox p m o v := by
  have box : (0x100 + 0x20 * m + o - 0x100) / 0x20 = m := by omega
  have reg : (0x100 + 0x20 * m + o - 0x100) % 0x20 = o := by omega
  unfold State.writePort
  split
  case h_5 => rw [if_pos (by omega), box, reg]
  all_goals omega

/-- A command area takes a word within its first 4 KiB while its mailbox is free; a busy one notes OVERPOST alone (R354, R359). -/
theorem writeHost_area {m n : Nat} (hm : m < 8) (hn : n < 0x1000) :
    s.writeHost p (0x10000 + 0x2000 * m + n) v =
      if (s.mbx p m).busy then s.onMbx p m (fun k => { k with overpost := true })
      else s.onMbx p m (fun k => { k with cmd := writeBytes k.cmd n (leBytes 4 v.toNat) }) := by
  have box : (0x10000 + 0x2000 * m + n - 0x10000) / 0x2000 = m := by omega
  have place : (0x10000 + 0x2000 * m + n - 0x10000) % 0x2000 = n := by omega
  rw [State.writeHost, if_neg (by omega), if_neg (by omega), if_pos (by omega), State.writeArea, box, place, if_neg (by omega)]

/-- Of the control processor's registers a host writes TCAP_STATUS alone (R354). -/
theorem writeHost_processor {o : Nat} (h : 0x100000 ≤ o) (hcap : o ≠ 0x100144) : s.writeHost p o v = s := by
  rw [State.writeHost, if_neg (by omega), if_neg (by omega), if_neg (by omega), if_neg (by simp [hcap])]

end

/-- The ports' own part of BAR0 is none of the control processor's (R353). -/
theorem writeProcessor_hostPart (s : State) (v : Word32) {o : Nat} (h : o < 0x100000) : s.writeProcessor o v = s := by
  have low : o / 0x10000 < 0x10 := by omega
  unfold State.writeProcessor
  split
  case h_8 => rfl
  all_goals omega

theorem writeProcessor_graceLimit (s : State) {v : Word32} (h1 : 1 ≤ v.toNat) (h50 : v.toNat ≤ 50) :
    s.writeProcessor 0x161C04 v = { s with bypass := { s.bypass with graceLimit := v } } := by
  simp [State.writeProcessor, h1, h50]

/-! The clauses of the statement -/

section
variable (s : State) (p : Fin 4) (v : Word32)

/-- PORT_EVENT is cleared where a 1 is written (R355). -/
theorem hostWrite_events : ∃ t, exec (.registerWrite (.host p) 0x008 (leBytes 4 v.toNat)) s = .next t ∧
    t.port p = { s.port p with events := (s.port p).events &&& ~~~ v } ∧ t.mem = s.mem ∧ t.job = s.job :=
  ⟨s.onPort p (fun q => { q with events := w1c q.events v }), exec_hostWrite_word s p 0x008 v rfl, port_onPort_same .., rfl, rfl⟩

/-- PORT_EVENT_MASK keeps the bits of the 14 events (R355). -/
theorem hostWrite_mask : ∃ t, exec (.registerWrite (.host p) 0x00C (leBytes 4 v.toNat)) s = .next t ∧
    t.port p = { s.port p with mask := v &&& 0x00003FFF } ∧ t.mem = s.mem ∧ t.job = s.job :=
  ⟨s.onPort p (fun q => { q with mask := v &&& 0x00003FFF }), exec_hostWrite_word s p 0x00C v rfl, port_onPort_same .., rfl, rfl⟩

/-- BAR2_BASE is the owner's alone to write (R355). -/
theorem hostWrite_bar2Base : exec (.registerWrite (.host p) 0x018 (leBytes 4 v.toNat)) s =
    .next (if (s.port p).role == .owner then s.onPort p (fun q => { q with bar2Base := BitVec.ofNat 12 v.toNat }) else s) :=
  exec_hostWrite_word s p 0x018 v rfl

theorem hostWrite_bar2Base_owner (h : (s.port p).role = .owner) :
    ∃ t, exec (.registerWrite (.host p) 0x018 (leBytes 4 v.toNat)) s = .next t ∧
      t.port p = { s.port p with bar2Base := BitVec.ofNat 12 v.toNat } ∧ t.mem = s.mem := by
  rw [hostWrite_bar2Base, if_pos (by simp [h])]
  exact ⟨_, rfl, port_onPort_same .., rfl⟩

theorem hostWrite_bar2Base_other (h : (s.port p).role ≠ .owner) :
    exec (.registerWrite (.host p) 0x018 (leBytes 4 v.toNat)) s = .next s := by
  rw [hostWrite_bar2Base, if_neg (by simp [h])]

/-- MBX_POST_LO of a mailbox changes that mailbox alone (R355). -/
theorem hostWrite_postLo (m : Fin 8) (o : BitVec 24) (ho : o.toNat = 0x100 + 0x20 * m.val) :
    ∃ t, exec (.registerWrite (.host p) o (leBytes 4 v.toNat)) s = .next t ∧ t.mbx p m = { s.mbx p m with postLo := v } ∧
      ∀ x, x ≠ m.val → t.mbx p x = s.mbx p x := by
  have low : s.writeHost p o.toNat v = s.onMbx p m (fun k => { k with postLo := v }) := by
    rw [writeHost_port s p v (by omega), ho]
    exact writePort_mailbox s p v m.isLt (o := 0) (by decide)
  refine ⟨_, exec_hostWrite_word s p o v (by omega), ?_⟩
  rw [low]
  exact ⟨mbx_onMbx_same .., fun x hx => mbx_onMbx_other _ _ _ hx⟩

section
variable (m : Fin 8) (o : BitVec 24) {n : Nat} (hn : n < 0x1000) (hword : n % 4 = 0) (ho : o.toNat = 0x10000 + 0x2000 * m.val + n)
include hn hword ho

theorem hostWrite_area_busy (hbusy : (s.mbx p m).busy = true) :
    ∃ t, exec (.registerWrite (.host p) o (leBytes 4 v.toNat)) s = .next t ∧ t.mbx p m = { s.mbx p m with overpost := true } := by
  refine ⟨_, exec_hostWrite_word s p o v (by omega), ?_⟩
  rw [ho, writeHost_area s p v m.isLt hn, if_pos hbusy, mbx_onMbx_same]

theorem hostWrite_area_free (hfree : (s.mbx p m).busy = false) :
    ∃ t, exec (.registerWrite (.host p) o (leBytes 4 v.toNat)) s = .next t ∧ readBytes (t.mbx p m).cmd n 4 = leBytes 4 v.toNat ∧
      (∀ x, x < n ∨ n + 4 ≤ x → readByte (t.mbx p m).cmd x = readByte (s.mbx p m).cmd x) ∧ (t.mbx p m).state = (s.mbx p m).state := by
  refine ⟨_, exec_hostWrite_word s p o v (by omega), ?_⟩
  rw [ho, writeHost_area s p v m.isLt hn, if_neg (by simp [hfree]), mbx_onMbx_same]
  refine ⟨?written, fun x hx => ?kept, rfl⟩
  case written => simpa only [length_leBytes] using readBytes_writeBytes_same (leBytes 4 v.toNat) (s.mbx p m).cmd n
  case kept => exact readByte_writeBytes_outside _ _ _ _ (by rwa [length_leBytes])

end
end

/-- Settles O24: a write is cut into words (`exec_hostWrite_pair`), and each word's clause is the law of the register that it addresses. -/
theorem registerWrites : Obligations.RegisterWrites := by
  intro s p v off data host proc outside
  refine ⟨exec_hostWrite_untaken s p off, exec_hostWrite_pair s p off,
    fun h => ⟨exec_hostWrite_misaligned s p off v h, exec_processorWrite_misaligned s off _ h⟩,
    hostWrite_events s p v, hostWrite_mask s p v, hostWrite_bar2Base_owner s p v, hostWrite_bar2Base_other s p v, hostWrite_postLo s p v,
    fun m o n hn hword ho => ⟨hostWrite_area_busy s p v m o hn hword ho, hostWrite_area_free s p v m o hn hword ho⟩,
    fun hlow hword hcap => ?hostOutside, fun hhigh hword => ?processorOutside, ?cause, ?period, fun h1 h50 => ?grace⟩
  case hostOutside => exact (exec_hostWrite_word s p off v hword).trans (by rw [writeHost_processor s p v hlow hcap])
  case processorOutside => exact (exec_processorWrite_word s off v hword).trans (by rw [writeProcessor_hostPart s v hhigh])
  case cause => exact exec_processorWrite_word s 0x1A0800 v rfl
  case period => exact exec_processorWrite_word s 0x100068 v rfl
  case grace => exact (exec_processorWrite_word s 0x161C04 v rfl).trans (congrArg _ (writeProcessor_graceLimit s h1 h50))

end Sys2Proof.Machine
end

/-! SUPPORT. The vendor messages that change state (R451, R453 to R456, R460): what every one of them is refused for, and the effect of each. -/

section
namespace Sys2Proof.Machine

open Sys2Proof

/-! Plan keys in a record's body -/

theorem fieldLE_append_left {a : List Byte} (b : List Byte) {n : Nat} (h : a.length = n) : fieldLE (a ++ b) 0 n = leNat a := by
  subst h; simp [fieldLE, slice]

theorem fieldLE_append_right {a : List Byte} (b : List Byte) {n : Nat} (h : a.length = n) (o k : Nat) :
    fieldLE (a ++ b) (n + o) k = fieldLE b o k := by
  rw [fieldLE, fieldLE, ← slice_drop, ← h, List.drop_left]

/-- A bit vector of whole bytes read back. -/
theorem leNat_leBytes_toNat (n : Nat) (k : BitVec (8 * n)) : leNat (leBytes n k.toNat) = k.toNat := by
  have bound : k.toNat < 256 ^ n := k.isLt.trans_eq (Nat.pow_mul 2 8 n)
  rw [leNat_leBytes, Nat.mod_eq_of_lt bound]

/-- The body of PLAN_KEYS gives back the keys, at most four (R425). -/
theorem keysOf_flatMap_leBytes {keys : List (BitVec 512)} (h : keys.length ≤ 4) :
    keysOf (keys.flatMap (fun k => leBytes 64 k.toNat)) = keys := by
  have size (l : List (BitVec 512)) : (l.flatMap (fun k => leBytes 64 k.toNat)).length = 64 * l.length := by
    simp [List.length_flatMap, Nat.mul_comm]
  have each (l : List (BitVec 512)) : (List.range l.length).map
      (fun i => BitVec.ofNat 512 (fieldLE (l.flatMap (fun k => leBytes 64 k.toNat)) (64 * i) 64)) = l := by
    induction l with
    | nil => rfl
    | cons k l ih =>
      have later (i : Nat) : 64 * (i + 1) = 64 + 64 * i := by omega
      rw [List.length_cons, List.range_succ_eq_map, List.map_cons, List.map_map, List.flatMap_cons, Nat.mul_zero,
        fieldLE_append_left _ (length_leBytes 64 _), leNat_leBytes_toNat 64 k, BitVec.ofNat_toNat, BitVec.setWidth_eq]
      refine congrArg _ (Eq.trans (List.map_congr_left fun i _ => ?_) ih)
      rw [Function.comp_apply, later, fieldLE_append_right _ (length_leBytes 64 _)]
  have count : Nat.min 4 (64 * keys.length / 64) = keys.length := by
    rw [Nat.mul_div_cancel_left _ (by omega)]; exact Nat.min_eq_right h
  rw [keysOf, size, count, each]

/-! What the shared operations keep -/

section
variable (s : State)

/-- A platform event reaches management's queue and what is sent out (R448). -/
theorem platform_eq (what : String) (v : Nat) :
    ∃ e l o, s.platform what v = { s with mgmt := { s.mgmt with events := e, lostEvents := l, alert := true }, out := o } := by
  unfold State.platform; split <;> exact ⟨_, _, _, rfl⟩

/-- A hot-plug state entered is told as a platform event and touches nothing else (R458). -/
theorem setHotplug_eq (h : HotPlug) :
    ∃ e l a o, s.setHotplug h = { s with mgmt := { s.mgmt with hotplug := h, events := e, lostEvents := l, alert := a }, out := o } := by
  unfold State.setHotplug
  split
  · next same => exact ⟨_, _, _, _, by rw [← eq_of_beq same]⟩
  · obtain ⟨e, l, o, told⟩ := platform_eq { s with mgmt := { s.mgmt with hotplug := h } } "HOTPLUG" h.code
    exact ⟨e, l, true, o, told⟩

@[simp] theorem committed_planKeys (ty : Nat) : (s.committed ty).granary.planKeys = s.granary.planKeys := by
  unfold State.committed; split <;> rfl

@[simp] theorem platform_granary (what : String) (v : Nat) : (s.platform what v).granary = s.granary := by
  unfold State.platform; split <;> rfl

theorem endOfLife_logs (i : Nat) : Logs s (s.endOfLife i) := by
  have raised : Logs s (({ s with granary := { s.granary with eol := setBit s.granary.eol i } } : State).committed 0x60) :=
    Logs.trans ⟨_, _, _, _, _, rfl⟩ (committed_logs _ _)
  have told (t : State) : Logs t (({ t with granary := { t.granary with eolTold := setBit t.granary.eolTold i } } : State).platform "EOL" i) :=
    Logs.trans ⟨_, _, _, _, _, rfl⟩ (platform_logs _ _ _)
  unfold State.endOfLife; dsimp only
  split <;> split
  · exact Logs.refl s
  · exact told s
  · exact raised
  · exact raised.trans (told _)

@[simp] theorem endOfLife_planKeys (i : Nat) : (s.endOfLife i).granary.planKeys = s.granary.planKeys := by
  unfold State.endOfLife; dsimp only
  split <;> split <;> simp

theorem wornOut_logs (ty : Nat) : Logs s (s.wornOut ty) := by
  unfold State.wornOut; split
  · exact endOfLife_logs s 5
  · exact Logs.refl s

@[simp] theorem wornOut_planKeys (ty : Nat) : (s.wornOut ty).granary.planKeys = s.granary.planKeys := by
  unfold State.wornOut; split <;> simp

theorem programOn_logs (ty : Nat) (second one : Bool) (c : GranCopy) : Logs s (s.programOn ty second one c) := by
  unfold State.programOn; split
  · exact ⟨_, _, _, _, _, rfl⟩
  · exact Logs.refl s

theorem noteCommit_logs (ty : Nat) (body : List Byte) : Logs s (s.noteCommit ty body) :=
  Logs.trans ⟨_, _, _, _, _, rfl⟩ (wornOut_logs _ ty)

/-- A commit of PLAN_KEYS takes the keys from the record's body (R425). -/
theorem noteCommit_planKeys (body : List Byte) : (s.noteCommit 3 body).granary.planKeys = keysOf body :=
  wornOut_planKeys _ 3

/-- An update of PLAN_KEYS that nothing queues and that the first device takes is committed at once (R421, R422). -/
theorem updateRecord_planKeys (body : List Byte) (running : (s.record 3).running = none) (power : s.granary.pfActive = false)
    (recent : (s.record 3).recent = false) (takes : s.takes 3 false = true) :
    Logs s (s.updateRecord 3 body .written) ∧ (s.updateRecord 3 body .written).granary.planKeys = keysOf body := by
  have now : s.updateRecord 3 body .written = s.program 3 body .written := by
    simp [State.updateRecord, running, power, recent]
  have written : ∃ t, Logs s t ∧ s.program 3 body .written = t.noteCommit 3 body := by
    let one := (s.record 3).slotOne
    let copy := s.nextCopy (s.record 3) body
    refine ⟨_, (programOn_logs s 3 false one copy).trans (programOn_logs _ 3 true one copy), ?_⟩
    simp only [State.program, takes]; rfl
  obtain ⟨t, copies, commit⟩ := written
  rw [now, commit]
  exact ⟨copies.trans (noteCommit_logs t 3 body), noteCommit_planKeys t body⟩

end

/-! Links under a new coordinate (R15) -/

/-- `t` differs from `s` at most in the links, the servo's parent with its state, and the bypass routes. -/
def Relinks (s t : State) : Prop := ∃ l v b, t = { s with links := l, servo := v, bypass := b }

theorem Relinks.refl (s : State) : Relinks s s := ⟨_, _, _, rfl⟩

theorem Relinks.trans {s t u : State} (h : Relinks s t) (k : Relinks t u) : Relinks s u := by
  obtain ⟨_, _, _, rfl⟩ := h; obtain ⟨_, _, _, rfl⟩ := k; exact ⟨_, _, _, rfl⟩

theorem Relinks.foldl {α : Type} {f : State → α → State} (h : ∀ t x, Relinks t (f t x)) (l : List α) (s : State) :
    Relinks s (l.foldl f s) := by
  induction l generalizing s with
  | nil => exact Relinks.refl s
  | cons x l ih => exact (h s x).trans (ih _)

section
variable (s : State)

theorem onLink_relinks (l : Nat) (f : Link → Link) : Relinks s (s.onLink l f) := ⟨_, _, _, rfl⟩

theorem takeParent_relinks : Relinks s s.takeParent := by
  unfold State.takeParent; split <;> exact ⟨_, _, _, rfl⟩

theorem leaveParent_relinks (l : Nat) : Relinks s (s.leaveParent l) := by
  unfold State.leaveParent; split
  · exact takeParent_relinks s
  · exact Relinks.refl s

theorem leaveDark_relinks (l : Nat) : Relinks s (s.leaveDark l) := by
  unfold State.leaveDark; split
  · exact onLink_relinks s ..
  · exact Relinks.refl s

theorem startGrace_relinks (l : Nat) : Relinks s (s.startGrace l) := by
  unfold State.startGrace; split
  · exact onLink_relinks s ..
  · exact Relinks.refl s

theorem dropVia_relinks (l : Nat) : Relinks s (s.dropVia l) := by
  refine (onLink_relinks s l _).trans (Relinks.foldl (fun t k => ?_) _ _)
  split
  · exact onLink_relinks t ..
  · exact Relinks.refl t

theorem startFull_relinks (l : Nat) : Relinks s (s.startFull l) := by
  have grace (t : State) : Relinks t (if (s.link l).state == .up then t.startGrace l else t) := by
    split
    · exact startGrace_relinks t l
    · exact Relinks.refl t
  exact (((dropVia_relinks s l).trans (grace _)).trans (onLink_relinks ..)).trans (leaveParent_relinks ..)

/-- Under a new coordinate a link trains from its start or stays as it is (R15). -/
theorem renewLink_relinks (l : Nat) : Relinks s (s.renewLink true l) := by
  unfold State.renewLink
  dsimp only
  split
  · split
    · exact Relinks.refl s
    · split
      · exact leaveDark_relinks s l
      · exact startFull_relinks s l
  · split
    · exact (onLink_relinks s l _).trans (leaveParent_relinks _ l)
    · refine Relinks.trans (onLink_relinks s l (fun k => { k with barred := false, trainedOnce := false })) ?_
      generalize s.onLink l _ = t
      split
      · exact leaveDark_relinks t l
      · exact (onLink_relinks t l _).trans (startFull_relinks _ l)
      · exact startFull_relinks t l
      · exact Relinks.refl t
      · exact Relinks.refl t
      · exact startFull_relinks t l
      · exact startFull_relinks t l

theorem renewLinks_relinks : Relinks s (s.renewLinks true) := Relinks.foldl renewLink_relinks _ s

theorem computeRoutes_relinks : Relinks s s.computeRoutes := by
  unfold State.computeRoutes; split <;> exact ⟨_, _, _, rfl⟩

/-- With a coordinate and no job the module is PLACED (R458). -/
theorem place_placed (hkey : s.mgmt.key ≠ 0xFFFF) (hjob : s.job.phase = .none) : s.place = .placed := by
  rw [State.place, if_neg (by rwa [beq_iff_eq]), if_pos (by simp [State.jobRuns, hjob])]

/-- A coordinate stored without a job (R15, R454). -/
theorem takePosition_placed {key : Key} (tag : Word32) (hkey : key ≠ 0xFFFF) (hjob : s.job.phase = .none) :
    let t := s.takePosition key tag
    t.mgmt.key = key ∧ t.mgmt.tag = tag ∧ t.mgmt.hotplug = .placed ∧ t.store = s.store ∧ t.mem = s.mem := by
  let stored : State := { s with mgmt := { s.mgmt with key := key, tag := tag } }
  have place : stored.place = .placed := place_placed stored hkey hjob
  have taken : s.takePosition key tag = (stored.computeRoutes.renewLinks true).setHotplug .placed := by
    rw [← place, State.takePosition, if_neg (by rwa [beq_iff_eq])]
  obtain ⟨l, v, b, renewed⟩ := (computeRoutes_relinks stored).trans (renewLinks_relinks _)
  obtain ⟨e, n, a, o, told⟩ := setHotplug_eq { stored with links := l, servo := v, bypass := b } .placed
  rw [taken, renewed, told]
  exact ⟨rfl, rfl, rfl, rfl, rfl⟩

end

/-! The time master named (R58, R455) -/

section
variable (v : TimeServo)

@[simp] theorem settle_master : v.settle.master = v.master := by
  unfold TimeServo.settle; repeat' split
  all_goals rfl
@[simp] theorem settle_named : v.settle.named = v.named := by
  unfold TimeServo.settle; repeat' split
  all_goals rfl
@[simp] theorem settle_state : v.settle.state = v.state := by
  unfold TimeServo.settle; repeat' split
  all_goals rfl

end

section
variable (s : State) (k : Key)

/-- The module itself named: it becomes the master. -/
theorem nameMaster_self (hself : k = s.mgmt.key) (hkey : k ≠ 0xFFFF) :
    let t := s.nameMaster k
    t.servo.master = k ∧ t.servo.named = s.servo.named ∧ t.servo.state = .master ∧ t.mem = s.mem := by
  have cond : (k == s.mgmt.key && k != 0xFFFF) = true := by rw [← hself, beq_self_eq_true, Bool.true_and, bne_iff_ne]; exact hkey
  unfold State.nameMaster
  dsimp only
  rw [if_pos cond]
  split <;> simp [State.stageTime]

/-- Another module named: a changed master puts the servo into holdover. -/
theorem nameMaster_other (hother : k ≠ s.mgmt.key) :
    let t := s.nameMaster k
    t.servo.master = k ∧ t.servo.named = s.servo.named ∧
      (s.servo.master ≠ 0xFFFF → s.servo.master ≠ k → t.servo.state = .holdover) ∧ t.mem = s.mem := by
  have cond : ¬ (k == s.mgmt.key && k != 0xFFFF) = true := by simp [hother]
  unfold State.nameMaster
  dsimp only
  rw [if_neg cond]
  split
  · exact ⟨rfl, rfl, fun _ _ => rfl, rfl⟩
  · next same =>
    have kept : s.servo.master ≠ 0xFFFF → s.servo.master ≠ k → False := fun h1 h2 => same (by rw [bne_iff_ne.mpr h1, bne_iff_ne.mpr h2]; rfl)
    split <;> exact ⟨rfl, rfl, fun h1 h2 => (kept h1 h2).elim, rfl⟩

end

/-! A plan unloaded (R382) -/

section
variable (s : State)

theorem dropWindows_completes (bs : List HostBuffer) : Completes s (s.dropWindows bs) := by
  unfold State.dropWindows
  induction bs generalizing s with
  | nil => exact Completes.refl s
  | cons b bs ih => exact Completes.trans ⟨_, _, _, rfl⟩ (ih _)

/-- The roles of a list of ports taken away (R357). -/
theorem foldl_dropRole (l : List Nat) :
    let t := l.foldl (fun t p => t.onPort p (fun q => { q with role := .none })) s
    Completes s t ∧ ∀ p, p ∈ l ∨ (s.port p).role = .none → (t.port p).role = .none := by
  induction l generalizing s with
  | nil => exact ⟨Completes.refl s, fun p h => h.resolve_left List.not_mem_nil⟩
  | cons x l ih =>
    obtain ⟨frame, gone⟩ := ih (s.onPort x (fun q => { q with role := .none }))
    refine ⟨Completes.trans ⟨_, _, _, rfl⟩ frame, fun p h => gone p ?_⟩
    by_cases same : p = x
    · subst same; exact .inr (by simp)
    · rw [port_onPort_other _ _ same]
      exact h.imp_left fun mem => (List.mem_cons.mp mem).resolve_left same

/-- The end of ownership leaves no owner and calls for a scrub of HBM (R357, R397). -/
theorem endOwnership_ends : s.endOwnership.owner = none ∧ s.endOwnership.rst.scrubHbm = true ∧
    s.endOwnership.store.cur = s.store.cur ∧ s.endOwnership.mem = s.mem := by
  obtain ⟨frame, gone⟩ := foldl_dropRole s (List.range 4)
  refine ⟨?owner, rfl, ?cur, frame.rest.1⟩
  case owner =>
    refine List.find?_eq_none.mpr fun p hp => ?_
    have none : (s.endOwnership.port p).role = .none := gone p (.inl hp)
    simp [none]
  case cur =>
    obtain ⟨_, _, _, ended⟩ := frame
    simp [State.endOwnership, ended]

theorem unload_ends : s.unload.store.cur = none ∧ s.unload.owner = none ∧ s.unload.rst.scrubHbm = true ∧ s.unload.mem = s.mem := by
  have windows := (dropWindows_completes s s.feed.ring).trans
    (dropWindows_completes _ (s.results.map (fun (x : Nat × ResultStream) => x.2.slots)).flatten)
  unfold State.unload
  dsimp only
  generalize State.dropWindows (s.dropWindows s.feed.ring) _ = t at windows ⊢
  have kept : t.mem = s.mem := windows.rest.1
  obtain ⟨owner, scrub, cur, mem⟩ := endOwnership_ends { t with
    store := { t.store with cur := none, next := none, switchStep := none, imageRestored := false }
    feed := {}, results := [], job := { t.job with restored := none }, role := { t.role with secondCopy := false }
    blocks := t.blocks.map (fun (x : Nat × Block) => (x.1, { x.2 with active := false, logical := 0x3F })) }
  exact ⟨cur, owner, scrub, mem.trans kept⟩

end

/-! A removal cancelled (R460) -/

theorem cancelRemoval_ends (s : State) : let t := s.cancelRemoval
    t.mgmt.removal = false ∧ t.mgmt.rmvOk = false ∧ t.mgmt.blocked = false ∧ (∀ u ∈ t.coord.unacked, u.mtype ≠ 0x55) ∧
      t.job = s.job ∧ t.mem = s.mem := by
  obtain ⟨e, l, a, o, told⟩ := setHotplug_eq { s with
    mgmt := { s.mgmt with removal := false, blocked := false, rmvOk := false }
    coord := { s.coord with unacked := s.coord.unacked.filter (fun u => u.mtype != 0x55) } } _
  unfold State.cancelRemoval
  dsimp only
  rw [told]
  refine ⟨rfl, rfl, rfl, fun u hu => ?_, rfl, rfl⟩
  exact bne_iff_ne.mp (List.mem_filter.mp hu).2

/-! The acceptance of a message (R451, R453) -/

/-- A vendor message is answered by `State.vendor` under its own code, with its own refusal and effect. -/
theorem exec_vendorCode {b : Bool} {c : Instr} {n : Nat} (h : Claims.vendorCode b c = some n) (s : State) :
    ∃ deny effect, exec c s = .next (s.vendor n b deny effect) := by
  unfold Claims.vendorCode at h
  split at h
  case h_11 => contradiction
  all_goals
    obtain ⟨rfl, code⟩ := Option.ite_none_right_eq_some.mp h
    obtain rfl := Option.some.inj code
    exact ⟨_, _, rfl⟩

section
variable {s : State} {b : Bool} {c : Instr} {n : Nat}

/-- A module without its endpoint hears nothing (R445). -/
theorem vendorCode_unheard (h : Claims.vendorCode b c = some n) (away : s.endpoint = false) : exec c s = .next s := by
  obtain ⟨deny, effect, answer⟩ := exec_vendorCode h s
  simp [answer, State.vendor, away]

/-- Outside a secured session a message is answered with status 1 (R451). -/
theorem vendorCode_unsecured (h : Claims.vendorCode b c = some n) (heard : s.endpoint = true) (outside : b = false ∨ s.mgmt.sessions = []) :
    Claims.Answers c s n 1 := by
  obtain ⟨deny, effect, answer⟩ := exec_vendorCode h s
  rw [Claims.Answers, answer]
  obtain rfl | empty := outside
  · simp [State.vendor, State.vendorReply, heard]
  · simp [State.vendor, State.vendorReply, heard, empty]

variable {deny : Option Byte} {effect : State → State}

/-- In a secured session the message's own refusal is its status. -/
theorem answers_of_denied (heard : s.endpoint = true) (secured : s.mgmt.sessions ≠ []) {x : Byte} (hdeny : deny = some x)
    (answer : exec c s = .next (s.vendor n true deny effect)) : Claims.Answers c s n x := by
  rw [Claims.Answers, answer, hdeny]
  simp [State.vendor, State.vendorReply, heard, secured]

/-- In a secured session a message that nothing refuses has its effect. -/
theorem exec_of_accepted (heard : s.endpoint = true) (secured : s.mgmt.sessions ≠ []) (hdeny : deny = none)
    (answer : exec c s = .next (s.vendor n true deny effect)) : exec c s = .next (effect s) := by
  rw [answer, hdeny]
  simp [State.vendor, heard, secured]

end

@[simp] theorem firstByte_none (y : Option Byte) : firstByte none y = y := rfl
@[simp] theorem firstByte_some (x : Byte) (y : Option Byte) : firstByte (some x) y = some x := rfl

theorem jobDenies_of_job {s : State} (h : s.job.phase ≠ .none) : s.jobDenies = some 2 := by simp [State.jobDenies, h]
theorem jobDenies_of_none {s : State} (h : s.job.phase = .none) : s.jobDenies = none := by simp [State.jobDenies, h]

/-! Each message in a secured session -/

section
variable {s : State} (heard : s.endpoint = true) (secured : s.mgmt.sessions ≠ [])
include heard secured

theorem job_bars (key : Key) (tag : Word32) (bank back : List Byte) (f : BitVec 8) (hjob : s.job.phase ≠ .none) :
    Claims.Answers (.setPosition true key tag) s 2 2 ∧ Claims.Answers (.mgmtUnloadPlan true) s 5 2 ∧
      Claims.Answers (.programFuses true bank back) s 7 2 ∧ Claims.Answers (.raiseFloor true f) s 8 2 := by
  have barred (y : Option Byte) : firstByte s.jobDenies y = some 2 := by rw [jobDenies_of_job hjob, firstByte_some]
  exact ⟨answers_of_denied heard secured (barred _) rfl, answers_of_denied heard secured (jobDenies_of_job hjob) rfl,
    answers_of_denied heard secured (barred _) rfl, answers_of_denied heard secured (barred _) rfl⟩

theorem setPosition_invalid {key : Key} (tag : Word32) (hjob : s.job.phase = .none) (hkey : key ≠ 0xFFFF) (invalid : keyValid key = false) :
    Claims.Answers (.setPosition true key tag) s 2 4 := by
  refine answers_of_denied heard secured ?_ rfl
  rw [jobDenies_of_none hjob, firstByte_none, if_neg (by rwa [beq_iff_eq]), invalid]; rfl

theorem setPosition_otherRole {key : Key} (tag : Word32) (hjob : s.job.phase = .none) (hkey : key ≠ 0xFFFF) (valid : keyValid key = true)
    (role : keyRelay key ≠ s.relay) : Claims.Answers (.setPosition true key tag) s 2 3 := by
  refine answers_of_denied heard secured ?_ rfl
  rw [jobDenies_of_none hjob, firstByte_none, if_neg (by rwa [beq_iff_eq]), valid]
  simp [State.keyFits, role]

theorem setPosition_placed {key : Key} (tag : Word32) (hjob : s.job.phase = .none) (hkey : key ≠ 0xFFFF) (valid : keyValid key = true)
    (role : keyRelay key = s.relay) : ∃ t, exec (.setPosition true key tag) s = .next t ∧ t.mgmt.key = key ∧ t.mgmt.tag = tag ∧
      t.mgmt.hotplug = .placed ∧ t.out.getLast? = some (.management "VENDOR" [2, 0, 0, 0]) ∧ t.store = s.store ∧ t.mem = s.mem := by
  have answer : exec (.setPosition true key tag) s = .next ((s.takePosition key tag).vendorReply 2 0 []) := by
    refine (exec_of_accepted heard secured ?accepted rfl).trans ?effect
    case accepted =>
      rw [jobDenies_of_none hjob, firstByte_none, if_neg (by rwa [beq_iff_eq]), valid]
      simp [State.keyFits, role]
    case effect => rfl
  obtain ⟨coordinate, label, place, store, mem⟩ := takePosition_placed s tag hkey hjob
  generalize s.takePosition key tag = taken at *
  exact ⟨_, answer, coordinate, label, place, List.getLast?_concat, store, mem⟩

theorem nameTimeMaster_unfit {key : Key} (unfit : s.masterFits key = false) : Claims.Answers (.nameTimeMaster true key) s 3 4 :=
  answers_of_denied heard secured (if_neg (by simp [unfit])) rfl

theorem nameTimeMaster_named {key : Key} (fit : s.masterFits key = true) (hkey : key ≠ 0xFFFF) (placed : s.mgmt.key ≠ 0xFFFF)
    (stays : s.mgmt.removal = false) : ∃ t, exec (.nameTimeMaster true key) s = .next t ∧
      t.servo.master = key ∧ t.servo.named = true ∧ (key = s.mgmt.key → t.servo.state = .master) ∧
      (key ≠ s.mgmt.key → s.servo.master ≠ 0xFFFF → s.servo.master ≠ key → t.servo.state = .holdover) ∧ t.mem = s.mem := by
  let named : State := { s with servo := { s.servo with named := true } }
  have answer : exec (.nameTimeMaster true key) s = .next ((named.nameMaster key).vendorReply 3 0 []) := by
    refine (exec_of_accepted heard secured (if_pos fit) rfl).trans ?_
    rw [if_neg (by rwa [beq_iff_eq]), stays]; rfl
  refine ⟨_, answer, ?_⟩
  by_cases self : key = s.mgmt.key
  · obtain ⟨master, kept, state, mem⟩ := nameMaster_self named key self hkey
    exact ⟨master, kept, fun _ => state, fun other => absurd self other, mem⟩
  · obtain ⟨master, kept, state, mem⟩ := nameMaster_other named key self
    exact ⟨master, kept, fun same => absurd same self, fun _ => state, mem⟩

theorem mgmtReset_invalid {kind : BitVec 8} (h1 : kind ≠ 1) (h2 : kind ≠ 2) : Claims.Answers (.mgmtReset true kind) s 4 4 :=
  answers_of_denied heard secured (if_neg (by simpa using And.intro h1 h2)) rfl

theorem mgmtReset_due {kind : BitVec 8} (h : kind = 1 ∨ kind = 2) : ∃ t, exec (.mgmtReset true kind) s = .next t ∧
    t.rst = { s.rst with due := s.rst.due ++ [if kind = 1 then .mgmtCold else .mgmtWarm] } ∧ t.job = s.job ∧ t.mem = s.mem := by
  refine ⟨_, exec_of_accepted heard secured (if_pos (by simpa using h)) rfl, ?_, rfl, rfl⟩
  simp [State.vendorReply]

theorem mgmtUnloadPlan_absent (hjob : s.job.phase = .none) (absent : s.store.cur = none) : Claims.Answers (.mgmtUnloadPlan true) s 5 5 := by
  refine (exec_of_accepted heard secured (jobDenies_of_none hjob) rfl).trans ?_
  rw [absent]; rfl

theorem mgmtUnloadPlan_unloads (hjob : s.job.phase = .none) (loaded : s.store.cur.isSome = true) :
    ∃ t, exec (.mgmtUnloadPlan true) s = .next t ∧ t.store.cur = none ∧ t.owner = none ∧ t.rst.scrubHbm = true ∧ t.mem = s.mem := by
  have answer : exec (.mgmtUnloadPlan true) s = .next (s.unload.vendorReply 5 0 []) := by
    refine (exec_of_accepted heard secured (jobDenies_of_none hjob) rfl).trans ?_
    rw [if_neg (by simpa [Option.isSome_iff_ne_none] using loaded)]
  exact ⟨_, answer, unload_ends s⟩

theorem setPlanKeys_many {keys : List (BitVec 512)} (many : 4 < keys.length) : Claims.Answers (.setPlanKeys true keys) s 6 4 :=
  answers_of_denied heard secured (if_neg (by omega)) rfl

/-- PLAN_KEYS stored, or deleted by a count of 0, without a plan. -/
theorem setPlanKeys_stored {keys : List (BitVec 512)} (few : keys.length ≤ 4) (absent : s.store.cur = none)
    (running : (s.record 3).running = none) (power : s.granary.pfActive = false) (recent : (s.record 3).recent = false)
    (takes : s.takes 3 false = true) : ∃ t, exec (.setPlanKeys true keys) s = .next t ∧ t.granary.planKeys = keys ∧
      t.out.getLast? = some (.management "VENDOR" [6, 0, 0, 0]) ∧ t.mem = s.mem := by
  let body := keys.flatMap (fun k => leBytes 64 k.toNat)
  let stored := if keys.isEmpty then s.absentRecord 3 else s.updateRecord 3 body .written
  have answer : exec (.setPlanKeys true keys) s = .next (stored.vendorReply 6 0 []) := by
    refine (exec_of_accepted heard secured (if_pos few) rfl).trans ?_
    rw [absent]; rfl
  obtain ⟨taken, mem⟩ : stored.granary.planKeys = keys ∧ stored.mem = s.mem := by
    cases keys with
    | nil => exact ⟨rfl, rfl⟩
    | cons k ks =>
      obtain ⟨frame, taken⟩ := updateRecord_planKeys s body running power recent takes
      exact ⟨taken.trans (keysOf_flatMap_leBytes few), frame.errs.rest.1⟩
  exact ⟨_, answer, taken, List.getLast?_concat, mem⟩

theorem programFuses_blows {bank : List Byte} (back : List Byte) (hjob : s.job.phase = .none) (fresh : s.rst.blownBank = [])
    (size : bank.length = 64) : ∃ t, exec (.programFuses true bank back) s = .next t ∧
      t.rst.blownBank = blownBank bank back ∧ t.rst.integratorBank = s.rst.integratorBank ∧ t.mem = s.mem := by
  refine ⟨_, exec_of_accepted heard secured ?_ rfl, rfl, rfl, rfl⟩
  simp [jobDenies_of_none hjob, fresh, size]

theorem programFuses_again (bank back : List Byte) (hjob : s.job.phase = .none) (blown : s.rst.blownBank ≠ []) :
    Claims.Answers (.programFuses true bank back) s 7 5 :=
  answers_of_denied heard secured (by simp [jobDenies_of_none hjob, blown]) rfl

theorem raiseFloor_raises {f : BitVec 8} (hjob : s.job.phase = .none) (above : s.rst.fuseFloor < f.toNat) (most : f.toNat ≤ 64)
    (image : f.toNat * 2 ^ 24 ≤ s.rst.imageVersion.toNat) (valid : ∀ v ∈ s.rst.validVersions, f.toNat * 2 ^ 24 ≤ v.toNat) :
    ∃ t, exec (.raiseFloor true f) s = .next t ∧ t.rst = { s.rst with fuseFloor := f.toNat } ∧ t.mem = s.mem := by
  refine ⟨_, exec_of_accepted heard secured ?_ rfl, rfl, rfl⟩
  have noImage : (decide (s.rst.imageVersion.toNat < f.toNat * 2 ^ 24) ||
      s.rst.validVersions.any (fun v => decide (v.toNat < f.toNat * 2 ^ 24))) = false := by
    simpa using And.intro image valid
  rw [jobDenies_of_none hjob, firstByte_none, if_neg (by omega), if_neg (by omega), noImage]; rfl

/-- REQUEST_REMOVAL does what ATTN_N does, and answers (R460). -/
theorem requestRemoval_attnN {t : State} (attention : exec .attnN s = .next t) (birtur : s.rst.birtur = true) :
    ∃ u, exec (.requestRemoval true) s = .next u ∧ u = { t with out := t.out ++ [.management "VENDOR" [9, 0, 0, 0]] } := by
  have latched : exec .attnN s = .next s.latchRemoval := if_pos birtur
  obtain rfl : s.latchRemoval = t := Host.Outcome.next.inj (latched.symm.trans attention)
  exact ⟨_, exec_of_accepted heard secured rfl rfl, rfl⟩

theorem cancelRemoval_late (removal : s.mgmt.removal = true) (committed : s.removalCommitted = true) :
    Claims.Answers (.cancelRemoval true) s 10 7 := by
  refine (exec_of_accepted heard secured rfl rfl).trans ?_
  rw [removal, committed]; rfl

theorem cancelRemoval_cancels (removal : s.mgmt.removal = true) (committed : s.removalCommitted = false) :
    ∃ t, exec (.cancelRemoval true) s = .next t ∧ t.mgmt.removal = false ∧ t.mgmt.rmvOk = false ∧ t.mgmt.blocked = false ∧
      (∀ u ∈ t.coord.unacked, u.mtype ≠ 0x55) ∧ t.job = s.job ∧ t.mem = s.mem := by
  have answer : exec (.cancelRemoval true) s = .next (s.cancelRemoval.vendorReply 10 0 []) := by
    refine (exec_of_accepted heard secured rfl rfl).trans ?_
    rw [removal, committed]; rfl
  exact ⟨_, answer, cancelRemoval_ends s⟩

theorem clearCause_clears (mask : Word32) : ∃ t, exec (.clearCause true mask) s = .next t ∧
    t.rst = { s.rst with cause := s.rst.cause &&& ~~~ mask } ∧ t.mem = s.mem :=
  ⟨_, exec_of_accepted heard secured rfl rfl, rfl, rfl⟩

end

/-- Which keys can be the time master (R455). -/
theorem masterFits_iff (s : State) (k : Key) : s.masterFits k = true ↔ keyValid k = true ∧ (s.store.map = none ∨ k ∈ s.present) := by
  simp [State.masterFits]

/-- Settles O28: outside a session every message is answered alike (`exec_vendorCode`); inside one, each clause is the law of its message. -/
theorem vendorMessages : Obligations.VendorMessages := by
  intro s key tag mask kind f keys bank back
  refine ⟨fun away c b n h => vendorCode_unheard h away, fun heard c n h => vendorCode_unsecured h heard (.inl rfl),
    fun heard empty c n h => vendorCode_unsecured h heard (.inr empty), fun heard secured => ?_⟩
  have unfit (h : ¬ (keyValid key = true ∧ (s.store.map = none ∨ key ∈ s.present))) : s.masterFits key = false :=
    Bool.eq_false_iff.mpr (mt (masterFits_iff s key).mp h)
  exact ⟨job_bars heard secured key tag bank back f,
    fun hjob hkey => ⟨setPosition_invalid heard secured tag hjob hkey, setPosition_otherRole heard secured tag hjob hkey,
      setPosition_placed heard secured tag hjob hkey⟩,
    fun invalid => nameTimeMaster_unfit heard secured (unfit (by simp [invalid])),
    fun bound missing => nameTimeMaster_unfit heard secured (unfit fun ⟨_, known⟩ => known.elim (Option.isSome_iff_ne_none.mp bound) missing),
    fun valid known => nameTimeMaster_named heard secured ((masterFits_iff s key).mpr ⟨valid, known⟩),
    mgmtReset_invalid heard secured, mgmtReset_due heard secured,
    mgmtUnloadPlan_unloads heard secured, mgmtUnloadPlan_absent heard secured,
    setPlanKeys_many heard secured, setPlanKeys_stored heard secured,
    programFuses_blows heard secured back, programFuses_again heard secured bank back,
    raiseFloor_raises heard secured, fun _ => requestRemoval_attnN heard secured,
    cancelRemoval_late heard secured, cancelRemoval_cancels heard secured, clearCause_clears heard secured mask⟩

end Sys2Proof.Machine
end

/-! SUPPORT. Network time, the state after a power-on reset, sync fields, and the time block's pulses and captures (R35, R50, R60, R61). -/

section
namespace Sys2Proof.Machine

open Sys2Proof
/-- Settles O8. -/
theorem networkTimeFormula : Obligations.NetworkTimeFormula := by
  intro s
  rw [State.now, TimeBlock.now, BitVec.toNat_add, BitVec.toNat_ofNat, Nat.add_mod_mod]

/-- Settles O58. -/
theorem resetState : Obligations.ResetState :=
  ⟨⟨rfl, rfl⟩, rfl, rfl, rfl, rfl, rfl, rfl, rfl, rfl, rfl, rfl, rfl, rfl, fun _ => ⟨rfl, rfl⟩, fun _ => ⟨rfl, rfl⟩, fun _ => ⟨rfl, rfl⟩, fun _ _ => rfl⟩

/-! Sync fields (R35) -/

theorem field_low (f : Byte) : field f 0 3 = f.toNat % 8 := by simp [field]
theorem field_epoch (f : Byte) : field f 6 2 = f.toNat / 64 := by
  have := f.isLt
  simp [field]; omega

theorem joinIndex_of_joined {s : State} {f : Byte} (h : s.job.joining = false) : s.joinIndex f = s := by simp [State.joinIndex, h]

/-- A field of another sheaf or segment is ignored (R35). -/
theorem readSync_other {s : State} {l : Nat} {f : Byte} (h : s.job.joining = false)
    (other : f.toNat % 8 ≠ (s.sheaf.sheafCount.toNat + 7) % 8 ∨ f.toNat / 64 ≠ s.sheaf.syncEpoch.toNat) : s.readSync l f = s := by
  simp only [State.readSync, joinIndex_of_joined h, field_low, field_epoch]
  refine if_neg ?_
  simp only [Bool.and_eq_true, beq_iff_eq]
  tauto

/-- A field of the present sheaf and segment is what the link reports (R35). -/
theorem readSync_own {s : State} {l : Nat} {f : Byte} (joined : s.job.joining = false) (runs : s.job.phase = .running) (begun : s.sheaf.begun = true)
    (sheaf : f.toNat % 8 = (s.sheaf.sheafCount.toNat + 7) % 8) (segment : f.toNat / 64 = s.sheaf.syncEpoch.toNat) :
    ((s.readSync l f).link l).rxSync = some (f.getLsbD 3, f.getLsbD 4, f.getLsbD 5) := by
  have taken : (s.jobRuns && s.sheaf.begun && field f 0 3 == (s.sheaf.sheafCount.toNat + 7) % 8 && field f 6 2 == s.sheaf.syncEpoch.toNat) = true := by
    simp [State.jobRuns, runs, begun, field_low, field_epoch, sheaf, segment]
  rw [State.readSync, joinIndex_of_joined joined, if_pos taken, link_onLink_same]
  rfl

theorem reports_silent {k : Link} (h : k.rxSync = none) : k.reports = { done := false, hold := false, abort := false } := by
  rw [Link.reports, h]

/-- Joined reports (R39): DONE is an AND, HOLD and ABORT are ORs. -/
theorem joinAll_iff (l : List Bits) : ((joinAll l).done = true ↔ ∀ b ∈ l, b.done = true) ∧ ((joinAll l).hold = true ↔ ∃ b ∈ l, b.hold = true) ∧
    ((joinAll l).abort = true ↔ ∃ b ∈ l, b.abort = true) := by
  have from_ (a : Bits) : ((l.foldl Bits.join a).done = true ↔ a.done = true ∧ ∀ b ∈ l, b.done = true) ∧
      ((l.foldl Bits.join a).hold = true ↔ a.hold = true ∨ ∃ b ∈ l, b.hold = true) ∧
      ((l.foldl Bits.join a).abort = true ↔ a.abort = true ∨ ∃ b ∈ l, b.abort = true) := by
    induction l generalizing a with
    | nil => simp
    | cons b l ih => simp [ih, Bits.join, and_assoc, or_assoc]
  simpa [joinAll] using from_ { done := true, hold := false, abort := false }

/-- A link that a module is heard on is one to it. -/
theorem mem_linksTo {s : State} {k : Key} {l : Nat} (h : l ∈ s.linksTo k) : l < 56 ∧ (s.link l).peerKey = k := by
  simp only [State.linksTo, List.mem_filter, List.mem_range, Bool.and_eq_true, beq_iff_eq] at h
  exact ⟨h.1, h.2.1⟩

/-- Of a module whose links have had no matching field nothing is heard (R35). -/
theorem heard_silent {s : State} {k : Key} (h : ∀ x < 56, (s.link x).peerKey = k → (s.link x).rxSync = none) :
    (s.heard k).done = false ∧ (s.heard k).hold = false ∧ (s.heard k).abort = false := by
  have silent : ∀ b ∈ (s.linksTo k).map (fun l => (s.link l).reports), b = { done := false, hold := false, abort := false } := by
    intro b hb
    obtain ⟨l, hl, rfl⟩ := List.mem_map.mp hb
    obtain ⟨bound, peer⟩ := mem_linksTo hl
    exact reports_silent (h l bound peer)
  obtain ⟨done, hold, abort⟩ := joinAll_iff ((s.linksTo k).map (fun l => (s.link l).reports))
  refine ⟨?done, Bool.eq_false_iff.mpr fun on => ?hold, Bool.eq_false_iff.mpr fun on => ?abort⟩
  case done =>
    have unheard : (joinAll ((s.linksTo k).map (fun l => (s.link l).reports))).done = false ∨ s.linksTo k = [] := by
      refine or_iff_not_imp_right.mpr fun some => Bool.eq_false_iff.mpr fun on => ?_
      have first := List.mem_map_of_mem (f := fun l => (s.link l).reports) (List.head_mem some)
      have := done.mp on _ first
      simp [silent _ first] at this
    obtain off | empty := unheard
    · simp [State.heard, off]
    · simp [State.heard, empty]
  case hold =>
    obtain ⟨b, mem, on⟩ := hold.mp on
    simp [silent b mem] at on
  case abort =>
    obtain ⟨b, mem, on⟩ := abort.mp on
    simp [silent b mem] at on

/-- Settles O7. -/
theorem unmatchedSyncIgnored : Obligations.UnmatchedSyncIgnored :=
  fun _ _ _ _ joined => ⟨readSync_other joined, readSync_own joined, heard_silent⟩

/-! Pulses and captures (R60, R61) -/

section
variable {p : Pulse} {now r : Nat}

theorem edge_rises (on : p.enable = true) (idle : p.active = false) (next : p.rise = some r) (due : r ≤ now) :
    p.edge now = { p with active := true, begun := p.begun + 1, armed := p.mode != 0, high := !p.polarity, fall := r + p.width.toNat
                          rise := if p.mode = 1 then some (r + p.period.toNat) else none } := by
  simp [Pulse.edge, on, idle, next, due, Pulse.drive]

theorem edge_waits (idle : p.active = false) (next : p.rise = some r) (early : now < r) : p.edge now = p := by
  simp [Pulse.edge, idle, next, Nat.not_le.mpr early]

theorem edge_falls (on : p.enable = true) (busy : p.active = true) (due : p.fall ≤ now) :
    p.edge now = { p with active := false, high := p.polarity } := by
  simp [Pulse.edge, on, busy, due, Pulse.drive]

theorem edge_lasts (busy : p.active = true) (early : now < p.fall) : p.edge now = p := by
  simp [Pulse.edge, busy, Nat.not_le.mpr early]

/-- MODE of a control write. -/
theorem field_mode (v : Word32) : field v 2 2 = (v.extractLsb' 2 2).toNat := by
  simp [field, BitVec.extractLsb'_toNat, Nat.shiftRight_eq_div_pow]

theorem limits_broken {v : Word32} (h : p.width.toNat < 10 ∨ v.extractLsb' 2 2 = 3 ∨
    (v.extractLsb' 2 2 = 1 ∧ (p.period.toNat < 20 ∨ p.period.toNat ≤ p.width.toNat))) : p.limits (field v 2 2) = false := by
  obtain narrow | reserved | ⟨train, short⟩ := h
  · simp [Pulse.limits, narrow]
  · simp [Pulse.limits, field_mode, reserved]
  · simp only [Pulse.limits, field_mode, train]
    rcases short with h | h <;> simp [h]

/-- A control write outside the limits leaves the output disabled and low (R60). -/
theorem write_broken {v : Word32} (h : p.limits (field v 2 2) = false) : (p.write v now).enable = false ∧ (p.write v now).high = false := by
  simp [Pulse.write, h, Pulse.drive]

/-- A control write in single-pulse mode arms the output for a START to come (R60; log entry 92). -/
theorem write_single {v : Word32} (on : v.getLsbD 0 = true) (wide : 10 ≤ p.width.toNat) (single : v.extractLsb' 2 2 = 0) :
    (p.write v now).enable = true ∧ ((p.write v now).armed = true ↔ now < p.start.toNat) := by
  have mode : field v 2 2 = 0 := by rw [field_mode, single]; rfl
  have within : p.limits 0 = true := by simp [Pulse.limits, wide]
  simp [Pulse.write, mode, within, bit, on, Pulse.drive, Pulse.firstRise]

end

/-- Settles O9. -/
theorem pulsesAndCaptures : Obligations.PulsesAndCaptures := by
  intro s v rising r p p1
  refine ⟨fun on idle next => ⟨fun due => ?rises, fun early => ?waits⟩, fun on busy => ⟨fun due => ?falls, fun early => ?lasts⟩,
    fun broken => ?broken, fun on wide single => ?single, fun on edge => ⟨fun h0 => ?first, fun h0 h1 => ?second, fun h0 h1 => ?overrun⟩⟩
  case rises => exact congrArg (fun q => Host.Outcome.next { s with time := { s.time with pulse0 := q } }) (edge_rises on idle next due)
  case waits => exact congrArg (fun q => Host.Outcome.next { s with time := { s.time with pulse0 := q } }) (edge_waits idle next early)
  case falls => exact congrArg (fun q => Host.Outcome.next { s with time := { s.time with pulse1 := q } }) (edge_falls on busy due)
  case lasts => exact congrArg (fun q => Host.Outcome.next { s with time := { s.time with pulse1 := q } }) (edge_lasts busy early)
  case broken => 
    obtain ⟨off, low⟩ := write_broken (now := s.nowNs) (limits_broken broken)
    exact ⟨_, rfl, off, low, rfl⟩
  case single => exact ⟨_, rfl, write_single on wide single⟩
  all_goals
    show execTcaptureEdge rising s = _
    cases rising <;> simp_all [execTcaptureEdge, bit]

end Sys2Proof.Machine
end

/-! SUPPORT. What an entry of the error log touches, the segment handshake and the staged update of network time (R31, R52, R346). -/

section
namespace Sys2Proof.Machine

open Sys2Proof

/-! What an entry of the error log touches of the fault block (R346) -/

section
variable (s : State)

@[simp] theorem committed_fault (ty : Nat) : (s.committed ty).fault = s.fault := by
  unfold State.committed; split <;> rfl

@[simp] theorem platform_fault (what : String) (v : Nat) : (s.platform what v).fault = s.fault := by
  unfold State.platform; split <;> rfl

@[simp] theorem vector_fault (p v : Nat) : (s.vector p v).fault = s.fault := by
  obtain ⟨_, _, _, eq⟩ := vector_completes s p v
  rw [eq]

@[simp] theorem event_fault (p i : Nat) : (s.event p i).fault = s.fault := by
  obtain ⟨_, _, _, eq⟩ := event_completes s p i
  rw [eq]

@[simp] theorem ownerEvent_fault (i : Nat) : (s.ownerEvent i).fault = s.fault := by
  unfold State.ownerEvent; split <;> simp

/-- A new entry enters the ring; its other effects leave the fault block alone. -/
@[simp] theorem logNew_fault (e : LogEntry) : (s.logNew e).fault = (s.appendLog e).fault := by
  unfold State.logNew
  dsimp only
  split <;> split <;> simp

/-- An entry touches the ring, the next number and the mark of hardware seen. -/
theorem log_fault (a : LogArgs) : ∃ l n h, (s.log a).fault = { s.fault with log := l, nextSeq := n, hardwareSeen := h } := by
  unfold State.log
  dsimp only
  split
  · split
    · exact ⟨_, _, _, rfl⟩
    · exact ⟨_, _, _, logNew_fault s _⟩
  · exact ⟨_, _, _, logNew_fault s _⟩

@[simp] theorem log_abort (a : LogArgs) : (s.log a).fault.abort = s.fault.abort := by
  obtain ⟨_, _, _, h⟩ := log_fault s a
  rw [h]

theorem logCapacity_pos : 0 < s.logCapacity := by unfold State.logCapacity; split <;> decide

/-- The newest entries end with the latest. -/
theorem newest_concat {α : Type} {k : Nat} (l : List α) (e : α) (h : 0 < k) : (newest k (l ++ [e])).getLast? = some e := by
  rw [newest, List.length_append, List.drop_append_of_le_length (by simp; omega)]
  exact List.getLast?_concat

/-- An entry of severity 2 or more never coalesces (R348): it is the log's last. -/
theorem log_last {a : LogArgs} (severe : 2 ≤ (BitVec.ofNat 8 a.severity).toNat) :
    (s.log a).fault.log.getLast? = some (s.logEntry a) := by
  have apart (e : LogEntry) : coalesces e (s.logEntry a) = false := by
    have : decide ((s.logEntry a).severity.toNat ≤ 1) = false := decide_eq_false (Nat.not_le.mpr severe)
    simp [coalesces, this]
  have new : s.log a = s.logNew (s.logEntry a) := by
    unfold State.log
    dsimp only
    split
    · rw [apart]; rfl
    · rfl
  rw [new, logNew_fault]
  exact newest_concat _ _ (logCapacity_pos s)

end

/-! The segment handshake (R31) -/

section
variable {s : State} {e : Word64} {p : Word32} {se : BitVec 2} {src : Key}

theorem answer_sends (s : State) (src : Key) (req mtype len body : Nat) : Sends s (s.answer src req mtype len body) := by
  unfold State.answer
  split
  · exact answerTo_sends s ..
  · exact send_sends s ..

theorem segmentAnnouncement_taken (s : State) (e : Word64) (p : Word32) (se : BitVec 2) :
    ∃ t, exec (.segmentAnnouncement s.coord.coordKey e p se) s = .next t ∧ t.time = { s.time with epoch := e } ∧
      t.sheaf = { s.sheaf with nextSeg := some (e, p, se) } ∧ t.job = s.job ∧ t.mem = s.mem := by
  obtain ⟨l, b, c, answered⟩ := answer_sends (s.takeSegment e p se) s.coord.coordKey 0x20 0x21 8 e.toNat
  exact ⟨_, if_pos (beq_self_eq_true _), by rw [answered]; exact ⟨rfl, rfl, rfl, rfl⟩⟩

theorem segmentAnnouncement_other (h : src ≠ s.coord.coordKey) : exec (.segmentAnnouncement src e p se) s = .next s :=
  if_neg (by simpa using h)

theorem segmentAcknowledgement_recorded (coordinator : s.coord.isCoord = true) (waiting : s.coord.segOpen = true) (segment : s.coord.segEpoch = e)
    (first : src ∉ s.coord.segAcks) : ∃ t, exec (.segmentAcknowledgement src e) s = .next t ∧ t.coord.segAcks = s.coord.segAcks ++ [src] ∧
      (t.coord.segOpen = false ↔ ∀ k ∈ s.members, k ∈ s.coord.segAcks ∨ k = src) ∧ t = { s with coord := t.coord } := by
  refine ⟨_, if_pos (by simp [coordinator, waiting, segment, first]), rfl, ?_, rfl⟩
  change (!s.members.all (s.coord.segAcks ++ [src]).contains) = false ↔ _
  simp

/-- The epoch chosen is the first whole millisecond at least 10 ms ahead of T. -/
theorem newEpoch_first (s : State) : s.newEpoch % 1000000 = 0 ∧ s.now.toNat + 10000000 * 2 ^ 16 ≤ s.newEpoch * 2 ^ 16 ∧
    s.newEpoch * 2 ^ 16 < s.now.toNat + 11000000 * 2 ^ 16 := by
  simp only [State.newEpoch, ceilDiv]
  omega

theorem newEpoch_lt (h : s.nowNs + 11000000 < 2 ^ 64) : s.newEpoch < 2 ^ 64 := by
  have := (newEpoch_first s).2.2
  rw [State.nowNs] at h
  omega

/-- A chosen epoch is sent to every module and taken; the present segment's state stays. -/
theorem chooseEpoch_eq (s : State) (p : Word32) (se : BitVec 2) : ∃ l b, ∃ c : Coordination, s.chooseEpoch p se = { s with
    links := l, bypass := b, coord := { c with segEpoch := BitVec.ofNat 64 s.newEpoch, segOpen := true, segAcks := [s.mgmt.key] }
    time := { s.time with epoch := BitVec.ofNat 64 s.newEpoch }
    sheaf := { s.sheaf with nextSeg := some (BitVec.ofNat 64 s.newEpoch, p, se) } } := by
  obtain ⟨l, b, c, sent⟩ := sendAll_sends s (s.members.filter (· != s.mgmt.key)) 0x20 13
    (bodyOf [((BitVec.ofNat 64 s.newEpoch).toNat, 0), (p.toNat, 8), (se.toNat, 12)])
  refine ⟨l, b, c, ?_⟩
  unfold State.chooseEpoch State.takeSegment
  dsimp only
  rw [sent]

theorem epochAcked_false (missing : ∃ k ∈ s.members, k ∉ s.coord.segAcks) : s.epochAcked = false := by
  simpa [State.epochAcked] using missing

theorem epochNotAcknowledged_again (announced : s.sheaf.nextSeg = some (e, p, se)) (coordinator : s.coord.isCoord = true)
    (waiting : s.coord.segOpen = true) (early : s.nowNs + 11000000 < 2 ^ 64) (missing : ∃ k ∈ s.members, k ∉ s.coord.segAcks) :
    ∃ t, exec .epochNotAcknowledged s = .next t ∧ t.time.epoch.toNat % 1000000 = 0 ∧
        s.now.toNat + 10000000 * 2 ^ 16 ≤ t.time.epoch.toNat * 2 ^ 16 ∧
        t.time.epoch.toNat * 2 ^ 16 < s.now.toNat + 11000000 * 2 ^ 16 ∧
        t.coord.segEpoch = t.time.epoch ∧ t.sheaf.nextSeg = some (t.time.epoch, p, se) ∧ t.sheaf.step = s.sheaf.step := by
  have chosen : exec .epochNotAcknowledged s = .next (s.chooseEpoch p se) := by
    show execEpochNotAcknowledged s = _
    simp [execEpochNotAcknowledged, announced, coordinator, waiting, epochAcked_false missing]
  obtain ⟨l, b, c, eq⟩ := chooseEpoch_eq s p se
  have value : (BitVec.ofNat 64 s.newEpoch).toNat = s.newEpoch := by
    rw [BitVec.toNat_ofNat, Nat.mod_eq_of_lt (newEpoch_lt early)]
  obtain ⟨whole, ahead, near⟩ := newEpoch_first s
  refine ⟨_, chosen, ?_⟩
  rw [eq]
  dsimp only
  rw [value]
  exact ⟨whole, ahead, near, rfl, rfl, rfl⟩

theorem segmentHandshake : Claims.SegmentHandshake := fun s _ _ _ _ =>
  ⟨segmentAnnouncement_taken s .., segmentAnnouncement_other, segmentAcknowledgement_recorded, epochNotAcknowledged_again⟩

end

/-! The staged update of network time (R52) -/

/-- A RATE outside the band of R52. -/
theorem inBand_rateBand (r : BitVec 48) :
    inBand rateBand r = true ↔ ¬ (r.toNat + 0x40000000 < 0x00F3CF3CF3CF ∨ 0x00F3CF3CF3CF + 0x40000000 < r.toNat) := by
  have nominal : nominalRate.toNat = 0x00F3CF3CF3CF := rfl
  simp only [inBand, rateBand, nominal, Bool.and_eq_true, decide_eq_true_eq]
  omega

theorem nextArmWrite_arms {s : State} {v : Word32} (on : v.getLsbD 0 = true) : exec (.nextArmWrite v) s = .next { s with time := s.time.arm } :=
  congrArg Host.Outcome.next (if_pos on)

/-- NEXT_ARM by its two conditions. -/
theorem arm_eq (x : TimeBlock) (late range : Bool) (hlate : x.nextAnchor.toNat ≤ x.frc.toNat ↔ late = true) (hrange : inBand rateBand x.nextRate = !range) :
    x.arm = { x with nextPending := !late && !range, nextLate := x.nextLate || late, nextRange := x.nextRange || range } := by
  have : decide (x.frc.toNat < x.nextAnchor.toNat) = !late := by
    cases late <;> simp_all
  simp [TimeBlock.arm, this, hrange]

theorem stagedTimeUpdate : Claims.StagedTimeUpdate := by
  intro s v x out
  have outside (h : out) : inBand rateBand x.nextRate = !true := Bool.eq_false_iff.mpr fun inside => (inBand_rateBand _).mp inside h
  have inside (h : ¬out) : inBand rateBand x.nextRate = !false := (inBand_rateBand _).mpr h
  have armed (on : v.getLsbD 0 = true) (late range : Bool) (hlate : x.nextAnchor.toNat ≤ x.frc.toNat ↔ late = true)
      (hrange : inBand rateBand x.nextRate = !range) := (nextArmWrite_arms (s := s) on).trans
        (congrArg (fun y => Host.Outcome.next { s with time := y }) (arm_eq x late range hlate hrange))
  refine ⟨fun off => ?zero, fun on late => ⟨fun h => ?both, fun h => ?late⟩, fun on early h => ?range, fun on early h => ?armed,
    fun pending now => ?load, fun idle => ?idle, rfl, rfl, rfl⟩
  case zero => exact congrArg Host.Outcome.next (if_neg (ne_true_of_eq_false off))
  case both => simpa using armed on true true (iff_of_true late rfl) (outside h)
  case late => simpa using armed on true false (iff_of_true late rfl) (inside h)
  case range => simpa using armed on false true (by simpa using early) (outside h)
  case armed => simpa using armed on false false (by simpa using early) (inside h)
  case load => exact congrArg (fun y => Host.Outcome.next { s with time := y }) (if_pos (Bool.and_eq_true_iff.mpr ⟨pending, beq_iff_eq.mpr now⟩))
  case idle => exact congrArg (fun y => Host.Outcome.next { s with time := y }) (if_neg fun both => Bool.false_ne_true (idle ▸ (Bool.and_eq_true_iff.mp both).1))

/-- Settles O45. -/
theorem segmentsAndStagedTime : Obligations.SegmentsAndStagedTime := ⟨segmentHandshake, stagedTimeUpdate⟩

end Sys2Proof.Machine
end

/-! SUPPORT. The time servo: its exchanges, its judgement of them, and holdover (R54 to R58). -/

section
namespace Sys2Proof.Machine

open Sys2Proof

/-! The exchanges (R54, R58) -/

section
variable {s : State}

theorem timeExchange_master (master : s.servo.state = .master) : exec .timeExchange s = .next { s with
    servo := { s.servo with masterSeq := s.servo.masterSeq + 1 }, holds := { s.holds with timeSync := false } } :=
  if_pos (beq_iff_eq.mpr master)

/-- A module takes its parent, and asks it where it has one. -/
theorem timeExchange_module (module : s.servo.state ≠ .master) : exec .timeExchange s = .next (match s.parent with
    | some l => (({ s.takeParent with servo := { s.takeParent.servo with t1 := s.now } } : State).sendLink l 0x10 10 s.now.toNat)
    | none => s.takeParent) :=
  if_neg (by simpa using module)

theorem takeParent_none (alone : s.parent = none) : s.takeParent = { s with servo := { s.servo with
    parentLink := 0x3F, lockRun := 0, missRun := 0
    state := if s.servo.state == .acquire || s.servo.state == .locked then .unlocked else s.servo.state } } := by
  rw [State.takeParent, alone]

theorem takeParent_some {n : Nat} (parent : s.parent = some n) :
    s.takeParent = { s with servo := { s.servo with parentLink := BitVec.ofNat 6 n } } := by
  rw [State.takeParent, parent]

theorem timeExchange_alone (module : s.servo.state ≠ .master) (alone : s.parent = none) : ∃ t, exec .timeExchange s = .next t ∧
    t = { s with servo := t.servo } ∧ t.servo.parentLink = 0x3F ∧
      ((s.servo.state = .locked ∨ s.servo.state = .acquire) → t.servo.state = .unlocked) := by
  refine ⟨_, timeExchange_module module, ?_⟩
  rw [alone, takeParent_none alone]
  refine ⟨rfl, rfl, fun seeking => if_pos ?_⟩
  rcases seeking with h | h <;> rw [h] <;> rfl

/-- A message of this module on one link is queued there (R248). -/
theorem link_sendLink_same (s : State) (l mtype len body : Nat) :
    ∃ q, ((s.sendLink l mtype len body).link l).queue = (s.link l).queue ++ [q] ∧ q.msg.mtype = BitVec.ofNat 8 mtype := by
  let q : Queued := { msg := s.packet 0xFFFF mtype len body s.msgId 0 true, since := s.frcUs }
  exact ⟨q, congrArg Link.queue (link_onLink_same s l fun k => { k with queue := k.queue ++ [q] }), rfl⟩

theorem link_sendLink_other (s : State) {l x : Nat} (mtype len body : Nat) (h : x ≠ l) :
    (s.sendLink l mtype len body).link x = s.link x :=
  link_onLink_other s (fun k => { k with queue := k.queue ++ [{ msg := s.packet 0xFFFF mtype len body s.msgId 0 true, since := s.frcUs }] }) h

theorem timeExchange_asks {n : Nat} (module : s.servo.state ≠ .master) (parent : s.parent = some n) :
    ∃ t, exec .timeExchange s = .next t ∧ t.servo.t1 = s.now ∧
      t.servo.parentLink = BitVec.ofNat 6 n ∧ (t.link n).queue.length = (s.link n).queue.length + 1 ∧ t.time = s.time := by
  refine ⟨_, timeExchange_module module, ?_⟩
  rw [parent, takeParent_some parent]
  refine ⟨rfl, rfl, ?_, rfl⟩
  obtain ⟨q, queued, _⟩ := link_sendLink_same
    ({ s with servo := { s.servo with parentLink := BitVec.ofNat 6 n, t1 := s.now } } : State) n 0x10 10 s.now.toNat
  exact (congrArg List.length queued).trans List.length_append

/-- An answer on a link is a message there, kept for a duplicate of its request. -/
theorem answerLink_eq (s : State) (l : Nat) (src : Key) (req mtype len body : Nat) : ∃ b,
    s.answerLink l src req mtype len body = { s with links := (s.sendLink l mtype len body).links, bypass := b } := by
  unfold State.answerLink
  dsimp only
  split <;> exact ⟨_, rfl⟩

theorem timeExchangeRequest_answered (s : State) (l : Fin 56) (src : Key) (id : Word32) :
    ∃ t, exec (.timeExchangeRequest l src id) s = .next t ∧ t = { s with links := t.links, bypass := t.bypass } ∧
      (∀ x, x ≠ l.val → t.link x = s.link x) ∧ ∃ q, (t.link l).queue = (s.link l).queue ++ [q] ∧ q.msg.mtype = 0x11 := by
  let body := bodyOf [(s.now.toNat, 0), (s.now.toNat, 10), (s.servo.master.toNat, 20), (s.servo.masterSeq.toNat, 22)]
  have answer : exec (.timeExchangeRequest l src id) s = .next (s.answerLink l src 0x10 0x11 26 body) := rfl
  obtain ⟨b, answered⟩ := answerLink_eq s l src 0x10 0x11 26 body
  rw [answered] at answer
  have links (x : Nat) : ({ s with links := (s.sendLink l 0x11 26 body).links, bypass := b } : State).link x =
      (s.sendLink l 0x11 26 body).link x := by unfold State.link; rfl
  refine ⟨_, answer, rfl, fun x h => ?_, ?_⟩
  · rw [links, link_sendLink_other s 0x11 26 body h]
  · rw [links]; exact link_sendLink_same s l 0x11 26 body

theorem masterSequenceTimeout_holdover
    (h : s.servo.state = .locked ∨ s.servo.state = .acquire ∨ (s.servo.state = .unlocked ∧ s.servo.master ≠ 0xFFFF)) :
    ∃ t, exec .masterSequenceTimeout s = .next t ∧ t.servo.state = .holdover ∧ t.time = s.time ∧ t = { s with servo := t.servo } ∧
      (s.jobRuns = true → t.servo.resync = true) := by
  refine ⟨s.enterHoldover, if_pos ?_, rfl, rfl, rfl, id⟩
  obtain h | h | ⟨h, known⟩ := h
  · rw [h]; rfl
  · rw [h]; rfl
  · rw [h, bne_iff_ne.mpr known]; rfl

/-- An abort's cause stands where no relay and no commit sheaf keeps it back (R37, R329). -/
theorem abortFor_isSome (c : AbortCause) (compute : s.relay = false) (outside : s.inCommit = false) : (s.abortFor c).fault.abort.isSome = true := by
  simp [State.abortFor, compute, outside]

@[simp] theorem send_fault (s : State) (dest : Key) (mtype len body : Nat) : (s.send dest mtype len body).fault = s.fault := by
  obtain ⟨_, _, _, h⟩ := send_sends s dest mtype len body
  rw [h]

/-- A cause of ABORT leaves the error log alone. -/
@[simp] theorem abortFor_log (s : State) (c : AbortCause) : (s.abortFor c).fault.log = s.fault.log := by
  unfold State.abortFor
  dsimp only
  split
  · split
    · simp [State.relayRequest]
    · rfl
  · split <;> rfl

theorem Logs.inCommit {s t : State} (h : Logs s t) : t.inCommit = s.inCommit := by
  obtain ⟨_, _, _, _, _, rfl⟩ := h
  rfl

theorem Logs.relay {s t : State} (h : Logs s t) : t.relay = s.relay := by
  obtain ⟨_, _, _, _, _, rfl⟩ := h
  rfl

/-- An error leaves the servo alone. -/
theorem Errs.servo {s t : State} (h : Errs s t) : t.servo = s.servo := by
  obtain ⟨_, _, _, _, _, _, _, _, _, _, _, _, _, rfl⟩ := h
  rfl

theorem Errs.time {s t : State} (h : Errs s t) : t.time = s.time := by
  obtain ⟨_, _, _, _, _, _, _, _, _, _, _, _, _, rfl⟩ := h
  rfl

/-- The end of a holdover is flagged and logged, and a coordinator aborts the step unless the machine holds at its boundary (R58). -/
theorem holdoverExpired_logged (holdover : s.servo.state = .holdover) : ∃ t, exec .holdoverExpired s = .next t ∧
    t.servo.holdoverExpired = true ∧ t.time = s.time ∧ (∃ e, t.fault.log.getLast? = some e ∧ e.code = 0x0602) ∧
      (s.coord.isCoord = true → s.jobRuns = true → (s.holds.timeSync = false ∨ s.sheaf.atBoundary = false) → s.relay = false →
        s.inCommit = false → t.fault.abort.isSome = true) ∧
      (s.holds.timeSync = true → s.sheaf.atBoundary = true → t.fault.abort = s.fault.abort) := by
  let flagged : State := { s with servo := { s.servo with holdoverExpired := true } }
  let aborts := s.coord.isCoord && s.jobRuns && !(s.holds.timeSync && s.sheaf.atBoundary)
  let entry : LogArgs := { code := 0x0602, severity := 2, action := if aborts then s.abortAction else 1, detail := s.servoDetail }
  have logged : (flagged.log entry).fault.log.getLast? = some (flagged.logEntry entry) := log_last flagged (a := entry) (Nat.le_refl 2)
  have frame := log_logs flagged entry
  have answer : exec .holdoverExpired s = .next (if aborts then (flagged.log entry).abortFor .holdover else flagged.log entry) :=
    if_pos (beq_iff_eq.mpr holdover)
  refine ⟨_, answer, ?_⟩
  cases h : aborts with
  | true =>
    have whole := frame.errs.trans (abortFor_errs (flagged.log entry) .holdover)
    refine ⟨congrArg TimeServo.holdoverExpired whole.servo, whole.time, ⟨flagged.logEntry entry, ?_, rfl⟩, fun _ _ _ compute outside => ?_, fun hold rest => ?_⟩
    · exact (congrArg List.getLast? (abortFor_log _ _)).trans logged
    · exact abortFor_isSome _ (frame.relay.trans compute) (frame.inCommit.trans outside)
    · simp [aborts, hold, rest] at h
  | false =>
    refine ⟨congrArg TimeServo.holdoverExpired frame.errs.servo, frame.errs.time, ⟨_, logged, rfl⟩, fun coordinator runs free => ?_, fun _ _ => ?_⟩
    · rcases free with free | free <;> simp [aborts, coordinator, runs, free] at h
    · exact log_abort flagged entry

end

theorem timeServoEvents : Claims.TimeServoEvents := fun s l _ src id =>
  ⟨timeExchange_master, timeExchange_alone, timeExchange_asks, timeExchangeRequest_answered s l src id, masterSequenceTimeout_holdover,
    holdoverExpired_logged⟩

/-! The judgement of an exchange (R54, R56) -/

/-- Steering stages an update; the values in use, and everything else but the choices of firmware, stay. -/
theorem steer_eq (s : State) : ∃ a o r p l g f, s.steer = { s with
    time := { s.time with nextAnchor := a, nextOffset := o, nextRate := r, nextPending := p, nextLate := l, nextRange := g }, free := f } := by
  unfold State.steer
  split
  · exact ⟨_, _, _, _, _, _, _, rfl⟩
  · exact ⟨_, _, _, _, _, _, _, rfl⟩

section
variable {s : State} {l : Fin 56} {t2 t3 : BitVec 80} {m : Key} {q : Word32}
  (module : s.servo.state ≠ .master) (parent : s.servo.parentLink.toNat = l.val)
include module parent

theorem timeExchangeResponse_changed (known : s.servo.master ≠ 0xFFFF) (other : m ≠ s.servo.master) :
    exec (.timeExchangeResponse l t2 t3 m q) s =
      .next ({ s with servo := { s.servo with master := m, masterSeq := q } } : State).enterHoldover := by
  have heard : (s.servo.state == .master || s.servo.parentLink.toNat != l.val) = false := by simp [module, parent]
  show execTimeExchangeResponse l t2 t3 m q s = _
  rw [execTimeExchangeResponse, heard, if_neg Bool.false_ne_true, if_pos (Bool.and_eq_true_iff.mpr ⟨bne_iff_ne.mpr known, bne_iff_ne.mpr other⟩)]

theorem timeExchangeResponse_stale (same : s.servo.master = 0xFFFF ∨ m = s.servo.master) (holdover : s.servo.state = .holdover)
    (old : q = s.servo.masterSeq) : exec (.timeExchangeResponse l t2 t3 m q) s = .next s := by
  have heard : (s.servo.state == .master || s.servo.parentLink.toNat != l.val) = false := by simp [module, parent]
  show execTimeExchangeResponse l t2 t3 m q s = _
  rw [execTimeExchangeResponse, heard, if_neg Bool.false_ne_true, if_neg (by simpa [or_iff_not_imp_left] using same),
    if_pos (by simp [holdover, old])]

/-- An answer that counts is judged; the time block's values in use stay. -/
theorem timeExchangeResponse_judged (same : s.servo.master = 0xFFFF ∨ m = s.servo.master)
    (fresh : ¬ (s.servo.state = .holdover ∧ q = s.servo.masterSeq)) :
    ∃ t, exec (.timeExchangeResponse l t2 t3 m q) s = .next t ∧ t.time.offset = s.time.offset ∧ t.time.rate = s.time.rate ∧
      t.time.anchor = s.time.anchor ∧ t.mem = s.mem ∧
      ∃ v : TimeServo, v.state = s.servo.state ∧ v.lockRun = s.servo.lockRun ∧ v.missRun = s.servo.missRun ∧
        t.servo.state = (v.judge (twiceOffset s.servo.t1 t2 t3 s.now)).state := by
  have heard : (s.servo.state == .master || s.servo.parentLink.toNat != l.val) = false := by simp [module, parent]
  let asked : TimeServo := { s.servo with master := m, masterSeq := q, delay := pathDelay s.servo.t1 t2 t3 s.now }
  let v := (asked.judge (twiceOffset s.servo.t1 t2 t3 s.now)).settle
  let judged : State := { s with servo := v, holds := { s.holds with timeSync := s.holds.timeSync && v.state != Servo.locked } }
  have told : ∃ u, Logs judged u ∧ exec (.timeExchangeResponse l t2 t3 m q) s = .next u.steer := by
    show ∃ u, Logs judged u ∧ execTimeExchangeResponse l t2 t3 m q s = .next u.steer
    rw [execTimeExchangeResponse, heard, if_neg Bool.false_ne_true, if_neg (by simpa [or_iff_not_imp_left] using same),
      if_neg (by simpa using fresh)]
    dsimp only
    split
    · exact ⟨_, log_logs _ _, rfl⟩
    · exact ⟨_, Logs.refl _, rfl⟩
  obtain ⟨u, ⟨_, _, _, _, _, rfl⟩, answer⟩ := told
  obtain ⟨_, _, _, _, _, _, _, steered⟩ := steer_eq { judged with fault := _, granary := _, mgmt := _, ports := _, out := _ }
  rw [steered] at answer
  exact ⟨_, answer, rfl, rfl, rfl, rfl, asked, rfl, rfl, rfl, settle_state (asked.judge (twiceOffset s.servo.t1 t2 t3 s.now))⟩

end

section
variable {v : TimeServo} {d : Int}

/-- Unlocked or acquiring, the eighth exchange in a row within 10 ns locks (R56). -/
theorem judge_seeking (seeking : v.state ≠ .locked) :
    (d.natAbs ≤ 20 * 65536 → 7 ≤ v.lockRun → (v.judge d).state = .locked) ∧
      ((20 * 65536 < d.natAbs ∨ v.lockRun < 7) → (v.judge d).state = .acquire) := by
  have run : (v.judge d).state = if 8 ≤ (if d.natAbs ≤ 20 * 65536 then v.lockRun + 1 else 0) then .locked else .acquire := by
    unfold TimeServo.judge
    dsimp only
    split
    · next locked => exact absurd locked seeking
    · exact apply_ite TimeServo.state ..
  rw [run]
  refine ⟨fun near long => if_pos ?_, fun short => if_neg ?_⟩ <;> split <;> omega

/-- Locked, the third exchange in a row beyond 50 ns unlocks (R56). -/
theorem judge_locked (locked : v.state = .locked) :
    (100 * 65536 < d.natAbs → 2 ≤ v.missRun → (v.judge d).state = .acquire) ∧
      ((d.natAbs ≤ 100 * 65536 ∨ v.missRun < 2) → (v.judge d).state = .locked) := by
  have run : (v.judge d).state = if 3 ≤ (if 100 * 65536 < d.natAbs then v.missRun + 1 else 0) then .acquire else .locked := by
    unfold TimeServo.judge
    dsimp only
    rw [locked]
    dsimp only
    exact apply_ite TimeServo.state ..
  rw [run]
  refine ⟨fun far long => if_pos ?_, fun short => if_neg ?_⟩ <;> split <;> omega

end

theorem servoJudgesExchanges : Claims.ServoJudgesExchanges := by
  intro s l t2 t3 m q module parent d
  by_cases changed : s.servo.master ≠ 0xFFFF ∧ m ≠ s.servo.master
  · obtain ⟨known, other⟩ := changed
    exact ⟨_, timeExchangeResponse_changed module parent known other, rfl, rfl, rfl, rfl, fun _ _ => ⟨rfl, rfl⟩,
      fun same => absurd same (by tauto), fun same => absurd same other, fun _ _ same => absurd same other⟩
  have same : s.servo.master = 0xFFFF ∨ m = s.servo.master := by tauto
  by_cases stale : s.servo.state = .holdover ∧ q = s.servo.masterSeq
  · obtain ⟨holdover, old⟩ := stale
    refine ⟨s, timeExchangeResponse_stale module parent same holdover old, rfl, rfl, rfl, rfl, fun known other => absurd ⟨known, other⟩ changed,
      fun _ seeking => ?_, fun _ locked => ?_, fun _ _ _ _ => rfl⟩
    · simp [holdover] at seeking
    · simp [holdover] at locked
  · obtain ⟨t, answer, offset, rate, anchor, mem, v, state, lockRun, missRun, judged⟩ := timeExchangeResponse_judged (t2 := t2) (t3 := t3) module parent same stale
    refine ⟨t, answer, offset, rate, anchor, mem, fun known other => absurd ⟨known, other⟩ changed, fun _ seeking => ?_, fun _ locked => ?_,
      fun holdover _ _ old => absurd ⟨holdover, old⟩ stale⟩
    · rw [judged, ← lockRun]
      exact judge_seeking (by rcases seeking with h | h <;> simp [state, h])
    · rw [judged, ← missRun]
      exact judge_locked (state.trans locked)

/-- Settles O46. -/
theorem timeServo : Obligations.TimeServo := ⟨timeServoEvents, servoJudgesExchanges⟩

end Sys2Proof.Machine
end

/-! SUPPORT. What the log, the messages and the completions of commands leave unchanged: relations between a state and a later one, each with the functions that keep it. -/

section
namespace Sys2Proof.Machine

open Sys2Proof

-- Each default of a relation below is a tactic that waits for all earlier declarations: one proof at a time.
set_option Elab.async false

/-! What firmware's operations leave alone -/

/-- A block but for the registers of its errors. -/
def Block.work (k : Block) : Block := { k with err := 0, errInfo := 0, sramCe := 0, sramUeAddr := 0 }

/-- A stack region but for the registers of its errors and the rows that they mark for retirement. -/
def Stack.work (k : Stack) : Stack := { k with err := 0, errInfo := 0, ceCount := 0, ueAddr := 0, retire := [] }

/-- The course of the job stays: network time, the sheaf, the job and its plan, the reset block; of the granary and the hot-plug
state what a start-up begins with. -/
structure Keeps (s t : State) : Prop where
  time : t.time = s.time := by rfl
  sheaf : t.sheaf = s.sheaf := by rfl
  job : t.job = s.job := by rfl
  store : t.store = s.store := by rfl
  rst : t.rst = s.rst := by rfl
  starts : t.granary.startCount = s.granary.startCount := by rfl
  rollback : t.granary.rollback = s.granary.rollback := by rfl
  newestA : t.granary.newestA = s.granary.newestA := by rfl
  hotplug : t.mgmt.hotplug = s.mgmt.hotplug := by rfl

/-- What is under way stays as well: crossings, and the marks of aborts and refills. -/
structure Calm (s t : State) : Prop extends Keeps s t where
  tokens : t.tokens = s.tokens := by rfl
  stepAborts : t.fault.stepAborts = s.fault.stepAborts := by rfl
  refill : t.fault.refillActive = s.fault.refillActive := by rfl
  attempt : t.assay.attempt = s.assay.attempt := by rfl
  removal : t.mgmt.removal = s.mgmt.removal := by rfl
  key : t.mgmt.key = s.mgmt.key := by rfl

/-- The plan's units rest: they keep all but their error registers. -/
structure Rests (s t : State) : Prop extends Calm s t where
  regions : t.regions = s.regions := by rfl
  nets : t.nets = s.nets := by rfl
  egress : t.egress = s.egress := by rfl
  forward : t.forward = s.forward := by rfl
  works : ∀ b, (get {} t.blocks b).work = (get {} s.blocks b).work := by exact fun _ => rfl
  engines : ∀ i, (get {} t.stks i).work = (get {} s.stks i).work := by exact fun _ => rfl

/-- A local error, a record of the journal, an entry of the repair list: the coordinator's part, the tables and the holds stay. -/
structure Marks (s t : State) : Prop extends Rests s t where
  coord : t.coord = s.coord := by rfl
  holds : t.holds = s.holds := by rfl
  tables : t.tables = s.tables := by rfl
  replaying : t.glean.replay.active = s.glean.replay.active := by rfl

/-- What is told to others: memory, the units and the position table stay. -/
structure Tells (s t : State) : Prop extends Rests s t where
  blocks : t.blocks = s.blocks := by rfl
  stks : t.stks = s.stks := by rfl
  ddr : t.ddr = s.ddr := by rfl
  mem : t.mem = s.mem := by rfl
  positions : t.tables.positions = s.tables.positions := by rfl
  relayRequest : t.holds.relayRequest = s.holds.relayRequest := by rfl

/-- Both: an entry of the log, an event, a message, a completed command. -/
structure Notes (s t : State) : Prop extends Marks s t, Tells s t where
  glean : t.glean = s.glean := by rfl

theorem Keeps.refl (s : State) : Keeps s s := {}
theorem Calm.refl (s : State) : Calm s s := {}
theorem Rests.refl (s : State) : Rests s s := {}
theorem Marks.refl (s : State) : Marks s s := {}
theorem Tells.refl (s : State) : Tells s s := {}
theorem Notes.refl (s : State) : Notes s s := {}

section
variable {s t u : State}

theorem Keeps.trans (h : Keeps s t) (k : Keeps t u) : Keeps s u where
  time := k.time.trans h.time
  sheaf := k.sheaf.trans h.sheaf
  job := k.job.trans h.job
  store := k.store.trans h.store
  rst := k.rst.trans h.rst
  starts := k.starts.trans h.starts
  rollback := k.rollback.trans h.rollback
  newestA := k.newestA.trans h.newestA
  hotplug := k.hotplug.trans h.hotplug

theorem Calm.trans (h : Calm s t) (k : Calm t u) : Calm s u where
  toKeeps := h.toKeeps.trans k.toKeeps
  tokens := k.tokens.trans h.tokens
  stepAborts := k.stepAborts.trans h.stepAborts
  refill := k.refill.trans h.refill
  attempt := k.attempt.trans h.attempt
  removal := k.removal.trans h.removal
  key := k.key.trans h.key

theorem Rests.trans (h : Rests s t) (k : Rests t u) : Rests s u where
  toCalm := h.toCalm.trans k.toCalm
  regions := k.regions.trans h.regions
  nets := k.nets.trans h.nets
  egress := k.egress.trans h.egress
  forward := k.forward.trans h.forward
  works b := (k.works b).trans (h.works b)
  engines i := (k.engines i).trans (h.engines i)

theorem Marks.trans (h : Marks s t) (k : Marks t u) : Marks s u where
  toRests := h.toRests.trans k.toRests
  coord := k.coord.trans h.coord
  holds := k.holds.trans h.holds
  tables := k.tables.trans h.tables
  replaying := k.replaying.trans h.replaying

theorem Tells.trans (h : Tells s t) (k : Tells t u) : Tells s u where
  toRests := h.toRests.trans k.toRests
  blocks := k.blocks.trans h.blocks
  stks := k.stks.trans h.stks
  ddr := k.ddr.trans h.ddr
  mem := k.mem.trans h.mem
  positions := k.positions.trans h.positions
  relayRequest := k.relayRequest.trans h.relayRequest

theorem Notes.trans (h : Notes s t) (k : Notes t u) : Notes s u :=
  { h.toMarks.trans k.toMarks, h.toTells.trans k.toTells with glean := k.glean.trans h.glean }

theorem Notes.ite {c : Prop} [Decidable c] (h : Notes s t) (k : Notes s u) : Notes s (if c then t else u) := by
  split
  · exact h
  · exact k

theorem Completes.notes (h : Completes s t) : Notes s t := by
  obtain ⟨_, _, _, rfl⟩ := h
  exact {}

end

/-- A relation that composes holds along a fold. -/
theorem foldl_related {α σ : Type} {R : σ → σ → Prop} (refl : ∀ s, R s s) (trans : ∀ {s t u}, R s t → R t u → R s u) {f : σ → α → σ}
    (h : ∀ t x, R t (f t x)) (l : List α) (s : σ) : R s (l.foldl f s) := by
  induction l generalizing s with
  | nil => exact refl s
  | cons x l ih => exact trans (h s x) (ih _)

theorem Keeps.foldl {α : Type} {f : State → α → State} (h : ∀ t x, Keeps t (f t x)) (l : List α) (s : State) : Keeps s (l.foldl f s) :=
  foldl_related Keeps.refl Keeps.trans h l s
theorem Calm.foldl {α : Type} {f : State → α → State} (h : ∀ t x, Calm t (f t x)) (l : List α) (s : State) : Calm s (l.foldl f s) :=
  foldl_related Calm.refl Calm.trans h l s
theorem Marks.foldl {α : Type} {f : State → α → State} (h : ∀ t x, Marks t (f t x)) (l : List α) (s : State) : Marks s (l.foldl f s) :=
  foldl_related Marks.refl Marks.trans h l s
theorem Tells.foldl {α : Type} {f : State → α → State} (h : ∀ t x, Tells t (f t x)) (l : List α) (s : State) : Tells s (l.foldl f s) :=
  foldl_related Tells.refl Tells.trans h l s
theorem Notes.foldl {α : Type} {f : State → α → State} (h : ∀ t x, Notes t (f t x)) (l : List α) (s : State) : Notes s (l.foldl f s) :=
  foldl_related Notes.refl Notes.trans h l s

/-! Entries of the log, events, completions -/

section
variable (s : State)

theorem committed_notes (ty : Nat) : Notes s (s.committed ty) := by
  unfold State.committed; split <;> exact {}

theorem platform_notes (what : String) (v : Nat) : Notes s (s.platform what v) := by
  unfold State.platform; split <;> exact {}

theorem event_notes (p i : Nat) : Notes s (s.event p i) := (event_completes s p i).notes

theorem eventAll_notes (i : Nat) : Notes s (s.eventAll i) := Notes.foldl (fun t p => event_notes t p i) _ s

theorem ownerEvent_notes (i : Nat) : Notes s (s.ownerEvent i) := by
  unfold State.ownerEvent; split
  · exact event_notes s _ i
  · exact Notes.refl s

theorem completeAll_notes (l : List (Nat × Nat)) (status : Nat) (body : State → List Byte) : Notes s (s.completeAll l status body) :=
  (completeAll_completes s l status body).notes

theorem logNew_notes (e : LogEntry) : Notes s (s.logNew e) := by
  have entered : Notes s (s.appendLog e) := {}
  unfold State.logNew
  dsimp only
  have kept : Notes s (if e.severity.toNat ≥ 2 then
      ({ s.appendLog e with granary := { (s.appendLog e).granary with
          summary := newest 64 ((s.appendLog e).granary.summary ++ [e])
          codeCounts := upd 0 (s.appendLog e).granary.codeCounts e.code.toNat (· + 1) } } : State).committed 0x52
    else s.appendLog e) := .ite (entered.trans (Notes.trans {} (committed_notes _ _))) entered
  exact .ite (kept.trans ((platform_notes _ _ _).trans (ownerEvent_notes _ _))) kept

theorem log_notes (a : LogArgs) : Notes s (s.log a) := by
  unfold State.log
  dsimp only
  split
  · exact .ite {} (logNew_notes s _)
  · exact logNew_notes s _

theorem logOpen_notes (a : LogArgs) : Notes s (s.logOpen a) := (log_notes s _).trans {}

theorem logFailed_notes (k : Key) : Notes s (s.logFailed k) := logOpen_notes s _

/-! Messages (R247 to R251) -/

theorem queueFor_notes (m : BypMsg) : Notes s (s.queueFor m) := by
  unfold State.queueFor
  split
  · exact {}
  · split
    · exact {}
    · exact Notes.refl s

theorem send_notes (dest : Key) (mtype len body : Nat) : Notes s (s.send dest mtype len body) := (queueFor_notes s _).trans {}

theorem sendAll_notes (ds : List Key) (mtype len body : Nat) : Notes s (s.sendAll ds mtype len body) :=
  Notes.foldl (fun t d => send_notes t d mtype len body) _ s

theorem sendSeries_notes (dest : Key) (mtype : Nat) (content : List Byte) : Notes s (s.sendSeries dest mtype content) :=
  Notes.foldl (fun t _ => (queueFor_notes t _).trans {}) _ s

/-- A message kept for its acknowledgement. -/
theorem sendKept_tells (dest : Key) (mtype len body : Nat) : Tells s (s.sendKept dest mtype len body) :=
  (send_notes s dest mtype len body).toTells.trans {}

theorem recoveryDone_tells (bits : Nat) : Tells s (s.recoveryDone bits) := sendKept_tells s ..

/-! Local errors (R37, R329) -/

theorem relayRequest_notes (a : Bool) : Notes s (s.relayRequest a) := Notes.trans {} (send_notes _ _ _ _ _)

theorem abortFor_notes (c : AbortCause) : Notes s (s.abortFor c) := by
  unfold State.abortFor
  dsimp only
  exact .ite (.ite (relayRequest_notes s true) (Notes.refl s)) (.ite {} {})

theorem commitFault_notes (seq : Word32) : Notes s (s.commitFault seq) := by
  unfold State.commitFault
  exact .ite (Notes.trans {} (log_notes _ _)) (Notes.refl s)

theorem stepError_notes (a : LogArgs) : Notes s (s.stepError a) :=
  (log_notes s _).trans (Notes.trans {} (abortFor_notes _ _))

theorem hardError_notes (a : LogArgs) : Notes s (s.hardError a) := (stepError_notes s a).trans (commitFault_notes _ _)

/-! The granary's updates (R421 to R433) -/

theorem onRecord_notes (ty : Nat) (f : GranRecord → GranRecord) : Notes s (s.onRecord ty f) := {}

theorem endOfLife_notes (i : Nat) : Notes s (s.endOfLife i) := by
  unfold State.endOfLife
  dsimp only
  have raised : Notes s (if bit s.granary.eol i then s else
      ({ s with granary := { s.granary with eol := setBit s.granary.eol i } } : State).committed 0x60) :=
    .ite (Notes.refl s) (Notes.trans {} (committed_notes _ _))
  exact .ite raised (raised.trans (Notes.trans {} (platform_notes _ _ _)))

theorem wornOut_notes (ty : Nat) : Notes s (s.wornOut ty) := .ite (endOfLife_notes s 5) (Notes.refl s)

theorem noteCommit_notes (ty : Nat) (body : List Byte) : Notes s (s.noteCommit ty body) :=
  Notes.trans {} (wornOut_notes _ ty)

theorem programOn_notes (ty : Nat) (second one : Bool) (c : GranCopy) : Notes s (s.programOn ty second one c) :=
  .ite (onRecord_notes s ty _) (Notes.refl s)

theorem deviceLost_notes (ty : Nat) (second : Bool) : Notes s (s.deviceLost ty second) := by
  unfold State.deviceLost
  refine Notes.trans ?_ (endOfLife_notes _ 6)
  split
  · split <;> exact {}
  · exact {}

theorem updateFails_notes (ty : Nat) (second one : Bool) : Notes s (s.updateFails ty second one) := by
  unfold State.updateFails
  exact (Notes.trans {} (wornOut_notes _ ty)).trans (.ite (deviceLost_notes _ ty second) (Notes.refl _))

theorem program_notes (ty : Nat) (body : List Byte) (e : UpdateEnd) : Notes s (s.program ty body e) := by
  unfold State.program
  dsimp only
  split
  · exact Notes.refl s
  · split
    · exact (programOn_notes s ty false _ _).trans ((programOn_notes _ ty true _ _).trans (noteCommit_notes _ ty body))
    · have first := programOn_notes s ty false (s.record ty).slotOne (s.nextCopy (s.record ty) body)
      exact .ite ((first.trans (.ite (noteCommit_notes _ ty body) (Notes.refl _))).trans (updateFails_notes _ ty true _)) (updateFails_notes s ty false _)
    · exact onRecord_notes s ty _

theorem updateRecord_notes (ty : Nat) (body : List Byte) (e : UpdateEnd) : Notes s (s.updateRecord ty body e) := by
  unfold State.updateRecord
  exact .ite (onRecord_notes s ty _) (.ite {} (program_notes s ty body e))

theorem addRepair_notes (kind place value : Nat) : Notes s (s.addRepair kind place value) := by
  unfold State.addRepair
  exact .ite (Notes.trans {} (committed_notes _ _)) (Notes.trans {} (program_notes _ _ _ _))

end

end Sys2Proof.Machine
end

/-! SUPPORT. What the units' errors, the journal, a step's commit and its boundary leave unchanged. -/

section
namespace Sys2Proof.Machine

open Sys2Proof

-- Each default of a relation below is a tactic that waits for all earlier declarations: one proof at a time.
set_option Elab.async false

section
variable {s t u : State}

theorem Marks.ite {c : Prop} [Decidable c] (h : Marks s t) (k : Marks s u) : Marks s (if c then t else u) := by
  split
  · exact h
  · exact k

theorem Tells.ite {c : Prop} [Decidable c] (h : Tells s t) (k : Tells s u) : Tells s (if c then t else u) := by
  split
  · exact h
  · exact k

end

/-! Errors of units and of memory (R147, R148, R181, R204) -/

section
variable (s : State)

/-- A unit's update that touches its error registers alone. -/
theorem onBlock_marks (b : Nat) {f : Block → Block} (h : ∀ k, (f k).work = k.work) : Marks s (s.onBlock b f) where
  works x := by
    show ((s.onBlock b f).block x).work = (s.block x).work
    by_cases same : x = b
    · rw [same, block_onBlock_same, h]
    · rw [block_onBlock_other s f same]

theorem onStack_marks (i : Nat) {f : Stack → Stack} (h : ∀ k, (f k).work = k.work) : Marks s (s.onStack i f) where
  engines x := by
    show ((s.onStack i f).stack x).work = (s.stack x).work
    by_cases same : x = i
    · rw [same, stack_onStack_same, h]
    · rw [stack_onStack_other s f same]

theorem blockErr_marks (b i : Nat) : Marks s (s.blockErr b i) := onBlock_marks s b fun _ => rfl

theorem stackErr_marks (i bitIx line engine : Nat) : Marks s (s.stackErr i bitIx line engine) := onStack_marks s i fun _ => rfl

theorem sramCorrect_marks (b off len : Nat) : Marks s (s.sramCorrect b off len) := by
  unfold State.sramCorrect
  refine .ite (Marks.refl s) (Marks.trans (onBlock_marks s b ?_) (log_notes _ _).toMarks)
  exact fun _ => rfl

theorem sramLost_marks (b : Nat) (units : List Nat) : Marks s (s.sramLost b units) := by
  unfold State.sramLost
  split
  · exact Marks.refl _
  · refine Marks.trans (onBlock_marks _ b ?_) ((blockErr_marks _ b 9).trans (hardError_notes _ _).toMarks)
    exact fun _ => rfl

theorem sramCheck_marks (b off len : Nat) : Marks s (s.sramCheck b off len) :=
  (sramCorrect_marks s b off len).trans (sramLost_marks _ b _)

theorem stackCorrect_marks (i a n e : Nat) : Marks s (s.stackCorrect i a n e) := by
  unfold State.stackCorrect
  refine .ite (Marks.refl s) (Marks.trans (onStack_marks s i ?_) (log_notes _ _).toMarks)
  exact fun _ => rfl

theorem stackLost_marks (i : Nat) (units : List Nat) (wide : Bool) (requester line e : Nat) :
    Marks s (s.stackLost i units wide requester line e) := by
  unfold State.stackLost
  split
  · exact Marks.refl _
  · split
    · refine Marks.trans (onStack_marks _ i ?_) ((stackErr_marks _ _ _ _ _).trans (hardError_notes _ _).toMarks)
      exact fun _ => rfl
    · exact (stackErr_marks _ _ _ _ _).trans (hardError_notes _ _).toMarks

theorem stackCheck_marks (i a n : Nat) (wide : Bool) (requester line e : Nat) : Marks s (s.stackCheck i a n wide requester line e) :=
  (stackCorrect_marks s i a n e).trans (stackLost_marks _ i _ wide requester line e)

theorem onChan_marks (c : Nat) (f : Ddr → Ddr) : Marks s (s.onChan c f) := {}

theorem ddrCe_marks (c n : Nat) : Marks s (s.ddrCe c n) := by
  unfold State.ddrCe
  exact .ite (Marks.refl s) ((onChan_marks s c _).trans (log_notes _ _).toMarks)

theorem ddrLost_marks (c : Nat) (units : List Nat) : Marks s (s.ddrLost c units) := by
  unfold State.ddrLost
  split
  · exact Marks.refl _
  · exact (onChan_marks _ c _).trans ((Marks.foldl (fun t _ => onChan_marks t c _) _ _).trans (log_notes _ _).toMarks)

theorem memCheck_marks (a n : Nat) : Marks s (s.memCheck a n) := by
  unfold State.memCheck
  exact .ite (Marks.refl s) (.ite (stackCheck_marks s ..) (.ite ((ddrCe_marks s _ _).trans (ddrLost_marks _ _ _))
    (.ite (sramCheck_marks s ..) (stackCheck_marks s ..))))

theorem memChecks_marks (a n : Nat) : Marks s (s.memChecks a n) :=
  Marks.foldl (fun t (x : Nat × Nat) => memCheck_marks t x.1 x.2) _ s

/-! The journal (R290, R291) -/

theorem ringPoke_marks (off : Nat) (bs : List Byte) : Marks s (s.ringPoke off bs) := by
  unfold State.ringPoke
  have poked (l : List (Nat × Nat)) (x : State × List Byte) :
      Marks x.1 (l.foldl (fun acc p => (acc.1.poke p.1 (acc.2.take p.2), acc.2.drop p.2)) x).1 :=
    foldl_related (R := fun x y : State × List Byte => Marks x.1 y.1) (fun _ => Marks.refl _) Marks.trans (fun _ _ => {}) l x
  exact poked _ (s, bs)

theorem storeItem_marks (i : JournalItem) : Marks s (s.storeItem i) := ringPoke_marks s _ _

theorem appendRecord_marks (rtype : Nat) (flags : Byte) (step : BitVec 48) (n : BitVec 16) (body : List Byte) :
    Marks s (s.appendRecord rtype flags step n body) := by
  unfold State.appendRecord
  dsimp only
  split
  · exact Marks.trans {} (storeItem_marks _ _)
  · exact {}

theorem dropRecords_marks : Marks s s.dropRecords := by
  unfold State.dropRecords
  dsimp only
  refine .ite ?_ (Marks.refl s)
  split
  · exact Marks.refl s
  · exact Marks.trans {} (appendRecord_marks _ _ _ _ _ _)

theorem journalNow_marks (rtype : Nat) (body : List Byte) : Marks s (s.journalNow rtype body) :=
  .ite ((appendRecord_marks s _ _ _ _ _).trans (dropRecords_marks _)) (Marks.refl s)

/-! A step's commit (R45) -/

theorem replayCompare_marks : Marks s s.replayCompare := by
  unfold State.replayCompare
  dsimp only
  split
  · exact Marks.refl s
  · split
    · exact Marks.refl s
    · exact .ite (Marks.refl s) (Marks.trans {} (log_notes _ _).toMarks)

theorem setResults_marks (r : Sparse ResultStream) (c : HostCounters) : Marks s { s with results := r, counts := c } := {}

theorem produce_marks (step : Nat) (x : Nat × ResultSpec) : Marks s (s.produce step x) := by
  exact (memChecks_marks s x.2.source x.2.length).trans (setResults_marks _ _ _)

theorem repairRows_marks (c : Nat) : Marks s (s.repairRows c) := by
  unfold State.repairRows
  exact .ite (Marks.refl s) ((Marks.foldl (fun t _ => (addRepair_notes t _ _ _).toMarks) _ s).trans (onChan_marks _ c _))

/-- What a commit does before the step's number moves on. -/
def State.commitWork (s : State) : State :=
  let t := (s.body.results).foldl (fun t x => t.produce s.sheaf.step.toNat x) s.replayCompare
  let t := (List.range 12).foldl State.repairRows t
  t.journalNow 4 t.commitBody

theorem commitWork_marks : Marks s s.commitWork :=
  (replayCompare_marks s).trans ((Marks.foldl (fun t x => produce_marks t _ x) _ _).trans
    ((Marks.foldl (fun t c => repairRows_marks t c) _ _).trans (journalNow_marks _ _ _)))

/-- The step's number moves on, its place at the next boundary. -/
def State.closed (s : State) (n : Nat) : State :=
  let r := s.glean.replay
  { s with
    job := { s.job with lastCommit := some (BitVec.ofNat 48 n), restored := none }
    sheaf := { s.sheaf with step := s.sheaf.step + 1, sheafInStep := 0, atBoundary := true, running := false, stepHeld := 0 }
    fault := { s.fault with abortConsec := 0, heldLimitRun := 0, hardwareSeen := false }
    assay := { s.assay with attempt := 0, firstStep := false }
    glean := { s.glean with varBase := s.moduleVariant, replay := { r with
      active := r.active && !r.ends n, step := if r.active then r.step + 1 else r.step } } }

/-- A step's commit (R45): its work, then the next step at its boundary. -/
theorem closeStep_eq : s.closeStep = s.commitWork.closed s.sheaf.step.toNat := by
  unfold State.closeStep State.commitWork State.closed
  dsimp only

/-! Boundaries (R222, R330, R460) -/

theorem declareFailed_tells (k : Key) : Tells s (s.declareFailed k) := by
  unfold State.declareFailed
  exact .ite (.ite (Tells.refl s) (Tells.trans {} ((platform_notes _ _ _).trans (logFailed_notes _ _)).toTells))
    (.ite (Tells.refl s) (Tells.trans {} ((platform_notes _ _ _).trans (logFailed_notes _ _)).toTells))

theorem takeRemoval_tells (key : Key) : Tells s (s.takeRemoval key) := by
  unfold State.takeRemoval
  dsimp only
  split
  · exact (declareFailed_tells s key).trans {}
  · exact {}

theorem servedRemovals_tells : Tells s s.servedRemovals := Tells.trans {} (Tells.foldl takeRemoval_tells _ _)

theorem tellNext_tells (x : Plan) (w : Word64) : Tells s (s.tellNext x w) := by
  unfold State.tellNext
  exact .ite (Tells.refl s) (send_notes s _ _ _ _).toTells

theorem follow_tells (k : Key) : Tells s (s.follow k) := by
  unfold State.follow
  dsimp only
  refine .ite (Tells.refl s) (Tells.trans ?_ (log_notes _ _).toTells)
  split
  · exact Tells.trans {} (tellNext_tells _ _ _)
  · exact {}

theorem leaveCoord_tells : Tells s s.leaveCoord := by
  unfold State.leaveCoord
  dsimp only
  split
  · split
    · exact (follow_tells s _).trans (sendKept_tells _ _ _ _ _)
    · exact Tells.refl s
  · exact Tells.refl s

theorem boundaryLinks_tells : Tells s s.boundaryLinks := {}

theorem atBoundaryTick_tells : Tells s s.atBoundaryTick :=
  (boundaryLinks_tells s).trans ((leaveCoord_tells _).trans (servedRemovals_tells _))

theorem saveCaptures_tells : Tells s s.saveCaptures := .ite {} (Tells.refl s)

end

end Sys2Proof.Machine
end

/-! SUPPORT. The tick inside a segment, and the held tick (R32, R43, R45, R62). -/

section
namespace Sys2Proof.Machine

open Sys2Proof

-- Each default of a relation below is a tactic that waits for all earlier declarations: one proof at a time.
set_option Elab.async false

/-! A held tick (R41, R43) -/

/-- What every held tick leaves after its counts: the tick, the counts, the stop, and the plan's units but for their error registers. -/
structure Paused (s t : State) : Prop where
  tickNo : t.sheaf.tickNo = s.sheaf.tickNo := by rfl
  heldTicks : t.sheaf.heldTicks = s.sheaf.heldTicks := by rfl
  sheafCount : t.sheaf.sheafCount = s.sheaf.sheafCount := by rfl
  stopMode : t.job.stopMode = s.job.stopMode := by rfl
  tokens : t.tokens = s.tokens := by rfl
  regions : t.regions = s.regions := by rfl
  nets : t.nets = s.nets := by rfl
  egress : t.egress = s.egress := by rfl
  forward : t.forward = s.forward := by rfl
  works : ∀ b, (get {} t.blocks b).work = (get {} s.blocks b).work := by exact fun _ => rfl
  engines : ∀ i, (get {} t.stks i).work = (get {} s.stks i).work := by exact fun _ => rfl

/-- Where no step is committed, the units' error registers and memory stay as well. -/
structure Unread (s t : State) : Prop extends Paused s t where
  blocks : t.blocks = s.blocks := by rfl
  stks : t.stks = s.stks := by rfl
  mem : t.mem = s.mem := by rfl
  ddr : t.ddr = s.ddr := by rfl

section
variable {s t u : State}

theorem Paused.trans (h : Paused s t) (k : Paused t u) : Paused s u where
  tickNo := k.tickNo.trans h.tickNo
  heldTicks := k.heldTicks.trans h.heldTicks
  sheafCount := k.sheafCount.trans h.sheafCount
  stopMode := k.stopMode.trans h.stopMode
  tokens := k.tokens.trans h.tokens
  regions := k.regions.trans h.regions
  nets := k.nets.trans h.nets
  egress := k.egress.trans h.egress
  forward := k.forward.trans h.forward
  works b := (k.works b).trans (h.works b)
  engines i := (k.engines i).trans (h.engines i)

theorem Unread.trans (h : Unread s t) (k : Unread t u) : Unread s u where
  toPaused := h.toPaused.trans k.toPaused
  blocks := k.blocks.trans h.blocks
  stks := k.stks.trans h.stks
  mem := k.mem.trans h.mem
  ddr := k.ddr.trans h.ddr

theorem Rests.paused (h : Rests s t) : Paused s t where
  tickNo := congrArg SheafState.tickNo h.sheaf
  heldTicks := congrArg SheafState.heldTicks h.sheaf
  sheafCount := congrArg SheafState.sheafCount h.sheaf
  stopMode := congrArg Job.stopMode h.job
  tokens := h.tokens
  regions := h.regions
  nets := h.nets
  egress := h.egress
  forward := h.forward
  works := h.works
  engines := h.engines

theorem Tells.unread (h : Tells s t) : Unread s t where
  toPaused := h.toRests.paused
  blocks := h.blocks
  stks := h.stks
  mem := h.mem
  ddr := h.ddr

theorem Unread.ite {c : Prop} [Decidable c] (h : Unread s t) (k : Unread s u) : Unread s (if c then t else u) := by
  split
  · exact h
  · exact k

end

section
variable (s : State)

theorem Unread.refl : Unread s s := {}

theorem closed_paused (n : Nat) : Paused s (s.closed n) := {}

theorem closeStep_paused : Paused s s.closeStep := by
  rw [closeStep_eq]
  exact (commitWork_marks s).toRests.paused.trans (closed_paused _ _)

theorem refillEnds_unread : Unread s s.refillEnds := by
  unfold State.refillEnds
  dsimp only
  exact Unread.trans {} ((Tells.foldl (fun t _ => (log_notes t _).toTells) _ _).trans (recoveryDone_tells _ 2)).unread

theorem setHostMbx_unread (l : List (Nat × Nat × Word64)) : Unread s { s with job := { s.job with hostMbx := l } } := {}

theorem hostHeld_unread : Unread s s.hostHeld := by
  unfold State.hostHeld
  dsimp only
  refine Unread.trans (Tells.unread (Tells.foldl (fun t x => ?_) _ _)) (setHostMbx_unread _ _)
  exact .ite (completeAll_notes _ _ _ _).toTells (.ite (Tells.refl t) (completeAll_notes _ _ _ _).toTells)

theorem stopsNow_none (h : s.job.stopMode = none) : s.stopsNow = false := by rw [State.stopsNow, h]

theorem setRunning_unread (b : Bool) : Unread s { s with sheaf := { s.sheaf with running := b } } := {}

theorem heldBoundary_unread (h : s.job.stopMode = none) : Unread s s.heldBoundary := by
  have kept : Unread s ((({ (if s.fault.refillActive && decide (s.sheaf.refillLeft ≤ 1) then s.refillEnds else s) with
      sheaf := { (if s.fault.refillActive && decide (s.sheaf.refillLeft ≤ 1) then s.refillEnds else s).sheaf with running := false } } :
        State).atBoundaryTick).hostHeld.saveCaptures) :=
    (Unread.ite (refillEnds_unread s) (Unread.refl s)).trans ((setRunning_unread _ false).trans ((atBoundaryTick_tells _).unread.trans
      ((hostHeld_unread _).trans (saveCaptures_tells _).unread)))
  have goes := stopsNow_none _ (kept.stopMode.trans h)
  unfold State.heldBoundary
  dsimp only
  rw [goes]
  exact kept

theorem countHeld_unread (mid : Bool) :
    Unread { s with sheaf := { s.sheaf with heldTicks := satInc s.sheaf.heldTicks } } (s.countHeld mid) := by
  unfold State.countHeld
  dsimp only
  split <;> exact {}

theorem countHeld_lastRuns (mid : Bool) : (s.countHeld mid).lastRuns = s.lastRuns := by
  unfold State.countHeld
  cases mid <;> rfl

theorem passTick_unread : Unread s s.passTick := {}

theorem jobState_notes (before : State) : Notes s (s.jobState before) := by
  unfold State.jobState
  exact .ite (Notes.refl s) (eventAll_notes s 12)

end

section
variable (s : State) (done hold : Bool)

/-- A held tick up to the end of its counts. -/
def State.heldCounted (s : State) (done hold : Bool) : State :=
  (if s.overruns done hold then s.logOpen { code := 0, severity := 1, action := 1, detail := s.sheaf.tick.toNat } else s).countHeld (!done && !hold)

theorem heldCounted_unread : Unread { s with sheaf := { s.sheaf with heldTicks := satInc s.sheaf.heldTicks } } (s.heldCounted done hold) := by
  have logged : Notes s (if s.overruns done hold then s.logOpen { code := 0, severity := 1, action := 1, detail := s.sheaf.tick.toNat } else s) :=
    .ite (logOpen_notes s _) (Notes.refl s)
  rw [State.heldCounted]
  generalize (if s.overruns done hold then _ else s) = t at logged ⊢
  have base := logged.toTells.unread
  have bumped : Unread { s with sheaf := { s.sheaf with heldTicks := satInc s.sheaf.heldTicks } }
      { t with sheaf := { t.sheaf with heldTicks := satInc t.sheaf.heldTicks } } :=
    { base with heldTicks := congrArg satInc base.heldTicks }
  exact bumped.trans (countHeld_unread t _)

theorem heldCounted_lastRuns : (s.heldCounted done hold).lastRuns = s.lastRuns := by
  have logged : Notes s (if s.overruns done hold then s.logOpen { code := 0, severity := 1, action := 1, detail := s.sheaf.tick.toNat } else s) :=
    .ite (logOpen_notes s _) (Notes.refl s)
  rw [State.heldCounted, countHeld_lastRuns, State.lastRuns, State.lastRuns, State.lastSheaf, State.lastSheaf, State.stepLen, State.stepLen,
    logged.sheaf, logged.store]

/-- After its counts a held tick keeps the plan's units; without a commit their error registers and memory too. -/
theorem heldTick_frame (h : s.job.stopMode = none) : Paused (s.heldCounted done hold) (s.heldTick done hold) ∧
    ((done = false ∨ s.lastRuns = false) → Unread (s.heldCounted done hold) (s.heldTick done hold)) := by
  have counted := (heldCounted_unread s done hold).stopMode.trans h
  have ends (t : State) (stop : t.job.stopMode = none) : Unread t
      (if t.sheaf.atBoundary && !(t.fault.refillActive && !done) then t.heldBoundary else if t.stopsNow then t.stopHere else t) := by
    rw [stopsNow_none t stop]
    exact .ite (heldBoundary_unread t stop) (Unread.refl t)
  have whole : s.heldTick done hold = (fun t : State => if t.sheaf.atBoundary && !(t.fault.refillActive && !done) then t.heldBoundary
      else if t.stopsNow then t.stopHere else t)
        (if done && (s.heldCounted done hold).lastRuns then (s.heldCounted done hold).closeStep else s.heldCounted done hold) := rfl
  rw [whole]
  by_cases commits : (done && (s.heldCounted done hold).lastRuns) = true
  · rw [if_pos commits]
    have closed := closeStep_paused (s.heldCounted done hold)
    refine ⟨closed.trans (ends _ (closed.stopMode.trans counted)).toPaused, fun none => ?_⟩
    rw [heldCounted_lastRuns] at commits
    rcases none with none | none <;> simp [none] at commits
  · rw [if_neg commits]
    exact ⟨(ends _ counted).toPaused, fun _ => ends _ counted⟩

end

/-- A tick within a segment acts by the latched input (R41). -/
theorem tick_acts {s : State} (h : Claims.InSegment s) : exec .tick s = .next
    (((({ s with sheaf := { s.sheaf with tickNo := s.sheaf.tickNo + 1 } } : State).act).passTick).jobState s) := by
  obtain ⟨due, runs, announced, waits, _, _⟩ := h
  show execTick s = _
  simp [execTick, due, announced, waits, State.jobRuns, runs]

/-- With no ABORT latched, and no DONE or HOLD, the tick is a held one. -/
theorem act_held {s : State} (noAbort : bit s.sheaf.latched 5 = false) (held : bit s.sheaf.latched 3 = false ∨ bit s.sheaf.latched 4 = true) :
    s.act = s.heldTick (bit s.sheaf.latched 3) (bit s.sheaf.latched 4) := by
  unfold State.act
  rw [noAbort]
  cases hold : bit s.sheaf.latched 4 with
  | true => rfl
  | false =>
    have undone : bit s.sheaf.latched 3 = false := held.resolve_right (by simp [hold])
    rw [undone]
    rfl

theorem block_of_work {k q : Block} (h : k.work = q.work) : k.groups = q.groups ∧ k.seq = q.seq ∧ k.v = q.v ∧ k.t = q.t ∧ k.opb = q.opb ∧
    k.results = q.results ∧ k.chunks = q.chunks ∧ k.pend = q.pend ∧ k.sel = q.sel ∧ k.tables = q.tables := by
  simp only [Block.work, Block.mk.injEq] at h
  simp only [h, and_self]

theorem stack_of_work {k q : Stack} (h : k.work = q.work) : k.groups = q.groups ∧ k.seq = q.seq ∧ k.acc = q.acc ∧ k.runs = q.runs ∧
    k.writes = q.writes ∧ k.busy = q.busy ∧ k.debt = q.debt ∧ k.tables = q.tables := by
  simp only [Stack.work, Stack.mk.injEq] at h
  simp only [h, and_self]

/-- Settles O6: the tick's counts, then whatever the boundary and a commit do, keep the plan's units (`heldTick_frame`). -/
theorem heldTickChangesNoPlanState : Obligations.HeldTickChangesNoPlanState := by
  intro s segment noAbort held
  obtain ⟨_, _, _, _, stop, _⟩ := id segment
  let next : State := { s with sheaf := { s.sheaf with tickNo := s.sheaf.tickNo + 1 } }
  let done := bit s.sheaf.latched 3
  let hold := bit s.sheaf.latched 4
  have act : next.act = next.heldTick done hold := act_held noAbort held
  have tick := tick_acts segment
  rw [act] at tick
  have counted := heldCounted_unread next done hold
  obtain ⟨paused, unread⟩ := heldTick_frame next done hold stop
  have ends (t : State) : Unread t (t.passTick.jobState s) := (passTick_unread t).trans (jobState_notes _ s).toTells.unread
  have frame := (counted.toPaused.trans paused).trans (ends _).toPaused
  refine ⟨_, tick, frame.tickNo, frame.heldTicks, frame.sheafCount, frame.regions, frame.nets, frame.tokens, frame.egress, frame.forward,
    fun b => ?block, fun i => ?stack, fun none => ?unread⟩
  case block => exact block_of_work (frame.works b)
  case stack => exact stack_of_work (frame.engines i)
  case unread =>
    have same := (counted.trans (unread none)).trans (ends _)
    exact ⟨same.blocks, same.stks, same.mem, same.ddr⟩

end Sys2Proof.Machine
end

/-! SUPPORT. What a boundary's repairs, a feed's pull and an abort's limits leave unchanged. -/

section
namespace Sys2Proof.Machine

open Sys2Proof

-- Each default of a relation below is a tactic that waits for all earlier declarations: one proof at a time.
set_option Elab.async false

section
variable {s t u : State}

theorem Calm.ite {c : Prop} [Decidable c] (h : Calm s t) (k : Calm s u) : Calm s (if c then t else u) := by
  split
  · exact h
  · exact k

theorem Keeps.ite {c : Prop} [Decidable c] (h : Keeps s t) (k : Keeps s u) : Keeps s (if c then t else u) := by
  split
  · exact h
  · exact k

theorem Notes.calm (h : Notes s t) : Calm s t := h.toMarks.toRests.toCalm
theorem Tells.calm (h : Tells s t) : Calm s t := h.toRests.toCalm
theorem Marks.calm (h : Marks s t) : Calm s t := h.toRests.toCalm

end

/-! Repairs at a boundary (R110, R149, R183, R204) and the feed of a redo (R294) -/

section
variable (s : State)

theorem onBlock_calm (b : Nat) (f : Block → Block) : Calm s (s.onBlock b f) := {}
theorem onStack_calm (i : Nat) (f : Stack → Stack) : Calm s (s.onStack i f) := {}
theorem onLink_calm (l : Nat) (f : Link → Link) : Calm s (s.onLink l f) := {}
theorem poke_calm (a : Nat) (bs : List Byte) : Calm s (s.poke a bs) := {}
theorem healed_calm (a n : Nat) : Calm s (s.healed a n) := {}
theorem setFeed_calm (f : Feed) : Calm s { s with feed := f } := {}
theorem setGlean_calm (g : Glean) : Calm s { s with glean := g } := {}

theorem stageFeed_calm (step : Word64) (bytes : List Byte) : Calm s (s.stageFeed step bytes) := by
  unfold State.stageFeed
  dsimp only
  have staged : Calm s (match s.feedPlace step.toNat with | some a => s.poke a bytes | none => s) := by
    split
    · exact poke_calm s _ _
    · exact Calm.refl s
  exact .ite (staged.trans (setFeed_calm _ _)) (staged.trans (setFeed_calm _ _))

theorem beginPull_calm (step : Word64) : Calm s (s.beginPull step) := by
  unfold State.beginPull
  dsimp only
  split
  · exact Calm.refl s
  · split
    · exact stageFeed_calm s step _
    · exact setFeed_calm s _

theorem restoreFeed_calm (place : Nat) : Calm s (s.restoreFeed place) :=
  (setFeed_calm s _).trans (Calm.foldl beginPull_calm _ _)

theorem checkFeed_calm : Calm s s.checkFeed := by
  unfold State.checkFeed
  dsimp only
  split
  · exact Calm.refl s
  · split
    · exact Calm.refl s
    · exact .ite ((setGlean_calm s _).trans (restoreFeed_calm _ _)) (Calm.refl s)

theorem storeItem_calm (i : JournalItem) : Calm s (s.storeItem i) := (ringPoke_marks s _ _).calm

theorem markAborted_calm (step : BitVec 48) : Calm s (s.markAborted step) :=
  (Calm.foldl storeItem_calm _ s).trans (setGlean_calm _ _)

theorem failBlock_calm (b : Nat) : Calm s (s.failBlock b) :=
  (onBlock_calm s b _).trans ((addRepair_notes _ 2 b 0).calm.trans ((log_notes _ _).calm.trans (endOfLife_notes _ 1).calm))

theorem repairCell_calm (b c : Nat) : Calm s (s.repairCell b c) := by
  have marked (f : Block → Block) (v : Nat) : Calm s ((s.onBlock b f).addRepair 1 b v) := (onBlock_calm s b f).trans (addRepair_notes _ 1 b v).calm
  unfold State.repairCell
  dsimp only
  split
  · exact Calm.refl s
  · split
    · exact marked _ _
    · exact .ite (.ite ((marked _ _).trans (endOfLife_notes _ 1).calm) (marked _ _)) ((marked _ _).trans (failBlock_calm _ b))

theorem moveBlock_calm (b : Nat) : Calm s (s.moveBlock b) := by
  unfold State.moveBlock
  split
  · exact Calm.trans {} ((onBlock_calm _ _ _).trans (onBlock_calm _ _ _))
  · exact Calm.refl s

theorem repairBlock_calm (b : Nat) : Calm s (s.repairBlock b) := by
  have cells : Calm s (((s.block b).faulty.foldl (fun t c => t.repairCell b c) s).onBlock b (fun k => { k with faulty := [] })) :=
    (Calm.foldl (fun t c => repairCell_calm t b c) _ s).trans (onBlock_calm _ b _)
  unfold State.repairBlock
  dsimp only
  exact .ite (Calm.refl s) (.ite (.ite (cells.trans ((moveBlock_calm _ b).trans (sendKept_tells _ _ _ _ _).calm)) (cells.trans (moveBlock_calm _ b))) cells)

theorem needRestore_calm : Calm s s.needRestore := Calm.trans {} (log_notes _ _).calm

theorem restoreRange_calm (a n : Nat) : Calm s (s.restoreRange a n) := by
  unfold State.restoreRange
  split
  · exact .ite (needRestore_calm s) (healed_calm s a n)
  · exact healed_calm s a n

theorem takeParent_calm : Calm s s.takeParent := by
  unfold State.takeParent
  split <;> exact {}

theorem leaveParent_calm (l : Nat) : Calm s (s.leaveParent l) := .ite (takeParent_calm s) (Calm.refl s)

theorem settleFatal_calm : Calm s s.settleFatal := by
  unfold State.settleFatal
  exact .ite ((Calm.foldl (fun t l => onLink_calm t l _) _ s).trans (leaveParent_calm _ _)) (Calm.refl s)

theorem relayFails_calm : Calm s s.relayFails := (sendKept_tells s _ _ _ _).calm.trans (Calm.trans {} (settleFatal_calm _))

theorem recopyRow_calm (a n : Nat) : Calm s (s.recopyRow a n) := by
  unfold State.recopyRow
  exact .ite (restoreRange_calm s a n) (.ite ((Calm.foldl (fun _ _ => {}) _ s).trans (healed_calm _ a n))
    (Calm.trans {} ((relayFails_calm _).trans (platform_notes _ _ _).calm)))

theorem retireRow_calm (i q : Nat) : Calm s (s.retireRow i q) := by
  unfold State.retireRow
  exact .ite ((onStack_calm s i _).trans ((log_notes _ _).calm.trans ((endOfLife_notes _ 2).calm.trans (sendKept_tells _ _ _ _ _).calm)))
    ((onStack_calm s i _).trans ((recopyRow_calm _ _ _).trans ((addRepair_notes _ _ _ _).calm.trans (log_notes _ _).calm)))

theorem repairStack_calm (i : Nat) : Calm s (s.repairStack i) :=
  (Calm.foldl (fun t q => retireRow_calm t i q) _ s).trans (onStack_calm _ i _)

theorem repairChan_calm (c : Nat) : Calm s (s.repairChan c) := by
  unfold State.repairChan
  refine (Calm.foldl (fun t a => ?_) _ s).trans ((onChan_marks _ c _).calm.trans (repairRows_marks _ c).calm)
  split
  · exact .ite (restoreFeed_calm t _) (restoreRange_calm t _ _)
  · exact Calm.refl t

theorem localRepairs_calm : Calm s s.localRepairs := by
  have repaired : Calm s ((List.range 12).foldl State.repairChan ((List.range 12).foldl State.repairStack
      ((List.range 64).foldl State.repairBlock s))) :=
    (Calm.foldl repairBlock_calm _ s).trans ((Calm.foldl repairStack_calm _ _).trans (Calm.foldl repairChan_calm _ _))
  unfold State.localRepairs
  exact .ite (repaired.trans (recoveryDone_tells _ 3).calm) (.ite (repaired.trans (recoveryDone_tells _ 1).calm) (Calm.refl s))

theorem abortLimits_calm (cause : AbortCause) : Calm s (s.abortLimits cause) := by
  have raised (t : State) (f : FaultBlock → FaultBlock) (a : LogArgs) (sa : (f t.fault).stepAborts = t.fault.stepAborts)
      (ra : (f t.fault).refillActive = t.fault.refillActive) :
      Calm t (({ t with fault := f t.fault, holds := { t.holds with stalled := true } } : State).log a) :=
    Calm.trans { stepAborts := sa, refill := ra } (log_notes _ _).calm
  have suspected (run : Nat) : Calm s (if (s.coord.isCoord && run == 3) = true then
      ({ s with fault := { s.fault with heldLimitRun := run, hardwareSeen := false, planSuspect := true }, holds := { s.holds with stalled := true } } :
        State).log { code := 0x070F, severity := 4, action := 6, detail := s.sheaf.step.toNat }
      else { s with fault := { s.fault with heldLimitRun := run, hardwareSeen := false } }) :=
    .ite (Calm.trans {} (log_notes _ _).calm) {}
  unfold State.abortLimits
  exact .ite ((suspected _).trans (raised _ (fun f => { f with recoveryStalled := true }) _ rfl rfl)) (suspected _)

end

end Sys2Proof.Machine
end

/-! SUPPORT. A step aborted at its own boundary (R41, R47). -/

section
namespace Sys2Proof.Machine

open Sys2Proof

-- Each default of a relation is a tactic that waits for all earlier declarations: one proof at a time.
set_option Elab.async false

/-! A step aborted at its own boundary (R41, R47) -/

/-- A step at rest at its boundary after an abort: its count, the next attempt, no crossing under way. -/
def State.abortedStep (s : State) : State := { s with
  tokens := []
  sheaf := { s.sheaf with sheafInStep := 0, atBoundary := true, running := false, stepHeld := 0, refillLeft := 0 }
  fault := { s.fault with stepAborts := satInc s.fault.stepAborts, refillActive := false }
  assay := { s.assay with attempt := s.assay.attempt + 1 } }

section
variable (s : State)

theorem logAbort_calm : Calm s s.logAbort := (log_notes s _).calm.trans {}

theorem retireWrites_calm (i cycle : Nat) : Calm s (s.retireWrites i cycle) :=
  (Calm.foldl (fun t _ => poke_calm t _ _) _ s).trans (onStack_calm _ i _)

theorem restUnits_calm : Calm { s with tokens := [] } s.restUnits := {}

theorem setStksNets_calm (k : List (Nat × Stack)) (n : List (Nat × Net)) : Calm s { s with stks := k, nets := n } := {}

theorem quiet_calm : Calm { s with tokens := [] } s.quiet := by
  have retired := Calm.foldl (fun t i => retireWrites_calm t i (2 ^ 64)) (List.range 12) s
  unfold State.quiet
  generalize (List.range 12).foldl (fun t i => t.retireWrites i (2 ^ 64)) s = t at retired
  have emptied : Calm { s with tokens := [] } { t with tokens := [] } := { retired with tokens := rfl }
  exact (emptied.trans (restUnits_calm t)).trans (setStksNets_calm _ _ _)

/-- The same change of what an abort counts, on two states that agree in it. -/
theorem abortedStep_calm {s t : State} (h : Calm { s with tokens := [] } t) (glean : Glean) (active twin : Bool) (consec : Word32) (abort : Option AbortCause) :
    Calm s.abortedStep { t with
      glean := glean
      sheaf := { t.sheaf with sheafInStep := 0, atBoundary := true, running := false, stepHeld := 0, refillLeft := 0 }
      fault := { t.fault with
        stepAborts := satInc t.fault.stepAborts, abortConsec := consec, recoveryActive := active, refillActive := false, abort := abort }
      assay := { t.assay with attempt := t.assay.attempt + 1, twinPending := twin }
      holds := { t.holds with twin := twin } } :=
  { h with
    sheaf := by dsimp only [State.abortedStep]; rw [h.sheaf]
    stepAborts := congrArg satInc h.stepAborts
    refill := rfl
    attempt := congrArg (· + 1) h.attempt }

theorem abortStep_calm : Calm s.abortedStep s.abortStep := by
  have logged (c : AbortCause) : Calm s (if (c == .consensus) = true then s.logAbort else s) := .ite (logAbort_calm s) (Calm.refl s)
  unfold State.abortStep
  dsimp only
  generalize (if bit s.sheaf.sampled 5 = true then s.fault.abort.getD .consensus else .consensus) = cause
  replace logged := logged cause
  generalize (if (cause == .consensus) = true then s.logAbort else s) = t at logged ⊢
  have emptied : Calm { s with tokens := [] } { t with tokens := [] } := { logged with tokens := rfl }
  have quieted := emptied.trans ((quiet_calm t).trans (checkFeed_calm _))
  generalize t.quiet.checkFeed = u at quieted ⊢
  have pulled := quieted.trans ((markAborted_calm u (BitVec.ofNat 48 u.sheaf.step.toNat)).trans (beginPull_calm _ u.sheaf.step))
  generalize (u.markAborted (BitVec.ofNat 48 u.sheaf.step.toNat)).beginPull u.sheaf.step = v at pulled ⊢
  exact (abortedStep_calm (pulled.trans (journalNow_marks v 5 _).calm) _ _ _ _ _).trans ((abortLimits_calm _ _).trans (localRepairs_calm _))

end

/-- An ABORT before the step's end rests it at its boundary. -/
theorem abortTick_rests {s : State} {done : Bool} (stop : s.job.stopMode = none) (outside : s.inCommit = false) (ends : (done && s.lastRuns) = false) :
    Calm (s.countHeld false).abortedStep (s.abortTick done) := by
  have aborted := (abortStep_calm (s.countHeld false)).trans (atBoundaryTick_tells _).calm
  have goes : (s.countHeld false).abortStep.atBoundaryTick.stopsNow = false := stopsNow_none _ ((congrArg Job.stopMode aborted.job).trans stop)
  have last : ¬ (done && (s.countHeld false).lastRuns) = true := by rw [countHeld_lastRuns, ends]; exact Bool.false_ne_true
  have inside : ¬ (s.inCommit && !(done && s.lastRuns)) = true := by rw [outside]; exact Bool.false_ne_true
  rw [State.abortTick, if_neg inside]
  dsimp only
  rw [if_neg last, if_neg (Bool.eq_false_iff.mp goes)]
  exact aborted

theorem abortRestsAtOwnBoundary : Claims.AbortRestsAtOwnBoundary := by
  intro s segment abort outside before
  let next : State := { s with sheaf := { s.sheaf with tickNo := s.sheaf.tickNo + 1 } }
  have act : next.act = next.abortTick (bit s.sheaf.latched 3) := by rw [State.act, if_pos abort]
  have ends : (bit s.sheaf.latched 3 && next.lastRuns) = false := by
    have same : next.lastRuns = s.lastRuns := rfl
    rw [same, State.lastRuns, State.lastSheaf]
    rcases before with undone | rests | early
    · rw [undone]; rfl
    · simp [rests]
    · simp [show ¬ s.stepLen ≤ s.sheaf.sheafInStep.toNat + 1 by omega]
  obtain ⟨_, _, _, _, stop, _⟩ := id segment
  have tick := tick_acts segment
  rw [act] at tick
  have rests := abortTick_rests (s := next) stop outside ends
  generalize next.abortTick (bit s.sheaf.latched 3) = t at tick rests
  have kept : Calm t.passTick (t.passTick.jobState s) := (jobState_notes _ _).calm
  have sheaf : (t.passTick.jobState s).sheaf = { ((next.countHeld false).abortedStep).sheaf with cut := false, taken := false } := by
    rw [kept.sheaf, State.passTick, rests.sheaf]
  exact ⟨_, tick, by simp only [sheaf]; rfl, by simp only [sheaf]; rfl, by simp only [sheaf]; rfl, by simp only [sheaf]; rfl, by simp only [sheaf]; rfl,
    by simp only [sheaf]; rfl, by rw [kept.job]; exact congrArg Job.lastCommit rests.job, kept.stepAborts.trans rests.stepAborts,
    kept.attempt.trans rests.attempt, kept.tokens.trans rests.tokens, kept.refill.trans rests.refill⟩

end Sys2Proof.Machine
end

/-! SUPPORT. What a sheaf's first lines leave unchanged (R41, R134, R163). -/

section
namespace Sys2Proof.Machine

open Sys2Proof

-- Each default of a relation is a tactic that waits for all earlier declarations: one proof at a time.
set_option Elab.async false

/-- A value read from a map whose entries have each been changed: the changed entry, or the default where there is none. -/
theorem get_map_entries {α : Type} (d : α) (f : Nat → α → α) (m : Sparse α) (i : Nat) :
    get d (m.map (fun x => (x.1, f x.1 x.2))) i = f i (get d m i) ∨
      (get d (m.map (fun x => (x.1, f x.1 x.2))) i = d ∧ get d m i = d) := by
  induction m with
  | nil => exact .inr ⟨rfl, rfl⟩
  | cons x m ih =>
    obtain ⟨k, v⟩ := x
    rw [List.map_cons, get_cons, get_cons]
    by_cases same : i = k
    · subst same
      exact .inl (by rw [if_pos rfl, if_pos rfl])
    · rw [if_neg same, if_neg same]
      exact ih

/-! A sheaf's start (R41, R134, R163) -/

/-- What a block holds of the sheaf under way: its group counts, its pending operations, and the values of its units. -/
def Block.course (k : Block) : Groups × List Due × Sparse Row × Sparse Memory := (k.groups, k.pend, k.v, k.opb)

/-- The sheaf's first lines: beside the job's course the counts of the groups, the units' values, what is pending and the cycle counters stay. -/
structure Begins (s t : State) : Prop extends Calm s t where
  glean : t.glean = s.glean := by rfl
  holds : t.holds = s.holds := by rfl
  forward : t.forward = s.forward := by rfl
  cycles : ∀ r, (t.region r).cycle = (s.region r).cycle := by exact fun _ => rfl
  courses : ∀ b, (t.block b).course = (s.block b).course := by exact fun _ => rfl
  arrived : ∀ i, (t.stack i).groups = (s.stack i).groups := by exact fun _ => rfl

/-- The writes and the forward words that the last sheaf leaves: of the units' values nothing changes. -/
structure Settles (s t : State) : Prop extends Calm s t where
  glean : t.glean = s.glean := by rfl
  holds : t.holds = s.holds := by rfl
  values : ∀ b, (t.block b).v = (s.block b).v ∧ (t.block b).opb = (s.block b).opb := by exact fun _ => ⟨rfl, rfl⟩

section
variable {s t u : State}

theorem Begins.refl (s : State) : Begins s s := {}
theorem Settles.refl (s : State) : Settles s s := {}

theorem Begins.trans (h : Begins s t) (k : Begins t u) : Begins s u where
  toCalm := h.toCalm.trans k.toCalm
  glean := k.glean.trans h.glean
  holds := k.holds.trans h.holds
  forward := k.forward.trans h.forward
  cycles r := (k.cycles r).trans (h.cycles r)
  courses b := (k.courses b).trans (h.courses b)
  arrived i := (k.arrived i).trans (h.arrived i)

theorem Settles.trans (h : Settles s t) (k : Settles t u) : Settles s u where
  toCalm := h.toCalm.trans k.toCalm
  glean := k.glean.trans h.glean
  holds := k.holds.trans h.holds
  values b := ⟨(k.values b).1.trans (h.values b).1, (k.values b).2.trans (h.values b).2⟩

theorem Begins.ite {c : Prop} [Decidable c] (h : Begins s t) (k : Begins s u) : Begins s (if c then t else u) := by
  split
  · exact h
  · exact k

theorem Marks.begins (h : Marks s t) (glean : t.glean = s.glean) : Begins s t where
  toCalm := h.calm
  glean := glean
  holds := h.holds
  forward := h.forward
  cycles r := congrArg (fun m => (get {} m r).cycle) h.regions
  courses b := (congrArg Block.course (h.works b) :)
  arrived i := (congrArg Stack.groups (h.engines i) :)

theorem Notes.begins (h : Notes s t) : Begins s t := h.toMarks.begins h.glean

theorem Errs.glean (h : Errs s t) : t.glean = s.glean := by
  obtain ⟨_, _, _, _, _, _, _, _, _, _, _, _, _, rfl⟩ := h
  rfl

theorem Begins.settles (h : Begins s t) : Settles s t where
  toCalm := h.toCalm
  glean := h.glean
  holds := h.holds
  values b := by
    have same := h.courses b
    simp only [Block.course, Prod.mk.injEq] at same
    obtain ⟨_, _, delay, input⟩ := same
    exact ⟨delay, input⟩

end

section
variable (s : State)

theorem onBlock_begins (b : Nat) {f : Block → Block} (h : ∀ k, (f k).course = k.course) : Begins s (s.onBlock b f) where
  courses x := by
    by_cases same : x = b
    · rw [same, block_onBlock_same, h]
    · rw [block_onBlock_other s f same]

theorem onStack_begins (i : Nat) {f : Stack → Stack} (h : ∀ k, (f k).groups = k.groups) : Begins s (s.onStack i f) where
  arrived x := by
    by_cases same : x = i
    · rw [same, stack_onStack_same, h]
    · rw [stack_onStack_other s f same]

theorem onRegion_begins (r : Nat) {f : Region → Region} (h : ∀ k, (f k).cycle = k.cycle) : Begins s (s.onRegion r f) where
  cycles x := by
    show (get {} (upd {} s.regions r f) x).cycle = (get {} s.regions x).cycle
    by_cases same : x = r
    · rw [same, get_upd_same, h]
    · rw [get_upd_other _ _ _ same]

theorem onNet_begins (n : Nat) (f : Net → Net) : Begins s (s.onNet n f) := {}

theorem restall_begins (r : Nat) : Begins s (s.restall r) := onRegion_begins s r fun _ => rfl

theorem onPart_begins (n : Nat) (f : Net → Net) : Begins s (s.onPart n f) :=
  (onNet_begins s n f).trans (onRegion_begins _ _ fun _ => rfl)

theorem blockErr_begins (b i : Nat) : Begins s (s.blockErr b i) := (blockErr_marks s b i).begins (blockErr_errs s b i).glean

theorem stackErr_begins (i bitIx line engine : Nat) : Begins s (s.stackErr i bitIx line engine) :=
  (stackErr_marks s _ _ _ _).begins (stackErr_errs s _ _ _ _).glean

theorem sramCorrect_begins (b off len : Nat) : Begins s (s.sramCorrect b off len) :=
  (sramCorrect_marks s b off len).begins (sramCorrect_errs s b off len).glean

theorem illegalBundle_begins (b : Nat) : Begins s (s.illegalBundle b) := by
  unfold State.illegalBundle
  refine .ite (Begins.refl s) ((onBlock_begins s b ?_).trans ((blockErr_begins _ b 10).trans (stepError_notes _ _).begins))
  exact fun _ => rfl

theorem illegalStack_begins (i e : Nat) : Begins s (s.illegalStack i e) := by
  unfold State.illegalStack
  refine .ite (Begins.refl s) ((onStack_begins s i ?_).trans ((stackErr_begins _ i 4 _ e).trans (hardError_notes _ _).begins))
  exact fun _ => rfl

theorem beginBundle_begins (b : Nat) : Begins s (s.beginBundle b) := by
  have marked {f : Block → Block} (h : ∀ k, (f k).course = k.course) := onBlock_begins s b h
  have issued {f : Block → Block} (h : ∀ k, (f k).course = k.course) (off : Nat) := (marked h).trans (sramCorrect_begins _ b off 32)
  unfold State.beginBundle
  refine .ite (Begins.refl s) (.ite ((illegalBundle_begins s b).trans (onBlock_begins _ b ?ended)) (.ite ((marked ?stalled).trans (restall_begins _ _))
    (.ite (issued ?idle _) ((issued ?idle _).trans (illegalBundle_begins _ b)))))
  all_goals exact fun _ => rfl

theorem beginWord_begins (i : Nat) : Begins s (s.beginWord i) := by
  have marked {f : Stack → Stack} (h : ∀ k, (f k).groups = k.groups) := onStack_begins s i h
  unfold State.beginWord
  refine .ite (Begins.refl s) (.ite ((illegalStack_begins s i 0).trans (onStack_begins _ i ?ended)) (.ite ((marked ?stalled).trans (restall_begins _ _))
    (.ite ((marked ?idle).trans (illegalStack_begins _ i _)) (marked ?idle))))
  all_goals exact fun _ => rfl

theorem storeForward_settles (a : FwdArrival) : Settles s (s.storeForward a) := by
  unfold State.storeForward
  split
  · exact ((onNet_begins s _ _).trans (stepError_notes _ _).begins).settles
  · refine Settles.trans {} (foldl_related Settles.refl Settles.trans (fun t n => ?_) _ _)
    exact (Begins.ite (onPart_begins t n _) (Begins.refl t)).settles

theorem settleForward_settles : Settles s s.settleForward :=
  Settles.trans {} (foldl_related Settles.refl Settles.trans storeForward_settles _ _)

theorem pokes_begins (l : List StackWrite) : Begins s (l.foldl (fun t w => t.poke w.addr w.bytes) s) :=
  foldl_related Begins.refl Begins.trans (fun _ _ => {}) l s

theorem retireWrites_settles (i cycle : Nat) : Settles s (s.retireWrites i cycle) := by
  refine ((pokes_begins s _).trans (onStack_begins _ i ?_)).settles
  exact fun _ => rfl

end

end Sys2Proof.Machine
end

/-! SUPPORT. The start of a sheaf: what stands in the units, and what has gone (R32, R41). -/

section
namespace Sys2Proof.Machine

open Sys2Proof

-- Each default of a relation is a tactic that waits for all earlier declarations: one proof at a time.
set_option Elab.async false

/-- A sheaf of `s` at its start: nothing has arrived, nothing is under way, every cycle counter is 0; the units keep their values. -/
structure Started (s t : State) : Prop where
  sheaf : t.sheaf = s.sheaf
  job : t.job = s.job
  store : t.store = s.store
  attempt : t.assay.attempt = s.assay.attempt
  glean : t.glean = s.glean
  holds : t.holds = s.holds
  period : t.time.period = s.time.period
  tokens : t.tokens = []
  forward : t.forward = []
  cycles : ∀ r, (t.region r).cycle = 0
  blocks : ∀ b, (∀ g, (t.block b).groups.have g = 0) ∧ (t.block b).pend = []
  values : ∀ b, (t.block b).v = (s.block b).v ∧ (t.block b).opb = (s.block b).opb
  arrivals : ∀ i g, (t.stack i).groups.have g = 0

section
variable {s t u : State}

theorem Begins.started (h : Started s t) (k : Begins t u) : Started s u where
  sheaf := k.sheaf.trans h.sheaf
  job := k.job.trans h.job
  store := k.store.trans h.store
  attempt := k.attempt.trans h.attempt
  glean := k.glean.trans h.glean
  holds := k.holds.trans h.holds
  period := (congrArg TimeBlock.period k.time).trans h.period
  tokens := k.tokens.trans h.tokens
  forward := k.forward.trans h.forward
  cycles r := (k.cycles r).trans (h.cycles r)
  blocks b := by
    have same := k.courses b
    simp only [Block.course, Prod.mk.injEq] at same
    obtain ⟨groups, pend, _, _⟩ := same
    exact ⟨fun g => by rw [groups]; exact (h.blocks b).1 g, pend.trans (h.blocks b).2⟩
  values b := ⟨(k.settles.values b).1.trans (h.values b).1, (k.settles.values b).2.trans (h.values b).2⟩
  arrivals i g := by rw [k.arrived i]; exact h.arrivals i g

theorem Settles.started (h : Settles s t) (k : Started t u) : Started s u :=
  { k with
    sheaf := k.sheaf.trans h.sheaf
    job := k.job.trans h.job
    store := k.store.trans h.store
    attempt := k.attempt.trans h.attempt
    glean := k.glean.trans h.glean
    holds := k.holds.trans h.holds
    period := k.period.trans (congrArg TimeBlock.period h.time)
    values := fun b => ⟨(k.values b).1.trans (h.values b).1, (k.values b).2.trans (h.values b).2⟩ }

end

section
variable (s : State)

theorem startSheaf_block (k : Block) (pattern : Nat) (x : Option Stream) : (∀ g, (k.startSheaf pattern x).groups.have g = 0) ∧
    (k.startSheaf pattern x).pend = [] ∧ (k.startSheaf pattern x).v = k.v ∧ (k.startSheaf pattern x).opb = k.opb := by
  cases x <;> exact ⟨fun _ => rfl, rfl, rfl, rfl⟩

theorem startSheaf_stack (k : Stack) (pattern : Nat) (x : Option Stream) (l : List Word128) (g : Nat) :
    (k.startSheaf pattern x l).groups.have g = 0 := by
  cases x <;> rfl

/-- The units at the start of a sheaf, before their first lines. -/
def State.sheafUnits (s : State) : State :=
  let unread := (s.forward.filter (fun x => x.2.isSome)).length
  let pattern := s.sheaf.pattern
  { s with
    blocks := s.blocks.map (fun (x : Nat × Block) => (x.1, x.2.startSheaf pattern (if x.2.active then s.blockStream x.1 else none)))
    stks := s.stks.map (fun (x : Nat × Stack) =>
      (x.1, x.2.startSheaf pattern (if x.2.active then s.stackStream x.1 else none) (s.sliceEntries x.1 pattern)))
    nets := s.nets.map (fun (x : Nat × Net) => (x.1, x.2.startSheaf pattern (if x.2.active then s.partEntries x.1 pattern else [])))
    regions := s.regions.map (fun (x : Nat × Region) => (x.1, { x.2 with
      cycle := 0, stall := none, badData := []
      done := if 0x10 ≤ x.1 ∧ x.1 < 0x14 then (s.partEntries (x.1 - 0x10) pattern).isEmpty else false }))
    ddr := s.ddr.map (fun (x : Nat × Ddr) => (x.1, { x.2 with queue := s.movesOf x.1 pattern, run := none }))
    links := s.links.map (fun (x : Nat × Link) => (x.1, x.2.startSheaf))
    tokens := [], forward := [], role := { s.role with fwdUnread := satAdd s.role.fwdUnread unread } }

theorem startUnits_eq : s.startUnits = (List.range 12).foldl State.beginWord ((List.range 64).foldl State.beginBundle
    ((List.range 12).foldl (fun t i => t.retireWrites i (2 ^ 64)) s).settleForward.sheafUnits) := by
  unfold State.startUnits State.sheafUnits
  dsimp only

theorem sheafUnits_started : Started s s.sheafUnits where
  sheaf := rfl
  job := rfl
  store := rfl
  attempt := rfl
  glean := rfl
  holds := rfl
  period := rfl
  tokens := rfl
  forward := rfl
  cycles r := by
    rcases get_map_entries ({} : Region) (fun i k => { k with
      cycle := 0, stall := none, badData := []
      done := if 0x10 ≤ i ∧ i < 0x14 then (s.partEntries (i - 0x10) s.sheaf.pattern).isEmpty else false }) s.regions r with there | ⟨none, _⟩
    · exact congrArg Region.cycle there
    · exact congrArg Region.cycle none
  blocks b := by
    rcases get_map_entries ({} : Block) (fun i k => k.startSheaf s.sheaf.pattern (if k.active then s.blockStream i else none)) s.blocks b
      with there | ⟨none, _⟩
    · obtain ⟨groups, pend, _, _⟩ := startSheaf_block (s.block b) s.sheaf.pattern (if (s.block b).active then s.blockStream b else none)
      exact ⟨fun g => (congrArg (fun k : Block => k.groups.have g) there).trans (groups g), (congrArg Block.pend there).trans pend⟩
    · exact ⟨fun g => congrArg (fun k : Block => k.groups.have g) none, congrArg Block.pend none⟩
  values b := by
    rcases get_map_entries ({} : Block) (fun i k => k.startSheaf s.sheaf.pattern (if k.active then s.blockStream i else none)) s.blocks b
      with there | ⟨none, absent⟩
    · obtain ⟨_, _, v, opb⟩ := startSheaf_block (s.block b) s.sheaf.pattern (if (s.block b).active then s.blockStream b else none)
      exact ⟨(congrArg Block.v there).trans v, (congrArg Block.opb there).trans opb⟩
    · exact ⟨congrArg Block.v (none.trans absent.symm), congrArg Block.opb (none.trans absent.symm)⟩
  arrivals i g := by
    rcases get_map_entries ({} : Stack) (fun i k => k.startSheaf s.sheaf.pattern (if k.active then s.stackStream i else none)
      (s.sliceEntries i s.sheaf.pattern)) s.stks i with there | ⟨none, _⟩
    · exact (congrArg (fun k : Stack => k.groups.have g) there).trans (startSheaf_stack _ _ _ _ g)
    · exact congrArg (fun k : Stack => k.groups.have g) none

theorem startUnits_started : Started s s.startUnits := by
  rw [startUnits_eq]
  have settled := (foldl_related Settles.refl Settles.trans (fun t i => retireWrites_settles t i (2 ^ 64)) (List.range 12) s).trans
    (settleForward_settles _)
  have begun (t : State) : Begins t ((List.range 12).foldl State.beginWord ((List.range 64).foldl State.beginBundle t)) :=
    (foldl_related Begins.refl Begins.trans beginBundle_begins _ t).trans (foldl_related Begins.refl Begins.trans beginWord_begins _ _)
  exact (begun _).started (settled.started (sheafUnits_started _))

theorem sheafPulses_started {t : State} (h : Started s t) : Started s t.sheafPulses := { h with }

theorem commitTick_begins : Begins s s.commitTick := by
  unfold State.commitTick
  refine .ite (Begins.refl s) (foldl_related Begins.refl Begins.trans (fun t i => onStack_begins t i fun k => ?_) _ s)
  split <;> rfl

theorem stageFeed_begins (step : Word64) (bytes : List Byte) : Begins s (s.stageFeed step bytes) := by
  have fed (t : State) (f : Feed) : Begins t { t with feed := f } := {}
  unfold State.stageFeed
  dsimp only
  have staged : Begins s (match s.feedPlace step.toNat with | some a => s.poke a bytes | none => s) := by
    split <;> exact {}
  exact .ite (staged.trans (fed _ _)) (staged.trans (fed _ _))

theorem beginPull_begins (step : Word64) : Begins s (s.beginPull step) := by
  unfold State.beginPull
  dsimp only
  split
  · exact Begins.refl s
  · split
    · exact stageFeed_begins s step _
    · exact {}

end

/-! The next sheaf (R32, R41, R45) -/

/-- What the next sheaf starts from: its place in the step and, at a step's first sheaf, the units as a new step finds them. -/
def State.sheafBase (s : State) (first : Bool) (n : Nat) : State :=
  let t := if first then s.openStep else s
  { t with sheaf := { t.sheaf.started n (t.patternAt n) with atBoundary := false } }

theorem nextSheaf_started {s : State} {first : Bool} {n : Nat} (place : (s.sheaf.atBoundary || !s.sheaf.begun) = first)
    (number : (if first then 0 else s.sheaf.sheafInStep.toNat + 1) = n) : Started (s.sheafBase first n) s.nextSheaf := by
  subst place number
  have started := sheafPulses_started _ (startUnits_started (s.sheafBase (s.sheaf.atBoundary || !s.sheaf.begun)
    (if (s.sheaf.atBoundary || !s.sheaf.begun) = true then 0 else s.sheaf.sheafInStep.toNat + 1)))
  unfold State.nextSheaf
  have committed (t : State) (n : Nat) : Begins t (if n + t.commitLen = t.stepLen then t.commitTick else t) :=
    .ite (commitTick_begins t) (Begins.refl t)
  exact (Begins.ite ((committed _ _).trans (beginPull_begins _ _)) (committed _ _)).started started

end Sys2Proof.Machine
end

/-! SUPPORT. The tick that starts a sheaf, and the tick that commits a step (R32, R41, R45, R46). -/

section
namespace Sys2Proof.Machine

open Sys2Proof

-- Each default of a relation is a tactic that waits for all earlier declarations: one proof at a time.
set_option Elab.async false

section
variable {s : State}

/-- With DONE alone latched a tick starts a sheaf. -/
theorem act_starts (h : Claims.Starts s) : s.act = s.startTick := by
  obtain ⟨done, hold, abort⟩ := h
  simp [State.act, done, hold, abort]

/-- The end of a tick keeps what a started sheaf holds. -/
theorem tickEnd_started {b t : State} (h : Started b t) (before : State) :
    Started { b with sheaf := { b.sheaf with cut := false, taken := false } } (t.passTick.jobState before) := by
  have passed : Started { b with sheaf := { b.sheaf with cut := false, taken := false } } t.passTick :=
    { h with sheaf := congrArg (fun x : SheafState => { x with cut := false, taken := false }) h.sheaf }
  exact (jobState_notes t.passTick before).begins.started passed

/-- A tick inside the segment at which the next sheaf starts. -/
theorem tick_starts {b t : State} (segment : Claims.InSegment s) (starts : Claims.Starts s)
    (act : ({ s with sheaf := { s.sheaf with tickNo := s.sheaf.tickNo + 1 } } : State).startTick = t) (h : Started b t) :
    ∃ u, exec .tick s = .next u ∧ Started { b with sheaf := { b.sheaf with cut := false, taken := false } } u := by
  refine ⟨_, ?_, tickEnd_started h s⟩
  rw [tick_acts segment, act_starts (s := { s with sheaf := { s.sheaf with tickNo := s.sheaf.tickNo + 1 } }) starts, act]

theorem startTick_within (stop : s.job.stopMode = none) (within : s.sheaf.atBoundary = false) (begun : s.sheaf.begun = true)
    (place : s.sheaf.sheafInStep.toNat + 1 < s.stepLen) : s.startTick = s.nextSheaf := by
  have last : s.lastRuns = false := by
    rw [State.lastRuns, State.lastSheaf, decide_eq_false (by omega), Bool.and_false]
  simp [State.startTick, last, stopsNow_none s stop, within, begun]

theorem sheafStartsOnConsensus : Claims.SheafStartsOnConsensus := by
  intro s
  constructor
  · intro early
    show execTick s = _
    simp [execTick, early]
  intro segment starts within place
  obtain ⟨_, _, _, _, stop, begun⟩ := id segment
  let next : State := { s with sheaf := { s.sheaf with tickNo := s.sheaf.tickNo + 1 } }
  have started := nextSheaf_started (s := next) (first := false) (by simp [next, within, begun]) rfl
  obtain ⟨t, tick, h⟩ := tick_starts segment starts (startTick_within (s := next) stop within begun place) started
  refine ⟨t, tick, ?_⟩
  have sheaf {α : Type} (f : SheafState → α) := congrArg f h.sheaf
  refine ⟨sheaf (·.tickNo), sheaf (·.sheafCount), (sheaf (·.sheafInStep)).trans ?_, sheaf (·.step), sheaf (·.heldTicks), sheaf (·.heldConsec), sheaf (·.cut),
    sheaf (·.taken), h.cycles, fun b => (h.blocks b).1, h.arrivals, fun b => (h.blocks b).2, h.tokens, h.forward, h.job, h.store,
    fun b => (h.values b).1, h.glean⟩
  show BitVec.ofNat 16 (s.sheaf.sheafInStep.toNat + 1) = s.sheaf.sheafInStep + 1
  bv_omega

/-! A step's commit and the first sheaf of the next (R45, R46) -/

/-- At a boundary with no table, removal, refill or plan switch due, the next step's first sheaf starts. -/
theorem startBoundary_plain (staged : s.tables.staged = none) (removal : s.mgmt.removal = false) (active : s.fault.refillActive = false)
    (refill : s.coord.refill = []) (removals : s.coord.removals = []) (replay : s.glean.replay.active = false)
    (switch : s.store.switchStep = none) :
    s.startBoundary = ({ s.boundaryLinks with coord := { s.coord with removals := [] } } : State).nextSheaf.showPlace := by
  have stays : s.boundaryLinks.leaveCoord = s.boundaryLinks := by
    rw [State.leaveCoord, if_neg]
    simp [State.boundaryLinks, removal]
  have boundary : s.atBoundaryTick = { s.boundaryLinks with coord := { s.coord with removals := [] } } := by
    rw [State.atBoundaryTick, stays, State.servedRemovals]
    simp [State.boundaryLinks, removals]
  rw [State.startBoundary, boundary]
  generalize ht : ({ s.boundaryLinks with coord := { s.coord with removals := [] } } : State) = t
  have kept : t.tables.staged = none ∧ t.mgmt.removal = false ∧ t.fault.refillActive = false ∧ t.coord.refill = [] ∧
      t.glean.replay.active = false ∧ t.store.switchStep = none := by
    subst ht
    exact ⟨staged, removal, active, refill, replay, switch⟩
  obtain ⟨staged, removal, active, refill, replay, switch⟩ := kept
  have installed : t.install = t := by simp [State.install, staged]
  have switched : t.switchPlan = t := by simp [State.switchPlan, State.switchDue, replay, switch]
  have plain : t.boundarySheaf = t.nextSheaf := by simp [State.boundarySheaf, State.refillDue, active, refill]
  rw [installed, if_neg (by simp [removal]), switched, plain]

theorem setHotplug_started {b t : State} (h : Started b t) (p : HotPlug) : Started b (t.setHotplug p) := by
  unfold State.setHotplug
  split
  · exact h
  · have moved : Started b { t with mgmt := { t.mgmt with hotplug := p } } := { h with }
    exact (platform_notes _ _ _).begins.started moved

theorem showPlace_started {b t : State} (h : Started b t) : Started b t.showPlace := by
  unfold State.showPlace
  split
  · exact h
  · exact setHotplug_started h _

theorem openStep_clears (b : Nat) : (s.openStep.block b).v = [] ∧ (s.openStep.block b).opb = [] := by
  rcases get_map_entries ({} : Block) (fun _ k => { k.clearUnits with isolated := k.isolated && !s.rst.episode.isEmpty }) s.blocks b
    with there | ⟨none, _⟩
  · exact ⟨congrArg Block.v there, congrArg Block.opb there⟩
  · exact ⟨congrArg Block.v none, congrArg Block.opb none⟩

theorem stepCommitsAtBoundary : Claims.StepCommitsAtBoundary := by
  intro s segment starts within ends staged removal active refill removals replay switch
  obtain ⟨_, _, _, _, stop, begun⟩ := id segment
  let next : State := { s with sheaf := { s.sheaf with tickNo := s.sheaf.tickNo + 1 } }
  have last : next.lastRuns = true := by
    show (s.sheaf.begun && !s.sheaf.atBoundary && s.lastSheaf) = true
    rw [begun, within, State.lastSheaf, decide_eq_true ends]
    rfl
  have work := commitWork_marks next
  generalize hw : next.commitWork = w at work
  let closed : State := w.closed s.sheaf.step.toNat
  have close : next.closeStep = closed := by rw [closeStep_eq, hw]
  have plain : closed.startBoundary = ({ closed.boundaryLinks with coord := { closed.coord with removals := [] } } : State).nextSheaf.showPlace :=
    startBoundary_plain ((congrArg Tables.staged work.tables).trans staged) (work.removal.trans removal) (work.refill.trans active)
      ((congrArg Coordination.refill work.coord).trans refill) ((congrArg Coordination.removals work.coord).trans removals)
      (by show (w.glean.replay.active && _) = false; rw [work.replaying.trans replay, Bool.false_and])
      ((congrArg PlanStore.switchStep work.store).trans switch)
  have act : next.startTick = closed.startBoundary := by
    have goes : closed.stopsNow = false := stopsNow_none _ ((congrArg Job.stopMode work.job).trans stop)
    rw [State.startTick, if_pos last, close]
    rw [if_neg (by rw [goes]; exact Bool.false_ne_true)]
    exact if_pos rfl
  have started := showPlace_started (nextSheaf_started (s := { closed.boundaryLinks with coord := { closed.coord with removals := [] } })
    (first := true) (n := 0) rfl rfl)
  obtain ⟨t, tick, h⟩ := tick_starts segment starts (act.trans plain) started
  have sheaf {α : Type} (f : SheafState → α) := congrArg f h.sheaf
  have before {α : Type} (f : SheafState → α) := congrArg f work.sheaf
  refine ⟨t, tick, congrArg Job.lastCommit h.job, (sheaf (·.step)).trans (before (·.step + 1)), sheaf (·.sheafInStep), sheaf (·.atBoundary),
    (sheaf (·.sheafCount)).trans (congrArg satInc64 (before (·.sheafCount))), h.attempt, fun b => ?_⟩
  obtain ⟨v, opb⟩ := openStep_clears (s := { closed.boundaryLinks with coord := { closed.coord with removals := [] } }) b
  exact ⟨(h.values b).1.trans v, (h.values b).2.trans opb⟩

end

end Sys2Proof.Machine
end

/-! SUPPORT. A job's first tick, and the outcomes at a step's boundary (R29, R31, R45, R47, R385). -/

section
namespace Sys2Proof.Machine

open Sys2Proof

-- Each default of a relation is a tactic that waits for all earlier declarations: one proof at a time.
set_option Elab.async false

/-! A job's first tick (R29, R31, R385) -/

/-- What a job's first tick fixes before its first sheaf. -/
structure Prepares (s t : State) : Prop where
  phase : t.job.phase = s.job.phase := by rfl
  sheaf : t.sheaf = s.sheaf := by rfl
  holds : t.holds = s.holds := by rfl
  period : t.time.period = s.time.period := by rfl

section
variable {s t u : State}

theorem Prepares.refl (s : State) : Prepares s s := {}

theorem Prepares.trans (h : Prepares s t) (k : Prepares t u) : Prepares s u where
  phase := k.phase.trans h.phase
  sheaf := k.sheaf.trans h.sheaf
  holds := k.holds.trans h.holds
  period := k.period.trans h.period

theorem Marks.prepares (h : Marks s t) : Prepares s t where
  phase := congrArg Job.phase h.job
  sheaf := h.sheaf
  holds := h.holds
  period := congrArg TimeBlock.period h.time

theorem Started.prepares (h : Started s t) : Prepares s t where
  phase := congrArg Job.phase h.job
  sheaf := h.sheaf
  holds := h.holds
  period := h.period

end

section
variable (s : State)

/-- The graces follow the enabled links alone. -/
theorem graceFollows_links : ∃ l, s.graceFollows = { s with links := l } := by
  refine foldl_related (R := fun s t : State => ∃ l, t = { s with links := l }) (fun s => ⟨s.links, rfl⟩) ?_ (fun t l => ?_) _ s
  · rintro s _ _ ⟨l, rfl⟩ ⟨k, rfl⟩
    exact ⟨k, rfl⟩
  · have started : ∃ k, t.startGrace l = { t with links := k } := by
      unfold State.startGrace
      split
      · exact ⟨_, rfl⟩
      · exact ⟨t.links, rfl⟩
    dsimp only
    split
    · split
      · exact ⟨_, rfl⟩
      · exact ⟨t.links, rfl⟩
    · split
      · exact started
      · exact ⟨t.links, rfl⟩

theorem setTables_eq (gen : BitVec 16) (form : Nat) (positions : Sparse Nat) : ∃ k r l, s.setTables gen form positions =
    { s with tables := k, job := { s.job with replica := r }, links := l } := by
  obtain ⟨l, eq⟩ := graceFollows_links (s.installTables gen form positions)
  exact ⟨_, _, l, eq⟩

/-- Loading the tables reaches the units alone. -/
theorem loadTables_prepares : Prepares s s.loadTables := by
  have engines (f : State → Nat → Stack → Stack) (t : State) : Prepares t ((List.range 12).foldl (fun t i => t.onStack i (f t i)) t) :=
    foldl_related Prepares.refl Prepares.trans (fun _ _ => {}) _ t
  have nets (f : State → Nat → Net → Net) (t : State) : Prepares t ((List.range 4).foldl (fun t n => t.onNet n (f t n)) t) :=
    foldl_related Prepares.refl Prepares.trans (fun _ _ => {}) _ t
  have dropped (b : Sparse Block) : Prepares s ({ s with blocks := b } : State).dropAhead := {}
  unfold State.loadTables
  dsimp only
  exact (dropped _).trans ((engines (fun t i k => { k with
    active := (t.region (stackRegion i)).active && !t.idleSpare
    tables := stackTablesOf (s.body.stackTables.filter (fun e => s.appliesNow e.sec && e.unitIx == i)) }) _).trans
    (nets (fun t n k => { k with active := (t.region (netRegion n)).active && !t.idleSpare }) _))

theorem setTables_prepares (gen : BitVec 16) (form : Nat) (positions : Sparse Nat) : Prepares s (s.setTables gen form positions) := by
  obtain ⟨_, _, _, eq⟩ := setTables_eq s gen form positions
  rw [eq]
  exact {}

theorem switchPlan_prepares : Prepares s s.switchPlan := by
  have switched (p : PlanStore) (c : Coordination) (b : Bypass) : Prepares s { s with store := p, coord := c, bypass := b } := {}
  unfold State.switchPlan
  split
  · exact Prepares.refl s
  · exact (switched _ _ _).trans ((setTables_prepares _ _ _ _).trans ((loadTables_prepares _).trans (journalNow_marks _ 8 _).prepares))

theorem rateForJob_prepares : Prepares s s.rateForJob := by
  unfold State.rateForJob
  split <;> exact {}

theorem showPlace_prepares : Prepares s s.showPlace := by
  unfold State.showPlace State.setHotplug
  split
  · exact Prepares.refl s
  · split
    · exact Prepares.refl s
    · exact Prepares.trans {} (platform_notes _ _ _).toMarks.prepares

/-- The last part of a job's first tick: its first sheaf, and what the host learns. -/
theorem firstSheaf_prepares {t : State} (fresh : t.sheaf.begun = false) (body : State → List Byte) (l : List (Nat × Nat)) :
    Prepares (t.sheafBase true 0) ((t.nextSheaf.completeAll l 0 body).eventAll 12).showPlace :=
  (nextSheaf_started (by simp [fresh]) rfl).prepares.trans ((completeAll_notes _ _ _ _).toMarks.prepares.trans
    ((eventAll_notes _ 12).toMarks.prepares.trans (showPlace_prepares _)))

/-- What a job begins with: its counts, its first step, no hold. -/
def State.jobBase (s : State) : State :=
  let step : Word64 := if s.job.joining then BitVec.ofNat 64 s.coord.heardStep.toNat else BitVec.ofNat 64 s.job.firstStep.toNat
  let t := { s.restartCounters with
    job := { s.job with phase := .running, lastCommit := none, form := s.tables.form, stopMode := none, hostArm := none }
    sheaf := { syncEpoch := s.sheaf.syncEpoch, segEpoch := s.sheaf.segEpoch, tickNo := s.sheaf.tickNo, step := step }
    holds := {}
    assay := { s.assay with attempt := 0, firstStep := true, passed := none, kept := [], heard := [], verdictPending := false
                            twinPending := false, twinLost := false, sentParam := false, refillOwed := false }
    coord := { s.coord with starts := [], segOpen := false }
    servo := { s.servo with resync := false } }
  { t with fault := { t.fault with
    abort := none, deferred := none, commitFault := false, recoveryStalled := false, planSuspect := false, restoreNeeded := false } }

/-- A job's first tick up to its first sheaf: its rate, its record, the plan that a replay begins with. -/
def State.jobOpened (s : State) : State :=
  let t := s.jobBase.rateForJob
  let t := t.journalNow 1 t.jobStartBody
  if t.glean.replay.active then t.switchPlan else t

theorem beginJob_eq : s.beginJob = ((s.jobOpened.nextSheaf.completeAll [(s.job.port, s.job.mbx)] 0 State.startBody).eventAll 12).showPlace := by
  unfold State.beginJob State.jobOpened State.jobBase
  dsimp only

theorem jobOpened_prepares : Prepares s.jobBase s.jobOpened := by
  unfold State.jobOpened
  generalize s.jobBase = t
  have journaled := (rateForJob_prepares t).trans (journalNow_marks t.rateForJob 1 t.rateForJob.jobStartBody).prepares
  dsimp only
  split
  · exact journaled.trans (switchPlan_prepares _)
  · exact journaled

/-- A job begins: it runs, with no hold, in the segment's P, and its first sheaf has started. -/
theorem beginJob_begins : ∃ t, Prepares s.jobBase t ∧ Prepares (t.sheafBase true 0) s.beginJob := by
  have opened := jobOpened_prepares s
  refine ⟨_, opened, ?_⟩
  rw [beginJob_eq]
  exact firstSheaf_prepares (congrArg SheafState.begun opened.sheaf) _ _

end

section
variable {s : State} {e : Word64} {p : Word32} {se : BitVec 2}

theorem nearTick_of_announced (announced : s.sheaf.nextSeg = some (e, p, se)) (reached : e.toNat ≤ s.nowNs) : s.nearTick 0 = true := by
  rw [State.nearTick, State.tickTime, announced]
  exact decide_eq_true ((Nat.min_le_right _ _).trans reached)

theorem segmentWaits_iff : s.segmentWaits e = true ↔
    s.nowNs < e.toNat ∨ (s.coord.isCoord = true ∧ s.coord.segOpen = true ∧ ∃ k ∈ s.members, k ∉ s.coord.segAcks) := by
  simp [State.segmentWaits, State.epochAcked, and_assoc]

theorem jobBeginsAtEpoch : Claims.JobBeginsAtEpoch := by
  intro s e p se announced starting fixed
  have notRunning : s.jobRuns = false := by simp [State.jobRuns, starting]
  refine ⟨fun reached waits => ?_, segmentWaits_iff, fun goes => ?_, fun early => ?_⟩
  · obtain ⟨l, b, c, again⟩ := chooseEpoch_eq s p se
    have near := nearTick_of_announced announced reached
    have chooses : exec .tick s = .next (s.chooseEpoch p se) := by
      show execTick s = _
      simp [execTick, near, announced, waits, notRunning, State.chooseAgain, Nat.not_lt.mpr reached]
    refine ⟨_, chooses, ?_⟩
    rw [again]
    exact ⟨rfl, rfl, rfl, BitVec.toNat_ofNat _ _⟩
  · have reached : e.toNat ≤ s.nowNs := by
      rw [Bool.eq_false_iff, ne_eq, segmentWaits_iff, not_or] at goes
      exact Nat.not_lt.mp goes.1
    have near := nearTick_of_announced announced reached
    have begins : exec .tick s = .next (s.enterSegment e p se).beginJob := by
      show execTick s = _
      simp [execTick, near, announced, goes, starting]
    obtain ⟨t, opened, started⟩ := beginJob_begins (s.enterSegment e p se)
    have first : (s.enterSegment e p se).jobBase.sheaf =
        { syncEpoch := se, segEpoch := e, tickNo := 0, step := BitVec.ofNat 64 s.job.firstStep.toNat } := by
      simp [State.jobBase, State.enterSegment, fixed]
    have place : (t.sheafBase true 0).sheaf = { t.sheaf.started 0 (t.openStep.patternAt 0) with atBoundary := false } := rfl
    rw [opened.sheaf, first] at place
    have sheaf {α : Type} (f : SheafState → α) := congrArg f (started.sheaf.trans place)
    have step : (BitVec.ofNat 64 s.job.firstStep.toNat).toNat = s.job.firstStep.toNat := by simp; omega
    refine ⟨_, begins, started.phase.trans opened.phase, sheaf (·.tickNo), sheaf (·.segEpoch), started.period.trans opened.period, sheaf (·.syncEpoch),
      sheaf (·.nextSeg), sheaf (·.sheafCount), sheaf (·.sheafInStep), ?_, sheaf (·.heldTicks), started.holds.trans opened.holds⟩
    exact (congrArg BitVec.toNat (sheaf (·.step))).trans step
  · show execTick s = _
    have waits : s.segmentWaits e = true := segmentWaits_iff.mpr (.inl early)
    simp [execTick, announced, waits, notRunning, State.chooseAgain, early]

/-- Settles O44: an abort before the step's last sheaf (`abortTick_rests`), the commit with the next step's first sheaf (`nextSheaf_started`), and a job's
first tick (`beginJob_begins`). -/
theorem boundaryOutcomes : Obligations.BoundaryOutcomes := ⟨abortRestsAtOwnBoundary, stepCommitsAtBoundary, jobBeginsAtEpoch⟩

end

end Sys2Proof.Machine
end

/-! SUPPORT. The sync byte and the latched consensus (R34, R39, R41). -/

section
namespace Sys2Proof.Machine

open Sys2Proof

-- Each default of a relation is a tactic that waits for all earlier declarations: one proof at a time.
set_option Elab.async false

/-! The sync byte and the latched consensus (R34, R39, R41) -/

section
variable {s : State}

/-- The bits of a sync byte. -/
theorem syncOf_bits (b : Bits) : bit (s.syncOf b) 3 = b.done ∧ bit (s.syncOf b) 4 = b.hold ∧ bit (s.syncOf b) 5 = b.abort := by
  have low : (s.sheaf.sheafCount.toNat + 7) % 8 < 8 := Nat.mod_lt _ (by decide)
  have place (i : Nat) (h : i < 8) (n : Nat) : (BitVec.ofNat 8 n).getLsbD i = decide (n / 2 ^ i % 2 = 1) := by
    rw [BitVec.getLsbD_ofNat, decide_eq_true h, Bool.true_and, Nat.testBit_eq_decide_div_mod_eq]
  have shown (b : Bool) : decide (b2n b = 1) = b := by cases b <;> rfl
  have least (b : Bool) : b2n b < 2 := by cases b <;> decide
  have := least b.done
  have := least b.hold
  have := least b.abort
  rw [State.syncOf, bit, bit, bit, place 3 (by decide), place 4 (by decide), place 5 (by decide)]
  exact ⟨(decide_eq_decide.mpr (by omega)).trans (shown b.done), (decide_eq_decide.mpr (by omega)).trans (shown b.hold),
    (decide_eq_decide.mpr (by omega)).trans (shown b.abort)⟩

/-- Of several modules' bits DONE is an AND, HOLD and ABORT are ORs. -/
theorem joinAll_map_iff {α : Type} (l : List α) (f : α → Bits) : ((joinAll (l.map f)).done = true ↔ ∀ x ∈ l, (f x).done = true) ∧
    ((joinAll (l.map f)).hold = true ↔ ∃ x ∈ l, (f x).hold = true) ∧ ((joinAll (l.map f)).abort = true ↔ ∃ x ∈ l, (f x).abort = true) := by
  simpa using joinAll_iff (l.map f)

theorem join_iff (a b : Bits) : ((a.join b).done = true ↔ a.done = true ∧ b.done = true) ∧
    ((a.join b).hold = true ↔ a.hold = true ∨ b.hold = true) ∧ ((a.join b).abort = true ↔ a.abort = true ∨ b.abort = true) := by
  simp [Bits.join]

theorem latchTakesConsensus : Claims.LatchTakesConsensus := by
  intro s
  constructor
  · intro late
    show execConsensusLatch s = _
    rcases late with early | taken
    · simp [execConsensusLatch, early]
    · simp [execConsensusLatch, taken]
  intro runs begun segment near fresh
  have latch : exec .consensusLatch s = .next { s with sheaf := { s.sheaf with latched := s.syncOf s.consensusInput, taken := true } } := by
    show execConsensusLatch s = _
    simp [execConsensusLatch, State.jobRuns, runs, begun, near, fresh, segment]
  obtain ⟨done, hold, abort⟩ := syncOf_bits (s := s) s.consensusInput
  refine ⟨_, latch, rfl, fun relay => ?relay, fun module_ board slot => ?board, fun module_ machine => ?machine⟩
  all_goals dsimp only
  all_goals rw [done, hold, abort]
  case relay =>
    have input : s.consensusInput = s.machineValue := by rw [State.consensusInput, if_pos relay]
    rw [input]
    exact ⟨rfl, rfl, rfl⟩
  case board =>
    have input : s.consensusInput = s.ownBits.join (joinAll (((s.boardHolders (keyTwin s.mgmt.key) (keyRack s.mgmt.key) (keyBoard s.mgmt.key)).filter
        (· != s.mgmt.key)).map s.heard)) := by
      simp [State.consensusInput, module_, board, slot]
    rw [input]
    generalize (s.boardHolders (keyTwin s.mgmt.key) (keyRack s.mgmt.key) (keyBoard s.mgmt.key)).filter (· != s.mgmt.key) = others
    obtain ⟨d, h, a⟩ := join_iff s.ownBits (joinAll (others.map s.heard))
    obtain ⟨ds, hs, as⟩ := joinAll_map_iff others s.heard
    rw [d, h, a, ds, hs, as]
    exact ⟨Iff.rfl, Iff.rfl, Iff.rfl⟩
  case machine =>
    have input : s.consensusInput = joinAll ((s.relaysInUse.map (fun i => mkKey (keyTwin s.mgmt.key) (keyRack s.mgmt.key) 2 i)).map s.heard) := by
      rw [State.consensusInput, module_, machine, List.map_map]
      rfl
    rw [input]
    exact joinAll_map_iff _ s.heard

end

end Sys2Proof.Machine
end

/-! SUPPORT. What the cutoff's work leaves unchanged: twins, verdicts, the holds of a boundary (R37, R46, R312 to R319). -/

section
namespace Sys2Proof.Machine

open Sys2Proof

-- Each default of a relation is a tactic that waits for all earlier declarations: one proof at a time.
set_option Elab.async false

/-! The cutoff (R36, R37) -/

/-- What the cutoff's work leaves alone: the time block, the role and the place, a relay's request, the sheaf's count, the units and memory. -/
structure Samples (s t : State) : Prop where
  time : t.time = s.time := by rfl
  role : t.rst.role = s.rst.role := by rfl
  positions : t.tables.positions = s.tables.positions := by rfl
  key : t.mgmt.key = s.mgmt.key := by rfl
  request : t.holds.relayRequest = s.holds.relayRequest := by rfl
  sheafCount : t.sheaf.sheafCount = s.sheaf.sheafCount := by rfl
  blocks : t.blocks = s.blocks := by rfl
  mem : t.mem = s.mem := by rfl

section
variable {s t u : State}

theorem Samples.refl (s : State) : Samples s s := {}

theorem Samples.trans (h : Samples s t) (k : Samples t u) : Samples s u where
  time := k.time.trans h.time
  role := k.role.trans h.role
  positions := k.positions.trans h.positions
  key := k.key.trans h.key
  request := k.request.trans h.request
  sheafCount := k.sheafCount.trans h.sheafCount
  blocks := k.blocks.trans h.blocks
  mem := k.mem.trans h.mem

theorem Samples.ite {c : Prop} [Decidable c] (h : Samples s t) (k : Samples s u) : Samples s (if c then t else u) := by
  split
  · exact h
  · exact k

theorem Samples.foldl {α : Type} {f : State → α → State} (h : ∀ t x, Samples t (f t x)) (l : List α) (s : State) : Samples s (l.foldl f s) :=
  foldl_related Samples.refl Samples.trans h l s

theorem Tells.samples (h : Tells s t) : Samples s t where
  time := h.time
  role := congrArg ResetBlock.role h.rst
  positions := h.positions
  key := h.key
  request := h.relayRequest
  sheafCount := congrArg SheafState.sheafCount h.sheaf
  blocks := h.blocks
  mem := h.mem

theorem Notes.samples (h : Notes s t) : Samples s t := h.toTells.samples

end

section
variable (s : State)

/-! Twins (R312 to R319) -/

theorem tellOutcome_samples (d : DigestRec) (outcome : Nat) : Samples s (s.tellOutcome d outcome) :=
  .ite (sendKept_tells s _ _ _ _).samples (Samples.refl s)

theorem twinSettled_samples (d : DigestRec) (outcome : Nat) : Samples s (s.twinSettled d outcome) :=
  Samples.trans {} (tellOutcome_samples _ d outcome)

theorem markSuspect_samples (cause : Word32) : Samples s (s.markSuspect cause) := by
  unfold State.markSuspect
  have marked (f : FaultBlock) (a : LogArgs) : Samples s (({ s with fault := f } : State).log a) := Samples.trans {} (log_notes _ _).samples
  exact .ite (marked _ _) (.ite ((marked _ _).trans (platform_notes _ _ _).samples) ((marked _ _).trans (sendKept_tells _ _ _ _ _).samples))

theorem setOutcome_samples (a : Assay) : Samples s { s with assay := a } := {}

theorem twinMismatch_samples (own peer : DigestRec) (code : BitVec 16) (severity outcome : Nat) :
    Samples s (s.twinMismatch own peer code severity outcome) := by
  unfold State.twinMismatch
  exact (stepError_notes s _).samples.trans ((setOutcome_samples _ _).trans (tellOutcome_samples _ own outcome))

theorem twinCompare_samples (own peer : DigestRec) : Samples s (s.twinCompare own peer) := by
  have settled (outcome : Nat) := twinSettled_samples s own outcome
  unfold State.twinCompare
  dsimp only
  refine .ite (settled 3) (.ite ?equal (.ite (.ite (twinMismatch_samples s ..) ((twinMismatch_samples s own peer 0x0706 4 6).trans {})) (twinMismatch_samples s ..)))
  case equal =>
    split
    · exact .ite (settled 1) (.ite ((log_notes s _).samples.trans ((markSuspect_samples _ _).trans (twinSettled_samples _ own 4)))
        ((log_notes s _).samples.trans (twinSettled_samples _ own 5)))
    · exact settled 1

theorem twinTry_samples (step : BitVec 48) (attempt : Byte) : Samples s (s.twinTry step attempt) := by
  unfold State.twinTry
  split
  · exact .ite (twinCompare_samples s _ _) (Samples.refl s)
  · exact Samples.refl s

theorem sendContrib_samples (d : DigestRec) : Samples s (s.sendContrib d) := by
  unfold State.sendContrib
  split
  · exact Samples.refl s
  · exact (send_notes s _ _ _ _).samples

theorem finalizeContrib_samples : Samples s s.finalizeContrib := by
  unfold State.finalizeContrib
  have kept (a : Assay) (r : DigestRec) (step : BitVec 48) (attempt : Byte) :
      Samples s ((({ s with assay := a } : State).sendContrib r).twinTry step attempt) :=
    (setOutcome_samples s a).trans ((sendContrib_samples _ r).trans (twinTry_samples _ _ _))
  exact .ite (.ite (kept _ _ _ _) (setOutcome_samples s _)) (Samples.refl s)

theorem twinHold_samples : Samples s s.twinHold := .ite {} (Samples.refl s)

/-! The boundary's holds (R46) -/

theorem declareDue_samples : Samples s s.declareDue := by
  unfold State.declareDue
  have dropped (t : State) : Samples t { t with coord := { t.coord with failDue := [] } } := {}
  exact .ite ((Samples.foldl (fun t k => (declareFailed_tells t k).samples) _ s).trans (dropped _)) (Samples.refl s)

theorem declareByLink_samples (r : LinkReport) : Samples s (s.declareByLink r) :=
  .ite (Samples.refl s) (declareFailed_tells s _).samples

theorem attributeLinks_samples : Samples s s.attributeLinks :=
  .ite (Samples.foldl declareByLink_samples _ s) (Samples.refl s)

theorem sendVerdict_tells (v : Nat × Word128 × List (Key × BitVec 16 × Word128)) (k : Key) : Tells s (s.sendVerdict v k) := sendKept_tells s _ _ _ _

theorem vote_samples : Samples s s.vote := by
  unfold State.vote
  have voted (t : State) (c : Coordination) : Samples t { t with coord := c } := {}
  have told := (Samples.foldl (fun t k => (sendVerdict_tells t (verdictOf s.countedDigests) k).samples) (s.members.filter (fun k => !keyRelay k)) s)
  have split (t : State) (h : Holds) (same : h.relayRequest = t.holds.relayRequest) : Samples t { t with holds := h } := { request := same }
  exact .ite (.ite (told.trans ((voted _ _).trans (split _ _ rfl))) (told.trans (voted _ _))) (Samples.refl s)

theorem raiseDeferred_samples : Samples s s.raiseDeferred := by
  unfold State.raiseDeferred
  split <;> exact {}

theorem sendTable_notes (k : Key) (t : TableSet) : Notes s (s.sendTable k t) := sendSeries_notes s k 0x30 _

theorem sendRefill_notes (dests : List Key) (gen : BitVec 16) (l : List (BitVec 16)) : Notes s (s.sendRefill dests gen l) :=
  Notes.foldl (fun t _ => sendAll_notes t dests _ _ _) _ s

theorem offerUpdate_samples : Samples s s.offerUpdate := by
  have raised (f : FaultBlock) (h : Holds) (a : LogArgs) (same : h.relayRequest = s.holds.relayRequest) :
      Samples s (({ s with fault := f, holds := h } : State).log a) := Samples.trans { request := same } (log_notes _ _).samples
  have offered (k : Tables) (c : Coordination) (h : Holds) (l : List Key) (u : TableSet) (ds : List Key) (gen : BitVec 16) (r : List (BitVec 16))
      (places : k.positions = s.tables.positions) (same : h.relayRequest = s.holds.relayRequest) :
      Samples s ((l.foldl (fun t k => t.sendTable k u) ({ s with tables := k, coord := c, holds := h } : State)).sendRefill ds gen r) :=
    Samples.trans { positions := places, request := same } ((Samples.foldl (fun t k => (sendTable_notes t k u).samples) l _).trans
      (sendRefill_notes _ _ _ _).samples)
  unfold State.offerUpdate
  exact .ite {} (.ite (raised _ _ _ rfl) (.ite (raised _ _ _ rfl) (offered _ _ _ _ _ _ _ _ rfl rfl)))

theorem tableHold_samples : Samples s s.tableHold := by
  have offers : Samples s (if s.offerDue then s.offerUpdate else if s.updateDue then s else { s with holds := { s.holds with spareMissing := false } }) :=
    .ite (offerUpdate_samples s) (.ite (Samples.refl s) {})
  unfold State.tableHold
  generalize (if s.offerDue then s.offerUpdate else if s.updateDue then s else { s with holds := { s.holds with spareMissing := false } }) = t at offers ⊢
  refine offers.trans ?_
  dsimp only
  split
  · exact .ite {} {}
  · exact {}

theorem armHolds_samples : Samples s s.armHolds := {}
theorem feedHold_samples : Samples s s.feedHold := {}
theorem resultHold_samples : Samples s s.resultHold := {}
theorem journalHold_samples : Samples s s.journalHold := {}
theorem timeHold_samples : Samples s s.timeHold := {}
theorem replayHold_samples : Samples s s.replayHold := {}

theorem boundaryCutoff_samples : Samples s s.boundaryCutoff := by
  unfold State.boundaryCutoff
  have settled := (declareDue_samples s).trans ((attributeLinks_samples _).trans ((vote_samples _).trans (raiseDeferred_samples _)))
  have held (t : State) := (armHolds_samples t).trans ((feedHold_samples _).trans ((resultHold_samples _).trans (journalHold_samples _)))
  exact settled.trans ((held _).trans ((timeHold_samples _).trans ((tableHold_samples _).trans (replayHold_samples _))))

theorem resumed_samples : Samples s s.resumed := by
  have cleared (t : State) (l : List (Nat × Nat)) : Samples t { t with job := { t.job with resumeMbx := l } } := {}
  unfold State.resumed
  exact .ite (Samples.refl s) ((completeAll_notes s _ _ _).samples.trans (cleared _ _))

end

end Sys2Proof.Machine
end

/-! SUPPORT. The cutoff's sample and the limit of held ticks (R36 to R38, R44, R331). -/

section
namespace Sys2Proof.Machine

open Sys2Proof

-- Each default of a relation is a tactic that waits for all earlier declarations: one proof at a time.
set_option Elab.async false

section
variable {s t u : State}

/-! The sample (R36, R37, R38) -/

/-- The cutoff's work before its sample: the holds and the local DONE, and a relay's request for its own hold. -/
def State.cutoffWork (s : State) : State :=
  let t := (s.finalizeContrib).twinHold
  let t := (if t.boundaryNext then t.boundaryCutoff else t).resumed
  if t.relay && t.holds.any then t.relayRequest false else t

/-- The cutoff's sample. -/
def State.cutoffSample (s : State) : State :=
  { s with
    sheaf := { s.sheaf with cut := true, sampled := s.syncOf s.localBits }
    coord := { s.coord with relayHold := [] }
    holds := { s.holds with relayRequest := false } }

theorem cutoffWork_samples (s : State) : Samples s s.cutoffWork := by
  have twins := (finalizeContrib_samples s).trans (twinHold_samples _)
  unfold State.cutoffWork
  generalize s.finalizeContrib.twinHold = t at twins ⊢
  have held : Samples t ((if t.boundaryNext then t.boundaryCutoff else t).resumed) :=
    (Samples.ite (boundaryCutoff_samples t) (Samples.refl t)).trans (resumed_samples _)
  exact twins.trans (held.trans (.ite (relayRequest_notes _ false).samples (Samples.refl _)))

theorem syncCutoff_eq (runs : s.job.phase = .running) (begun : s.sheaf.begun = true) (near : s.nearTick 4500 = true) (fresh : s.sheaf.cut = false) :
    exec .syncCutoff s = .next s.cutoffWork.cutoffSample := by
  show execSyncCutoff s = _
  rw [execSyncCutoff, if_pos (by simp [State.jobRuns, runs, begun, near, fresh])]
  rfl

theorem holds_any_or (h : Holds) : h.any = ({ h with relayRequest := false }.any || h.relayRequest) := by
  obtain ⟨a, b, c, d, e, f, g, h, i, j, k, l, m, n, o, p⟩ := h
  cases n <;> simp [Holds.any]

theorem localDone_finished (done : s.localDone = true) (place : s.relay = true ∨ s.ownSlot.isSome = true) :
    (∀ r < 33, s.finished r = true) ∧ s.tokens = [] := by
  have absent : (!s.relay && s.ownSlot.isNone) = false := by
    rcases place with relay | slot
    · simp [relay]
    · obtain ⟨x, eq⟩ := Option.isSome_iff_exists.mp slot
      simp [eq]
  rw [State.localDone, absent, Bool.false_or, Bool.and_eq_true, Bool.and_eq_true] at done
  simpa using done.1

theorem cutoffSamplesLocalBits : Claims.CutoffSamplesLocalBits := by
  intro s
  constructor
  · intro late
    show execSyncCutoff s = _
    rcases late with early | cut
    · simp [execSyncCutoff, early]
    · simp [execSyncCutoff, cut]
  intro runs begun near fresh
  have work := cutoffWork_samples s
  refine ⟨_, syncCutoff_eq runs begun near fresh, rfl, rfl, ?_⟩
  generalize s.cutoffWork = t at work
  have role : t.relay = s.relay := work.role
  have slot : t.ownSlot = s.ownSlot := by rw [State.ownSlot, State.ownSlot, work.positions, work.key]
  obtain ⟨done, hold, abort⟩ := syncOf_bits (s := t) t.localBits
  have sampled : t.cutoffSample.sheaf.sampled = t.syncOf t.localBits := rfl
  rw [sampled, done, hold, abort]
  refine ⟨fun module_ => ⟨?hold, ?abort⟩, fun relay => ?relay, fun on place => ?done, work.sheafCount, work.blocks, work.mem⟩
  case hold =>
    have own : t.cutoffSample.ownSlot = t.ownSlot := rfl
    have any : t.holds.any = (t.cutoffSample.holds.any || t.holds.relayRequest) := holds_any_or t.holds
    rw [own, ← work.request, ← Bool.or_eq_true, ← any]
    simp [State.localBits, role, module_]
  case abort => simp [State.localBits, role, module_, State.cutoffSample]
  case relay => simp [State.localBits, role, relay]
  case done => exact localDone_finished (s := t) on (by rw [role, slot]; exact place)

/-! The limit of held ticks (R44, R331) -/

/-- What the exclusion of missing modules keeps. -/
structure Excludes (s t : State) : Prop where
  excluded : t.coord.excluded = s.coord.excluded := by rfl
  failed : t.coord.failed = s.coord.failed := by rfl
  abort : t.fault.abort = s.fault.abort := by rfl
  mem : t.mem = s.mem := by rfl
  sheaf : t.sheaf = s.sheaf := by rfl

theorem Excludes.refl (s : State) : Excludes s s := {}

theorem Excludes.trans (h : Excludes s t) (k : Excludes t u) : Excludes s u where
  excluded := k.excluded.trans h.excluded
  failed := k.failed.trans h.failed
  abort := k.abort.trans h.abort
  mem := k.mem.trans h.mem
  sheaf := k.sheaf.trans h.sheaf

theorem Notes.excludes (h : Notes s t) (abort : t.fault.abort = s.fault.abort) : Excludes s t where
  excluded := congrArg Coordination.excluded h.coord
  failed := congrArg Coordination.failed h.coord
  abort := abort
  mem := h.mem
  sheaf := h.sheaf

theorem log_excludes (s : State) (a : LogArgs) : Excludes s (s.log a) := (log_notes s a).excludes (log_abort s a)

theorem send_excludes (s : State) (dest : Key) (mtype len body : Nat) : Excludes s (s.send dest mtype len body) :=
  (send_notes s dest mtype len body).excludes (congrArg FaultBlock.abort (send_fault s dest mtype len body))

theorem sendExclude_excludes (s : State) (dests keys : List Key) : Excludes s (s.sendExclude dests keys) :=
  foldl_related Excludes.refl Excludes.trans (fun t _ => foldl_related Excludes.refl Excludes.trans (fun t d => send_excludes t d _ _ _) dests t) _ s

theorem sendKept_excludes (s : State) (dest : Key) (mtype len body : Nat) : Excludes s (s.sendKept dest mtype len body) :=
  (send_excludes s dest mtype len body).trans {}

theorem vote_excludes (s : State) : Excludes s s.vote := by
  have voted (t : State) (c : Coordination) (e : c.excluded = t.coord.excluded) (f : c.failed = t.coord.failed) : Excludes t { t with coord := c } :=
    { excluded := e, failed := f }
  have split (t : State) (c : Coordination) (h : Holds) (e : c.excluded = t.coord.excluded) (f : c.failed = t.coord.failed) :
      Excludes t { t with coord := c, holds := h } := { excluded := e, failed := f }
  have verdict (t : State) (k : Key) : Excludes t (t.sendVerdict (verdictOf s.countedDigests) k) := sendKept_excludes t _ _ _ _
  have told := foldl_related Excludes.refl Excludes.trans verdict (s.members.filter (fun k => !keyRelay k)) s
  unfold State.vote
  dsimp only
  split
  · split
    · exact told.trans (split _ _ _ rfl rfl)
    · exact told.trans (voted _ _ rfl rfl)
  · exact Excludes.refl s

/-- The missing modules are excluded; their entries of the log raise no abort. -/
theorem applyExclude_excludes (s : State) (keys : List Key) : (s.applyExclude keys).coord.excluded = (s.coord.excluded ++ keys).dedup ∧
    (s.applyExclude keys).coord.failed = s.coord.failed ∧ (s.applyExclude keys).fault.abort = s.fault.abort ∧ (s.applyExclude keys).mem = s.mem ∧
    (s.applyExclude keys).sheaf = s.sheaf := by
  unfold State.applyExclude
  have logged (t : State) (l : List (List Key)) (a : List Key → LogArgs) : Excludes t (l.foldl (fun t p => t.log (a p)) t) :=
    foldl_related Excludes.refl Excludes.trans (fun t p => log_excludes t (a p)) l t
  obtain ⟨excluded, failed, abort, mem, sheaf⟩ := logged { s with
    coord := { s.coord with excluded := (s.coord.excluded ++ keys).dedup }
    fault := { s.fault with excluded := s.fault.excluded || keys.contains s.mgmt.key } } (pieces 8 keys)
      (fun p => { code := 0x070D, severity := 3, action := 7, detail := bodyOf (p.zipIdx.map (fun x => (x.1.toNat, 2 * x.2))) })
  exact ⟨excluded, failed, abort, mem, sheaf⟩

/-- The limit of held ticks (R44). -/
def State.heldOut (s : State) : Prop :=
  100 ≤ s.sheaf.heldCount ∨ ∃ x, s.sheaf.heldSince = some x ∧ x + s.sheaf.heldPaused + 200000000 ≤ s.nowNs

theorem heldOut_iff (s : State) : s.heldOut ↔ (decide (100 ≤ s.sheaf.heldCount) ||
    (match s.sheaf.heldSince with | some t => decide (t + s.sheaf.heldPaused + 200000000 ≤ s.nowNs) | none => false)) = true := by
  unfold State.heldOut
  cases s.sheaf.heldSince <;> simp

theorem heldTickLimit_eq {missing : List Key} (coordinator : s.coord.isCoord = true) (runs : s.job.phase = .running) :
    (¬ s.heldOut → exec (.heldTickLimit missing) s = .next s) ∧
    (s.heldOut → s.inCommit = false → exec (.heldTickLimit missing) s =
      .next ((s.log { code := 0x0603, severity := 2, action := 2, detail := s.servoDetail }).abortFor .heldLimit)) ∧
    (s.heldOut → s.inCommit = true → exec (.heldTickLimit missing) s =
      .next ((s.sendExclude (s.members.filter (· != s.mgmt.key)) missing).applyExclude missing).vote) := by
  have job : s.jobRuns = true := by simp [State.jobRuns, runs]
  rw [heldOut_iff]
  show (_ → execHeldTickLimit missing s = _) ∧ (_ → _ → execHeldTickLimit missing s = _) ∧ (_ → _ → execHeldTickLimit missing s = _)
  unfold execHeldTickLimit
  dsimp only
  generalize (decide (100 ≤ s.sheaf.heldCount) || _) = reached
  cases reached <;> cases inside : s.inCommit <;> simp [coordinator, job]

theorem heldTickLimitAborts : Claims.HeldTickLimitAborts := by
  intro s missing coordinator runs
  obtain ⟨below, aborts, excludes⟩ := heldTickLimit_eq (missing := missing) coordinator runs
  refine ⟨below, fun reached outside compute => ⟨_, aborts reached outside, ?_⟩, fun reached inside => ⟨_, excludes reached inside, ?_⟩⟩
  · have logs := log_logs s { code := 0x0603, severity := 2, action := 2, detail := s.servoDetail }
    have last := log_last s (a := { code := 0x0603, severity := 2, action := 2, detail := s.servoDetail })
      (by show 2 ≤ (BitVec.ofNat 8 2).toNat; decide)
    have notes := (log_notes s { code := 0x0603, severity := 2, action := 2, detail := s.servoDetail }).trans (abortFor_notes _ .heldLimit)
    exact ⟨abortFor_isSome _ (logs.relay.trans compute) (logs.inCommit.trans outside), ⟨_, by rw [abortFor_log]; exact last, rfl, rfl⟩, notes.mem, notes.sheaf⟩
  · have sent := sendExclude_excludes s (s.members.filter (· != s.mgmt.key)) missing
    generalize s.sendExclude (s.members.filter (· != s.mgmt.key)) missing = t at sent
    obtain ⟨excluded, failed, abort, mem, sheaf⟩ := applyExclude_excludes t missing
    have voted := vote_excludes (t.applyExclude missing)
    refine ⟨fun k absent => ?_, voted.failed.trans (failed.trans sent.failed), voted.abort.trans (abort.trans sent.abort),
      voted.mem.trans (mem.trans sent.mem), voted.sheaf.trans (sheaf.trans sent.sheaf)⟩
    rw [voted.excluded, excluded, List.mem_dedup]
    exact List.mem_append_right _ absent

/-- Settles O53. -/
theorem ticksAndConsensus : Obligations.TicksAndConsensus :=
  ⟨sheafStartsOnConsensus, latchTakesConsensus, cutoffSamplesLocalBits, heldTickLimitAborts⟩

end

end Sys2Proof.Machine
end

/-! SUPPORT. The time block through the blocks' and the crossings' part of a period. -/

section
namespace Sys2Proof.Machine

open Sys2Proof

-- Each default of a relation is a tactic that waits for all earlier declarations: one proof at a time.
set_option Elab.async false

/-! A period of the network clock (log entry 40): of the time block only FRC moves -/

/-- The time block stays. -/
def SameTime (s t : State) : Prop := t.time = s.time

section
variable {s t u : State}

theorem SameTime.refl (s : State) : SameTime s s := Eq.refl s.time
theorem SameTime.trans (h : SameTime s t) (k : SameTime t u) : SameTime s u := Eq.trans k h

theorem SameTime.ite {c : Prop} [Decidable c] (h : SameTime s t) (k : SameTime s u) : SameTime s (if c then t else u) := by
  split
  · exact h
  · exact k

theorem SameTime.foldl {α : Type} {f : State → α → State} (h : ∀ t x, SameTime t (f t x)) (l : List α) (s : State) : SameTime s (l.foldl f s) :=
  foldl_related SameTime.refl SameTime.trans h l s

theorem Errs.sameTime (h : Errs s t) : SameTime s t := h.time
theorem Keeps.sameTime (h : Keeps s t) : SameTime s t := h.time
theorem Notes.sameTime (h : Notes s t) : SameTime s t := h.time

end

section
variable (s : State)

theorem onBlock_sameTime (b : Nat) (f : Block → Block) : SameTime s (s.onBlock b f) := onBlock_time s b f
theorem onStack_sameTime (i : Nat) (f : Stack → Stack) : SameTime s (s.onStack i f) := onStack_time s i f
theorem onRegion_sameTime (r : Nat) (f : Region → Region) : SameTime s (s.onRegion r f) := onRegion_time s r f
theorem onNet_sameTime (n : Nat) (f : Net → Net) : SameTime s (s.onNet n f) := onNet_time s n f
theorem onLink_sameTime (l : Nat) (f : Link → Link) : SameTime s (s.onLink l f) := onLink_time s l f
theorem poke_sameTime (a : Nat) (bs : List Byte) : SameTime s (s.poke a bs) := poke_time s a bs

/-! Crossings (R145 to R155) -/

theorem netHazard_sameTime (n kind addr : Nat) : SameTime s (s.netHazard n kind addr) := by
  unfold State.netHazard
  exact .ite ((onNet_sameTime s n _).trans (hazardAt_errs _ _ _ _ _ _ _).sameTime) (SameTime.refl s)

theorem crossingMisuse_sameTime (k : Token) : SameTime s (s.crossingMisuse k) := by
  unfold State.crossingMisuse
  split
  · exact (blockHazard_errs s _ _ _).sameTime
  · exact (blockHazard_errs s _ _ _).sameTime
  · exact (blockHazard_errs s _ _ _).sameTime
  · exact netHazard_sameTime s _ _ _
  · exact netHazard_sameTime s _ _ _
  · exact (stackHazard_errs s _ _ _).sameTime
  · exact (stackHazard_errs s _ _ _).sameTime

theorem token_sameTime (k : Token) : SameTime s (s.token k) := .ite rfl (crossingMisuse_sameTime s k)

theorem signalBlock_sameTime (b g requester : Nat) : SameTime s (s.signalBlock b g requester) := by
  have failed : SameTime s (s.badArrival b g 0) :=
    (onBlock_sameTime s b _).trans ((blockErr_errs _ b 12).sameTime.trans (stepError_notes _ _).sameTime)
  unfold State.signalBlock
  exact .ite (log_notes s _).sameTime (.ite failed (onBlock_sameTime s b _))

theorem landEgress_sameTime (a : Nat) (bs : List Byte) : SameTime s (s.landEgress a bs) := .ite (onNet_sameTime _ _ _) rfl

theorem moveHazard_errs (i a n : Nat) : Errs s (s.moveHazard i a n) := by
  unfold State.moveHazard
  split
  · exact stackHazard_errs s i 6 a
  · exact Errs.refl s

/-- A move refused by the interface. -/
theorem slip_sameTime (i place line engine : Nat) : SameTime s ((s.stackHazard i 4 place).stackFault i 1 line engine) :=
  ((stackHazard_errs s i 4 place).trans (stackFault_errs _ i 1 line engine)).sameTime

theorem deliver_sameTime (k : Token) : SameTime s (s.deliver k) := by
  have landed (b requester off : Nat) (bs : List Byte) (rank : Nat) : SameTime s (if (s.block b).isolated then s.turnedAway b requester
      else s.laterAs b (k.release + 1) rank (.sram off bs)) := .ite (log_notes s _).sameTime (onBlock_sameTime s b _)
  unfold State.deliver
  split
  · exact landed _ _ _ _ _
  · exact signalBlock_sameTime s _ _ _
  · exact onLink_sameTime s _ _
  · exact landEgress_sameTime s _ _
  · rename_i sram a line rank _
    have read : SameTime s (if ifaceOk (s.stack (stackOf a)).slices a 2048 k.release then
        (s.moveHazard (stackOf a) a 2048).stackCheck (stackOf a) a 2048 false k.src line (pcOf a)
        else (s.stackHazard (stackOf a) 4 a).stackFault (stackOf a) 1 0 (pcOf a)) :=
      .ite ((moveHazard_errs s _ _ _).trans (stackCheck_errs _ _ _ _ _ _ _ _)).sameTime (slip_sameTime s _ _ _ _)
    dsimp only
    exact .ite (.ite read (read.trans (token_sameTime _ _))) (SameTime.trans (.ite read (read.trans (token_sameTime _ _))) (token_sameTime _ _))
  · exact landed _ _ _ _ _
  · exact .ite ((moveHazard_errs s _ _ _).sameTime.trans ((onStack_sameTime _ _ _).trans (writeCheck_errs _ _ _ _ _ _ _ _).sameTime))
      (slip_sameTime s _ _ _ _)

theorem releaseDue_sameTime (r : Nat) : SameTime s (s.releaseDue r) := by
  refine SameTime.foldl (fun t k => ?_) _ s
  have taken : SameTime t { t with tokens := t.tokens.erase k } := rfl
  exact .ite (taken.trans (deliver_sameTime _ k)) taken

/-! Blocks (R122 to R149) -/

theorem landArrivals_sameTime (b ready : Nat) : SameTime s (s.landArrivals b ready) := by
  unfold State.landArrivals
  refine (onBlock_sameTime s b _).trans (SameTime.foldl (fun t x => ?_) _ _)
  have checked : SameTime t (if x.loose then t.sramCheck b x.place x.bytes.length else t) := .ite (sramCheck_errs t _ _ _).sameTime (SameTime.refl t)
  exact checked.trans ((onBlock_sameTime _ b _).trans (poke_sameTime _ _ _))

theorem cellError_sameTime (b pc : Nat) (parity residue rounder : Bool) : SameTime s (s.cellError b pc parity residue rounder) := by
  unfold State.cellError
  dsimp only
  split
  · exact SameTime.refl _
  · exact (SameTime.foldl (fun t i => (blockErr_errs t b i).sameTime) _ _).trans ((onBlock_sameTime _ b _).trans (hardError_errs _ _).sameTime)

theorem finishChunks_sameTime (b : Nat) (cells : Nat → Bool) (cycle : Nat) : SameTime s (s.finishChunks b cells cycle) :=
  SameTime.foldl (fun t _ => (onBlock_sameTime t b _).trans (cellError_sameTime _ b _ _ _ _)) _ s

theorem rowCheck_sameTime (b off : Nat) (refused : Bool) : SameTime s (s.rowCheck b off refused) := .ite (SameTime.refl s) (sramCheck_errs s _ _ _).sameTime

theorem perform_sameTime (b : Nat) (d : Due) : SameTime s (s.perform b d) := by
  unfold State.perform
  split
  · exact onBlock_sameTime s b _
  · exact onBlock_sameTime s b _
  · exact poke_sameTime s _ _
  · exact onBlock_sameTime s b _
  · exact SameTime.trans (.ite (SameTime.refl s) (sramCheck_errs s _ _ _).sameTime) (onBlock_sameTime _ b _)
  · exact .ite (SameTime.refl s) ((rowCheck_sameTime s _ _ _).trans (token_sameTime _ _))
  · exact (rowCheck_sameTime s _ _ _).trans (token_sameTime _ _)
  · exact (rowCheck_sameTime s _ _ _).trans (token_sameTime _ _)

theorem settle_sameTime (b : Nat) {between : State → State} (h : ∀ t, SameTime t (between t)) : SameTime s (s.settle b between) := by
  have performed (l : List Due) (t : State) : SameTime t (l.foldl (fun t d => t.perform b d) t) := SameTime.foldl (fun t d => perform_sameTime t b d) l t
  unfold State.settle
  exact (onBlock_sameTime s b _).trans ((performed _ _).trans ((h _).trans (performed _ _)))

theorem blockCycleOn_sameTime (b : Nat) : SameTime s (s.blockCycleOn b) := by
  have cycled : SameTime s ((((s.finishChunks b (fun _ => true) (s.blockCycle b)).onBlock b (fun k => { k with
      groups := k.groups.settle
      seq := if k.isolated || k.frozen then k.seq else k.seq.cycle })).settle b (fun t => t.landArrivals b (t.blockCycle b)))) :=
    (finishChunks_sameTime s b _ _).trans ((onBlock_sameTime _ b _).trans (settle_sameTime _ b fun t => landArrivals_sameTime t b _))
  unfold State.blockCycleOn
  exact .ite (.ite (cycled.trans (beginBundle_begins _ b).sameTime) cycled) (SameTime.refl s)

end

end Sys2Proof.Machine
end

/-! SUPPORT. The time block through the stacks' part of a period and through a region's period. -/

section
namespace Sys2Proof.Machine

open Sys2Proof

-- Each default of a relation is a tactic that waits for all earlier declarations: one proof at a time.
set_option Elab.async false

section
variable (s : State)

/-! Stack engines (R156 to R180) -/

theorem stagingHazard_errs (i a n cycle : Nat) : Errs s (s.stagingHazard i a n cycle) := by
  unfold State.stagingHazard
  dsimp only
  split
  · split
    · exact stackHazard_errs s i 1 a
    · split
      · exact stackHazard_errs s i 6 a
      · split
        · exact stackHazard_errs s i 7 a
        · exact Errs.refl s
  · exact Errs.refl s

theorem stageHazard_errs (i a n : Nat) : Errs s (s.stageHazard i a n) := by
  unfold State.stageHazard
  split
  · exact stackHazard_errs s i 6 a
  · exact Errs.refl s

theorem engineRead_sameTime (i e line : Nat) (pl : Option Nat) (n cycle : Nat) : SameTime s (s.engineRead i e line pl n cycle).1 := by
  unfold State.engineRead
  split
  · exact SameTime.refl s
  · split
    · split
      · exact ((moveHazard_errs s _ _ _).trans (stackCheck_errs _ _ _ _ _ _ _ _)).sameTime
      · exact slip_sameTime s _ _ _ _
    · exact ((stagingHazard_errs s _ _ _ _).trans (stackCheck_errs _ _ _ _ _ _ _ _)).sameTime

theorem noteStaging_sameTime (i a n : Nat) : SameTime s (s.noteStaging i a n) := .ite (onStack_sameTime s i _) (SameTime.refl s)

theorem engineWrite_sameTime (i e line ar : Nat) (pl : Option Nat) (bs : List Byte) (v : Nat) : SameTime s (s.engineWrite i e line ar pl bs v) := by
  unfold State.engineWrite
  split
  · exact SameTime.refl s
  · exact .ite (.ite ((moveHazard_errs s _ _ _).sameTime.trans ((onStack_sameTime _ i _).trans (writeCheck_errs _ _ _ _ _ _ _ _).sameTime))
      (onStack_sameTime s i _)) (.ite (token_sameTime s _) ((stageHazard_errs s _ _ _).sameTime.trans ((onStack_sameTime _ i _).trans (noteStaging_sameTime _ _ _ _))))

theorem groupReads_sameTime (i e : Nat) (r : StackRun) (l : List Source) : SameTime s (s.groupReads i e r l).1 := by
  induction l generalizing s with
  | nil => exact SameTime.refl s
  | cons x l ih => exact SameTime.trans (engineRead_sameTime s _ _ _ _ _ _) (ih _)

theorem groupWrite_sameTime (i : Nat) (r : StackRun) (x : EngineRun) (vals : List (List Word32)) (d : Dest) : SameTime s (s.groupWrite i r x vals d).1 := by
  unfold State.groupWrite
  dsimp only
  exact .ite ((engineWrite_sameTime s _ _ _ _ _ _ _).trans (engineWrite_sameTime _ _ _ _ _ _ _ _)) (engineWrite_sameTime s _ _ _ _ _ _ _)

theorem groupWrites_sameTime (i : Nat) (r : StackRun) (x : EngineRun) (vals : List (List Word32)) (l : List Dest) :
    SameTime s (s.groupWrites i r x vals l).1 := by
  induction l generalizing s x with
  | nil => exact SameTime.refl s
  | cons d l ih => exact SameTime.trans (groupWrite_sameTime s i r x vals d) (ih _ _)

theorem gatherRow_sameTime (i : Nat) (r : StackRun) (x : EngineRun) : SameTime s (s.gatherRow i r x).1 := by
  unfold State.gatherRow
  dsimp only
  refine SameTime.trans ?row (engineWrite_sameTime _ _ _ _ _ _ _ _)
  case row =>
    have read (line : Nat) (pl : Option Nat) (n cycle : Nat) := engineRead_sameTime s i x.engine line pl n cycle
    rw [apply_ite Prod.fst, apply_ite Prod.fst]
    exact .ite ((read _ _ _ _).trans (stackFault_errs _ _ _ _ _).sameTime)
      (.ite ((read _ _ _ _).trans (engineRead_sameTime _ _ _ _ _ _ _)) ((read _ _ _ _).trans (slip_sameTime _ _ _ _ _)))

theorem enginesGroup_sameTime (i : Nat) (r : StackRun) (l : List EngineRun) : SameTime s (s.enginesGroup i r l).1 := by
  induction l generalizing s with
  | nil => exact SameTime.refl s
  | cons x l ih =>
    have group : SameTime s (s.engineGroup i r x).1 := by
      unfold State.engineGroup
      split
      · exact gatherRow_sameTime s i r x
      · exact (groupReads_sameTime s _ _ _ _).trans (groupWrites_sameTime _ _ _ _ _ _)
    exact group.trans (ih _)

theorem engineEnd_sameTime (i : Nat) (r : StackRun) (x : EngineRun) : SameTime s (s.engineEnd i r x) := by
  have norms : SameTime s (if r.code = 0x16 then s.partialNorms i r x else s) := .ite (engineWrite_sameTime s _ _ _ _ _ _ _) (SameTime.refl s)
  unfold State.engineEnd
  exact .ite (norms.trans (onStack_sameTime _ i _)) norms

theorem advanceRun_sameTime (i cycle : Nat) (r : StackRun) : SameTime s (s.advanceRun i cycle r).1 := by
  have group := enginesGroup_sameTime s i r r.engines
  unfold State.advanceRun
  dsimp only
  split
  · exact SameTime.refl s
  · split
    · exact SameTime.refl s
    · split
      · exact group
      · exact group.trans (SameTime.foldl (fun t x => engineEnd_sameTime t i _ x) _ _)

theorem advanceRuns_sameTime (i cycle : Nat) (l : List StackRun) : SameTime s (s.advanceRuns i cycle l).1 := by
  induction l generalizing s with
  | nil => exact SameTime.refl s
  | cons r l ih => exact SameTime.trans (advanceRun_sameTime s i cycle r) (ih _)

theorem landStaged_sameTime (i ready : Nat) : SameTime s (s.landStaged i ready) := by
  unfold State.landStaged
  exact (onStack_sameTime s i _).trans (SameTime.foldl (fun t _ => (onStack_sameTime t i _).trans (poke_sameTime _ _ _)) _ _)

theorem raiseSlips_sameTime (i cycle : Nat) : SameTime s (s.raiseSlips i cycle) := by
  unfold State.raiseSlips
  exact (onStack_sameTime s i _).trans (SameTime.foldl (fun t _ => slip_sameTime t i _ _ _) _ _)

theorem sendParam_sameTime : SameTime s s.sendParam := by
  have noted (a : Assay) : SameTime s { s with assay := a } := rfl
  unfold State.sendParam
  exact .ite (.ite (noted _) ((noted _).trans (sendKept_tells _ _ _ _ _).sameTime)) (SameTime.refl s)

theorem finishDigest_sameTime (i : Nat) : SameTime s (s.finishDigest i) := by
  unfold State.finishDigest
  exact .ite ((onStack_sameTime s i _).trans (sendParam_sameTime _)) (SameTime.refl s)

theorem stackCycle_sameTime (i : Nat) : SameTime s (s.stackCycle i) := by
  unfold State.stackCycle
  exact (((retireWrites_calm s i _).sameTime.trans ((landStaged_sameTime _ i _).trans (raiseSlips_sameTime _ i _))).trans
    (advanceRuns_sameTime _ i _ _)).trans ((onStack_sameTime _ i _).trans (finishDigest_sameTime _ i))

theorem stackCycleOn_sameTime (i : Nat) : SameTime s (s.stackCycleOn i) := by
  unfold State.stackCycleOn
  have cycled (f : Stack → Stack) := (onStack_sameTime s i f).trans (stackCycle_sameTime _ i)
  exact .ite (.ite ((cycled _).trans (beginWord_begins _ i).sameTime) (cycled _)) (onStack_sameTime s i _)

/-! A region's period (R143, R144, R177, R441) -/

theorem stalledPeriod_sameTime (r : Nat) : SameTime s (s.stalledPeriod r) := by
  unfold State.stalledPeriod
  exact .ite ((onRegion_sameTime s r _).trans (SameTime.foldl (fun t j => onBlock_sameTime t _ _) _ _))
    (.ite (.ite ((onNet_sameTime s _ _).trans (onLink_sameTime _ _ _)) (onNet_sameTime s _ _))
      (.ite ((onRegion_sameTime s r _).trans (onStack_sameTime _ _ _)) (SameTime.refl s)))

theorem stallPeriod_sameTime (r : Nat) : SameTime s (s.stallPeriod r) := .ite (stalledPeriod_sameTime s r) (SameTime.refl s)

theorem refreshPeriod_sameTime (i : Nat) : SameTime s (s.refreshPeriod i) := by
  unfold State.refreshPeriod
  refine (onStack_sameTime s i (fun k => { k with refreshForced := satInc k.refreshForced, gate := k.gate - 1 })).trans (.ite ?_ (SameTime.refl _))
  split
  · exact ((onStack_sameTime _ i _).trans (stackLost_errs _ _ _ _ _ _ _).sameTime).trans (onStack_sameTime _ i _)
  · exact SameTime.refl _

theorem regionCycle_sameTime (r : Nat) : SameTime s (s.regionCycle r) := by
  unfold State.regionCycle
  exact (onRegion_sameTime s r (fun g => { g with cycle := g.cycle + 1 })).trans
    (.ite (SameTime.foldl (fun t j => blockCycleOn_sameTime t _) _ _)
      (.ite (onRegion_sameTime _ _ _) (.ite (stackCycleOn_sameTime _ _) (SameTime.refl _))))

theorem runPeriod_sameTime (r : Nat) (warned : Bool) : SameTime s (s.runPeriod r warned) :=
  (SameTime.ite (onRegion_sameTime s r _) (SameTime.refl s)).trans (regionCycle_sameTime _ r)

theorem regionPeriod_sameTime (r : Nat) : SameTime s (s.regionPeriod r) := by
  unfold State.regionPeriod
  dsimp only
  have released := (onRegion_sameTime s r (fun g => { g with lag := g.lag + g.holdLeft, holdLeft := 0, warned := false })).trans (releaseDue_sameTime _ r)
  refine .ite (SameTime.refl s) (.ite ((onRegion_sameTime s r _).trans (stallPeriod_sameTime _ r)) (.ite (onRegion_sameTime s r _)
    (released.trans (.ite ((onRegion_sameTime _ r _).trans (stallPeriod_sameTime _ r)) ?runs))))
  case runs =>
    generalize ((s.onRegion r (fun g => { g with lag := g.lag + g.holdLeft, holdLeft := 0, warned := false })).releaseDue r) = t
    have gated : SameTime t (if gateable r then t.onRegion r (fun g => { g with phase := g.phase + t.mgmt.g }) else t) :=
      .ite (onRegion_sameTime t r _) (SameTime.refl t)
    exact gated.trans (.ite ((refreshPeriod_sameTime _ _).trans (stallPeriod_sameTime _ r)) (.ite (stalledPeriod_sameTime _ r) (runPeriod_sameTime _ r _)))

theorem landAll_sameTime : SameTime s s.landAll := by
  unfold State.landAll
  exact (SameTime.foldl (fun t b => landArrivals_sameTime t b _) _ s).trans
    ((SameTime.foldl (fun t i => landStaged_sameTime t i _) _ _).trans (settleForward_settles _).sameTime)

end

end Sys2Proof.Machine
end

/-! SUPPORT. One period of the network clock, and the step of the machine (log entries 3 and 40). -/

section
namespace Sys2Proof.Machine

open Sys2Proof

-- Each default of a relation is a tactic that waits for all earlier declarations: one proof at a time.
set_option Elab.async false

/-- FRC stays. -/
def SameFrc (s t : State) : Prop := t.time.frc = s.time.frc

section
variable {s t u : State}

theorem SameFrc.refl (s : State) : SameFrc s s := Eq.refl s.time.frc
theorem SameFrc.trans (h : SameFrc s t) (k : SameFrc t u) : SameFrc s u := Eq.trans k h
theorem SameTime.sameFrc (h : SameTime s t) : SameFrc s t := congrArg TimeBlock.frc h
theorem Completes.sameTime (h : Completes s t) : SameTime s t := h.notes.time

end

section
variable (s : State)

/-! Starts and aborts (R29, R365, R385) -/

theorem endStart_sameTime (status : Nat) (l : List CheckFail) : SameTime s (s.endStart status l) := by
  have told : SameTime s (if (s.mbx s.job.port s.job.mbx).busy then
      (if l.isEmpty then s.refuse s.job.port s.job.mbx status 0 else s.refusePlan s.job.port s.job.mbx l) else s) :=
    .ite (.ite (refuse_completes s _ _ _ _).sameTime (complete_completes s _ _ _ _ _).sameTime) (SameTime.refl s)
  unfold State.endStart
  dsimp only
  generalize (if (s.mbx s.job.port s.job.mbx).busy then
      (if l.isEmpty then s.refuse s.job.port s.job.mbx status 0 else s.refusePlan s.job.port s.job.mbx l) else s) = t at told ⊢
  exact .ite (SameTime.refl s) told

/-- Of the time block a chosen epoch alone changes. -/
theorem chooseEpoch_time (p : Word32) (se : BitVec 2) : ∃ e, (s.chooseEpoch p se).time = { s.time with epoch := e } := by
  obtain ⟨_, _, _, eq⟩ := chooseEpoch_eq s p se
  exact ⟨BitVec.ofNat 64 s.newEpoch, by rw [eq]⟩

theorem chooseEpoch_sameFrc (p : Word32) (se : BitVec 2) : SameFrc s (s.chooseEpoch p se) := by
  obtain ⟨_, eq⟩ := chooseEpoch_time s p se
  rw [SameFrc, eq]

theorem judgeStarts_sameFrc : SameFrc s s.judgeStarts := by
  unfold State.judgeStarts
  dsimp only
  split
  · exact SameFrc.refl s
  · split
    · exact ((SameTime.foldl (fun t k => ((send_notes t k _ _ _).trans (send_notes _ k _ _ _)).sameTime) _ s).trans (endStart_sameTime _ _ _)).sameFrc
    · split
      · exact chooseEpoch_sameFrc s _ _
      · exact SameFrc.refl s

theorem tryReport_sameFrc : SameFrc s s.tryReport := by
  have noted (c : Coordination) (j : Job) : SameFrc s { s with job := j, coord := c } := rfl
  unfold State.tryReport
  split
  · exact SameFrc.refl s
  · split
    · rfl
    · split
      · exact SameFrc.refl s
      · split
        · dsimp only
          split
          · exact SameFrc.trans (noted s.coord _) (sendKept_tells _ _ _ _ _).sameTime.sameFrc
          · split
            · exact (noted _ _).trans (judgeStarts_sameFrc _)
            · exact (noted s.coord _).trans (send_notes _ _ _ _ _).sameTime.sameFrc
        · exact (endStart_sameTime s _ _).sameFrc

theorem endAborts_sameTime : SameTime s s.endAborts := by
  refine SameTime.foldl (fun t p => ?_) _ s
  have finished (u : State) : SameTime u (u.abortFinish p false) :=
    SameTime.trans (onPort_time u p _) (event_notes (u.onPort p _) p 8).sameTime
  exact .ite (SameTime.trans (.ite (sendKept_tells t _ _ _ _).sameTime (SameTime.refl t)) (finished _)) (SameTime.refl t)

theorem finalizeContrib_sameTime : SameTime s s.finalizeContrib := (finalizeContrib_samples s).time

/-! The period (log entry 40) -/

theorem load_frc (t : TimeBlock) : t.load.frc = t.frc := by
  unfold TimeBlock.load
  split <;> rfl

/-- One period of the network clock before the plan's units: the time block's own part and firmware's. -/
theorem idle_frc (none : s.rst.due = []) : s.idle.time.frc = s.time.frc + 1 := by
  have due : s.assertDue.time = s.time := by simp [State.assertDue, none]
  have counted : (({ s.assertDue with time := ({ s.assertDue.time with frc := s.assertDue.time.frc + 1 } : TimeBlock).load } : State).pulseEdges).time.frc =
      s.time.frc + 1 := (load_frc _).trans (by rw [due])
  unfold State.idle
  dsimp only
  generalize ({ s.assertDue with time := ({ s.assertDue.time with frc := s.assertDue.time.frc + 1 } : TimeBlock).load } : State).pulseEdges = t at counted ⊢
  have told := (endAborts_sameTime t).sameFrc.trans (tryReport_sameFrc _)
  have run (u : State) := ((SameTime.foldl regionPeriod_sameTime (List.range 33) u).trans (landAll_sameTime _)).sameFrc
  have ended (u : State) : SameFrc u (if u.jobRuns then u.finalizeContrib else u) := (SameTime.ite (finalizeContrib_sameTime u) (SameTime.refl u)).sameFrc
  exact Eq.trans (told.trans ((run _).trans (ended _))) counted

/-- Settles O57: `step` is a match on the queue; of the idle period only its own count moves FRC (`idle_frc`); the table decoder is empty. -/
theorem stepRunsFrontCommand : Obligations.StepRunsFrontCommand :=
  ⟨fun _ _ _ => rfl, fun s empty => ⟨by rw [step, empty], idle_frc s⟩, fun _ _ _ => ⟨rfl, rfl⟩⟩

end

end Sys2Proof.Machine
end

/-! SUPPORT. What the way back from a reset leaves unchanged: discovery and the links (R259 to R264, R401, R403). -/

section
namespace Sys2Proof.Machine

open Sys2Proof

-- Each default of a relation is a tactic that waits for all earlier declarations: one proof at a time.
set_option Elab.async false

/-! The way back from a reset (R401, R403) -/

/-- What the way back from a reset leaves alone: network time, the reset block, memory, and of the granary the counts and places that a start-up reads. -/
structure Rejoins (s t : State) : Prop where
  time : t.time = s.time := by rfl
  rst : t.rst = s.rst := by rfl
  mem : t.mem = s.mem := by rfl
  starts : t.granary.startCount = s.granary.startCount := by rfl
  rollback : t.granary.rollback = s.granary.rollback := by rfl
  newestA : t.granary.newestA = s.granary.newestA := by rfl
  hotplug : t.mgmt.hotplug = s.mgmt.hotplug := by rfl

section
variable {s t u : State}

theorem Rejoins.refl (s : State) : Rejoins s s := {}

theorem Rejoins.trans (h : Rejoins s t) (k : Rejoins t u) : Rejoins s u where
  time := k.time.trans h.time
  rst := k.rst.trans h.rst
  mem := k.mem.trans h.mem
  starts := k.starts.trans h.starts
  rollback := k.rollback.trans h.rollback
  newestA := k.newestA.trans h.newestA
  hotplug := k.hotplug.trans h.hotplug

theorem Rejoins.ite {c : Prop} [Decidable c] (h : Rejoins s t) (k : Rejoins s u) : Rejoins s (if c then t else u) := by
  split
  · exact h
  · exact k

theorem Rejoins.foldl {α : Type} {f : State → α → State} (h : ∀ t x, Rejoins t (f t x)) (l : List α) (s : State) : Rejoins s (l.foldl f s) :=
  foldl_related Rejoins.refl Rejoins.trans h l s

theorem Tells.rejoins (h : Tells s t) : Rejoins s t where
  time := h.time
  rst := h.rst
  mem := h.mem
  starts := h.starts
  rollback := h.rollback
  newestA := h.newestA
  hotplug := h.hotplug

theorem Notes.rejoins (h : Notes s t) : Rejoins s t := h.toTells.rejoins

theorem Relinks.rejoins (h : Relinks s t) : Rejoins s t := by
  obtain ⟨_, _, _, rfl⟩ := h
  exact {}

end

section
variable (s : State)

/-! Discovery after a reset (R259 to R264) -/

theorem setTables_rejoins (gen : BitVec 16) (form : Nat) (positions : Sparse Nat) : Rejoins s (s.setTables gen form positions) := by
  obtain ⟨_, _, _, eq⟩ := setTables_eq s gen form positions
  rw [eq]
  exact {}

theorem stageLocalTable_rejoins : Rejoins s s.stageLocalTable := by
  unfold State.stageLocalTable
  split <;> exact {}

theorem tablesChanged_rejoins : Rejoins s s.tablesChanged := by
  have staged (t : State) (k : Tables) : Rejoins t { t with tables := k } := {}
  unfold State.tablesChanged
  exact .ite (stageLocalTable_rejoins s) (.ite ((setTables_rejoins s _ _ _).trans (staged _ _)) (Rejoins.refl s))

theorem discoveryBad_rejoins (l : Nat) (goal : LinkState) : Rejoins s (s.discoveryBad l goal) := by
  unfold State.discoveryBad
  have told := (onLink_relinks s l (fun k => { k with
    state := goal, laserOn := k.laserOn && goal != .dark, barred := goal == .dark, err := setBit k.err 9 })).rejoins.trans
    ((log_notes _ { code := 0x0505, severity := 0, region := netRegion (netOf l), unit := l, action := 1, detail := (s.link l).ownCode.toNat }).trans
      (platform_notes _ "DISCOVERY" l)).rejoins
  exact .ite (told.trans (tablesChanged_rejoins _)) told

theorem exchangeLinks_rejoins (a b : Nat) : Rejoins s (s.exchangeLinks a b) := by
  unfold State.exchangeLinks
  exact .ite (Rejoins.refl s) (Rejoins.trans {} (tablesChanged_rejoins _))

theorem remapTo_rejoins (l : Nat) : Rejoins s (s.remapTo l) := by
  unfold State.remapTo
  split
  · exact Rejoins.refl s
  · exact exchangeLinks_rejoins s _ l

theorem settleDiscovery_rejoins (l : Nat) : Rejoins s (s.settleDiscovery l) := by
  have placed : Rejoins s (if (s.link l).ownCode == 0x6 then s.remapTo l else if (s.link l).ownCode == 0x5 then s.unmap l else s) :=
    .ite (remapTo_rejoins s l) (.ite (exchangeLinks_rejoins s l l) (Rejoins.refl s))
  have up := placed.trans (onLink_relinks _ l _ : Relinks _ (State.goUp _ l)).rejoins
  unfold State.settleDiscovery
  exact .ite (Rejoins.refl s) (.ite (discoveryBad_rejoins s l .dark) (.ite (Rejoins.refl s)
    (.ite (.ite (up.trans (sendKept_tells _ _ _ _ _).rejoins) up) (discoveryBad_rejoins s l .quarantine))))

theorem sendLink_rejoins (l mtype len body : Nat) : Rejoins s (s.sendLink l mtype len body) := by
  obtain ⟨_, _, _, eq⟩ := sendLink_sends s l mtype len body
  rw [eq]
  exact {}

theorem answerLink_rejoins (l : Nat) (src : Key) (req mtype len body : Nat) : Rejoins s (s.answerLink l src req mtype len body) := by
  unfold State.answerLink
  dsimp only
  split
  · exact (sendLink_rejoins s l mtype len body).trans {}
  · exact sendLink_rejoins s l mtype len body

theorem evaluate_rejoins (l : Nat) (id : IdBlock) : Rejoins s (s.evaluate l id) :=
  (onLink_relinks s l _).rejoins.trans ((answerLink_rejoins _ l id.key 0x01 0x02 1 _).trans (settleDiscovery_rejoins _ l))

theorem startFast_relinks (l : Nat) : Relinks s (s.startFast l) :=
  ((dropVia_relinks s l).trans (startGrace_relinks _ l)).trans ((onLink_relinks _ l _).trans (leaveParent_relinks _ l))

theorem renewLink_rejoins (l : Nat) : Rejoins s (s.renewLink false l) := by
  unfold State.renewLink
  dsimp only
  split
  · exact Rejoins.refl s
  · split
    · exact ((onLink_relinks s l _).trans (leaveParent_relinks _ l)).rejoins
    · refine Rejoins.trans (onLink_relinks s l (fun k => { k with barred := false, trainedOnce := false })).rejoins ?_
      generalize s.onLink l _ = t
      simp only [Bool.false_eq_true, if_false]
      split
      · exact (leaveDark_relinks t l).rejoins
      · exact ((onLink_relinks t l _).trans (startFull_relinks _ l)).rejoins
      · split
        · exact evaluate_rejoins t l _
        · exact Rejoins.refl t
      · exact Rejoins.refl t
      · exact Rejoins.refl t
      · exact ((onLink_relinks t l _).trans (startFast_relinks _ l)).rejoins
      · exact (onLink_relinks t l _).rejoins

theorem renewLinks_rejoins : Rejoins s (s.renewLinks false) := Rejoins.foldl renewLink_rejoins _ s

end

end Sys2Proof.Machine
end

/-! SUPPORT. The end of a wide episode in its parts (R399, R401, R403). -/

section
namespace Sys2Proof.Machine

open Sys2Proof

-- Each default of a relation is a tactic that waits for all earlier declarations: one proof at a time.
set_option Elab.async false

/-! The end of a wide episode, in its parts (R49, R401, R403, R408) -/

section
variable (s : State)

/-- The straps are taken on a power-on or cold reset. -/
def State.strapped (s : State) (x : ExitSight) (cold : Bool) : State :=
  let s : State := if cold then { s with time := { s.time with frc := 0 } } else s
  let bad := x.clkMode == 3
  let strapped : ResetBlock := if cold then { s.rst with
      bootSrc := x.bootSrc, clkMode := if bad then 2 else x.clkMode, role := x.role, strapInvalid := bad } else s.rst
  let t : State := { s with rst := { strapped with bootFail := false } }
  let t : State := { t with role := { t.role with computeGated := t.relay, ddrOff := t.relay } }
  if cold then x.absent.foldl State.absentRecord t else t

/-- The granary's devices are found. -/
def State.devices (t : State) (x : ExitSight) (cold : Bool) : State :=
  let ok (l : List Nat) (second : Bool) : Bool := l.all (fun ty => !(if second then (t.record ty).stopB else (t.record ty).stopA))
  let mram := [0x11, 0x31, 0x32, 0x50, 0x51, 0x52, 0x53, 0x60, 0x61]
  let t : State := { t with granary := { t.granary with
    nor0 := ok norRecords false, nor1 := ok norRecords true, mram := ok mram false
    restored := if cold then !x.absent.isEmpty else t.granary.restored } }
  if cold && !x.absent.isEmpty then t.platform "RESTORED" x.absent.length else t

/-- The hold-up capacitors, the fuses and the wear of the regions. -/
def State.sensed (t : State) (x : ExitSight) (reach : Nat) (cold : Bool) : State :=
  let t := if reach = 1 then
      let t : State := { t with granary := { t.granary with holdupTime := BitVec.ofNat 12 x.holdup, holdupOk := decide (200 ≤ x.holdup) } }
      if x.holdup < 250 then t.endOfLife 4 else t
    else t
  let t := if cold then t.senseFuses else t
  let t := if cold then t.rst.fusedBlocks.foldl (fun t b => t.onBlock b (fun k => { k with fused := true })) t else t
  if cold then (List.range 33).foldl (State.applyTemper · (x.absent.contains 0x31)) t else t

/-- The regions' clocks run and the crossings' delays are measured. -/
def State.measured (t : State) (x : ExitSight) : State :=
  let t := t.clockRegions
  let t := (List.range 33).foldl (fun t r => t.onRegion r (fun g => { g with calFail := false, guard := 0, guardSender := 0x3F })) t
  let t := (x.delays.foldl State.calibrate t).storeXcal x.delays
  (List.range 33).foldl (fun t r => t.onRegion r (fun g => { g with guardSender := if g.guardSender == 0x3F then 0 else g.guardSender })) t

/-- The image that the ROM accepts starts; without one the module waits for an image. -/
def State.boots (t : State) (x : ExitSight) : State :=
  match t.chooseImage x with
  | some a =>
    let t : State := { t with free := t.free + 1, rst := { t.rst with
      booted := if a then 0 else 1, bootDraw := t.free, imageVersion := versionOf (if a then x.imageA else x.imageB)
      validVersions := t.validOf x } }
    t.finishWide x
  | none =>
    let failed := t.rst.bootSrc = 0 ∨ t.rst.bootSrc = 1
    let t : State := { t with rst := { t.rst with recoveryWait := true, bootFail := decide failed, sight := some x } }
    if failed then t.platform "BOOT_FAIL" 0 else t

/-- What precedes the boot. -/
def State.rises (s : State) (x : ExitSight) : State :=
  let reach := widest s.rst.episode
  ((((s.strapped x (decide (reach ≤ 2))).devices x (decide (reach ≤ 2))).sensed x reach (decide (reach ≤ 2))).measured x)

theorem exitWide_eq (x : ExitSight) : s.exitWide x = (s.rises x).boots x := by
  unfold State.exitWide State.rises State.boots State.measured State.sensed State.devices State.strapped
  rfl

end

end Sys2Proof.Machine
end

/-! SUPPORT. Network time and the measured delays through a wide exit. -/

section
namespace Sys2Proof.Machine

open Sys2Proof

-- Each default of a relation is a tactic that waits for all earlier declarations: one proof at a time.
set_option Elab.async false

section
variable (s : State)

/-! Network time through the end of an episode (R49) -/

theorem absentRecord_sameTime (ty : Nat) : SameTime s (s.absentRecord ty) := by
  have dropped (g : Granary) : SameTime s { s with granary := g } := rfl
  unfold State.absentRecord
  dsimp only
  split
  · exact (dropped _).trans (endOfLife_notes _ 6).sameTime
  all_goals rfl

theorem applyTemper_sameTime (rebuilt : Bool) (r : Nat) : SameTime s (s.applyTemper rebuilt r) := by
  have stepped (f : Temper → Temper) : SameTime s ((s.onTemper r f).committed 0x31) :=
    SameTime.trans (Eq.refl s.time) (committed_notes (s.onTemper r f) 0x31).sameTime
  unfold State.applyTemper
  exact SameTime.trans (.ite (stepped _) (SameTime.refl s)) (onRegion_sameTime _ r _)

theorem strapped_time (x : ExitSight) (cold : Bool) : (s.strapped x cold).time = { s.time with frc := if cold then 0 else s.time.frc } := by
  unfold State.strapped
  cases cold
  · rfl
  · exact SameTime.foldl absentRecord_sameTime _ _

theorem devices_sameTime (x : ExitSight) (cold : Bool) : SameTime s (s.devices x cold) := by
  have found (g : Granary) : SameTime s { s with granary := g } := rfl
  unfold State.devices
  exact .ite ((found _).trans (platform_notes _ _ _).sameTime) (found _)

theorem sensed_sameTime (x : ExitSight) (reach : Nat) (cold : Bool) : SameTime s (s.sensed x reach cold) := by
  have held (g : Granary) : SameTime s { s with granary := g } := rfl
  have capacitors : SameTime s (if reach = 1 then
      (if x.holdup < 250 then ({ s with granary := { s.granary with holdupTime := BitVec.ofNat 12 x.holdup, holdupOk := decide (200 ≤ x.holdup) } } : State).endOfLife 4
        else { s with granary := { s.granary with holdupTime := BitVec.ofNat 12 x.holdup, holdupOk := decide (200 ≤ x.holdup) } }) else s) :=
    .ite (.ite ((held _).trans (endOfLife_notes _ 4).sameTime) (held _)) (SameTime.refl s)
  have fuses (t : State) : SameTime t (if cold then t.senseFuses else t) := .ite rfl (SameTime.refl t)
  have blocks (t : State) : SameTime t (if cold then t.rst.fusedBlocks.foldl (fun t b => t.onBlock b (fun k => { k with fused := true })) t else t) :=
    .ite (SameTime.foldl (fun t b => onBlock_sameTime t b _) _ t) (SameTime.refl t)
  have temper (t : State) : SameTime t (if cold then (List.range 33).foldl (State.applyTemper · (x.absent.contains 0x31)) t else t) :=
    .ite (SameTime.foldl (fun t r => applyTemper_sameTime t _ r) _ t) (SameTime.refl t)
  unfold State.sensed
  exact capacitors.trans ((fuses _).trans ((blocks _).trans (temper _)))

/-! The measured delays (R145, R403) -/

theorem onRegion_rejoins (r : Nat) (f : Region → Region) : Rejoins s (s.onRegion r f) := {}

theorem calibrate_rejoins (x : Nat × Nat × Nat) : Rejoins s (s.calibrate x) := by
  unfold State.calibrate
  obtain ⟨a, b, d⟩ := x
  dsimp only
  split
  · exact Rejoins.refl s
  · rename_i l _
    have marked (f : Region → Region) := onRegion_rejoins s b f
    have drifted (f : Region → Region) (c : Prop) [Decidable c] (e : LogArgs) : Rejoins s (if c then (s.onRegion b f).log e else s.onRegion b f) :=
      .ite ((marked f).trans (log_notes _ e).rejoins) (marked f)
    exact .ite ((drifted _ _ _).trans (log_notes _ _).rejoins) (drifted _ _ _)

theorem storeXcal_notes (delays : List (Nat × Nat × Nat)) : Notes s (s.storeXcal delays) := by
  unfold State.storeXcal
  exact .ite (Notes.refl s) (updateRecord_notes s 0x20 _ .written)

theorem measured_rejoins (x : ExitSight) : Rejoins s (s.measured x) := by
  have each (f : State → Nat → Region → Region) (t : State) : Rejoins t ((List.range 33).foldl (fun t r => t.onRegion r (f t r)) t) :=
    Rejoins.foldl (fun t r => onRegion_rejoins t r _) _ t
  have clocked : Rejoins s s.clockRegions := each (fun _ r g => { g with active := !(s.relay && decide (r < 0x10)) }) s
  unfold State.measured
  exact clocked.trans ((each (fun _ _ g => { g with calFail := false, guard := 0, guardSender := 0x3F }) _).trans
    ((Rejoins.foldl calibrate_rejoins x.delays _).trans ((storeXcal_notes _ x.delays).rejoins.trans
      (each (fun _ _ g => { g with guardSender := if g.guardSender == 0x3F then 0 else g.guardSender }) _))))

theorem rises_time (x : ExitSight) : (s.rises x).time = { s.time with frc := if widest s.rst.episode ≤ 2 then 0 else s.time.frc } := by
  have straps := strapped_time s x (decide (widest s.rst.episode ≤ 2))
  simp only [decide_eq_true_eq] at straps
  unfold State.rises
  dsimp only
  generalize s.strapped x (decide (widest s.rst.episode ≤ 2)) = t at straps ⊢
  have found := devices_sameTime t x (decide (widest s.rst.episode ≤ 2))
  generalize t.devices x (decide (widest s.rst.episode ≤ 2)) = u at found ⊢
  have sensed := sensed_sameTime u x (widest s.rst.episode) (decide (widest s.rst.episode ≤ 2))
  generalize u.sensed x (widest s.rst.episode) (decide (widest s.rst.episode ≤ 2)) = v at sensed ⊢
  exact ((measured_rejoins v x).time.trans (found.trans sensed)).trans straps

/-- A warm reset's exit reads no straps and no records anew. -/
theorem rises_warm (x : ExitSight) (warm : widest s.rst.episode = 3) : Rejoins { s with rst := { s.rst with bootFail := false } } (s.rises x) := by
  unfold State.rises
  rw [warm]
  exact Rejoins.trans {} (measured_rejoins _ x)

end

end Sys2Proof.Machine
end

/-! SUPPORT. Birtur's start after a wide episode (R408, R414). -/

section
namespace Sys2Proof.Machine

open Sys2Proof

-- Each default of a relation is a tactic that waits for all earlier declarations: one proof at a time.
set_option Elab.async false

/-! Birtur's start after a wide episode (R399, R401, R408, R414) -/

/-- Network time and the reset block stay. -/
structure Boots (s t : State) : Prop where
  time : t.time = s.time := by rfl
  rst : t.rst = s.rst := by rfl

section
variable {s t u : State}

theorem Boots.refl (s : State) : Boots s s := {}

theorem Boots.trans (h : Boots s t) (k : Boots t u) : Boots s u where
  time := k.time.trans h.time
  rst := k.rst.trans h.rst

theorem Boots.ite {c : Prop} [Decidable c] (h : Boots s t) (k : Boots s u) : Boots s (if c then t else u) := by
  split
  · exact h
  · exact k

theorem Keeps.boots (h : Keeps s t) : Boots s t where
  time := h.time
  rst := h.rst

theorem Rejoins.boots (h : Rejoins s t) : Boots s t where
  time := h.time
  rst := h.rst

end

section
variable (s : State)

theorem applyRepairs_calm (bad : List (Nat × Nat)) : Calm s (s.applyRepairs bad) := by
  unfold State.applyRepairs
  dsimp only
  refine (Calm.foldl (fun t (e : Repair) => ?_) _ s).trans (Calm.foldl (fun t (x : Nat × Nat) => repairCell_calm t x.1 x.2) _ _)
  exact .ite (onBlock_calm t _ _) (.ite (onBlock_calm t _ _) (Calm.refl t))

theorem trainDdr_keeps (dimms : List (Nat × Bool × Nat × Nat × Nat)) (failed : List Nat) : Keeps s (s.trainDdr dimms failed) := by
  unfold State.trainDdr
  dsimp only
  refine Keeps.trans (Keeps.foldl (fun t d => ?_) _ s) (.ite (platform_notes _ _ _).calm.toKeeps (Keeps.refl _))
  have chan (f : Ddr → Ddr) : Keeps t (t.onChan d.1 f) := {}
  have stored (u : State) (l : List Nat) : Keeps u (({ u with granary := { u.granary with ddrSerials := l } } : State).updateRecord 0x22 [] .written) :=
    Keeps.trans {} (updateRecord_notes _ 0x22 [] .written).calm.toKeeps
  exact .ite (.ite (chan _) ((chan _).trans (stored _ _))) (.ite ((chan _).trans (log_notes _ _).calm.toKeeps) (chan _))

theorem hardRepairs_keeps : Keeps s s.hardRepairs := .ite {} (Keeps.refl s)

/-- The reset block at the end of an episode. -/
def State.endRst (s : State) : ResetBlock :=
  { s.rst with
    cause := if s.relay then 0 else (if widest s.rst.episode ≤ 2 then 0 else s.rst.cause) ||| BitVec.ofNat 32 s.rst.latch.toNat
    lastCause := BitVec.ofNat 32 ((if s.relay then causeBits (singleCause s.rst.episode) else s.rst.latch.toNat) + widest s.rst.episode * 2 ^ 16)
    episode := [], latch := 0, rstDriven := false }

theorem endEpisode_rejoins : Rejoins { s with rst := s.endRst } s.endEpisode :=
  Rejoins.trans {} (committed_notes _ 0x51).rejoins

/-- The granary's start-up count. -/
def State.counted (t : State) (x : ExitSight) (cold : Bool) : State :=
  let g := t.granary
  let start := if x.absent.contains 0x50 then x.randomCount else g.startCount
  let t : State := { t with granary := { g with startCount := start + 1, coldStarts := g.coldStarts + b2n cold } }
  (t.committed 0x50).committed 0x53

/-- Firmware's first work: what it zeroes and what it will scrub. -/
def State.cleaned (t : State) : State :=
  let t := t.zeroOnDie
  { t with
    rst := { t.rst with scrubHbm := true, scrubDdr := !t.relay }
    granary := { t.granary with foldPending := !t.granary.delta.isEmpty } }

theorem finishWide_eq (x : ExitSight) : s.finishWide x =
    let cold := decide (widest s.rst.episode ≤ 2)
    let t : State := { s with rst := { s.rst with birtur := true, recoveryWait := false, sight := none, startupMs := x.startupMs } }
    let t := t.endEpisode
    let t := if cold then (t.applyRepairs x.badCells).trainDdr x.dimms x.ddrFailed else t
    let t := (t.counted x cold).cleaned
    let t := if cold then t.hardRepairs else t
    (t.setHotplug .powered).renewLinks false := by
  unfold State.finishWide State.counted State.cleaned
  simp only [decide_eq_true_eq]

/-- The reset block once Birtur runs. -/
def State.bootRst (s : State) (x : ExitSight) : ResetBlock :=
  { s.endRst with birtur := true, recoveryWait := false, sight := none, startupMs := x.startupMs, scrubHbm := true, scrubDdr := !s.relay }

theorem counted_boots (x : ExitSight) (cold : Bool) : Boots s (s.counted x cold) :=
  Boots.trans {} ((committed_notes _ 0x50).trans (committed_notes _ 0x53)).calm.toKeeps.boots

theorem setHotplug_boots (h : HotPlug) : Boots s (s.setHotplug h) := by
  obtain ⟨_, _, _, _, eq⟩ := setHotplug_eq s h
  rw [eq]
  exact {}

theorem cleaned_boots {r : ResetBlock} {s t : State} (h : Boots { s with rst := r } t) :
    Boots { s with rst := { r with scrubHbm := true, scrubDdr := !r.role } } t.cleaned where
  time := h.time
  rst := congrArg (fun r : ResetBlock => { r with scrubHbm := true, scrubDdr := !r.role }) h.rst

theorem finishWide_boots (x : ExitSight) : Boots { s with rst := s.bootRst x } (s.finishWide x) := by
  rw [finishWide_eq]
  dsimp only
  generalize decide (widest s.rst.episode ≤ 2) = cold
  have ended := (endEpisode_rejoins { s with rst := { s.rst with birtur := true, recoveryWait := false, sight := none, startupMs := x.startupMs } }).boots
  generalize ({ s with rst := { s.rst with birtur := true, recoveryWait := false, sight := none, startupMs := x.startupMs } } : State).endEpisode = t at ended ⊢
  have repaired : Boots t (if cold then (t.applyRepairs x.badCells).trainDdr x.dimms x.ddrFailed else t) :=
    .ite ((applyRepairs_calm t _).toKeeps.trans (trainDdr_keeps _ _ _)).boots (Boots.refl t)
  generalize (if cold then (t.applyRepairs x.badCells).trainDdr x.dimms x.ddrFailed else t) = u at repaired ⊢
  have clean := cleaned_boots (s := s) (ended.trans (repaired.trans (counted_boots u x cold)))
  exact clean.trans ((Boots.ite (hardRepairs_keeps _).boots (Boots.refl _)).trans ((setHotplug_boots _ _).trans (renewLinks_rejoins _).boots))

end

end Sys2Proof.Machine
end

/-! SUPPORT. Memory filtered, and a warm reset's exit (R397, R401). -/

section
namespace Sys2Proof.Machine

open Sys2Proof

-- Each default of a relation is a tactic that waits for all earlier declarations: one proof at a time.
set_option Elab.async false

/-! Memory filtered (R397, R399) -/

theorem readByte_filter (m : Memory) (keep : Nat → Bool) (a : Nat) :
    readByte (m.filter (fun x => keep x.1)) a = if keep a then readByte m a else 0 := by
  induction m with
  | nil => simp [readByte]
  | cons x m ih =>
    obtain ⟨k, v⟩ := x
    have rest : readByte ((k, v) :: m) a = if a = k then v else readByte m a := get_cons 0 k v m a
    by_cases kept : keep k = true
    · have first : readByte ((k, v) :: m.filter (fun x => keep x.1)) a = if a = k then v else readByte (m.filter (fun x => keep x.1)) a := get_cons 0 k v _ a
      rw [List.filter_cons_of_pos (by exact kept), first, rest, ih]
      by_cases same : a = k
      · simp [same, kept]
      · simp [same]
    · rw [List.filter_cons_of_neg (by exact kept), ih, rest]
      by_cases same : a = k
      · simp [same, kept]
      · simp [same]

section
variable (s : State)

theorem zeroOnDie_high {a : Nat} (h : 0x200000000000 ≤ a) : readByte s.zeroOnDie.mem a = 0 :=
  (readByte_filter s.mem (fun a => !onDie a) a).trans (by rw [if_neg (by simp [onDie, h])])

theorem zeroOnDie_low {a : Nat} (h : a < 0x200000000000) : readByte s.zeroOnDie.mem a = readByte s.mem a :=
  (readByte_filter s.mem (fun a => !onDie a) a).trans (by rw [if_pos (by simp [onDie, h])])

/-! A warm reset's exit (R403) -/

theorem counted_warm {x : ExitSight} (present : x.absent = []) (cold : Bool) : (s.counted x cold).mem = s.mem ∧
    (s.counted x cold).granary.startCount = s.granary.startCount + 1 := by
  have told (t : State) := (committed_notes t 0x50).trans (committed_notes _ 0x53)
  unfold State.counted
  rw [present]
  exact ⟨(told _).mem, (told _).starts⟩

theorem setHotplug_enters (h : HotPlug) : (s.setHotplug h).mgmt.hotplug = h ∧ (s.setHotplug h).mem = s.mem ∧
    (s.setHotplug h).granary.startCount = s.granary.startCount := by
  obtain ⟨_, _, _, _, eq⟩ := setHotplug_eq s h
  rw [eq]
  exact ⟨rfl, rfl, rfl⟩

theorem finishWide_warm {x : ExitSight} (warm : widest s.rst.episode = 3) (present : x.absent = []) :
    (s.finishWide x).granary.startCount = s.granary.startCount + 1 ∧ (s.finishWide x).mgmt.hotplug = .powered ∧
    (s.finishWide x).mem = s.zeroOnDie.mem := by
  rw [finishWide_eq, warm]
  have ended := endEpisode_rejoins { s with rst := { s.rst with birtur := true, recoveryWait := false, sight := none, startupMs := x.startupMs } }
  dsimp only
  generalize ({ s with rst := { s.rst with birtur := true, recoveryWait := false, sight := none, startupMs := x.startupMs } } : State).endEpisode = t at ended ⊢
  rw [if_neg (by decide), if_neg (by decide)]
  obtain ⟨mem, starts⟩ := counted_warm t present (decide (3 ≤ 2))
  generalize t.counted x (decide (3 ≤ 2)) = u at mem starts ⊢
  obtain ⟨entered, kept, same⟩ := setHotplug_enters u.cleaned .powered
  have renewed := renewLinks_rejoins (u.cleaned.setHotplug .powered)
  have zeroed : u.cleaned.mem = u.zeroOnDie.mem := rfl
  have alike : u.zeroOnDie.mem = s.zeroOnDie.mem := congrArg (fun m : Memory => m.filter (fun x : Nat × Byte => !onDie x.1)) (mem.trans ended.mem)
  exact ⟨renewed.starts.trans (same.trans (starts.trans (congrArg (· + 1) ended.starts))), renewed.hotplug.trans entered,
    renewed.mem.trans (kept.trans (zeroed.trans alike))⟩

/-! The end of an episode (R399, R401) -/

theorem resetExit_waits (x : ExitSight) (h : s.rst.episode = [] ∨ s.rst.active ≠ [] ∨ s.rst.recoveryWait = true) : exec (.resetExit x) s = .next s := by
  show execResetExit x s = _
  rcases h with none | some | waits
  · simp [execResetExit, none]
  · simp [execResetExit, some]
  · simp [execResetExit, waits]

theorem resetExit_ends (x : ExitSight) (episode : s.rst.episode ≠ []) (released : s.rst.active = []) (goes : s.rst.recoveryWait = false) :
    exec (.resetExit x) s = .next (if widest s.rst.episode ≤ 3 then (s.rises x).boots x else s.exitNarrow) := by
  show execResetExit x s = _
  have ends : ¬ (s.rst.episode.isEmpty || !s.rst.active.isEmpty || s.rst.recoveryWait) = true := by simp [episode, released, goes]
  rw [execResetExit, if_neg ends, exitWide_eq]
  split <;> rfl

end

end Sys2Proof.Machine
end

/-! SUPPORT. Narrow exits, and the reset block after a wide one (R399, R401). -/

section
namespace Sys2Proof.Machine

open Sys2Proof

-- Each default of a relation is a tactic that waits for all earlier declarations: one proof at a time.
set_option Elab.async false

/-- What a narrow exit leaves alone, beside the end of its episode. -/
structure Narrows (s t : State) : Prop where
  rst : t.rst = s.rst := by rfl
  mem : t.mem = s.mem := by rfl
  job : t.job = s.job := by rfl

section
variable {s t u : State}

theorem Narrows.refl (s : State) : Narrows s s := {}

theorem Narrows.trans (h : Narrows s t) (k : Narrows t u) : Narrows s u where
  rst := k.rst.trans h.rst
  mem := k.mem.trans h.mem
  job := k.job.trans h.job

theorem Narrows.ite {c : Prop} [Decidable c] (h : Narrows s t) (k : Narrows s u) : Narrows s (if c then t else u) := by
  split
  · exact h
  · exact k

theorem Narrows.foldl {α : Type} {f : State → α → State} (h : ∀ t x, Narrows t (f t x)) (l : List α) (s : State) : Narrows s (l.foldl f s) :=
  foldl_related Narrows.refl Narrows.trans h l s

theorem Notes.narrows (h : Notes s t) : Narrows s t where
  rst := h.rst
  mem := h.mem
  job := h.job

theorem Relinks.narrows (h : Relinks s t) : Narrows s t := by
  obtain ⟨_, _, _, rfl⟩ := h
  exact {}

end

section
variable (s : State)

/-! A narrow exit (R399) -/

theorem clockRegions_narrows : Narrows s s.clockRegions :=
  Narrows.foldl (fun _ _ => {}) _ s

/-- A narrow exit but for the answer to RESET. -/
def State.rejoined (s : State) : State :=
  let t := s.endEpisode
  let t : State := { t with rst := { t.rst with birtur := true } }
  let t := t.clockRegions
  let t := if t.jobRuns then t else { t with
    regions := t.regions.map (fun (x : Nat × Region) => (x.1, { x.2 with away := false }))
    blocks := t.blocks.map (fun (x : Nat × Block) => (x.1, { x.2 with isolated := false })) }
  let t := if t.bench then (List.range 56).foldl (fun t l => t.onLink l (fun k => { k with barred := false })) t else t
  (List.range 56).foldl (fun t l => t.leaveDark l) t

theorem rejoined_narrows : Narrows { s with rst := { s.endRst with birtur := true } } s.rejoined := by
  have ended : Narrows { s with rst := s.endRst } s.endEpisode := Narrows.trans {} (committed_notes _ 0x51).narrows
  unfold State.rejoined
  generalize s.endEpisode = t at ended ⊢
  have runs : Narrows { s with rst := { s.endRst with birtur := true } } { t with rst := { t.rst with birtur := true } } :=
    { ended with rst := congrArg (fun r : ResetBlock => { r with birtur := true }) ended.rst }
  have back (u : State) : Narrows u (if u.jobRuns then u else { u with
      regions := u.regions.map (fun (x : Nat × Region) => (x.1, { x.2 with away := false }))
      blocks := u.blocks.map (fun (x : Nat × Block) => (x.1, { x.2 with isolated := false })) }) := .ite (Narrows.refl u) {}
  have links (u : State) : Narrows u (if u.bench then (List.range 56).foldl (fun t l => t.onLink l (fun k => { k with barred := false })) u else u) :=
    .ite (Narrows.foldl (fun v l => (onLink_relinks v l _).narrows) _ u) (Narrows.refl u)
  exact runs.trans ((clockRegions_narrows _).trans ((back _).trans ((links _).trans (Narrows.foldl (fun u l => (leaveDark_relinks u l).narrows) _ _))))

/-- The place of the RESET command that waits for the exit. -/
def State.withJobMbx (s : State) (m : Option (Nat × Nat)) : State := { s with rst := { s.rst with jobMbx := m } }

/-- The answer to RESET touches no memory and, of the reset block, only the mailbox's place. -/
theorem exitNarrow_narrows : ∃ m, Narrows (s.rejoined.withJobMbx m) s.exitNarrow := by
  unfold State.exitNarrow
  extract_lets reach ended block runs clocked back unbarred t
  have same : s.rejoined = t := by
    unfold State.rejoined
    rfl
  rw [same]
  clear_value t
  split
  · split
    · exact ⟨none, (complete_completes _ _ _ _ _ _).notes.narrows⟩
    · exact ⟨t.rst.jobMbx, {}⟩
  · exact ⟨t.rst.jobMbx, {}⟩

/-- What the end of an episode latches, on a compute module. -/
theorem endRst_narrow {s : State} (compute : s.relay = false) (narrow : 3 ≤ widest s.rst.episode) : s.endRst.episode = [] ∧
    s.endRst.lastCause = BitVec.ofNat 32 (s.rst.latch.toNat + widest s.rst.episode * 2 ^ 16) ∧
    s.endRst.cause = s.rst.cause ||| s.rst.latch.setWidth 32 := by
  refine ⟨rfl, ?_, ?_⟩
  · simp [State.endRst, compute]
  · simp [State.endRst, compute, show ¬ widest s.rst.episode ≤ 2 by omega, BitVec.ofNat_toNat]

theorem exitNarrow_ends (compute : s.relay = false) (narrow : 4 ≤ widest s.rst.episode) :
    let t := s.exitNarrow
    t.rst.episode = [] ∧ t.rst.birtur = true ∧ t.rst.lastCause = BitVec.ofNat 32 (s.rst.latch.toNat + widest s.rst.episode * 2 ^ 16) ∧
      t.rst.cause = s.rst.cause ||| s.rst.latch.setWidth 32 ∧ t.mem = s.mem ∧ t.job = s.job := by
  obtain ⟨m, ends⟩ := exitNarrow_narrows s
  have back := rejoined_narrows s
  obtain ⟨episode, last, causes⟩ := endRst_narrow compute (by omega)
  generalize s.exitNarrow = t at ends
  generalize s.rejoined = u at ends back
  generalize s.endRst = r at back episode last causes
  obtain ⟨rst, mem, job⟩ := ends
  dsimp only [State.withJobMbx] at rst mem job
  rw [back.rst] at rst
  dsimp only at rst
  dsimp only
  rw [rst, ← episode, ← last, ← causes, mem, back.mem, job, back.job]
  exact ⟨rfl, rfl, rfl, rfl, rfl, rfl⟩

end

/-! A wide exit (R401, R403, R408) -/

section
variable {s t : State} {x : ExitSight}

theorem chooseImage_congr (source : t.rst.bootSrc = s.rst.bootSrc) (fuses : t.rst.fuseFloor = s.rst.fuseFloor)
    (rollback : t.granary.rollback = s.granary.rollback) (newest : t.granary.newestA = s.granary.newestA) : t.chooseImage x = s.chooseImage x := by
  have floor : t.floor = s.floor := by rw [State.floor, State.floor, rollback, fuses]
  have accepts (i : Option (Word32 × Bool)) : t.acceptsImage i = s.acceptsImage i := by unfold State.acceptsImage; rw [floor]
  rw [State.chooseImage, State.chooseImage, accepts, accepts, source, newest]

/-- The state in which an image starts. -/
def State.imaged (t : State) (x : ExitSight) (a : Bool) : State := { t with free := t.free + 1, rst := { t.rst with
  booted := if a then 0 else 1, bootDraw := t.free, imageVersion := versionOf (if a then x.imageA else x.imageB), validVersions := t.validOf x } }

theorem boots_some {a : Bool} (h : t.chooseImage x = some a) : t.boots x = (t.imaged x a).finishWide x := by
  rw [State.boots, h]
  rfl

/-- The state that waits for an image. -/
def State.imageless (t : State) (x : ExitSight) : State := { t with rst := { t.rst with
  recoveryWait := true, bootFail := decide (t.rst.bootSrc = 0 ∨ t.rst.bootSrc = 1), sight := some x } }

theorem boots_none (h : t.chooseImage x = none) : Notes (t.imageless x) (t.boots x) := by
  rw [State.boots, h]
  exact .ite (platform_notes _ _ _) (Notes.refl _)

theorem boots_time : (t.boots x).time = t.time := by
  cases h : t.chooseImage x with
  | some a => rw [boots_some h]; exact (finishWide_boots (t.imaged x a) x).time
  | none => exact (boots_none h).time

theorem wideExit_frc (wide : widest s.rst.episode ≤ 2) : ((s.rises x).boots x).time.frc = 0 := by
  rw [boots_time, rises_time, if_pos wide]

/-- The reset block once Birtur runs, in every wide exit. -/
theorem finishWide_rst (s : State) (x : ExitSight) : (s.finishWide x).rst.episode = [] ∧ (s.finishWide x).rst.birtur = true ∧
    (s.finishWide x).rst.recoveryWait = false ∧ (s.finishWide x).rst.booted = s.rst.booted ∧ (s.finishWide x).rst.imageVersion = s.rst.imageVersion ∧
    (s.finishWide x).rst.scrubHbm = true ∧ (s.finishWide x).rst.scrubDdr = !s.relay ∧ (s.finishWide x).rst.startupMs = x.startupMs ∧
    (s.finishWide x).rst.lastCause = s.endRst.lastCause ∧ (s.finishWide x).rst.cause = s.endRst.cause := by
  have boots := (finishWide_boots s x).rst
  generalize s.finishWide x = t at boots ⊢
  dsimp only at boots
  rw [boots]
  exact ⟨rfl, rfl, rfl, rfl, rfl, rfl, rfl, rfl, rfl, rfl⟩

end

end Sys2Proof.Machine
end

/-! SUPPORT. The exits of an episode and a recovery image posted (R49, R399 to R414, R456). -/

section
namespace Sys2Proof.Machine

open Sys2Proof

-- Each default of a relation is a tactic that waits for all earlier declarations: one proof at a time.
set_option Elab.async false

section
variable {s t : State} {x : ExitSight}

/-- With the reset block of a warm reset's exit, an image starts as the ROM's choice says. -/
theorem boots_image {a : Bool} (rst : t.rst = { s.rst with bootFail := false }) (mem : t.mem = s.mem)
    (starts : t.granary.startCount = s.granary.startCount) (chosen : t.chooseImage x = some a)
    (warm : widest s.rst.episode = 3) (present : x.absent = []) (compute : s.relay = false) :
    (t.boots x).rst.episode = [] ∧ (t.boots x).rst.birtur = true ∧ (t.boots x).rst.booted = (if a then 0 else 1) ∧
      (t.boots x).rst.lastCause = BitVec.ofNat 32 (s.rst.latch.toNat + 3 * 2 ^ 16) ∧ (t.boots x).rst.cause = s.rst.cause ||| s.rst.latch.setWidth 32 ∧
      (t.boots x).rst.scrubHbm = true ∧ (t.boots x).rst.scrubDdr = true ∧ (t.boots x).rst.startupMs = x.startupMs ∧
      (t.boots x).granary.startCount = s.granary.startCount + 1 ∧ (t.boots x).mgmt.hotplug = .powered ∧
      (∀ a, 0x200000000000 ≤ a → readByte (t.boots x).mem a = 0) ∧ (∀ a, a < 0x200000000000 → readByte (t.boots x).mem a = readByte s.mem a) := by
  have image : (t.imaged x a).rst = { s.rst with bootFail := false, booted := if a then 0 else 1, bootDraw := t.free
                                                 imageVersion := versionOf (if a then x.imageA else x.imageB), validVersions := t.validOf x } := by
    rw [State.imaged, rst]
  have role : (t.imaged x a).relay = false := by rw [State.relay, image]; exact compute
  have reach : widest (t.imaged x a).rst.episode = 3 := by rw [image]; exact warm
  obtain ⟨started, hotplug, zeroed⟩ := finishWide_warm (t.imaged x a) reach present
  obtain ⟨episode, birtur, _, booted, _, hbm, ddr, startup, last, cause⟩ := finishWide_rst (t.imaged x a) x
  obtain ⟨_, lastly, causes⟩ := endRst_narrow role (Nat.le_of_eq reach.symm)
  have kept : (t.imaged x a).mem = s.mem ∧ (t.imaged x a).granary.startCount = s.granary.startCount := ⟨mem, starts⟩
  rw [boots_some chosen, episode, birtur, booted, hbm, ddr, startup, last, cause, lastly, causes, reach, started, hotplug, zeroed, role, image, kept.2]
  refine ⟨rfl, rfl, rfl, rfl, rfl, rfl, rfl, rfl, rfl, rfl, fun b high => zeroOnDie_high _ high, fun b low => ?_⟩
  rw [zeroOnDie_low _ low, kept.1]

/-- With the reset block of a warm reset's exit and no image, the module waits. -/
theorem boots_imageless (rst : t.rst = { s.rst with bootFail := false }) (mem : t.mem = s.mem) (chosen : t.chooseImage x = none) :
    (t.boots x).rst.episode = s.rst.episode ∧ (t.boots x).rst.recoveryWait = true ∧
      (t.boots x).rst.bootFail = (s.rst.bootSrc == 0 || s.rst.bootSrc == 1) ∧ (t.boots x).rst.birtur = s.rst.birtur ∧ (t.boots x).mem = s.mem := by
  have waits := boots_none chosen
  have image : (t.imageless x).rst = { s.rst with recoveryWait := true, bootFail := decide (s.rst.bootSrc = 0 ∨ s.rst.bootSrc = 1), sight := some x } := by
    rw [State.imageless, rst]
  rw [waits.rst, image, waits.mem, Bool.decide_or]
  exact ⟨rfl, rfl, rfl, rfl, mem⟩

/-- What a warm reset's exit has changed before the boot: one flag of the reset block. -/
theorem rises_rst (warm : widest s.rst.episode = 3) : (s.rises x).rst = { s.rst with bootFail := false } := (rises_warm s x warm).rst

/-- The ROM's choice of a warm reset is that of the state before its exit. -/
theorem rises_chooses (warm : widest s.rst.episode = 3) : (s.rises x).chooseImage x = s.chooseImage x := by
  have rises := rises_warm s x warm
  exact chooseImage_congr (by rw [rises_rst warm]) (by rw [rises_rst warm]) rises.rollback rises.newestA

theorem episode_of_warm (warm : widest s.rst.episode = 3) : s.rst.episode ≠ [] := by
  intro none
  rw [none] at warm
  exact absurd warm (by decide)

/-! A recovery image posted (R456) -/

theorem imagePost_refused {signed : Bool} {version : Word32} (sight : s.rst.sight = some x) (h : signed = false ∨ version.toNat < s.floor) :
    exec (.recoveryImagePost signed version) s = .next s := by
  have refused : s.acceptsImage (some (version, signed)) = false := by
    rcases h with unsigned | low
    · simp [State.acceptsImage, unsigned]
    · simp [State.acceptsImage, low]
  show execRecoveryImagePost signed version s = _
  simp [execRecoveryImagePost, sight, refused]

/-- The state in which a posted image starts. -/
def State.posted (s : State) (x : ExitSight) (version : Word32) : State := { s with free := s.free + 1, rst := { s.rst with
  booted := if s.rst.bootSrc = 2 then 2 else 3, bootFail := false, bootDraw := s.free, imageVersion := version, validVersions := s.validOf x } }

theorem imagePost_taken {signed : Bool} {version : Word32} (sight : s.rst.sight = some x) (waits : s.rst.recoveryWait = true) (sound : signed = true)
    (fresh : s.floor ≤ version.toNat) : ∃ t, exec (.recoveryImagePost signed version) s = .next t ∧ t.rst.birtur = true ∧
      t.rst.recoveryWait = false ∧ t.rst.booted = (if s.rst.bootSrc = 2 then 2 else 3) ∧ t.rst.imageVersion = version ∧ t.rst.episode = [] ∧
      t.rst.scrubHbm = true := by
  have accepted : (s.rst.recoveryWait && s.acceptsImage (some (version, signed))) = true := by simp [State.acceptsImage, waits, sound, fresh]
  have starts : exec (.recoveryImagePost signed version) s = .next ((s.posted x version).finishWide x) := by
    show execRecoveryImagePost signed version s = _
    rw [execRecoveryImagePost, sight]
    exact if_pos accepted
  obtain ⟨episode, birtur, waited, booted, image, hbm, _⟩ := finishWide_rst (s.posted x version) x
  exact ⟨_, starts, birtur, waited, booted, image, episode, hbm⟩

/-! The obligation's parts -/

theorem resetExits : Claims.ResetExits := by
  intro s x signed version
  dsimp only
  refine ⟨resetExit_waits s x, fun episode released goes narrow compute => ?narrow, fun episode released goes wide => ?cold,
    fun warm released goes present compute => ⟨fun a chosen => ?boots, fun chosen => ?waits⟩, fun sight waits => ⟨?refused, ?posted⟩, ?absent⟩
  case narrow =>
    refine ⟨_, resetExit_ends s x episode released goes, ?_⟩
    rw [if_neg (by omega)]
    exact exitNarrow_ends s compute narrow
  case cold =>
    refine ⟨_, resetExit_ends s x episode released goes, ?_⟩
    rw [if_pos (by omega)]
    exact wideExit_frc wide
  case boots =>
    refine ⟨_, resetExit_ends s x (episode_of_warm warm) released goes, ?_⟩
    have rises := rises_warm s x warm
    rw [if_pos (Nat.le_of_eq warm)]
    exact boots_image (rises_rst warm) rises.mem rises.starts ((rises_chooses warm).trans chosen) warm present compute
  case waits =>
    refine ⟨_, resetExit_ends s x (episode_of_warm warm) released goes, ?_⟩
    rw [if_pos (Nat.le_of_eq warm)]
    exact boots_imageless (rises_rst warm) (rises_warm s x warm).mem ((rises_chooses warm).trans chosen)
  case refused => exact imagePost_refused sight
  case posted => exact imagePost_taken sight waits
  case absent =>
    intro none
    show execRecoveryImagePost signed version s = _
    rw [execRecoveryImagePost, none]

end

end Sys2Proof.Machine
end

/-! SUPPORT. A port's mailboxes (R358 to R362). -/

section
namespace Sys2Proof.Machine

open Sys2Proof

-- Each default of a relation is a tactic that waits for all earlier declarations: one proof at a time.
set_option Elab.async false

/-! A port's mailboxes (R358 to R362) -/

/-- The mailboxes of a port and the order of their posts stay. -/
structure Boxes (p : Nat) (s t : State) : Prop where
  boxes : (t.port p).boxes = (s.port p).boxes := by rfl
  posted : (t.port p).posted = (s.port p).posted := by rfl

section
variable {s t u : State} {p : Nat}

theorem Boxes.refl (s : State) : Boxes p s s := {}

theorem Boxes.trans (h : Boxes p s t) (k : Boxes p t u) : Boxes p s u where
  boxes := k.boxes.trans h.boxes
  posted := k.posted.trans h.posted

theorem Boxes.mbx (h : Boxes p s t) (m : Nat) : t.mbx p m = s.mbx p m := congrArg (fun b => get ({} : Mailbox) b m) h.boxes

end

section
variable (s : State) (p : Nat)

theorem onPort_boxes {f : Port → Port} (boxes : (f (s.port p)).boxes = (s.port p).boxes) (posted : (f (s.port p)).posted = (s.port p).posted) :
    Boxes p s (s.onPort p f) where
  boxes := by rw [port_onPort_same, boxes]
  posted := by rw [port_onPort_same, posted]

theorem vector_boxes (v : Nat) : Boxes p s (s.vector p v) := by
  unfold State.vector
  split
  · exact onPort_boxes s p rfl rfl
  · split <;> exact {}

theorem event_boxes (i : Nat) : Boxes p s (s.event p i) := by
  have noted : Boxes p s (s.onPort p (fun q => { q with events := setBit q.events i })) := onPort_boxes s p rfl rfl
  unfold State.event
  dsimp only
  split
  · exact noted.trans (vector_boxes _ p i)
  · exact noted

theorem hostWrite_boxes (a : Nat) (bs : List Byte) : Boxes p s (s.hostWrite p a bs) := by
  unfold State.hostWrite
  split <;> exact {}

theorem recordDup_boxes (m status : Nat) : Boxes p s (s.recordDup p m status) := by
  unfold State.recordDup
  dsimp only
  split
  · exact onPort_boxes s p rfl rfl
  · exact Boxes.refl s

/-- A mailbox answered. -/
def Mailbox.answered (k : Mailbox) (status : Nat) (resp : Memory) (dup : Bool) : Mailbox :=
  { k with resp := resp, state := .done, status := BitVec.ofNat 16 status, dup := dup, follows := none, waits := false }

theorem respond_boxes (m status : Nat) (resp : Memory) (dup : Bool) :
    Boxes p (s.onMbx p m (fun k => k.answered status resp dup)) (s.respond p m status resp dup) := by
  unfold State.respond
  dsimp only
  split
  · exact (hostWrite_boxes _ p _ _).trans (event_boxes _ p m)
  · exact event_boxes _ p m

theorem onMbx_posted (m : Nat) (f : Mailbox → Mailbox) : ((s.onMbx p m f).port p).posted = (s.port p).posted := by
  rw [State.onMbx, port_onPort_same]

theorem respond_posted (m status : Nat) (resp : Memory) (dup : Bool) : ((s.respond p m status resp dup).port p).posted = (s.port p).posted :=
  (respond_boxes s p m status resp dup).posted.trans (onMbx_posted s p m _)

theorem respond_mbx_same (m status : Nat) (resp : Memory) (dup : Bool) :
    (s.respond p m status resp dup).mbx p m = (s.mbx p m).answered status resp dup :=
  ((respond_boxes s p m status resp dup).mbx m).trans (mbx_onMbx_same s p m _)

theorem respond_mbx_other {m x : Nat} (status : Nat) (resp : Memory) (dup : Bool) (h : x ≠ m) : (s.respond p m status resp dup).mbx p x = s.mbx p x :=
  ((respond_boxes s p m status resp dup).mbx x).trans (mbx_onMbx_other s p _ h)

/-- The followers of a completed command: the others of the port stay, as does the order of the posts. -/
theorem completeFollowers_idle (m status : Nat) {x : Nat} (idle : (s.mbx p x).busy = false) :
    (s.completeFollowers p m status).mbx p x = s.mbx p x ∧ ((s.completeFollowers p m status).port p).posted = (s.port p).posted := by
  unfold State.completeFollowers
  dsimp only
  generalize (s.mbx p m).resp = resp
  have kept (l : List Nat) (t : State) (same : t.mbx p x = s.mbx p x) (posts : (t.port p).posted = (s.port p).posted) :
      let u := l.foldl (fun t f => if (t.mbx p f).busy && (t.mbx p f).follows.map (·.val) == some m then t.respond p f status resp true else t) t
      u.mbx p x = s.mbx p x ∧ (u.port p).posted = (s.port p).posted := by
    induction l generalizing t with
    | nil => exact ⟨same, posts⟩
    | cons f l ih =>
      rw [List.foldl_cons]
      split
      · next busy =>
        have other : x ≠ f := by
          rintro rfl
          simp [same, idle] at busy
        exact ih _ ((respond_mbx_other t p status resp true other).trans same) ((respond_posted t p f status resp true).trans posts)
      · exact ih t same posts
  exact kept _ s rfl rfl

/-- A completed command's mailbox is done with its status; the order of the posts stays (R361). -/
theorem complete_done (m status detail : Nat) (body : List Byte) :
    let t := s.complete p m status detail body
    (t.mbx p m).state = .done ∧ (t.mbx p m).status = BitVec.ofNat 16 status ∧ (t.mbx p m).len = (s.mbx p m).len ∧
      (t.port p).posted = (s.port p).posted := by
  unfold State.complete
  dsimp only
  generalize writeBytes [] 0 (responseBytes (s.mbx p m).id (s.mbx p m).opcode status detail body) = resp
  have answered : ((s.respond p m status resp false).recordDup p m status).mbx p m = (s.mbx p m).answered status resp false :=
    ((recordDup_boxes _ p m status).mbx m).trans (respond_mbx_same s p m status resp false)
  have posts : (((s.respond p m status resp false).recordDup p m status).port p).posted = (s.port p).posted :=
    (recordDup_boxes _ p m status).posted.trans (respond_posted s p m status resp false)
  obtain ⟨same, order⟩ := completeFollowers_idle ((s.respond p m status resp false).recordDup p m status) p m status (x := m) (by rw [answered]; rfl)
  rw [same, answered, order, posts]
  exact ⟨rfl, rfl, rfl, rfl⟩

/-- Firmware finds nothing to sort where the only post has been taken. -/
theorem sortPort_taken {m : Nat} (only : (s.port p).posted = [m]) (taken : (s.mbx p m).state ≠ .posted) (good : (s.mbx p m).badLength = false) :
    s.sortPort p = s := by
  have none : s.nextOf p = none := by simp [State.nextOf, only, taken]
  simp [State.sortPort, only, none, good]

end

end Sys2Proof.Machine
end

/-! SUPPORT. A well-posted command is served (R358 to R362, R375). -/

section
namespace Sys2Proof.Machine

open Sys2Proof

-- Each default of a relation is a tactic that waits for all earlier declarations: one proof at a time.
set_option Elab.async false

/-! A well-posted command is served (R358 to R362, R375) -/

section
variable {s : State} {p : Fin 4} {m : Fin 8} {r : CmdRule} {reserved : List (Nat × Nat)}

theorem sortPort_posted (posted : Claims.Posted s p m r.op r.size reserved) (known : opcodes.contains r.op = true) (short : r.size ≤ 4080) :
    s.sortPort p = s := by
  obtain ⟨birtur, ⟨only, _⟩, state, opcode, _, len, dups, twin, _⟩ := posted
  have good : (s.mbx p m).badLength = false := by
    have units : 4 * ceilDiv r.size 4 ≤ 4080 := by unfold ceilDiv; omega
    simp only [Mailbox.badLength, len, Bool.or_eq_false_iff, decide_eq_false_iff_not, bne_eq_false_iff_eq]
    omega
  have fresh : (s.port p).dups.find? (fun d => d.id == (s.mbx p m).id) = none := by
    simpa [List.find?_eq_none] using dups
  have sorted : s.sort p m = s := by
    simp only [State.sort, birtur, state, good, fresh, twin, opcode, known]
    rfl
  simp [State.sortPort, only, sorted]

theorem vet_posted (posted : Claims.Posted s p m r.op r.size reserved) (permitted : s.permission p r.permit = none) (relay : r.relayOk = true) :
    s.vet p m r none = none := by
  obtain ⟨_, _, _, _, version, len, _, _, head, _⟩ := posted
  simp [State.vet, version, len, permitted, relay, head]

/-- A well-posted command whose port may send it runs, in the state in which firmware has taken it. -/
theorem serve_posted (posted : Claims.Posted s p m r.op r.size reserved) (known : opcodes.contains r.op = true) (short : r.size ≤ 4080)
    (permitted : s.permission p r.permit = none) (relay : r.relayOk = true) (run : State → Mailbox → State) :
    s.serve p m r none reserved run = (run (Claims.served s p) (s.mbx p m)).sortPort p := by
  have vetted : (Claims.served s p).vet p m r none = none := vet_posted (s := s) posted permitted relay
  obtain ⟨birtur, ⟨_, turn⟩, _, opcode, _, _, _, _, _, body⟩ := id posted
  have spans : (s.mbx p m).reservedBody r reserved = none := body
  have body : (Claims.served s p).runBody p m r reserved run = run (Claims.served s p) (s.mbx p m) := by
    have same : (Claims.served s p).mbx p m = s.mbx p m := rfl
    rw [State.runBody, same, spans]
  have fresh : (s.rst.birtur && (s.nextServed == some (p.val, m.val) || (s.mbx p m).waits) && (s.mbx p m).opcode == r.op) = true := by
    simp [birtur, turn, opcode]
  rw [State.serve, sortPort_posted posted known short]
  dsimp only
  rw [if_pos fresh, if_pos (by rw [turn]; exact beq_self_eq_true _)]
  show (match (Claims.served s p).vet p m r none with
     | some x => (Claims.served s p).refuse p m x.1 x.2
     | none => (Claims.served s p).runBody p m r reserved run).sortPort p = _
  rw [vetted, body]

end

end Sys2Proof.Machine
end

/-! SUPPORT. Records of the journal in memory. -/

section
namespace Sys2Proof.Machine

open Sys2Proof

-- Each default of a relation is a tactic that waits for all earlier declarations: one proof at a time.
set_option Elab.async false

/-! Records of the journal in memory (R290, R291) -/

/-- An address that no record reaches while the journal is on. -/
def State.beyondJournal (s : State) (a : Nat) : Prop := a < s.glean.base ∨ s.glean.base + max s.glean.length 8192 ≤ a

/-- Memory changes in the journal's range alone, which stays. -/
structure Journals (s t : State) : Prop where
  base : t.glean.base = s.glean.base := by rfl
  length : t.glean.length = s.glean.length := by rfl
  bytes : ∀ a, s.beyondJournal a → readByte t.mem a = readByte s.mem a := by exact fun _ _ => rfl

section
variable {s t u : State}

theorem Journals.refl (s : State) : Journals s s := {}

theorem Journals.trans (h : Journals s t) (k : Journals t u) : Journals s u where
  base := k.base.trans h.base
  length := k.length.trans h.length
  bytes a out := (k.bytes a (by rw [State.beyondJournal, h.base, h.length]; exact out)).trans (h.bytes a out)

end

section
variable (s : State)

theorem poke_journals {a : Nat} {bs : List Byte} (low : s.glean.base ≤ a) (high : a + bs.length ≤ s.glean.base + max s.glean.length 8192) :
    Journals s (s.poke a bs) where
  bytes x out := readByte_writeBytes_outside bs s.mem a x (by unfold State.beyondJournal at out; omega)

/-- The parts of a record lie in the journal's range, or run on from its start. -/
theorem parts_within (g : Glean) {off n : Nat} (short : n ≤ 8192) : ∀ x ∈ g.parts off n, g.base ≤ x.1 ∧ x.1 + x.2 ≤ g.base + max g.length 8192 := by
  intro x hx
  simp only [Glean.parts, List.mem_filter, List.mem_cons, List.not_mem_nil, or_false, bne_iff_ne, ne_eq] at hx
  obtain ⟨rfl | rfl, some⟩ := hx
  · have least : Nat.min n (g.length - off) ≤ g.length - off := Nat.min_le_right _ _
    dsimp only at some ⊢
    omega
  · dsimp only
    omega

theorem ringPoke_journals (off : Nat) {bs : List Byte} (short : bs.length ≤ 8192) : Journals s (s.ringPoke off bs) := by
  have poked (l : List (Nat × Nat)) (x : State × List Byte) (within : ∀ p ∈ l, s.glean.base ≤ p.1 ∧ p.1 + p.2 ≤ s.glean.base + max s.glean.length 8192)
      (glean : x.1.glean = s.glean) : Journals x.1 (l.foldl (fun acc p => (acc.1.poke p.1 (acc.2.take p.2), acc.2.drop p.2)) x).1 := by
    induction l generalizing x with
    | nil => exact Journals.refl _
    | cons p l ih =>
      obtain ⟨low, high⟩ := within p (List.mem_cons_self ..)
      have first : Journals x.1 (x.1.poke p.1 (x.2.take p.2)) := poke_journals x.1 (by rw [glean]; exact low) (by
        have most : (x.2.take p.2).length ≤ p.2 := List.length_take_le _ _
        rw [glean]
        omega)
      exact first.trans (ih (x.1.poke p.1 (x.2.take p.2), x.2.drop p.2) (fun q hq => within q (List.mem_cons_of_mem _ hq)) glean)
  exact poked _ (s, bs) (parts_within s.glean short) rfl

theorem length_recordBytes (r : JournalRec) : (recordBytes r).length = 32 + r.body.length := by
  simp only [recordBytes, List.length_append, List.length_cons, List.length_nil, length_leBytes]

theorem appendRecord_journals (rtype : Nat) (flags : Byte) (step : BitVec 48) (n : BitVec 16) {body : List Byte} (short : body.length ≤ 8160) :
    Journals s (s.appendRecord rtype flags step n body) := by
  have listed : Journals s { s with glean := s.glean.append rtype flags step n body } := {}
  unfold State.appendRecord
  dsimp only
  split
  · rename_i i last
    have entry : i.entry.body = body := by
      simp only [Glean.append, List.getLast?_append, List.getLast?_singleton, Option.some_or, Option.some.injEq] at last
      rw [← last]
    exact listed.trans (ringPoke_journals _ _ (by rw [length_recordBytes, entry]; omega))
  · exact listed

theorem dropRecords_journals : Journals s s.dropRecords := by
  unfold State.dropRecords
  dsimp only
  split
  · split
    · exact Journals.refl s
    · refine Journals.trans {} (appendRecord_journals _ _ _ _ _ ?_)
      simp [padBody, ceilDiv]
  · exact Journals.refl s

/-- A record of up to 8,192 bytes changes memory in the journal's range alone. -/
theorem journalNow_outside (rtype : Nat) {body : List Byte} (short : body.length ≤ 8160) {a : Nat} (out : Claims.OutsideJournal s a) :
    readByte (s.journalNow rtype body).mem a = readByte s.mem a := by
  unfold State.journalNow
  rcases out with off | beyond
  · rw [journal_off s _ _ _ _ _ off]
  · unfold State.journal
    split
    · exact ((appendRecord_journals s rtype 0 _ _ short).trans (dropRecords_journals _)).bytes a beyond
    · rfl

end

end Sys2Proof.Machine
end

/-! SUPPORT. The scrub, and the end of a job at a reset (R397). -/

section
namespace Sys2Proof.Machine

open Sys2Proof

-- Each default of a relation is a tactic that waits for all earlier declarations: one proof at a time.
set_option Elab.async false

section
variable (s : State)

/-! The scrub (R397) -/

theorem scrub_runs (due : s.rst.scrubHbm = true ∨ s.rst.scrubDdr = true) : exec .scrub s = .next s.zeroOnDie := by
  show execScrub s = _
  rw [execScrub, if_pos (by simpa using due)]

theorem scrubEnd_hbm (due : s.rst.scrubHbm = true) : ∃ t, exec .scrubEnd s = .next t ∧ (∀ a, a < 0x00C000000000 → readByte t.mem a = 0) ∧
    (∀ a, 0x00C000000000 ≤ a → readByte t.mem a = readByte s.mem a) ∧ t.rst = { s.rst with scrubHbm := false } := by
  have ends : exec .scrubEnd s = .next { s.keepMem (fun a => decide (0x00C000000000 ≤ a)) with rst := { s.rst with scrubHbm := false } } := by
    show execScrubEnd s = _
    rw [execScrubEnd, if_pos due]
    rfl
  have kept (a : Nat) := readByte_filter s.mem (fun a => decide (0x00C000000000 ≤ a)) a
  exact ⟨_, ends, fun a low => (kept a).trans (if_neg (by simpa using low)), fun a high => (kept a).trans (if_pos (by simpa using high)), rfl⟩

theorem scrubEnd_ddr (done : s.rst.scrubHbm = false) (due : s.rst.scrubDdr = true) : ∃ t, exec .scrubEnd s = .next t ∧
    (∀ a, 0x100010000000 ≤ a ∧ a < 0x130000000000 → readByte t.mem a = 0) ∧
    (∀ a, ¬(0x100010000000 ≤ a ∧ a < 0x130000000000) → readByte t.mem a = readByte s.mem a) ∧ t.rst = { s.rst with scrubDdr := false } := by
  let keep (a : Nat) : Bool := firmwareRegion a || !(decide (0x100000000000 ≤ a) && decide (a < 0x130000000000))
  have ends : exec .scrubEnd s = .next { s.keepMem keep with rst := { s.rst with scrubDdr := false } } := by
    show execScrubEnd s = _
    rw [execScrubEnd, if_neg (by simp [done]), if_pos due]
    rfl
  have kept (a : Nat) := readByte_filter s.mem keep a
  have keeps (a : Nat) : keep a = true ↔ ¬(0x100010000000 ≤ a ∧ a < 0x130000000000) := by
    simp only [keep, firmwareRegion, Bool.or_eq_true, Bool.and_eq_true, Bool.not_eq_true', Bool.and_eq_false_iff, decide_eq_true_eq, decide_eq_false_iff_not]
    omega
  exact ⟨_, ends, fun a ddr => (kept a).trans (if_neg (by rw [keeps]; exact not_not_intro ddr)), fun a other => (kept a).trans (if_pos ((keeps a).mpr other)), rfl⟩

theorem scrub_done (hbm : s.rst.scrubHbm = false) (ddr : s.rst.scrubDdr = false) : exec .scrub s = .next s ∧ exec .scrubEnd s = .next s := by
  show execScrub s = _ ∧ execScrubEnd s = _
  simp [execScrub, execScrubEnd, hbm, ddr]

/-! The end of a job at a reset (R393, R397) -/

/-- The commands that waited for the job complete. -/
def State.waitersTold (t : State) : State :=
  let hold := t.job.hostMbx.map (fun x => (x.1, x.2.1))
  let t := t.completeAll hold 0x0309 (fun _ => [])
  let t := t.completeAll t.job.resumeMbx 0x0309 (fun _ => [])
  let t := t.completeAll t.job.stopMbx 0 State.stopBody
  if t.save.phase == .armed || t.save.phase == .capturing then
    t.completeAll [(t.save.port, t.save.mbx)] 0x0309 (fun _ => []) else t

theorem waitersTold_completes : Completes s s.waitersTold := by
  have saved (t : State) : Completes t (if t.save.phase == .armed || t.save.phase == .capturing then
      t.completeAll [(t.save.port, t.save.mbx)] 0x0309 (fun _ => []) else t) := by
    split
    · exact completeAll_completes t _ _ _
    · exact Completes.refl t
  exact (completeAll_completes s _ _ _).trans ((completeAll_completes _ _ _ _).trans ((completeAll_completes _ _ _ _).trans (saved _)))

/-- A job's last record (R289). -/
def State.endRecorded (s : State) (cause : Nat) : State :=
  if s.jobRuns then s.journalNow 0x0C (padBody 32 (leBytes 8 s.lastStep ++ [BitVec.ofNat 8 cause])) else s

theorem endRecorded_keeps (cause : Nat) : (s.endRecorded cause).rst = s.rst ∧ (s.endRecorded cause).store = s.store ∧
    ∀ a, Claims.OutsideJournal s a → readByte (s.endRecorded cause).mem a = readByte s.mem a := by
  unfold State.endRecorded
  split
  · have marks := journalNow_marks s 0x0C (padBody 32 (leBytes 8 s.lastStep ++ [BitVec.ofNat 8 cause]))
    exact ⟨marks.rst, marks.store, fun a out => journalNow_outside s 0x0C (by simp [padBody, ceilDiv]) out⟩
  · exact ⟨rfl, rfl, fun _ _ => rfl⟩

/-- The job is gone and its units rest. -/
def State.endClosed (t : State) : State :=
  let u : Save := if t.save.phase == .uploading then t.save else {}
  let t := t.restUnits
  let fresh := { t.job with phase := .none, reported := false, joining := false, lastCommit := none, hostArm := none
                            hostMbx := [], resumeMbx := [], stopMode := none, stopMbx := [] }
  let links := t.links.map (fun x => (x.1, { x.2 with rxSync := none }))
  { t with
    job := fresh, save := u, holds := {}, links := links
    store := { t.store with switchStep := none }
    sheaf := { t.sheaf with running := false, begun := false, atBoundary := false, cut := false, sampled := 0, latched := 0
                            nextSeg := none, awaitSeg := false, heldConsec := 0, heldSince := none, heldCount := 0, heldPaused := 0, refillLeft := 0 }
    fault := { t.fault with recoveryActive := false, refillActive := false, abort := none, deferred := none }
    assay := { t.assay with verdictPending := false, twinPending := false, heard := [], kept := [], refillOwed := false }
    coord := { t.coord with segOpen := false, refill := [], wanted := [], failDue := [], starts := [], nextPlans := [], recoveries := [], digests := []
                            twinResults := [], reports := [], failed := [], failedRelays := [], excluded := [] }
    feed := t.feed.drop
    glean := { t.glean with held := false, replay := { t.glean.replay with active := false, planWait := false } } }

theorem endJob_eq (cause : Nat) (some : s.job.phase ≠ .none) :
    s.endJob cause = if s.jobRuns then (s.endRecorded cause).waitersTold.endClosed.eventAll 12 else (s.endRecorded cause).waitersTold.endClosed := by
  have goes : ¬ (s.job.phase == .none) = true := by simpa using some
  rw [State.endJob, if_neg goes]
  unfold State.endRecorded State.waitersTold State.endClosed
  dsimp only

theorem endClosed_closes : s.endClosed.job.phase = .none ∧ s.endClosed.rst = s.rst ∧ s.endClosed.store.cur = s.store.cur ∧ s.endClosed.mem = s.mem :=
  ⟨rfl, rfl, rfl, rfl⟩

theorem endJob_ends (cause : Nat) : (s.endJob cause).job.phase = .none ∧ (s.endJob cause).rst = s.rst ∧ (s.endJob cause).store.cur = s.store.cur ∧
    ∀ a, Claims.OutsideJournal s a → readByte (s.endJob cause).mem a = readByte s.mem a := by
  by_cases absent : s.job.phase = .none
  · have same : s.endJob cause = s := by rw [State.endJob, if_pos (by rw [absent]; rfl)]
    rw [same]
    exact ⟨absent, rfl, rfl, fun _ _ => rfl⟩
  · rw [endJob_eq s cause absent]
    obtain ⟨rst, store, bytes⟩ := endRecorded_keeps s cause
    generalize s.endRecorded cause = r at rst store bytes ⊢
    have waiters := (waitersTold_completes r).notes
    generalize r.waitersTold = t at waiters ⊢
    obtain ⟨phase, kept, cur, mem⟩ := endClosed_closes t
    generalize t.endClosed = u at phase kept cur mem ⊢
    have told : Notes u (if s.jobRuns then u.eventAll 12 else u) := .ite (eventAll_notes u 12) (Notes.refl u)
    refine ⟨(congrArg Job.phase told.job).trans phase, told.rst.trans (kept.trans (waiters.rst.trans rst)),
      (congrArg PlanStore.cur told.store).trans (cur.trans (congrArg PlanStore.cur (waiters.store.trans store))),
      fun a out => ?_⟩
    rw [told.mem, mem, waiters.mem]
    exact bytes a out

end

end Sys2Proof.Machine
end

/-! SUPPORT. A reset of the job (R393, R397, R398). -/

section
namespace Sys2Proof.Machine

open Sys2Proof

-- Each default of a relation is a tactic that waits for all earlier declarations: one proof at a time.
set_option Elab.async false

/-! A reset of the job (R393, R397, R398) -/

section
variable (s : State)

theorem darkenLink_relinks (l : Nat) : Relinks s (s.darkenLink l) := by
  have grace : Relinks s (if (s.link l).state == .up then s.startGrace l else s) := by
    split
    · exact startGrace_relinks s l
    · exact Relinks.refl s
  exact grace.trans ((onLink_relinks _ l _).trans (leaveParent_relinks _ l))

/-- What a job's reset clears beside the job: units and links. -/
theorem clearJob_units : s.clearJob.job = (s.endJob 2).job ∧ s.clearJob.rst = (s.endJob 2).rst ∧ s.clearJob.store = (s.endJob 2).store ∧
    s.clearJob.mem = (s.endJob 2).zeroOnDie.mem := by
  unfold State.clearJob
  dsimp only
  generalize s.endJob 2 = t
  generalize eq : ({ t.zeroOnDie with
    blocks := t.zeroOnDie.blocks.map (fun (x : Nat × Block) => (x.1, { x.2.afterReset with isolated := false, err := 0, isoDiscards := 0 }))
    stks := t.zeroOnDie.stks.map (fun (x : Nat × Stack) => (x.1, x.2.afterReset))
    nets := [], tokens := [] } : State) = u
  have kept : u.job = t.job ∧ u.rst = t.rst ∧ u.store = t.store ∧ u.mem = t.zeroOnDie.mem := by
    rw [← eq]
    exact ⟨rfl, rfl, rfl, rfl⟩
  obtain ⟨_, _, _, dark⟩ := Relinks.foldl darkenLink_relinks (List.range 56) u
  rw [dark]
  exact kept

/-- A job's reset: no job, the plan stays, the on-die memories are zeroed; elsewhere memory changes in the journal alone. -/
theorem clearJob_clears : s.clearJob.job.phase = .none ∧ s.clearJob.rst = s.rst ∧ s.clearJob.store.cur = s.store.cur ∧
    (∀ a, 0x200000000000 ≤ a → readByte s.clearJob.mem a = 0) ∧
    (∀ a, a < 0x200000000000 → Claims.OutsideJournal s a → readByte s.clearJob.mem a = readByte s.mem a) := by
  obtain ⟨job, rst, store, mem⟩ := clearJob_units s
  obtain ⟨phase, kept, cur, bytes⟩ := endJob_ends s 2
  rw [job, rst, store, mem]
  exact ⟨phase, kept, cur, fun a high => zeroOnDie_high _ high, fun a low out => (zeroOnDie_low _ low).trans (bytes a out)⟩

/-- RESET of the job asserted: it is part of the episode; the mailbox that waits for the exit stays. -/
theorem assertHostJob_rst : (s.assertReset .hostJob).rst.jobMbx = s.rst.jobMbx ∧ .hostJob ∈ (s.assertReset .hostJob).rst.episode ∧
    (s.rst.episode = [] → (s.assertReset .hostJob).rst.episode = [.hostJob]) := by
  unfold State.assertReset
  dsimp only
  generalize eq : ({ s with rst := { s.rst with
    episode := if s.rst.episode.contains .hostJob then s.rst.episode else s.rst.episode ++ [.hostJob]
    active := if ResetSource.hostJob.level && !s.rst.active.contains .hostJob then s.rst.active ++ [.hostJob] else s.rst.active
    latch := setBit (if ResetSource.hostJob.reach = 1 ∧ widest s.rst.episode ≠ 1 then 0 else s.rst.latch) ResetSource.hostJob.bitIx
    episodes := if s.rst.episode.isEmpty then satInc s.rst.episodes else s.rst.episodes
    rstDriven := s.rst.rstDriven || decide (ResetSource.hostJob.reach ≤ 3), recoveryWait := false, sight := none } } : State) = t
  have opened : t.rst.jobMbx = s.rst.jobMbx ∧ .hostJob ∈ t.rst.episode ∧ (s.rst.episode = [] → t.rst.episode = [.hostJob]) := by
    rw [← eq]
    refine ⟨rfl, ?_, fun none => ?_⟩
    · dsimp only
      split
      · next listed => simpa using listed
      · simp
    · dsimp only
      rw [none]
      rfl
  rw [if_neg (fun wide => absurd wide.1 (by decide))]
  split
  · rw [(clearJob_clears t).2.1]
    exact opened
  · exact opened

/-- With no episode open, RESET of the job clears it. -/
theorem assertHostJob_clears (none : s.rst.episode = []) : (s.assertReset .hostJob).job.phase = .none ∧
    (s.assertReset .hostJob).store.cur = s.store.cur ∧ (∀ a, 0x200000000000 ≤ a → readByte (s.assertReset .hostJob).mem a = 0) ∧
    (∀ a, a < 0x200000000000 → Claims.OutsideJournal s a → readByte (s.assertReset .hostJob).mem a = readByte s.mem a) := by
  have clears (r : ResetBlock) : let t : State := { s with rst := r }
      t.clearJob.job.phase = .none ∧ t.clearJob.store.cur = s.store.cur ∧ (∀ a, 0x200000000000 ≤ a → readByte t.clearJob.mem a = 0) ∧
        (∀ a, a < 0x200000000000 → Claims.OutsideJournal s a → readByte t.clearJob.mem a = readByte s.mem a) := by
    obtain ⟨phase, _, cur, high, low⟩ := clearJob_clears { s with rst := r }
    exact ⟨phase, cur, high, low⟩
  unfold State.assertReset
  dsimp only
  rw [if_neg (fun wide => absurd wide.1 (by decide)), if_pos (by rw [none]; decide)]
  exact clears _

end

end Sys2Proof.Machine
end

/-! SUPPORT. RESET (R393), and the exits of an episode with it: O26. -/

section
namespace Sys2Proof.Machine

open Sys2Proof

-- Each default of a relation is a tactic that waits for all earlier declarations: one proof at a time.
set_option Elab.async false

/-! RESET (R393) -/

/-- What the command's start leaves alone before the reset: the reset block, the plan, the journal's place, memory. -/
structure Turns (s t : State) : Prop where
  rst : t.rst = s.rst := by rfl
  store : t.store = s.store := by rfl
  glean : t.glean = s.glean := by rfl
  mem : t.mem = s.mem := by rfl

section
variable {s t u : State}

theorem Turns.trans (h : Turns s t) (k : Turns t u) : Turns s u where
  rst := k.rst.trans h.rst
  store := k.store.trans h.store
  glean := k.glean.trans h.glean
  mem := k.mem.trans h.mem

theorem Notes.turns (h : Notes s t) : Turns s t where
  rst := h.rst
  store := h.store
  glean := h.glean
  mem := h.mem

theorem sendFailing_turns (s : State) : Turns s s.sendFailing := by
  obtain ⟨_, _, _, eq⟩ := sendKept_sends s s.coord.coordKey 0x51 5 (bodyOf [(3, 0), ((s.fault.nextSeq - 1).toNat, 1)])
  rw [State.sendFailing, eq]
  exact {}

/-- A job's RESET up to the reset itself: the coordinator learns, the other commands complete, and the mailbox is kept. -/
def State.resetPrepared (s : State) (p m : Nat) : State :=
  let t := if s.jobRuns then s.sendFailing else s
  let t := (t.running p m).abortOthers (some (p, m))
  { t with rst := { t.rst with jobMbx := some (p, m) } }

theorem resetPrepared_eq (s : State) (p m : Nat) : (s.resetPrepared p m).rst = { s.rst with jobMbx := some (p, m) } ∧
    (s.resetPrepared p m).store = s.store ∧ (s.resetPrepared p m).glean = s.glean ∧ (s.resetPrepared p m).mem = s.mem := by
  unfold State.resetPrepared
  dsimp only
  have told : Turns s (if s.jobRuns then s.sendFailing else s) := by
    split
    · exact sendFailing_turns s
    · exact {}
  generalize (if s.jobRuns then s.sendFailing else s) = t at told ⊢
  have others : Turns (t.running p m) ((t.running p m).abortOthers (some (p, m))) := (completeAll_completes _ _ _ _).notes.turns
  have whole := (told.trans (Turns.trans (t := t.running p m) {} others))
  generalize (t.running p m).abortOthers (some (p, m)) = u at whole ⊢
  exact ⟨by rw [whole.rst], whole.store, whole.glean, whole.mem⟩

variable {p : Fin 4} {m : Fin 8}

/-- A warm reset that the host asked for waits until the next boundary. -/
def State.warmDue (s : State) : State := { s with rst := { s.rst with due := s.rst.due ++ [.hostWarm] } }

/-- RESET as its body says, in the state in which firmware has taken it. -/
def State.resetRun (s : State) (p m : Nat) (k : Mailbox) : State :=
  if k.field 0 1 = 1 then (s.succeed p m []).warmDue
  else if k.field 0 1 = 2 then (s.resetPrepared p m).assertReset .hostJob
  else s.refuse p m 0x0106 0

theorem reset_served (posted : Claims.Posted s p m 0xF0 1 []) (permitted : (s.port p).role = .owner ∨ s.owner = none) :
    exec (.reset p m) s = .next (((Claims.served s p).resetRun p m (s.mbx p m)).sortPort p) := by
  have permission : s.permission p .ownerOrFree = none := by
    rcases permitted with owner | free
    · simp [State.permission, owner]
    · simp [State.permission, free]
  show Host.Outcome.next (s.serve p m { op := 0x00F0, size := 1, permit := .ownerOrFree, relayOk := true } none [] _) = _
  rw [serve_posted (r := { op := 0x00F0, size := 1, permit := .ownerOrFree, relayOk := true }) posted (by decide) (by decide) permission rfl]
  rfl

theorem posted_good (posted : Claims.Posted s p m 0xF0 1 []) {k : Mailbox} (len : k.len = (s.mbx p m).len) : k.badLength = false := by
  obtain ⟨_, _, _, _, _, size, _⟩ := posted
  rw [size] at len
  simp [Mailbox.badLength, len, ceilDiv]

/-- What a completed RESET leaves for the port's sort. -/
structure Taken (s : State) (p : Fin 4) (m : Fin 8) (status : Nat) (t : State) : Prop where
  done : Claims.Done t p m status
  notes : Notes s t
  order : (t.port p).posted = [m.val]
  good : (t.mbx p m).badLength = false

/-- After a completed command the port's sort finds nothing. -/
theorem Taken.sortPort {status : Nat} (h : Taken s p m status t) : t.sortPort p = t :=
  sortPort_taken t p (m := m) h.order (fun state => MbxState.noConfusion (h.done.1.symm.trans state)) h.good

theorem complete_taken (posted : Claims.Posted s p m 0xF0 1 []) (status : Nat) :
    Taken (Claims.served s p) p m status ((Claims.served s p).complete p m status 0 []) := by
  obtain ⟨done, code, len, order⟩ := complete_done (Claims.served s p) p m status 0 []
  obtain ⟨_, ⟨only, _⟩, _⟩ := id posted
  have notes := (complete_completes (Claims.served s p) p m status 0 []).notes
  generalize (Claims.served s p).complete p m status 0 [] = t at done code len order notes ⊢
  exact ⟨⟨done, code⟩, notes, order.trans only, posted_good posted len⟩

theorem Taken.warmDue {status : Nat} (h : Taken s p m status t) : t.warmDue.sortPort p = t.warmDue :=
  sortPort_taken t.warmDue p (m := m) h.order (fun state => MbxState.noConfusion (h.done.1.symm.trans state)) h.good

theorem reset_warm (posted : Claims.Posted s p m 0xF0 1 []) (permitted : (s.port p).role = .owner ∨ s.owner = none)
    (warm : (s.mbx p m).field 0 1 = 1) : ∃ t, exec (.reset p m) s = .next t ∧ Claims.Done t p m 0 ∧
      t.rst = { s.rst with due := s.rst.due ++ [.hostWarm] } ∧ t.job = s.job ∧ t.mem = s.mem := by
  have taken : Taken (Claims.served s p) p m 0 ((Claims.served s p).succeed p m []) := by
    rw [State.succeed]
    exact complete_taken posted 0
  rw [reset_served posted permitted, State.resetRun, if_pos warm, taken.warmDue]
  generalize (Claims.served s p).succeed p m [] = t at taken ⊢
  exact ⟨t.warmDue, rfl, taken.done, by rw [State.warmDue, taken.notes.rst]; rfl, taken.notes.job, taken.notes.mem⟩

theorem reset_invalid (posted : Claims.Posted s p m 0xF0 1 []) (permitted : (s.port p).role = .owner ∨ s.owner = none)
    (first : (s.mbx p m).field 0 1 ≠ 1) (second : (s.mbx p m).field 0 1 ≠ 2) :
    exec (.reset p m) s = .next ((Claims.served s p).refuse p m 0x0106 0) := by
  have taken : Taken (Claims.served s p) p m 0x0106 ((Claims.served s p).refuse p m 0x0106 0) := by
    rw [State.refuse, if_neg (by decide)]
    exact complete_taken posted 0x0106
  rw [reset_served posted permitted, State.resetRun, if_neg first, if_neg second, taken.sortPort]

theorem reset_job (posted : Claims.Posted s p m 0xF0 1 []) (permitted : (s.port p).role = .owner ∨ s.owner = none)
    (kind : (s.mbx p m).field 0 1 = 2) : ∃ t, exec (.reset p m) s = .next t ∧ Notes (((Claims.served s p).resetPrepared p m).assertReset .hostJob) t := by
  refine ⟨_, reset_served posted permitted, ?_⟩
  have run : (Claims.served s p).resetRun p m (s.mbx p m) = ((Claims.served s p).resetPrepared p m).assertReset .hostJob := by
    rw [State.resetRun, if_neg (by rw [kind]; decide), if_pos kind]
  rw [run]
  exact (sortPort_completes _ _).notes

theorem scrubAndReset : Claims.ScrubAndReset := by
  intro s p m
  dsimp only
  refine ⟨fun due => ⟨_, scrub_runs s due, fun a high => zeroOnDie_high s high, fun a low => zeroOnDie_low s low, rfl⟩, scrubEnd_hbm s, scrubEnd_ddr s, scrub_done s,
    fun posted permitted => ⟨reset_warm posted permitted, fun kind none => ?clears, fun kind => ?joins, reset_invalid posted permitted⟩⟩
  all_goals
    obtain ⟨t, runs, told⟩ := reset_job posted permitted kind
    obtain ⟨rst, store, glean, mem⟩ := resetPrepared_eq (Claims.served s p) p m
    generalize (Claims.served s p).resetPrepared p m = u at told rst store glean mem
    obtain ⟨mailbox, joined, alone⟩ := assertHostJob_rst u
    have place : u.rst.jobMbx = some (p.val, m.val) := by rw [rst]
  case clears =>
    have closed : u.rst.episode = [] := by rw [rst]; exact none
    obtain ⟨phase, cur, high, low⟩ := assertHostJob_clears u closed
    refine ⟨t, runs, by rw [told.rst, mailbox, place], by rw [told.rst]; exact alone closed, by rw [told.job]; exact phase,
      by rw [told.store, cur, store]; rfl, fun a on => by rw [told.mem]; exact high a on, fun a off out => ?_⟩
    rw [told.mem, low a off (by rw [Claims.OutsideJournal, glean]; exact out), mem]
    rfl
  case joins => exact ⟨t, runs, by rw [told.rst, mailbox, place], by rw [told.rst]; exact joined⟩

/-- Settles O26: the exits of an episode (`resetExits`); the scrub's filters of memory and the served RESET (`scrubAndReset`). -/
theorem resetExitsAndScrub : Obligations.ResetExitsAndScrub := ⟨resetExits, scrubAndReset⟩

end

end Sys2Proof.Machine
end

/-! SUPPORT. The log's last entry, one region rewritten, and a local error that aborts (R37, R329, R331, R346, R348). -/

section
namespace Sys2Proof.Machine

open Sys2Proof

/-! Entries of low severity (R346, R348) -/

theorem getLast?_onLast {α : Type} (f : α → α) : ∀ l : List α, (onLast f l).getLast? = l.getLast?.map f
  | [] => rfl
  | [_] => rfl
  | x :: y :: l => by
    have later := getLast?_onLast f (y :: l)
    rw [onLast, List.getLast?_cons, List.getLast?_cons, later, List.getLast?_cons]
    · rfl
    · simp

section
variable (s : State)

theorem logNew_last (e : LogEntry) : (s.logNew e).fault.log.getLast? = some e := by
  rw [logNew_fault]
  exact newest_concat _ _ (logCapacity_pos s)

/-- The log ends with an entry of the code just written: a new entry, or one more occurrence of the latest (R346, R348). -/
theorem log_lastCode (a : LogArgs) : ∃ e, (s.log a).fault.log.getLast? = some e ∧ e.code = a.code := by
  unfold State.log
  dsimp only
  split
  · rename_i l latest
    by_cases same : coalesces l (s.logEntry a) = true
    · rw [if_pos same, getLast?_onLast, latest]
      refine ⟨bumpRepeat l, rfl, ?_⟩
      simp only [coalesces, Bool.and_eq_true, beq_iff_eq] at same
      obtain ⟨⟨⟨⟨_, code⟩, _⟩, _⟩, _⟩ := same
      exact code
    · rw [if_neg same]
      exact ⟨_, logNew_last s _, rfl⟩
  · exact ⟨_, logNew_last s _, rfl⟩

/-- An entry of severity 0 or 1 reaches the fault block alone (R348). -/
theorem log_quiet {a : LogArgs} (quiet : a.severity ≤ 1) : s.log a = { s with fault := (s.log a).fault } := by
  have low : (s.logEntry a).severity.toNat ≤ 1 := by
    show (BitVec.ofNat 8 a.severity).toNat ≤ 1
    rw [BitVec.toNat_ofNat]
    omega
  have new : s.logNew (s.logEntry a) = s.appendLog (s.logEntry a) := by
    unfold State.logNew
    dsimp only
    rw [if_neg (by omega), if_neg (by omega)]
  unfold State.log
  dsimp only
  rw [new]
  split
  · split <;> rfl
  · rfl

theorem onRegion_only (r : Nat) (f : Region → Region) : Claims.OnlyRegion s (s.onRegion r f) r (f (s.region r)) :=
  ⟨rfl, region_onRegion_same s r f, fun _ other => region_onRegion_other s f other⟩

end

/-! A local error that aborts (R37, R329, R331) -/

section
variable {s t : State}

theorem Notes.inCommit (h : Notes s t) : t.inCommit = s.inCommit := by
  have span : t.stepLen = s.stepLen ∧ t.commitLen = s.commitLen := by
    rw [State.stepLen, State.commitLen, h.store]
    exact ⟨rfl, rfl⟩
  rw [State.inCommit, State.jobRuns, h.job, h.sheaf, span.1, span.2]
  rfl

theorem Tells.block (h : Tells s t) (b : Nat) : t.block b = s.block b := by rw [State.block, State.block, h.blocks]

theorem Tells.region (h : Tells s t) (r : Nat) : t.region r = s.region r := by rw [State.region, State.region, h.regions]

theorem Notes.relay (h : Notes s t) : t.relay = s.relay := by rw [State.relay, State.relay, h.rst]

/-- A compute module outside commit that meets a cause of ABORT is to abort its step (R37, R331). -/
theorem abortFor_aborts (c : AbortCause) (compute : s.relay = false) (before : s.inCommit = false) :
    (s.abortFor c).fault.abort.isSome = true := by
  simp [State.abortFor, compute, before]

theorem stepError_aborts (a : LogArgs) (compute : s.relay = false) (before : s.inCommit = false) :
    (s.stepError a).fault.abort.isSome = true := by
  have logged := log_notes s { a with action := s.abortAction }
  unfold State.stepError
  exact abortFor_aborts _ (logged.relay.trans compute) (logged.inCommit.trans before)

theorem hardError_aborts (a : LogArgs) (compute : s.relay = false) (before : s.inCommit = false) :
    (s.hardError a).fault.abort.isSome = true := by
  have outside : (s.stepError a).inCommit = false := (stepError_notes s a).inCommit.trans before
  rw [State.hardError, State.commitFault, outside]
  exact stepError_aborts a compute before

end

end Sys2Proof.Machine
end

/-! SUPPORT. Crossings: the token released next, its delivery, and what a bad one does (R72, R79, R116, R142, R413): O41. -/

section
namespace Sys2Proof.Machine

open Sys2Proof

/-! The token that a crossing releases (R72) -/

theorem foldl_earlier_mem (l : List Token) (k : Token) : l.foldl earlier k ∈ k :: l := by
  induction l generalizing k with
  | nil => exact List.mem_singleton_self k
  | cons x l ih =>
    have first : earlier k x = k ∨ earlier k x = x := by
      unfold earlier
      split
      · exact .inr rfl
      · exact .inl rfl
    rcases List.mem_cons.mp (ih (earlier k x)) with here | later
    · rcases first with kept | taken
      · exact List.mem_cons.mpr (.inl (here.trans kept))
      · exact List.mem_cons_of_mem _ (List.mem_cons.mpr (.inl (here.trans taken)))
    · exact List.mem_cons_of_mem _ (List.mem_cons_of_mem _ later)

section
variable {s : State} {src dst : Nat} {k : Token}

/-- The token released next is in the crossing, of its sender and for its receiver, and the receiver has reached its cycle. -/
theorem nextToken_mem (next : s.nextToken src dst = some k) :
    k ∈ s.tokens ∧ k.src = src ∧ k.dst = dst ∧ k.release ≤ s.cyc dst := by
  have member : k ∈ s.tokens.filter (fun t => t.src == src && t.dst == dst && decide (t.release ≤ s.cyc dst)) := by
    unfold State.nextToken at next
    split at next
    · cases next
    · rename_i some
      rw [some, ← Option.some.inj next]
      exact foldl_earlier_mem _ _
  simpa [List.mem_filter, and_assoc] using member

/-- A token released in a receiver that takes it in leaves its crossing and is delivered. -/
theorem release_clocked (clocked : Claims.Clocked s k.dst) :
    s.release k = ({ s with tokens := s.tokens.erase k } : State).deliver k := by
  obtain ⟨active, here⟩ := clocked
  exact if_pos (by rw [active, here]; rfl)

theorem crossingRelease_good {src dst : Fin 33} (next : s.nextToken src dst = some k) (clocked : Claims.Clocked s dst) :
    exec (.crossingRelease src dst true) s = .next (({ s with tokens := s.tokens.erase k } : State).deliver k) := by
  obtain ⟨_, _, receiver, _⟩ := nextToken_mem next
  show execCrossingRelease src dst true s = _
  rw [execCrossingRelease, next]
  exact congrArg Host.Outcome.next (release_clocked (receiver ▸ clocked))

/-- A CRC mismatch at a release as its receiver counts and tells it (R79). -/
def State.badCrc (s : State) (src dst : Fin 33) (k : Token) : State :=
  (s.onRegion dst (fun g => { g with xcrc := satInc g.xcrc, badData := g.badData ++ [(src.val, k.release)] })).hardError
    { code := 0x0204, severity := 2, region := dst, detail := src.val }

theorem badCrc_region (s : State) (src dst : Fin 33) (k : Token) : (s.badCrc src dst k).region dst =
    { s.region dst with xcrc := satInc (s.region dst).xcrc, badData := (s.region dst).badData ++ [(src.val, k.release)] } := by
  have told := hardError_notes (s.onRegion dst (fun g => { g with xcrc := satInc g.xcrc, badData := g.badData ++ [(src.val, k.release)] }))
    { code := 0x0204, severity := 2, region := dst, detail := src.val }
  exact (told.toTells.region dst).trans (region_onRegion_same s dst _)

theorem crossingRelease_bad {src dst : Fin 33} (next : s.nextToken src dst = some k) (clocked : Claims.Clocked s dst) :
    exec (.crossingRelease src dst false) s =
      .next (({ s.badCrc src dst k with tokens := (s.badCrc src dst k).tokens.erase k } : State).deliver k) := by
  obtain ⟨_, _, receiver, _⟩ := nextToken_mem next
  show execCrossingRelease src dst false s = _
  rw [execCrossingRelease, next]
  refine congrArg Host.Outcome.next (release_clocked (s := s.badCrc src dst k) ?_)
  rw [receiver, Claims.Clocked, badCrc_region]
  exact clocked

end

/-! What a token brings (R72, R116, R137, R142) -/

section
variable (s : State) {k : Token}

/-- A move's rows: in the next cycle, at the rank of the move (R116). -/
theorem laterAs_only (b cycle rank : Nat) (a : Act) : s.laterAs b cycle rank a = { s with blocks := (s.laterAs b cycle rank a).blocks } ∧
    (∀ x, x ≠ b → (s.laterAs b cycle rank a).block x = s.block x) ∧
    (s.laterAs b cycle rank a).block b = { s.block b with pend := (s.block b).pend ++ [{ cycle := cycle, rank := rank, act := a }] } :=
  ⟨rfl, fun _ other => block_onBlock_other s _ other, block_onBlock_same s b _⟩

theorem landEgress_plain (a : Nat) (bs : List Byte) (plain : s.debugMode = false) : s.landEgress a bs = s.pokeEgress a bs :=
  if_neg (by rw [plain]; decide)

/-- A landing reaches the region's buffer, and in debug mode the marks of what was written. -/
theorem landEgress_eq (a : Nat) (bs : List Byte) : ∃ n, s.landEgress a bs = { s with egress := writeBytes s.egress a bs, nets := n } := by
  unfold State.landEgress
  dsimp only
  split <;> exact ⟨_, rfl⟩

theorem have_signal_same (g : Groups) (n : Nat) : (g.signal n).have n = g.have n + 1 := by
  rw [Groups.have, Groups.signal, get_put_same]

theorem have_signal_other (g : Groups) {n m : Nat} (h : m ≠ n) : (g.signal n).have m = g.have m := by
  rw [Groups.have, Groups.signal, get_put_other _ _ _ h, Groups.have]

theorem mem_writeIn (w : StackWrite) (l : List StackWrite) : w ∈ writeIn w l := by
  induction l with
  | nil => exact List.mem_singleton_self w
  | cons x l ih =>
    unfold writeIn
    split
    · exact List.mem_cons_of_mem _ ih
    · exact List.mem_cons_self

/-- Without a parity error of a command a write of HBM is told nowhere (R180). -/
theorem writeCheck_sound (sound : ∀ u ∈ s.weak, u.2 ≠ 3) (i a n : Nat) (wide : Bool) (requester line e : Nat) :
    s.writeCheck i a n wide requester line e = s := by
  have none : s.parityUnits a n = [] := by
    have clean : (s.badUnits a n).filter (fun u => u.2 == 3) = [] := List.filter_eq_nil_iff.mpr fun u found => by
      simpa using sound u (List.mem_filter.mp found).1
    rw [State.parityUnits, clean]
    rfl
  rw [State.writeCheck, none]
  rfl

theorem moveHazard_plain (i a n : Nat) (plain : s.debugMode = false) : s.moveHazard i a n = s := by
  simp [State.moveHazard, plain]

theorem bit_setBit_same {n : Nat} (x : BitVec n) (i : Nat) : bit (setBit x i) i = decide (i < n) := by
  rw [bit, setBit, BitVec.getLsbD_or, BitVec.getLsbD_ofNat, Nat.testBit_two_pow_self, Bool.and_true]
  by_cases inside : i < n
  · rw [decide_eq_true inside, Bool.or_true]
  · rw [BitVec.getLsbD_of_ge x i (by omega), Bool.false_or]

/-- An arrival beyond its group's count (R142): the group fails, ARRIVAL_INVALID stands, the step is to abort. -/
theorem badArrival_fails (b g dst : Nat) (compute : s.relay = false) (before : s.inCommit = false) :
    bit ((s.badArrival b g dst).block b).groups.failed g = decide (g < 64) ∧
    bit ((s.badArrival b g dst).block b).err 12 = true ∧
    (s.badArrival b g dst).fault.abort.isSome = true ∧ (s.badArrival b g dst).mem = s.mem := by
  have told := stepError_notes ((s.onBlock b (fun k => { k with groups := k.groups.fail g })).blockErr b 12)
    { code := 0x0130, severity := 2, region := compRegion b, unit := b, detail := bodyOf [(g, 0), (dst, 2)] }
  have block := told.toTells.block b
  rw [State.badArrival, block, State.blockErr, block_onBlock_same, block_onBlock_same]
  exact ⟨bit_setBit_same _ g, bit_setBit_same _ 12, stepError_aborts _ compute before, told.mem⟩

variable {b g a off rank l : Nat} {bs : List Byte}

theorem deliver_rows (payload : k.payload = .rows b off bs rank) (present : (s.block b).isolated = false) :
    s.deliver k = s.laterAs b (k.release + 1) rank (.sram off bs) := by
  rw [State.deliver, payload]
  exact if_neg (by rw [present]; decide)

theorem deliver_rows_isolated (payload : k.payload = .rows b off bs rank) (isolated : (s.block b).isolated = true) :
    s.deliver k = s.turnedAway b k.src := by
  rw [State.deliver, payload]
  exact if_pos isolated

theorem deliver_hbmData (payload : k.payload = .hbmData b off bs rank) (present : (s.block b).isolated = false) :
    s.deliver k = s.laterAs b (k.release + 1) rank (.sram off bs) := by
  rw [State.deliver, payload]
  exact if_neg (by rw [present]; decide)

theorem deliver_signal (payload : k.payload = .signal b g) (present : (s.block b).isolated = false)
    (room : (s.block b).groups.have g < (s.block b).groups.expect g) :
    s.deliver k = s.onBlock b (fun m => { m with groups := m.groups.signal g }) := by
  have unfilled : (s.block b).groups.full g = false := decide_eq_false (Nat.not_le.mpr room)
  rw [State.deliver, payload]
  show s.signalBlock b g k.src = _
  rw [State.signalBlock, present, unfilled]
  rfl

theorem deliver_signal_full (payload : k.payload = .signal b g) (present : (s.block b).isolated = false)
    (full : (s.block b).groups.expect g ≤ (s.block b).groups.have g) : s.deliver k = s.badArrival b g 0 := by
  have closed : (s.block b).groups.full g = true := decide_eq_true full
  rw [State.deliver, payload]
  show s.signalBlock b g k.src = _
  rw [State.signalBlock, present, closed]
  rfl

theorem deliver_egress (payload : k.payload = .egress a bs) : s.deliver k = s.landEgress a bs := by
  rw [State.deliver, payload]

theorem deliver_hbmWrite (payload : k.payload = .hbmWrite b a bs l) (owned : ifaceOk (s.stack (stackOf a)).slices a 2048 k.release = true)
    (sound : ∀ u ∈ s.weak, u.2 ≠ 3) (plain : s.debugMode = false) :
    s.deliver k = s.post (stackOf a) (k.release + 64) a bs (some b) := by
  rw [State.deliver, payload]
  show (if ifaceOk (s.stack (stackOf a)).slices a 2048 k.release then _ else _) = _
  rw [if_pos owned, moveHazard_plain s _ _ _ plain]
  exact writeCheck_sound (s.post _ _ a bs _) sound _ _ _ _ _ _ _

theorem deliver_rota {q : BitVec 16} (payload : k.payload = .rota l q) : s.deliver k =
    s.onLink l (fun m => { m with replay := m.replay.map (fun h => if h.seq = q then { h with crossing := false } else h) }) := by
  rw [State.deliver, payload]

end

/-! The clauses of the statement -/

theorem crossingDelivers : Claims.CrossingDelivers := by
  intro s src dst k next clocked plain left
  have released := crossingRelease_good next clocked
  have runs {t : State} (delivered : ({ s with tokens := left } : State).deliver k = t) : exec (.crossingRelease src dst true) s = .next t :=
    released.trans (congrArg Host.Outcome.next delivered)
  refine ⟨fun b off bs rank payload present => ⟨_, runs (deliver_rows _ payload present), laterAs_only _ b _ _ _⟩,
    fun b g payload present room => ⟨_, runs (deliver_signal _ payload present room), rfl, ?others, ?counted, ?kept, ?only⟩,
    fun a bs payload => ⟨_, runs ((deliver_egress _ payload).trans (landEgress_plain _ a bs plain)), rfl,
      readBytes_writeBytes_same bs s.egress a, fun x outside => readByte_writeBytes_outside bs s.egress a x outside⟩,
    fun b a bs l payload owned sound => ⟨_, runs (deliver_hbmWrite _ payload owned sound plain), rfl, ?posted, ?elsewhere⟩,
    fun b off bs rank payload present => ⟨_, runs (deliver_hbmData _ payload present), laterAs_only _ b _ _ _⟩,
    fun l q payload => ⟨_, runs (deliver_rota _ payload), rfl, ?acknowledged, ?links⟩⟩
  case others => exact fun x other => block_onBlock_other _ _ other
  case counted =>
    rw [block_onBlock_same]
    exact have_signal_same _ g
  case kept =>
    intro h other
    rw [block_onBlock_same]
    exact have_signal_other _ other
  case only => rw [block_onBlock_same]; rfl
  case posted =>
    rw [State.post, stack_onStack_same]
    exact mem_writeIn _ _
  case elsewhere => exact fun x other => stack_onStack_other _ _ other
  case acknowledged =>
    rw [link_onLink_same]
    intro h found named
    obtain ⟨old, _, rfl⟩ := List.mem_map.mp found
    by_cases acknowledged : old.seq = q
    · rw [if_pos acknowledged]
    · rw [if_neg acknowledged] at named
      exact absurd named acknowledged
  case links => exact fun x other => link_onLink_other _ _ other

theorem badCrossingsAbort : Claims.BadCrossingsAbort := by
  intro s src dst k next clocked compute before
  have runs {t : State} (delivered : ({ s with tokens := s.tokens.erase k } : State).deliver k = t) :
      exec (.crossingRelease src dst true) s = .next t :=
    (crossingRelease_good next clocked).trans (congrArg Host.Outcome.next delivered)
  refine ⟨fun b g payload present full => ⟨_, runs (deliver_signal_full _ payload present full), badArrival_fails _ b g 0 compute before⟩,
    fun b off bs rank payload isolated => ⟨_, runs (deliver_rows_isolated _ payload isolated), ?rows⟩,
    fun a bs payload => ⟨_, (crossingRelease_bad next clocked).trans (congrArg Host.Outcome.next (deliver_egress _ payload)), ?crc⟩⟩
  case rows =>
    have told := log_notes ({ s with tokens := s.tokens.erase k } : State) { code := 0x0131, severity := 2, region := k.src, unit := b }
    exact ⟨told.mem, told.blocks, _, log_last _ (show 2 ≤ (BitVec.ofNat 8 2).toNat by decide), rfl⟩
  case crc =>
    have counted := badCrc_region s src dst k
    have aborts : (s.badCrc src dst k).fault.abort.isSome = true := hardError_aborts _ compute before
    have memory : (s.badCrc src dst k).mem = s.mem := (hardError_notes _ _).mem
    generalize s.badCrc src dst k = u at counted aborts memory ⊢
    obtain ⟨n, landed⟩ := landEgress_eq ({ u with tokens := u.tokens.erase k } : State) a bs
    rw [landed]
    have region : (u.region dst).xcrc = satInc (s.region dst).xcrc ∧ (src.val, k.release) ∈ (u.region dst).badData := by
      rw [counted]
      exact ⟨rfl, List.mem_append_right _ (List.mem_singleton_self _)⟩
    exact ⟨region.1, region.2, aborts, readBytes_writeBytes_same bs u.egress a, memory⟩

/-- Settles O41: a crossing's deliveries (`crossingDelivers`), and the bad ones (`badCrossingsAbort`). -/
theorem crossings : Obligations.Crossings := ⟨crossingDelivers, badCrossingsAbort⟩

end Sys2Proof.Machine
end

/-! SUPPORT. The temper history: its samples, its commits, the end of its week (R80, R81, R429). -/

section
namespace Sys2Proof.Machine

open Sys2Proof

-- Each default of a relation is a tactic that waits for all earlier declarations: one proof at a time.
set_option Elab.async false

/-! Folds that meet one unit once -/

/-- A fold over different units, seen from one of them: the units before it and those after it keep what they are bound to keep, and its
own step is taken once between. -/
theorem foldl_once {α σ : Type} {R : σ → σ → Prop} (refl : ∀ s, R s s) (trans : ∀ {s t u}, R s t → R t u → R s u) {f : σ → α → σ} {r : α} {l : List α}
    (others : ∀ t, ∀ x ∈ l, x ≠ r → R t (f t x)) (once : l.Nodup) (found : r ∈ l) (s : σ) : ∃ u, R s u ∧ R (f u r) (l.foldl f s) := by
  have pass (m : List α) (part : m ⊆ l) (apart : r ∉ m) (t : σ) : R t (m.foldl f t) :=
    List.foldlRecOn m f (refl t) fun u kept x inside => trans kept (others u x (part inside) fun same => apart (same ▸ inside))
  obtain ⟨before, after, rfl⟩ := List.append_of_mem found
  obtain ⟨_, tail, apart⟩ := List.nodup_append.mp once
  obtain ⟨absent, _⟩ := List.nodup_cons.mp tail
  refine ⟨before.foldl f s, pass before (List.subset_append_left _ _) (fun inside => apart r inside r List.mem_cons_self rfl) s, ?_⟩
  rw [List.foldl_append, List.foldl_cons]
  exact pass after (fun _ inside => List.mem_append_right _ (List.mem_cons_of_mem _ inside)) absent _

/-! One region's temper record -/

section
variable (s : State)

@[simp] theorem temper_onTemper_same (r : Nat) (f : Temper → Temper) : (s.onTemper r f).temper r = f (s.temper r) := get_upd_same _ _ _ _

theorem temper_onTemper_other {r x : Nat} (f : Temper → Temper) (h : x ≠ r) : (s.onTemper r f).temper x = s.temper x := get_upd_other _ _ f h

/-! Samples (R80) -/

/-- One region's sample, as the command takes it. -/
def State.sampleRegion (s : State) (r : Nat) : State :=
  if (s.region r).active then
    s.onTemper r (fun k => { k with samples := put 0 k.samples (s.region r).margin.toNat (get 0 k.samples (s.region r).margin.toNat + 1) })
  else s

/-- Of the machine only the temper history changes. -/
def TemperOnly (s t : State) : Prop := t = { s with granary := { s.granary with temper := t.granary.temper } }

theorem TemperOnly.trans {s t u : State} (h : TemperOnly s t) (k : TemperOnly t u) : TemperOnly s u := by
  rw [TemperOnly] at h k ⊢
  rw [k, h]

theorem sampleRegion_only (r : Nat) : TemperOnly s (s.sampleRegion r) := by
  unfold State.sampleRegion
  split <;> rfl

theorem sampleRegion_other {r x : Nat} (h : x ≠ r) : (s.sampleRegion r).temper x = s.temper x := by
  unfold State.sampleRegion
  split
  · exact temper_onTemper_other s _ h
  · rfl

/-- A sample adds one to the code of an active region (R80). -/
theorem sampleRegion_counts (r c : Nat) : get 0 ((s.sampleRegion r).temper r).samples c =
    get 0 (s.temper r).samples c + (if (s.region r).active = true ∧ c = (s.region r).margin.toNat then 1 else 0) := by
  unfold State.sampleRegion
  by_cases active : (s.region r).active = true
  · rw [if_pos active, temper_onTemper_same]
    by_cases code : c = (s.region r).margin.toNat
    · rw [if_pos ⟨active, code⟩, code, get_put_same]
    · rw [if_neg (fun both => code both.2), get_put_other _ _ _ code, Nat.add_zero]
  · rw [if_neg active, if_neg (fun both => active both.1), Nat.add_zero]

theorem temperSample_counts {r : Nat} (region : r < 33) (runs : s.jobRuns = true) : ∃ t, exec .temperSample s = .next t ∧
    t = { s with granary := { s.granary with temper := t.granary.temper } } ∧
    (∀ c, get 0 (t.temper r).samples c = get 0 (s.temper r).samples c +
      (if (s.region r).active = true ∧ c = (s.region r).margin.toNat then 1 else 0)) := by
  refine ⟨(List.range 33).foldl State.sampleRegion s, if_pos runs, foldl_related (R := TemperOnly) (fun _ => rfl) TemperOnly.trans sampleRegion_only _ s, fun c => ?_⟩
  obtain ⟨u, ⟨regions, before⟩, after⟩ := foldl_once (R := fun t u => u.regions = t.regions ∧ u.temper r = t.temper r) (fun _ => ⟨rfl, rfl⟩)
    (fun ⟨first, first'⟩ ⟨second, second'⟩ => ⟨Eq.trans second first, Eq.trans second' first'⟩)
    (fun t x _ other => ⟨by rw [sampleRegion_only t x], sampleRegion_other t (Ne.symm other)⟩) List.nodup_range (List.mem_range.mpr region) s
  have same : u.region r = s.region r := by rw [State.region, State.region, regions]
  rw [after.2, sampleRegion_counts, before, same]

/-! Commits of the granary (R421, R434) -/

/-- A commit of a record of MRAM writes that record and counts. -/
theorem committed_eq (ty : Nat) : ∃ m c, s.committed ty = { s with granary := { s.granary with recs := m, commits := c } } := by
  unfold State.committed
  split <;> exact ⟨_, _, rfl⟩

@[simp] theorem committed_temper (ty : Nat) : (s.committed ty).granary.temper = s.granary.temper := by
  obtain ⟨_, _, eq⟩ := committed_eq s ty
  rw [eq]

theorem temperWeekCommit_saves (r : Nat) (mram : s.granary.mram = true) : ∃ t, exec .temperWeekCommit s = .next t ∧
    (t.temper r).samples = (s.temper r).samples ∧ (t.temper r).saved = (s.temper r).samples ∧
    t.granary.commits = satInc s.granary.commits ∧ t = { s with granary := t.granary } := by
  let u : State := { s with granary := { s.granary with
    temper := s.granary.temper.map (fun (x : Nat × Temper) => (x.1, { x.2 with saved := x.2.samples })) } }
  have saved : u.temper r = { s.temper r with saved := (s.temper r).samples } := by
    rcases get_map_entries ({} : Temper) (fun _ k => { k with saved := k.samples }) s.granary.temper r with entry | ⟨absent, blank⟩
    · exact entry
    · exact absent.trans (by rw [State.temper, blank])
  have kept : (u.committed 0x32).temper r = u.temper r := by rw [State.temper, committed_temper, State.temper]
  refine ⟨u.committed 0x32, if_pos mram, ?_, ?_, ?_, ?_⟩
  · rw [kept, saved]
  · rw [kept, saved]
  · rw [State.committed, if_pos (show u.granary.mram = true from mram)]
    rfl
  · obtain ⟨_, _, eq⟩ := committed_eq u 0x32
    rw [eq]

/-! A week's end (R81, R429) -/

@[simp] theorem endOfLife_temper (i : Nat) : (s.endOfLife i).granary.temper = s.granary.temper := by
  unfold State.endOfLife
  dsimp only
  split <;> split <;> simp

@[simp] theorem ownerEvent_granary (i : Nat) : (s.ownerEvent i).granary = s.granary := by
  unfold State.ownerEvent
  split
  · obtain ⟨_, _, _, eq⟩ := event_completes s ‹Nat› i
    rw [eq]
  · rfl

theorem logNew_temper (e : LogEntry) : (s.logNew e).granary.temper = s.granary.temper := by
  unfold State.logNew
  dsimp only
  split <;> split <;> simp [State.appendLog]

@[simp] theorem log_temper (a : LogArgs) : (s.log a).granary.temper = s.granary.temper := by
  unfold State.log
  dsimp only
  split
  · split
    · rfl
    · exact logNew_temper s _
  · exact logNew_temper s _

end

/-- What follows on a region's new week: a step planned, the end of life told; the week's record and what lies outside the history stay. -/
structure Planned (r : Nat) (s t : State) : Prop where
  mem : t.mem = s.mem := by rfl
  blocks : t.blocks = s.blocks := by rfl
  others : ∀ x, x ≠ r → t.temper x = s.temper x := by exact fun _ _ => rfl
  samples : (t.temper r).samples = (s.temper r).samples := by rfl
  steps : (t.temper r).steps = (s.temper r).steps := by rfl
  medians : (t.temper r).medians = (s.temper r).medians := by rfl

section
variable {s t u : State} {r : Nat}

theorem Planned.trans (h : Planned r s t) (k : Planned r t u) : Planned r s u where
  mem := k.mem.trans h.mem
  blocks := k.blocks.trans h.blocks
  others x other := (k.others x other).trans (h.others x other)
  samples := k.samples.trans h.samples
  steps := k.steps.trans h.steps
  medians := k.medians.trans h.medians

theorem Planned.ite {c : Prop} [Decidable c] (h : Planned r s t) (k : Planned r s u) : Planned r s (if c then t else u) := by
  split
  · exact h
  · exact k

theorem Notes.planned (h : Notes s t) (temper : t.granary.temper = s.granary.temper) : Planned r s t := by
  have same (x : Nat) : t.temper x = s.temper x := by rw [State.temper, State.temper, temper]
  exact { mem := h.mem, blocks := h.blocks, others := fun x _ => same x, samples := by rw [same], steps := by rw [same], medians := by rw [same] }

end

section
variable (s : State) (r : Nat)

theorem onRegion_planned (x : Nat) (f : Region → Region) : Planned r s (s.onRegion x f) := {}

theorem onTemper_planned {f : Temper → Temper} (h : ∀ k, (f k).samples = k.samples ∧ (f k).steps = k.steps ∧ (f k).medians = k.medians) :
    Planned r s (s.onTemper r f) := by
  obtain ⟨samples, steps, medians⟩ := h (s.temper r)
  exact { others := fun x other => temper_onTemper_other s f other, samples := by rw [temper_onTemper_same, samples],
          steps := by rw [temper_onTemper_same, steps], medians := by rw [temper_onTemper_same, medians] }

/-- The week that starts: no sample, no saved copy, and a median more where the old one gave it. -/
def newWeek (k : Temper) : Temper :=
  if k.samples.foldl (fun a x => a + x.2) 0 < 1000 then { k with samples := [], saved := [], copied := k.steps }
  else { k with medians := newest 520 (k.medians ++ [medianOf k.samples]), since := k.since + 1, samples := [], saved := [], copied := k.steps }

theorem endWeek_planned : Planned r (s.onTemper r newWeek) (s.endWeek r) := by
  have started : s.onTemper r newWeek = s.onTemper r (fun _ => newWeek (s.temper r)) := rfl
  rw [started, newWeek, State.endWeek]
  dsimp only
  split
  · exact {}
  · generalize s.onTemper r (fun _ => _) = t
    refine .ite {} (.ite ?step (.ite {} ?life))
    case step =>
      refine Planned.trans ?_ ((committed_notes _ 0x31).planned (committed_temper _ _))
      refine Planned.trans (onTemper_planned t r ?_) (onRegion_planned _ r r _)
      exact fun _ => ⟨rfl, rfl, rfl⟩
    case life =>
      refine Planned.trans ?_ (Notes.planned ((committed_notes _ 0x31).trans ((endOfLife_notes _ 0).trans (log_notes _ _))) ?_)
      · refine Planned.trans (onTemper_planned t r ?_) (onRegion_planned _ r r _)
        exact fun _ => ⟨rfl, rfl, rfl⟩
      · rw [log_temper, endOfLife_temper, committed_temper]

/-- The week's end leaves memory, the blocks and the other regions' history (R81). -/
theorem endWeek_keeps : (s.endWeek r).mem = s.mem ∧ (s.endWeek r).blocks = s.blocks ∧ ∀ x, x ≠ r → (s.endWeek r).temper x = s.temper x := by
  have ended := endWeek_planned s r
  exact ⟨ended.mem, ended.blocks, fun x other => (ended.others x other).trans (temper_onTemper_other s _ other)⟩

/-- The new week holds no sample, keeps the steps, and has a median more where the old one had 1,000 samples (R429). -/
theorem endWeek_temper : ((s.endWeek r).temper r).samples = [] ∧ ((s.endWeek r).temper r).steps = (s.temper r).steps ∧
    ((s.temper r).samples.foldl (fun a x => a + x.2) 0 < 1000 → ((s.endWeek r).temper r).medians = (s.temper r).medians) ∧
    (1000 ≤ (s.temper r).samples.foldl (fun a x => a + x.2) 0 →
      ((s.endWeek r).temper r).medians = newest 520 ((s.temper r).medians ++ [medianOf (s.temper r).samples])) := by
  have ended := endWeek_planned s r
  rw [ended.samples, ended.steps, ended.medians, temper_onTemper_same, newWeek]
  refine ⟨?_, ?_, fun few => by rw [if_pos few], fun many => by rw [if_neg (by omega)]⟩
  all_goals split <;> rfl

end

end Sys2Proof.Machine
end

/-! SUPPORT. The granary's updates: what they keep of the granary, the copy that stands after one, and an update run again after a power failure
(R420 to R427): O43. -/

section
namespace Sys2Proof.Machine

open Sys2Proof

-- Each default of a relation is a tactic that waits for all earlier declarations: one proof at a time.
set_option Elab.async false

/-! What an update that succeeds keeps (R421, R433) -/

/-- Updates that succeed, of the records of a list: the devices, the power flag and the temper history stay, no fold is asked for, and every other
record stays. -/
structure Updates (l : List Nat) (s t : State) : Prop where
  nor0 : t.granary.nor0 = s.granary.nor0 := by rfl
  nor1 : t.granary.nor1 = s.granary.nor1 := by rfl
  pfActive : t.granary.pfActive = s.granary.pfActive := by rfl
  temper : t.granary.temper = s.granary.temper := by rfl
  folds : t.granary.foldPending = true → s.granary.foldPending = true := by exact id
  records : ∀ ty, ty ∉ l → t.record ty = s.record ty := by exact fun _ _ => rfl

section
variable {l : List Nat} {s t u : State}

theorem Updates.refl (l : List Nat) (s : State) : Updates l s s := {}

theorem Updates.trans (h : Updates l s t) (k : Updates l t u) : Updates l s u where
  nor0 := k.nor0.trans h.nor0
  nor1 := k.nor1.trans h.nor1
  pfActive := k.pfActive.trans h.pfActive
  temper := k.temper.trans h.temper
  folds pending := h.folds (k.folds pending)
  records ty apart := (k.records ty apart).trans (h.records ty apart)

theorem Updates.mono {m : List Nat} (h : Updates l s t) (more : l ⊆ m) : Updates m s t :=
  { h with records := fun ty apart => h.records ty fun listed => apart (more listed) }

theorem Updates.ite {c : Prop} [Decidable c] (h : Updates l s t) (k : Updates l s u) : Updates l s (if c then t else u) := by
  split
  · exact h
  · exact k

end

@[simp] theorem record_onRecord_same (s : State) (ty : Nat) (f : GranRecord → GranRecord) : (s.onRecord ty f).record ty = f (s.record ty) :=
  get_upd_same _ _ _ _

/-- Of the records one is rewritten: every other is as it was. -/
theorem record_rewritten_other {s t : State} {ty x : Nat} {r : GranRecord} (recs : t.granary.recs = put {} s.granary.recs ty r)
    (h : x ≠ ty) : t.record x = s.record x := by
  rw [State.record, recs, get_put_other _ _ _ h, State.record]

theorem record_rewritten_same {s t : State} {ty : Nat} {r : GranRecord} (recs : t.granary.recs = put {} s.granary.recs ty r) :
    t.record ty = r := by
  rw [State.record, recs, get_put_same]

section
variable {l : List Nat} (s : State) {ty : Nat}

theorem onRecord_updates (listed : ty ∈ l) (f : GranRecord → GranRecord) : Updates l s (s.onRecord ty f) where
  records _ apart := record_rewritten_other rfl fun same => apart (same ▸ listed)

theorem committed_updates (listed : ty ∈ l) : Updates l s (s.committed ty) := by
  unfold State.committed
  exact .ite { records := fun _ apart => record_rewritten_other rfl fun same => apart (same ▸ listed) } (Updates.refl l s)

theorem platform_updates (what : String) (v : Nat) : Updates l s (s.platform what v) := by
  unfold State.platform
  exact .ite {} {}

theorem endOfLife_updates (eol : 0x60 ∈ l) (i : Nat) : Updates l s (s.endOfLife i) := by
  have raised : Updates l s (if bit s.granary.eol i then s else
      ({ s with granary := { s.granary with eol := setBit s.granary.eol i } } : State).committed 0x60) :=
    .ite (Updates.refl l s) (Updates.trans {} (committed_updates _ eol))
  unfold State.endOfLife
  exact .ite raised (raised.trans (Updates.trans {} (platform_updates _ _ _)))

theorem wornOut_updates (eol : 0x60 ∈ l) (ty : Nat) : Updates l s (s.wornOut ty) := .ite (endOfLife_updates s eol 5) (Updates.refl l s)

variable (listed : ty ∈ l) (eol : 0x60 ∈ l) (body : List Byte)
include listed

theorem programOn_updates (second one : Bool) (c : GranCopy) : Updates l s (s.programOn ty second one c) :=
  .ite (onRecord_updates s listed _) (Updates.refl l s)

include eol

theorem noteCommit_updates : Updates l s (s.noteCommit ty body) :=
  Updates.trans { records := fun _ apart => record_rewritten_other rfl fun same => apart (same ▸ listed) } (wornOut_updates _ eol ty)

theorem program_updates : Updates l s (s.program ty body .written) := by
  unfold State.program
  exact .ite (Updates.refl l s) ((programOn_updates s listed _ _ _).trans ((programOn_updates _ listed _ _ _).trans (noteCommit_updates _ listed eol body)))

theorem commitHeld_updates : Updates l s (s.commitHeld ty .written) := by
  unfold State.commitHeld
  split
  · exact (onRecord_updates s listed _).trans (program_updates _ listed eol _)
  · exact Updates.refl l s

theorem updateRecord_updates : Updates l s (s.updateRecord ty body .written) := by
  unfold State.updateRecord
  exact .ite (onRecord_updates s listed _) (.ite { records := fun _ apart => record_rewritten_other rfl fun same => apart (same ▸ listed) } (program_updates s listed eol body))

omit listed

/-- A fold writes the map and the delta (R427). -/
theorem fold_updates (map : 0x10 ∈ l) (delta : 0x11 ∈ l) : Updates l s (s.fold .written) := by
  have done := program_updates s map eol []
  unfold State.fold
  exact .ite (done.trans (Updates.trans { folds := fun pending => absurd pending Bool.false_ne_true } (committed_updates _ delta))) done

end

section
variable (s : State) (ty : Nat)

theorem onRecord_logs (f : GranRecord → GranRecord) : Logs s (s.onRecord ty f) := ⟨_, _, _, _, _, rfl⟩

theorem program_logs (body : List Byte) : Logs s (s.program ty body .written) := by
  unfold State.program
  dsimp only
  split
  · exact Logs.refl s
  · exact (programOn_logs s ty _ _ _).trans ((programOn_logs _ ty _ _ _).trans (noteCommit_logs _ ty body))

theorem commitHeld_logs : Logs s (s.commitHeld ty .written) := by
  unfold State.commitHeld
  split
  · exact (onRecord_logs s ty _).trans (program_logs _ ty _)
  · exact Logs.refl s

theorem fold_logs : Logs s (s.fold .written) := by
  have done := program_logs s 0x10 []
  unfold State.fold
  dsimp only
  split
  · exact done.trans (Logs.trans ⟨_, _, _, _, _, rfl⟩ (committed_logs _ _))
  · exact done

end

/-! The copy that stands (R419, R420, R421) -/

/-- A record with one device's copy of a slot programmed: erased where it is NOR, and the device's failures in a row forgotten. -/
def GranRecord.programmed (r : GranRecord) (second one : Bool) (n : Nat) (c : GranCopy) : GranRecord :=
  let w := (r.write second one (some c)).erased second one n
  if second then { w with failsB := 0 } else { w with failsA := 0 }

/-- Both devices' copies of the older slot programmed with a later generation: a read takes that copy. -/
theorem read_programmed (r : GranRecord) (n : Nat) (c : GranCopy) (later : c.gen = r.newest + 1) :
    ((r.programmed false r.slotOne n c).programmed true r.slotOne n c).read = some c := by
  have bounds : copyGen r.a0 ≤ r.newest ∧ copyGen r.a1 ≤ r.newest ∧ copyGen r.b0 ≤ r.newest ∧ copyGen r.b1 ≤ r.newest := by
    show _ ≤ max (max _ _) (max _ _) ∧ _ ≤ max (max _ _) (max _ _) ∧ _ ≤ max (max _ _) (max _ _) ∧ _ ≤ max (max _ _) (max _ _)
    omega
  obtain ⟨a0, a1, b0, b1⟩ := bounds
  have read (q : GranRecord) (newest : q.newest = c.gen) :
      q.read = [q.a0, q.b0, q.a1, q.b1].findSome? (fun x => if copyGen x = c.gen then x else none) := by
    rw [GranRecord.read, newest, later]
    simp
  have older {x : Option GranCopy} (bound : copyGen x ≤ r.newest) : (if copyGen x = c.gen then x else none) = none := if_neg (by omega)
  have latest : (if copyGen (some c) = c.gen then some c else none) = some c := if_pos rfl
  cases r.slotOne with
  | false =>
    rw [read ((r.programmed false false n c).programmed true false n c) (show max (max c.gen (copyGen r.a1)) (max c.gen (copyGen r.b1)) = c.gen by omega)]
    show [some c, some c, r.a1, r.b1].findSome? _ = _
    rw [List.findSome?_cons, latest]
  | true =>
    rw [read ((r.programmed false true n c).programmed true true n c) (show max (max (copyGen r.a0) c.gen) (max (copyGen r.b0) c.gen) = c.gen by omega)]
    show [r.a0, r.b0, some c, some c].findSome? _ = _
    rw [List.findSome?_cons, older a0, List.findSome?_cons, older b0, List.findSome?_cons, latest]

/-! A record programmed on both NOR devices (R421) -/

section
variable (s : State) {ty : Nat} (body : List Byte)

theorem takes_nor (nor : ty ∈ norRecords) (second : Bool) : s.takes ty second =
    (if second then s.granary.nor1 && !(s.record ty).stopB else s.granary.nor0 && !(s.record ty).stopA) :=
  if_pos (List.contains_iff_mem.mpr nor)

theorem programOn_takes {second one : Bool} {c : GranCopy} (nor : ty ∈ norRecords) (takes : s.takes ty second = true) :
    s.programOn ty second one c = s.onRecord ty (fun r => r.programmed second one 1 c) := by
  rw [State.programOn, if_pos takes, List.contains_iff_mem.mpr nor]
  rfl

theorem noteCommit_record (nor : ty ∈ norRecords) : (s.noteCommit ty body).record ty =
    { s.record ty with recent := norRecords.contains ty && !hourExempt.contains ty, running := none } := by
  have apart : ty ∉ [0x60] := fun listed => absurd (List.mem_singleton.mp listed ▸ nor) (by decide)
  exact ((wornOut_updates (l := [0x60]) _ (List.mem_singleton_self _) ty).records ty apart).trans (record_rewritten_same rfl)

/-- An update that both devices take, as the record stands after it (R421). -/
theorem program_record (nor : ty ∈ norRecords) (nor0 : s.granary.nor0 = true) (nor1 : s.granary.nor1 = true)
    (stopA : (s.record ty).stopA = false) (stopB : (s.record ty).stopB = false) :
    ((s.program ty body .written).record ty).running = none ∧ ((s.program ty body .written).record ty).held = (s.record ty).held ∧
      ((s.program ty body .written).record ty).read.map (·.body) = some body := by
  have first : s.takes ty false = true := by rw [takes_nor s nor]; simp [nor0, stopA]
  have second (f : GranRecord → GranRecord) (kept : (f (s.record ty)).stopB = (s.record ty).stopB) : (s.onRecord ty f).takes ty true = true := by
    rw [takes_nor _ nor, record_onRecord_same, kept, stopB]
    simp [show (s.onRecord ty f).granary.nor1 = true from nor1]
  let c := s.nextCopy (s.record ty) body
  have done : s.program ty body .written = ((s.onRecord ty (fun r => r.programmed false (s.record ty).slotOne 1 c)).onRecord ty
      (fun r => r.programmed true (s.record ty).slotOne 1 c)).noteCommit ty body := by
    rw [State.program, first]
    show ((s.programOn ty false _ c).programOn ty true _ c).noteCommit ty body = _
    rw [programOn_takes s nor first, programOn_takes _ nor (second _ ?kept)]
    cases (s.record ty).slotOne <;> rfl
  rw [done, noteCommit_record _ body nor, record_onRecord_same, record_onRecord_same]
  refine ⟨rfl, ?held, congrArg (Option.map (·.body)) (read_programmed (s.record ty) 1 c rfl)⟩
  cases (s.record ty).slotOne <;> rfl

end

/-! Loss and return of the input power (R423) -/

section
variable (s : State) (ty : Nat)

theorem lasersOff_link (l : Nat) : s.lasersOff.link l = { s.link l with laserOn := false } := by
  rcases get_map_entries ({} : Link) (fun _ k => { k with laserOn := false }) s.links l with entry | ⟨absent, blank⟩
  · exact entry
  · exact absent.trans (by rw [State.link, blank])

theorem powerFail_acts (active : s.granary.pfActive = false) : ∃ t, exec .powerFail s = .next t ∧ t.granary.pfActive = true ∧
    t.granary.powerLosses = satInc s.granary.powerLosses ∧ (∀ l, (t.link l).laserOn = false) ∧
    (∀ l, t.link l = { s.link l with laserOn := false }) ∧ (∀ ty, ty ≠ 0x50 → t.record ty = s.record ty) ∧
    t = { s with granary := t.granary, links := t.links } := by
  let g := s.granary
  let u : State := ({ s with granary := { g with pfActive := true, powerLosses := satInc g.powerLosses } } : State).lasersOff
  have fails : s.powerFails = u.committed 0x50 := if_neg (by rw [active]; decide)
  have others := (committed_updates (l := [0x50]) u (List.mem_singleton_self _)).records
  obtain ⟨m, c, eq⟩ := committed_eq u 0x50
  have lasers (l : Nat) : (u.committed 0x50).link l = { s.link l with laserOn := false } := by
    rw [eq]
    exact lasersOff_link _ l
  refine ⟨u.committed 0x50, congrArg Host.Outcome.next fails, by rw [eq]; rfl, by rw [eq]; rfl, fun l => by rw [lasers], lasers,
    fun ty other => others ty (fun listed => other (List.mem_singleton.mp listed)), by rw [eq]; rfl⟩

/-- The update of a record that the power failure cut short, from its start: a fold as a fold (R422, R423). -/
def State.rerun (s : State) (ty : Nat) : State :=
  match (s.record ty).running with
  | some b =>
    let t := s.onRecord ty (fun r => { r with running := none })
    if ty == 0x10 && t.granary.foldPending then t.fold .written else t.program ty b .written
  | none => s

/-- After a power failure a record's update runs again, and what was queued follows unless the hour holds it back. -/
theorem resumeRecord_eq : s.resumeRecord ty =
    if ((s.rerun ty).record ty).recent then s.rerun ty else (s.rerun ty).commitHeld ty .written := by
  unfold State.resumeRecord State.rerun
  rfl

theorem resumeRecord_updates : Updates [ty, 0x11, 0x60] s (s.resumeRecord ty) := by
  have listed : ty ∈ [ty, 0x11, 0x60] := List.mem_cons_self
  have eol : 0x60 ∈ [ty, 0x11, 0x60] := by simp
  have again : Updates [ty, 0x11, 0x60] s (s.rerun ty) := by
    unfold State.rerun
    split
    · refine (onRecord_updates s listed (fun r => { r with running := none })).trans ?_
      dsimp only
      split
      · rename_i fold
        have map : ty = 0x10 := beq_iff_eq.mp (Bool.and_eq_true_iff.mp fold).1
        exact fold_updates _ eol (map ▸ listed) (by simp)
      · exact program_updates _ listed eol _
    · exact Updates.refl _ s
  rw [resumeRecord_eq]
  exact .ite again (again.trans (commitHeld_updates _ listed eol))

theorem resumeRecord_logs : Logs s (s.resumeRecord ty) := by
  have again : Logs s (s.rerun ty) := by
    unfold State.rerun
    split
    · refine (onRecord_logs s ty (fun r => { r with running := none })).trans ?_
      dsimp only
      split
      · exact fold_logs _
      · exact program_logs _ ty _
    · exact Logs.refl s
  rw [resumeRecord_eq]
  split
  · exact again
  · exact again.trans (commitHeld_logs _ ty)

/-- An update cut short runs again, and its content stands (R423). -/
theorem resumeRecord_runs {ty : Nat} {b : List Byte} (nor : ty ∈ norRecords) (running : (s.record ty).running = some b)
    (held : (s.record ty).held = none) (alone : ty ≠ 0x10 ∨ s.granary.foldPending = false) (nor0 : s.granary.nor0 = true)
    (nor1 : s.granary.nor1 = true) (stopA : (s.record ty).stopA = false) (stopB : (s.record ty).stopB = false) :
    ((s.resumeRecord ty).record ty).running = none ∧ ((s.resumeRecord ty).record ty).read.map (·.body) = some b := by
  let u := s.onRecord ty (fun r => { r with running := none })
  have record : u.record ty = { s.record ty with running := none } := record_onRecord_same s ty _
  have single : (ty == 0x10 && u.granary.foldPending) = false := by
    rcases alone with other | none
    · rw [beq_false_of_ne other, Bool.false_and]
    · rw [show u.granary.foldPending = false from none, Bool.and_false]
  have again : s.rerun ty = u.program ty b .written := by
    rw [State.rerun, running]
    exact if_neg (by rw [single]; decide)
  obtain ⟨done, queued, stands⟩ := program_record u b nor nor0 nor1 (by rw [record, stopA]) (by rw [record, stopB])
  have nothing : (u.program ty b .written).commitHeld ty .written = u.program ty b .written := by
    rw [State.commitHeld, queued, record, held]
  rw [resumeRecord_eq, again, nothing, ite_self]
  exact ⟨done, stands⟩

theorem powerReturn_resumes (active : s.granary.pfActive = true) : ∃ t, exec .powerReturn s = .next t ∧ t.granary.pfActive = false ∧
    (∀ ty ∈ norRecords, ∀ b, (s.record ty).running = some b → (s.record ty).held = none →
      (ty ≠ 0x10 ∨ s.granary.foldPending = false) → s.granary.nor0 = true → s.granary.nor1 = true →
      (∀ x ∈ norRecords, (s.record x).stopA = false ∧ (s.record x).stopB = false ∧ (s.record x).eraseMax + 1 < 80000) →
      (t.record ty).running = none ∧ (t.record ty).read.map (·.body) = some b) ∧ t.mem = s.mem ∧ t.links = s.links := by
  let u : State := { s with granary := { s.granary with pfActive := false } }
  have logged : Logs u (norRecords.foldl State.resumeRecord u) :=
    foldl_related Logs.refl Logs.trans (fun t ty => resumeRecord_logs t ty) norRecords u
  have listed (ty : Nat) (nor : ty ∈ norRecords) : [ty, 0x11, 0x60] ⊆ norRecords ++ [0x11, 0x60]  :=
    List.cons_subset.mpr ⟨List.mem_append_left _ nor, List.subset_append_right _ _⟩
  have kept : Updates (norRecords ++ [0x11, 0x60]) u (norRecords.foldl State.resumeRecord u) :=
    List.foldlRecOn norRecords State.resumeRecord (Updates.refl _ u) fun t sofar ty nor =>
      sofar.trans ((resumeRecord_updates t ty).mono (listed ty nor))
  have rest : (norRecords.foldl State.resumeRecord u).mem = u.mem ∧ (norRecords.foldl State.resumeRecord u).links = u.links := by
    obtain ⟨_, _, _, _, _, eq⟩ := logged
    rw [eq]
    exact ⟨rfl, rfl⟩
  refine ⟨norRecords.foldl State.resumeRecord u, congrArg Host.Outcome.next (if_pos active), kept.pfActive,
    fun ty nor b running held alone nor0 nor1 sound => ?_, rest.1, rest.2⟩
  have apart : ty ∉ norRecords.filter (· != ty) ++ [0x11, 0x60] := fun inside => by
    rcases List.mem_append.mp inside with other | own
    · exact bne_iff_ne.mp (List.mem_filter.mp other).2 rfl
    · exact (show ∀ x ∈ [0x11, 0x60], x ∉ norRecords by decide) ty own nor
  obtain ⟨v, before, after⟩ := foldl_once (R := Updates (norRecords.filter (· != ty) ++ [0x11, 0x60])) (Updates.refl _) Updates.trans
    (fun t x inside other => (resumeRecord_updates t x).mono
      (List.cons_subset.mpr ⟨List.mem_append_left _ (List.mem_filter.mpr ⟨inside, bne_iff_ne.mpr other⟩), List.subset_append_right _ _⟩))
    (show norRecords.Nodup by decide) nor u
  have record := before.records ty apart
  have runs := resumeRecord_runs v (b := b) nor
  rw [record, before.nor0, before.nor1] at runs
  rw [after.records ty apart]
  exact runs running held (alone.imp_right fun none => Bool.eq_false_iff.mpr fun pending => absurd (before.folds pending) (by rw [none]; decide)) nor0 nor1
    (sound ty nor).1 (sound ty nor).2.1

theorem powerLossAndReturn : Claims.PowerLossAndReturn := fun s => ⟨powerFail_acts s, powerReturn_resumes s⟩

/-! The end of the week, committed (R81, R429) -/

theorem temperWeekEnd_starts {r : Nat} (region : r < 33) : ∃ t, exec .temperWeekEnd s = .next t ∧ (t.temper r).samples = [] ∧ (t.temper r).steps = (s.temper r).steps ∧
    ((s.temper r).samples.foldl (fun a x => a + x.2) 0 < 1000 → (t.temper r).medians = (s.temper r).medians) ∧
    (1000 ≤ (s.temper r).samples.foldl (fun a x => a + x.2) 0 →
      (t.temper r).medians = newest 520 ((s.temper r).medians ++ [medianOf (s.temper r).samples])) ∧ t.mem = s.mem ∧ t.blocks = s.blocks := by
  obtain ⟨u, before, after⟩ := foldl_once (R := fun s t => t.temper r = s.temper r) (fun _ => rfl) (fun h k => by exact Eq.trans k h)
    (fun t x _ other => (endWeek_keeps t x).2.2 r (Ne.symm other)) List.nodup_range (List.mem_range.mpr region) s
  have untouched : ((List.range 33).foldl State.endWeek s).mem = s.mem ∧ ((List.range 33).foldl State.endWeek s).blocks = s.blocks :=
    foldl_related (R := fun s t => t.mem = s.mem ∧ t.blocks = s.blocks) (fun _ => ⟨rfl, rfl⟩) (fun ⟨h, h'⟩ ⟨k, k'⟩ => ⟨Eq.trans k h, Eq.trans k' h'⟩)
      (fun t x => ⟨(endWeek_keeps t x).1, (endWeek_keeps t x).2.1⟩) _ s
  refine ⟨(((List.range 33).foldl State.endWeek s).updateRecord 0x30 [] .written).committed 0x32, rfl, ?_⟩
  generalize (List.range 33).foldl State.endWeek s = w at after untouched ⊢
  have updated := updateRecord_updates (l := [0x30, 0x60]) w (ty := 0x30) (by decide) (by decide) []
  have told := (updateRecord_notes w 0x30 [] .written).trans (committed_notes _ 0x32)
  have history : ((w.updateRecord 0x30 [] .written).committed 0x32).temper r = (u.endWeek r).temper r := by
    rw [← after, State.temper, State.temper, committed_temper, updated.temper]
  have ended := endWeek_temper u r
  rw [history, ← before]
  obtain ⟨samples, steps, few, many⟩ := ended
  exact ⟨samples, steps, few, many, told.mem.trans untouched.1, told.blocks.trans untouched.2⟩

theorem temperHistory : Claims.TemperHistory := fun s _ region =>
  ⟨temperSample_counts s region, temperWeekCommit_saves s _, temperWeekEnd_starts s region⟩

/-- Settles O43: the temper history (`temperHistory`), and the loss and return of the input power (`powerLossAndReturn`). -/
theorem temperAndPowerLoss : Obligations.TemperAndPowerLoss := ⟨temperHistory, powerLossAndReturn⟩

end

end Sys2Proof.Machine
end

/-! SUPPORT. The work of blocks and stacks in a period: the regions, the sheaf, the job and its plan stay (R64, R122 to R180). -/

section
namespace Sys2Proof.Machine

open Sys2Proof

-- Each default of a relation is a tactic that waits for all earlier declarations: one proof at a time.
set_option Elab.async false

/-- The work of units: it reaches neither the regions' records nor the course of the job. -/
structure UnitWork (s t : State) : Prop where
  regions : t.regions = s.regions := by rfl
  sheaf : t.sheaf = s.sheaf := by rfl
  job : t.job = s.job := by rfl
  store : t.store = s.store := by rfl
  rst : t.rst = s.rst := by rfl

section
variable {s t u : State}

theorem UnitWork.refl (s : State) : UnitWork s s := {}

theorem UnitWork.trans (h : UnitWork s t) (k : UnitWork t u) : UnitWork s u where
  regions := k.regions.trans h.regions
  sheaf := k.sheaf.trans h.sheaf
  job := k.job.trans h.job
  store := k.store.trans h.store
  rst := k.rst.trans h.rst

theorem UnitWork.ite {c : Prop} [Decidable c] (h : UnitWork s t) (k : UnitWork s u) : UnitWork s (if c then t else u) := by
  split
  · exact h
  · exact k

theorem UnitWork.foldl {α : Type} {f : State → α → State} (h : ∀ t x, UnitWork t (f t x)) (l : List α) (s : State) : UnitWork s (l.foldl f s) :=
  foldl_related UnitWork.refl UnitWork.trans h l s

/-- A local error is such work. -/
theorem Errs.unitWork (h : Errs s t) : UnitWork s t := by
  obtain ⟨_, _, _, _, _, _, _, _, _, _, _, _, _, rfl⟩ := h
  exact {}

theorem Rests.unitWork (h : Rests s t) : UnitWork s t where
  regions := h.regions
  sheaf := h.sheaf
  job := h.job
  store := h.store
  rst := h.rst

end

section
variable (s : State)

theorem onBlock_unitWork (b : Nat) (f : Block → Block) : UnitWork s (s.onBlock b f) := {}
theorem onStack_unitWork (i : Nat) (f : Stack → Stack) : UnitWork s (s.onStack i f) := {}
theorem poke_unitWork (a : Nat) (bs : List Byte) : UnitWork s (s.poke a bs) := {}

/-! Blocks (R72, R116, R117, R140) -/

theorem crossingMisuse_unitWork (k : Token) : UnitWork s (s.crossingMisuse k) := by
  have net (n kind addr : Nat) : UnitWork s (s.netHazard n kind addr) := by
    unfold State.netHazard
    exact .ite (UnitWork.trans {} (hazardAt_errs _ _ _ _ _ _ _).unitWork) (UnitWork.refl s)
  unfold State.crossingMisuse
  split
  case h_1 | h_2 | h_3 => exact (blockHazard_errs s _ _ _).unitWork
  case h_4 | h_5 => exact net _ _ _
  case h_6 | h_7 => exact (stackHazard_errs s _ _ _).unitWork

theorem token_unitWork (k : Token) : UnitWork s (s.token k) := .ite {} (crossingMisuse_unitWork s k)

theorem landOne_unitWork (b ready : Nat) (x : Arrival) : UnitWork s (s.landOne b ready x) := by
  have checked : UnitWork s (if x.loose then s.sramCheck b x.place x.bytes.length else s) := .ite (sramCheck_errs s _ _ _).unitWork (UnitWork.refl s)
  exact checked.trans ((onBlock_unitWork _ b _).trans (poke_unitWork _ _ _))

theorem landArrivals_unitWork (b ready : Nat) : UnitWork s (s.landArrivals b ready) :=
  (onBlock_unitWork s b _).trans (UnitWork.foldl (fun t x => landOne_unitWork t b ready x) _ _)

theorem cellError_unitWork (b pc : Nat) (parity residue rounder : Bool) : UnitWork s (s.cellError b pc parity residue rounder) := by
  unfold State.cellError
  dsimp only
  split
  · exact UnitWork.refl s
  · exact (UnitWork.foldl (fun t i => (blockErr_errs t b i).unitWork) _ _).trans ((onBlock_unitWork _ b _).trans (hardError_errs _ _).unitWork)

theorem finishChunks_unitWork (b : Nat) (cells : Nat → Bool) (cycle : Nat) : UnitWork s (s.finishChunks b cells cycle) :=
  UnitWork.foldl (fun t _ => (onBlock_unitWork t b _).trans (cellError_unitWork _ b _ _ _ _)) _ s

theorem rowCheck_unitWork (b off : Nat) (refused : Bool) : UnitWork s (s.rowCheck b off refused) :=
  .ite (UnitWork.refl s) (sramCheck_errs s _ _ _).unitWork

theorem perform_unitWork (b : Nat) (d : Due) : UnitWork s (s.perform b d) := by
  have sent (off : Nat) (refused : Bool) (k : Token) : UnitWork s ((s.rowCheck b off refused).token k) :=
    (rowCheck_unitWork s b off refused).trans (token_unitWork _ k)
  unfold State.perform
  split
  case h_1 | h_2 | h_4 => exact onBlock_unitWork s b _
  case h_3 => exact poke_unitWork s _ _
  case h_5 => exact (rowCheck_unitWork s b _ _).trans (onBlock_unitWork _ b _)
  case h_6 => exact .ite (UnitWork.refl s) (sent _ _ _)
  case h_7 | h_8 => exact sent _ _ _

theorem settle_unitWork (b : Nat) {between : State → State} (h : ∀ t, UnitWork t (between t)) : UnitWork s (s.settle b between) := by
  have performed (l : List Due) (t : State) : UnitWork t (l.foldl (fun t d => t.perform b d) t) := UnitWork.foldl (fun t d => perform_unitWork t b d) l t
  exact (onBlock_unitWork s b _).trans ((performed _ _).trans ((h _).trans (performed _ _)))

/-! Stacks (R155 to R180) -/

theorem engineRead_unitWork (i e line : Nat) (pl : Option Nat) (n cycle : Nat) : UnitWork s (s.engineRead i e line pl n cycle).1 := by
  unfold State.engineRead
  split
  · exact UnitWork.refl s
  · rw [apply_ite Prod.fst, apply_ite Prod.fst]
    exact .ite (.ite ((moveHazard_errs s _ _ _).trans (stackCheck_errs _ _ _ _ _ _ _ _)).unitWork
      ((stackHazard_errs s _ _ _).trans (stackFault_errs _ _ _ _ _)).unitWork)
      ((stagingHazard_errs s _ _ _ _).trans (stackCheck_errs _ _ _ _ _ _ _ _)).unitWork

theorem engineWrite_unitWork (i e line ar : Nat) (pl : Option Nat) (bs : List Byte) (v : Nat) : UnitWork s (s.engineWrite i e line ar pl bs v) := by
  have posted (t : State) (w a : Nat) : UnitWork t (t.post i w a bs) := onStack_unitWork t i _
  unfold State.engineWrite
  split
  · exact UnitWork.refl s
  · exact .ite (.ite ((moveHazard_errs s _ _ _).unitWork.trans ((posted _ _ _).trans (writeCheck_errs _ _ _ _ _ _ _ _).unitWork)) (onStack_unitWork s i _))
      (.ite (token_unitWork s _) ((stageHazard_errs s _ _ _).unitWork.trans ((posted _ _ _).trans (.ite (onStack_unitWork _ i _) (UnitWork.refl _)))))

theorem groupReads_unitWork (i e : Nat) (r : StackRun) (l : List Source) : UnitWork s (s.groupReads i e r l).1 := by
  induction l generalizing s with
  | nil => exact UnitWork.refl s
  | cons x l ih => exact UnitWork.trans (engineRead_unitWork s _ _ _ _ _ _) (ih _)

theorem groupWrite_unitWork (i : Nat) (r : StackRun) (x : EngineRun) (vals : List (List Word32)) (d : Dest) :
    UnitWork s (s.groupWrite i r x vals d).1 := by
  have written := engineWrite_unitWork s i x.engine r.line
  exact .ite ((written _ _ _ _).trans (engineWrite_unitWork _ _ _ _ _ _ _ _)) (written _ _ _ _)

theorem groupWrites_unitWork (i : Nat) (r : StackRun) (x : EngineRun) (vals : List (List Word32)) (l : List Dest) :
    UnitWork s (s.groupWrites i r x vals l).1 := by
  induction l generalizing s x with
  | nil => exact UnitWork.refl s
  | cons d l ih => exact UnitWork.trans (groupWrite_unitWork s i r x vals d) (ih _ _)

theorem gatherRow_unitWork (i : Nat) (r : StackRun) (x : EngineRun) : UnitWork s (s.gatherRow i r x).1 := by
  have read (line : Nat) (pl : Option Nat) (n cycle : Nat) := engineRead_unitWork s i x.engine line pl n cycle
  unfold State.gatherRow
  refine UnitWork.trans ?row (engineWrite_unitWork _ _ _ _ _ _ _ _)
  case row =>
    rw [apply_ite Prod.fst, apply_ite Prod.fst]
    exact (read _ _ _ _).trans (.ite (stackFault_errs _ _ _ _ _).unitWork
      (.ite (engineRead_unitWork _ _ _ _ _ _ _) ((stackHazard_errs _ _ _ _).trans (stackFault_errs _ _ _ _ _)).unitWork))

theorem engineGroup_unitWork (i : Nat) (r : StackRun) (x : EngineRun) : UnitWork s (s.engineGroup i r x).1 := by
  unfold State.engineGroup
  rw [apply_ite Prod.fst]
  exact .ite (gatherRow_unitWork s i r x) ((groupReads_unitWork s _ _ _ _).trans (groupWrites_unitWork _ _ _ _ _ _))

theorem enginesGroup_unitWork (i : Nat) (r : StackRun) (l : List EngineRun) : UnitWork s (s.enginesGroup i r l).1 := by
  induction l generalizing s with
  | nil => exact UnitWork.refl s
  | cons x l ih => exact (engineGroup_unitWork s i r x).trans (ih _)

theorem engineEnd_unitWork (i : Nat) (r : StackRun) (x : EngineRun) : UnitWork s (s.engineEnd i r x) := by
  have norms : UnitWork s (if r.code = 0x16 then s.partialNorms i r x else s) := .ite (engineWrite_unitWork s _ _ _ _ _ _ _) (UnitWork.refl s)
  unfold State.engineEnd
  exact .ite (norms.trans (onStack_unitWork _ i _)) norms

theorem advanceRun_unitWork (i cycle : Nat) (r : StackRun) : UnitWork s (s.advanceRun i cycle r).1 := by
  have group := enginesGroup_unitWork s i r r.engines
  unfold State.advanceRun
  rw [apply_ite Prod.fst, apply_ite Prod.fst, apply_ite Prod.fst]
  exact .ite (UnitWork.refl s) (.ite (UnitWork.refl s) (.ite group (group.trans (UnitWork.foldl (fun t x => engineEnd_unitWork t i _ x) _ _))))

theorem advanceRuns_unitWork (i cycle : Nat) (l : List StackRun) : UnitWork s (s.advanceRuns i cycle l).1 := by
  induction l generalizing s with
  | nil => exact UnitWork.refl s
  | cons r l ih => exact UnitWork.trans (advanceRun_unitWork s i cycle r) (ih _)

theorem retireWrites_unitWork (i cycle : Nat) : UnitWork s (s.retireWrites i cycle) :=
  (UnitWork.foldl (fun t _ => poke_unitWork t _ _) _ s).trans (onStack_unitWork _ i _)

theorem landStaged_unitWork (i ready : Nat) : UnitWork s (s.landStaged i ready) :=
  (onStack_unitWork s i _).trans (UnitWork.foldl (fun t _ => (onStack_unitWork t i _).trans (poke_unitWork _ _ _)) _ _)

theorem raiseSlips_unitWork (i cycle : Nat) : UnitWork s (s.raiseSlips i cycle) :=
  (onStack_unitWork s i _).trans (UnitWork.foldl (fun t _ => ((stackHazard_errs t _ _ _).trans (stackFault_errs _ _ _ _ _)).unitWork) _ _)

theorem sendParam_unitWork : UnitWork s s.sendParam := by
  unfold State.sendParam
  exact .ite (.ite {} (UnitWork.trans {} (sendKept_tells _ _ _ _ _).toRests.unitWork)) (UnitWork.refl s)

theorem finishDigest_unitWork (i : Nat) : UnitWork s (s.finishDigest i) :=
  .ite ((onStack_unitWork s i _).trans (sendParam_unitWork _)) (UnitWork.refl s)

theorem stackCycle_unitWork (i : Nat) : UnitWork s (s.stackCycle i) :=
  (((retireWrites_unitWork s i _).trans ((landStaged_unitWork _ i _).trans (raiseSlips_unitWork _ i _))).trans
    (advanceRuns_unitWork _ i _ _)).trans ((onStack_unitWork _ i _).trans (finishDigest_unitWork _ i))

end

end Sys2Proof.Machine
end

/-! SUPPORT. A region's clock: its margin, its holds, its period (R66 to R70, R76, R77): O40. -/

section
namespace Sys2Proof.Machine

open Sys2Proof

/-! The clock under its units' work -/

/-- A region but for what its units tell it: why its plan's steps stop, and whether its part is done. -/
def Region.steady (g : Region) : Region := { g with stall := none, done := false }

/-- Of the regions' records only what the units tell changes. -/
def SameClocks (s t : State) : Prop := ∀ x, (t.region x).steady = (s.region x).steady

section
variable {s t u : State}

theorem SameClocks.refl (s : State) : SameClocks s s := fun _ => rfl

theorem SameClocks.trans (h : SameClocks s t) (k : SameClocks t u) : SameClocks s u := fun x => (k x).trans (h x)

theorem SameClocks.ite {c : Prop} [Decidable c] (h : SameClocks s t) (k : SameClocks s u) : SameClocks s (if c then t else u) := by
  split
  · exact h
  · exact k

theorem UnitWork.sameClocks (h : UnitWork s t) : SameClocks s t := fun x => by rw [State.region, h.regions, State.region]

end

section
variable (s : State)

theorem onBlock_sameClocks (b : Nat) (f : Block → Block) : SameClocks s (s.onBlock b f) := (onBlock_unitWork s b f).sameClocks
theorem onStack_sameClocks (i : Nat) (f : Stack → Stack) : SameClocks s (s.onStack i f) := (onStack_unitWork s i f).sameClocks

theorem onRegion_sameClocks (r : Nat) {f : Region → Region} (h : ∀ g, (f g).steady = g.steady) : SameClocks s (s.onRegion r f) := fun x => by
  by_cases same : x = r
  · rw [same, region_onRegion_same, h]
  · rw [region_onRegion_other s f same]

theorem restall_sameClocks (r : Nat) : SameClocks s (s.restall r) := onRegion_sameClocks s r fun _ => rfl

theorem beginBundle_sameClocks (b : Nat) : SameClocks s (s.beginBundle b) := by
  have illegal (t : State) : SameClocks t (t.illegalBundle b) := (illegalBundle_errs t b).unitWork.sameClocks
  have issued (f : Block → Block) (off : Nat) : SameClocks s ((s.onBlock b f).sramCorrect b off 32) :=
    (onBlock_sameClocks s b f).trans (sramCorrect_errs _ b off 32).unitWork.sameClocks
  unfold State.beginBundle
  exact .ite (SameClocks.refl s) (.ite ((illegal s).trans (onBlock_sameClocks _ b _))
    (.ite ((onBlock_sameClocks s b _).trans (restall_sameClocks _ _)) (.ite (issued _ _) ((issued _ _).trans (illegal _)))))

theorem beginWord_sameClocks (i : Nat) : SameClocks s (s.beginWord i) := by
  have illegal (t : State) (e : Nat) : SameClocks t (t.illegalStack i e) := (illegalStack_errs t i e).unitWork.sameClocks
  unfold State.beginWord
  exact .ite (SameClocks.refl s) (.ite ((illegal s 0).trans (onStack_sameClocks _ i _))
    (.ite ((onStack_sameClocks s i _).trans (restall_sameClocks _ _))
      (.ite ((onStack_sameClocks s i _).trans (illegal _ _)) (onStack_sameClocks s i _))))

theorem blockCycleOn_sameClocks (b : Nat) : SameClocks s (s.blockCycleOn b) := by
  have cycled : UnitWork s ((((s.finishChunks b (fun _ => true) (s.blockCycle b)).onBlock b (fun k => { k with
      groups := k.groups.settle
      seq := if k.isolated || k.frozen then k.seq else k.seq.cycle })).settle b (fun t => t.landArrivals b (t.blockCycle b)))) :=
    (finishChunks_unitWork s b _ _).trans ((onBlock_unitWork _ b _).trans (settle_unitWork _ b fun t => landArrivals_unitWork t b _))
  unfold State.blockCycleOn
  exact .ite (.ite (cycled.sameClocks.trans (beginBundle_sameClocks _ b)) cycled.sameClocks) (SameClocks.refl s)

theorem stackCycleOn_sameClocks (i : Nat) : SameClocks s (s.stackCycleOn i) := by
  have cycled (f : Stack → Stack) : SameClocks s ((s.onStack i f).stackCycle i) := ((onStack_unitWork s i f).trans (stackCycle_unitWork _ i)).sameClocks
  unfold State.stackCycleOn
  exact .ite (.ite ((cycled _).trans (beginWord_sameClocks _ i)) (cycled _)) (onStack_sameClocks s i _)

theorem netCycleOn_sameClocks (n : Nat) : SameClocks s (s.netCycleOn n) := onRegion_sameClocks s _ fun _ => rfl

/-- The work of a region's units in a cycle leaves every clock alone. -/
theorem regionCycle_sameClocks (r : Nat) : SameClocks (s.onRegion r (fun g => { g with cycle := g.cycle + 1 })) (s.regionCycle r) := by
  unfold State.regionCycle
  exact .ite (foldl_related SameClocks.refl SameClocks.trans (fun t j => blockCycleOn_sameClocks t _) _ _)
    (.ite (netCycleOn_sameClocks _ _) (.ite (stackCycleOn_sameClocks _ _) (SameClocks.refl _)))

/-! A period in which the clock runs (R68) -/

/-- The next cycle; after a warning the period lasts half a period longer and counts in STRETCHES. -/
theorem runPeriod_region (r : Nat) (warned : Bool) : ((s.runPeriod r warned).region r).steady =
    Region.steady { s.region r with
      cycle := (s.region r).cycle + 1
      stretches := if warned then satInc (s.region r).stretches else (s.region r).stretches
      lag := (s.region r).lag + (if warned then 32768 else 0) } := by
  cases warned
  all_goals
    refine (regionCycle_sameClocks _ r r).trans ?_
    rw [region_onRegion_same]
  case false => rfl
  case true =>
    rw [if_pos rfl, region_onRegion_same]
    rfl

theorem runPeriod_clock (r : Nat) (warned : Bool) : ((s.runPeriod r warned).region r).cycle = (s.region r).cycle + 1 ∧
    ((s.runPeriod r warned).region r).stretches = (if warned then satInc (s.region r).stretches else (s.region r).stretches) ∧
    ((s.runPeriod r warned).region r).lag = (s.region r).lag + (if warned then 32768 else 0) := by
  have period := runPeriod_region s r warned
  exact ⟨congrArg Region.cycle period, congrArg Region.stretches period, congrArg Region.lag period⟩

/-! Margin codes (R66, R84) -/

/-- A region's record with a margin code as it is stored. -/
def Region.measure (g : Region) (code : BitVec 6) : Region :=
  { g with
    margin := code
    least := if g.measured && decide (g.least.toNat ≤ code.toNat) then g.least else code
    measured := true
    marginLow := g.marginLow || decide (code.toNat < 8) }

theorem marginMeasure_active (r : Fin 33) (code : BitVec 6) (active : (s.region r).active = true) : exec (.marginMeasure r code) s =
    .next (if code.toNat < 8 then (s.onRegion r (·.measure code)).log { code := 0x0201, severity := 0, region := r, action := 1, detail := code.toNat }
      else s.onRegion r (·.measure code)) := if_pos active

end

theorem marginMeasured : Claims.MarginMeasured := by
  intro s r code active
  have measured : (s.region r).measure code = { s.region r with
      margin := code, measured := true, marginLow := (s.region r).marginLow || decide (code.toNat < 8)
      least := if (s.region r).measured = true ∧ (s.region r).least.toNat ≤ code.toNat then (s.region r).least else code } := by
    simp [Region.measure]
  obtain ⟨stored, here, others⟩ := onRegion_only s r (·.measure code)
  rw [← measured, marginMeasure_active s r code active]
  generalize s.onRegion r (·.measure code) = t at stored here others ⊢
  by_cases low : code.toNat < 8
  · rw [if_pos low]
    have quiet := log_quiet t (a := { code := 0x0201, severity := 0, region := r, action := 1, detail := code.toNat }) (Nat.zero_le 1)
    have last := log_lastCode t { code := 0x0201, severity := 0, region := r, action := 1, detail := code.toNat }
    generalize t.log _ = u at quiet last ⊢
    refine ⟨u, rfl, by rw [quiet, stored], by rw [quiet]; exact here, fun x other => by rw [quiet]; exact others x other,
      fun high => absurd low (by omega), fun _ => last⟩
  · rw [if_neg low]
    exact ⟨t, rfl, by rw [stored], here, others, fun _ => by rw [stored], fun below => absurd below low⟩

/-! Droop warnings and holds (R68, R69, R76, R77) -/

theorem droopAndHolds : Claims.DroopAndHolds := by
  intro s r held active g held'
  have time : heldTime r held = held' := rfl
  refine ⟨fun follows => ⟨s.onRegion r (fun g => { g with warned := true }), ?warned, onRegion_only s r _⟩, ?stretched, ?plain, fun fixed => ?counted,
    ⟨s.onRegion r (fun g => { g with
      xhold := satAdd g.xhold ((g.xrem + held') / 65536), xrem := (g.xrem + held') % 65536, holdLeft := g.holdLeft + held' }), if_pos active, onRegion_only s r _⟩,
    ⟨s.onRegion r (fun g => { g with
      leadHold := satAdd g.leadHold ((g.lrem + held') / 65536), lrem := (g.lrem + held') % 65536, holdLeft := g.holdLeft + held' }), if_pos active, onRegion_only s r _⟩⟩
  case warned =>
    show execDroopWarning r s = _
    rw [execDroopWarning, active, follows]
    rfl
  case stretched => exact runPeriod_clock s r true
  case plain => exact runPeriod_clock s r false
  case counted =>
    let u := s.onRegion r (fun g => { g with netDroop := satInc g.netDroop })
    let a : LogArgs := { code := 0x0205, severity := 0, region := r, action := 1 }
    have quiet := log_quiet u (a := a) (Nat.zero_le 1)
    refine ⟨u.log a, ?runs, by rw [quiet]; rfl, ((log_notes u a).toTells.region r).trans ?record, log_lastCode u a⟩
    case record => exact region_onRegion_same s r (fun g => { g with netDroop := satInc g.netDroop })
    case runs =>
      show execDroopWarning r s = _
      rw [execDroopWarning, active, fixed]
      rfl

/-- Settles O40: margin codes (`marginMeasured`), and droop warnings, periods and holds (`droopAndHolds`). -/
theorem regionClocks : Obligations.RegionClocks := ⟨marginMeasured, droopAndHolds⟩

end Sys2Proof.Machine
end

/-! SUPPORT. The exact sums of an INT8 chunk (R86, R87, R90, R98): O3. -/

section
namespace Sys2Proof.Machine

open Sys2Proof

/-! Lists of lists of one length -/

/-- Place `n * i + j` of rows of length `n` laid end to end is place j of row i (R113). -/
theorem getElem?_flatMap_rows {α β : Type} {f : α → List β} {n j : Nat} (inside : j < n) :
    ∀ {l : List α}, (∀ x ∈ l, (f x).length = n) → ∀ i, (l.flatMap f)[n * i + j]? = l[i]?.bind fun x => (f x)[j]?
  | [], _, _ => rfl
  | x :: l, rows, i => by
    have first : (f x).length = n := rows x List.mem_cons_self
    have later := getElem?_flatMap_rows inside (l := l) fun y found => rows y (List.mem_cons_of_mem x found)
    rw [List.flatMap_cons]
    cases i with
    | zero => rw [Nat.mul_zero, Nat.zero_add, List.getElem?_append_left (by omega)]; rfl
    | succ i =>
      rw [Nat.mul_succ, List.getElem?_append_right (by omega), show n * i + n + j - (f x).length = n * i + j by omega, later]
      rfl

/-! Elements of a tile (R90, R94) -/

/-- A number of bytes, cut back into them (R9). -/
theorem elemAt_leNat : ∀ (bs : List Byte) (k : Nat), elemAt 8 (leNat bs) k = (bs.getD k 0).toNat
  | [], k => by simp [elemAt, leNat]
  | b :: bs, 0 => by
    have small := b.isLt
    simp only [elemAt, leNat, List.getD_cons_zero]
    omega
  | b :: bs, k + 1 => by
    have small := b.isLt
    have rest : (b.toNat + 256 * leNat bs) / 256 = leNat bs := by omega
    have later := elemAt_leNat bs k
    rw [List.getD_cons_succ, ← later, elemAt, elemAt, leNat, Nat.mul_succ, Nat.pow_add, Nat.mul_comm (2 ^ (8 * k)),
      ← Nat.div_div_eq_div_mul, rest]

/-- A list of numbers read as integers one by one. -/
theorem bind_cast_eq_map (l : List Nat) : (do let k ← l; pure (k : Int)) = l.map fun k : Nat => (k : Int) := List.map_eq_flatMap.symm

theorem opbRun_eq (m : Memory) (a : Int) (n : Nat) : opbRun m a n = leNat ((List.range n).map fun (k : Nat) => opbByte m (a + k)) := by
  rw [opbRun, bind_cast_eq_map, List.map_map]
  rfl

/-- A line of a tile of bytes: element k is its byte k. -/
theorem tileLine_bytes (m : Memory) (base : Int) (x : Nat) :
    tileLine m base 8 x = (List.range 64).map fun (k : Nat) => (opbByte m (256 * base + 64 * x + k)).toNat := by
  refine List.map_congr_left fun k inside => ?_
  have inside : k < 64 := List.mem_range.mp inside
  rw [opbRun_eq, elemAt_leNat, List.getD_eq_getElem?_getD, List.getElem?_map, List.getElem?_range (by omega)]
  norm_num

/-! Sums of products of numbers (R87, R95) -/

/-- Numbers multiply and add as integers, and set no flag. -/
theorem dot_num : ∀ (xs ys : List Int) (a : Acc), (dot a (xs.map .num) (ys.map .num)).v = a.v + (List.zipWith (· * ·) xs ys).sum ∧
    (dot a (xs.map .num) (ys.map .num)).flags = a.flags
  | [], _, a => ⟨(Int.add_zero a.v).symm, rfl⟩
  | _ :: _, [], a => ⟨(Int.add_zero a.v).symm, rfl⟩
  | x :: xs, y :: ys, a => by
    obtain ⟨sum, flags⟩ := dot_num xs ys (a.mac (.num x) (.num y))
    refine ⟨?_, flags⟩
    rw [List.zipWith_cons_cons, List.sum_cons, ← Int.add_assoc]
    exact sum

theorem padK_num (kv : Nat) (xs : List Int) : padK (CellVal.num 0) kv (xs.map .num) = (padK 0 kv xs).map .num := by
  rw [padK, padK, List.map_append, List.map_take, List.map_replicate]

/-- Padding with zeros adds nothing to the sum of the first `kv` products (R87). -/
theorem sum_zipWith_padK (f g : Nat → Int) {kv : Nat} (within : kv ≤ 64) :
    (List.zipWith (· * ·) (padK 0 kv ((List.range 64).map f)) (padK 0 kv ((List.range 64).map g))).sum =
      ((List.range kv).map fun k => f k * g k).sum := by
  have read (h : Nat → Int) : ((List.range 64).map h).take kv = (List.range kv).map h := by
    rw [← List.map_take, List.take_range, Nat.min_eq_left within]
  rw [padK, padK, read, read, List.zipWith_append (by simp), List.sum_append, List.zipWith_replicate', List.sum_replicate]
  simp [List.zipWith_map]

/-! The chunk's outputs (R86, R98) -/

/-- Element k of row (or column) x of an INT8 tile (R90). -/
def int8Line (m : Memory) (base : Int) (x k : Nat) : Int := signed 8 (opbByte m (256 * base + 64 * x + k)).toNat

theorem padK_tileLine_int8 (m : Memory) (base : Int) (x kv : Nat) (isB : Bool) :
    padK (CellVal.num 0) kv ((tileLine m base 8 x).map (CellFmt.int8.value isB)) =
      (padK 0 kv ((List.range 64).map (int8Line m base x))).map .num := by
  rw [tileLine_bytes, ← padK_num, List.map_map, List.map_map]
  rfl

theorem chunkOutputs_int8 (m : Memory) (kv : Nat) (a b sa sb : Int) : chunkOutputs m .int8 kv a b sa sb =
    (List.range 64).flatMap fun i => (List.range 64).map fun j =>
      { acc := dot {} ((padK 0 kv ((List.range 64).map (int8Line m a i))).map .num)
          ((padK 0 kv ((List.range 64).map (int8Line m b j))).map .num) } := by
  unfold chunkOutputs
  simp only [List.map_map, List.flatMap_map, Function.comp_def, CellFmt.bits, padK_tileLine_int8]

/-- Settles O3: the output's place (`getElem?_flatMap_rows`), then the sum of the products of numbers (`dot_num`), to which the padding adds
nothing (`sum_zipWith_padK`). -/
theorem int8ChunkIsDotProduct : Obligations.Int8ChunkIsDotProduct := by
  intro m kv i j a b sa sb within row column
  obtain ⟨sum, flags⟩ := dot_num (padK 0 kv ((List.range 64).map (int8Line m a i))) (padK 0 kv ((List.range 64).map (int8Line m b j))) {}
  rw [sum_zipWith_padK _ _ within] at sum
  rw [chunkOutputs_int8, getElem?_flatMap_rows column fun _ _ => by rw [List.length_map, List.length_range],
    List.getElem?_range row, Option.bind_some, List.getElem?_map, List.getElem?_range column]
  rw [bind_cast_eq_map, List.map_map]
  simp only [Option.map_some, PeRun.value, PeRun.flags, sum, flags]
  simp [int8Line, orFlags, Function.comp_def]

end Sys2Proof.Machine
end

/-! SUPPORT. One block rewritten; a calm block's slot, and its writes to registers and SRAM (R116, R118, R122, R137). -/

section
namespace Sys2Proof.Machine

open Sys2Proof

/-! One block's record rewritten -/

section
variable {s t : State} {b : Nat} {k : Block}

theorem onBlock_congr (s : State) {b : Nat} {f g : Block → Block} (same : f (s.block b) = g (s.block b)) : s.onBlock b f = s.onBlock b g := by
  rw [State.block] at same
  rw [State.onBlock, State.onBlock, upd, upd, same]

theorem onlyBlock_refl (s : State) (b : Nat) : Claims.OnlyBlock s s b (s.block b) := ⟨rfl, rfl, fun _ _ => rfl⟩

theorem onlyBlock_trans {u : State} {k' : Block} (only : Claims.OnlyBlock s t b k) (further : Claims.OnlyBlock t u b k') : Claims.OnlyBlock s u b k' := by
  obtain ⟨rest, _, others⟩ := only
  obtain ⟨rest', here', others'⟩ := further
  refine ⟨?_, here', fun x other => (others' x other).trans (others x other)⟩
  rw [rest', rest]

/-- A further rewrite of the same block. -/
theorem onlyBlock_onBlock (only : Claims.OnlyBlock s t b k) (f : Block → Block) : Claims.OnlyBlock s (t.onBlock b f) b (f k) := by
  have ⟨_, here, _⟩ := only
  exact onlyBlock_trans only ⟨rfl, by rw [block_onBlock_same, here], fun x other => block_onBlock_other t f other⟩

theorem onlyBlock_cyc (only : Claims.OnlyBlock s t b k) (r : Nat) : t.cyc r = s.cyc r := by
  rw [only.1]
  rfl

theorem onlyBlock_debugMode (only : Claims.OnlyBlock s t b k) : t.debugMode = s.debugMode := by
  rw [only.1]
  rfl

theorem onlyBlock_relay (only : Claims.OnlyBlock s t b k) : t.relay = s.relay := by
  rw [only.1]
  rfl

theorem onlyBlock_inCommit (only : Claims.OnlyBlock s t b k) : t.inCommit = s.inCommit := by
  rw [only.1]
  rfl

theorem onlyBlock_mem (only : Claims.OnlyBlock s t b k) : t.mem = s.mem := by rw [only.1]

end

/-! A calm block (R122, R123, R323) -/

theorem slot_calm {s : State} {b : Nat} (calm : Claims.Calm s b) (n : Nat) (f : State → State) : s.slot b n true f = f s := by
  obtain ⟨issues, _, sound⟩ := calm
  simp [State.slot, issues, sound n]

theorem next_slot_calm {s : State} {b : Nat} (calm : Claims.Calm s b) (n : Nat) (f : State → State) :
    (.next (s.slot b n true f) : Host.Outcome State Fault Refusal) = .next (f s) := congrArg _ (slot_calm calm n f)

theorem blockHazard_plain {s : State} (plain : s.debugMode = false) (b kind addr : Nat) : s.blockHazard b kind addr = s := by
  simp [State.blockHazard, plain]

theorem landCheck_plain {s : State} (plain : s.debugMode = false) (b off rows : Nat) : s.landCheck b off rows = s := by
  simp [State.landCheck, plain]

theorem resolve_reaches {s : State} {b ar len align limit off : Nat} {want : Space}
    (reaches : Claims.Reaches (s.block b) ar want len align limit off) : s.resolve b ar want len align limit = (s, some off) := by
  obtain ⟨space, place, inside, aligned⟩ := reaches
  have whole : (off : Int) - off % (align : Int) = off := by omega
  have fits : ¬ (limit < off + len) := by omega
  simp [State.resolve, space, place, whole, fits]

/-! What a slot's operation leaves (R116, R137) -/

section
variable {s t : State} {b : Nat} {k : Block}

/-- An operation's one result, due after its latency. -/
theorem resultT_only (only : Claims.OnlyBlock s t b k) (slot td lat : Nat) (row : Row) : Claims.OnlyBlock s (t.resultT b slot td lat row) b
    { k with
      rank := issueRank (s.cyc (compRegion b)) slot
      pend := k.pend ++ [{ cycle := s.cyc (compRegion b) + lat, rank := issueRank (s.cyc (compRegion b)) slot, act := .setT td row }] } := by
  rw [State.resultT, State.blockCycle, State.ranked, onlyBlock_cyc only]
  exact onlyBlock_onBlock (onlyBlock_onBlock only _) _

theorem resultV_only (only : Claims.OnlyBlock s t b k) (slot vd lat : Nat) (row : Row) : Claims.OnlyBlock s (t.resultV b slot vd lat row) b
    { k with
      rank := issueRank (s.cyc (compRegion b)) slot
      pend := k.pend ++ [{ cycle := s.cyc (compRegion b) + lat, rank := issueRank (s.cyc (compRegion b)) slot, act := .setV vd row }] } := by
  rw [State.resultV, State.blockCycle, State.ranked, onlyBlock_cyc only]
  exact onlyBlock_onBlock (onlyBlock_onBlock only _) _

theorem ranked_only (only : Claims.OnlyBlock s t b k) (slot : Nat) :
    Claims.OnlyBlock s (t.ranked b slot) b { k with rank := issueRank (s.cyc (compRegion b)) slot } := by
  rw [State.ranked, onlyBlock_cyc only]
  exact onlyBlock_onBlock only _

/-- A row written through an address register that reaches it, while a port is free. -/
theorem writeRow_only (only : Claims.OnlyBlock s t b k) (plain : s.debugMode = false) {ar off ready : Nat} (row : Row)
    (reaches : Claims.Reaches k ar .sram 1024 32 sramSize off) (free : get 0 k.writes (ready - 1) < 2) :
    Claims.OnlyBlock s (t.writeRow b ar ready row) b { k with
      writes := upd 0 k.writes (ready - 1) (· + 1)
      pend := k.pend ++ [{ cycle := ready, rank := k.rank, act := .sram off (rowBytes row) }] } := by
  have ⟨_, here, _⟩ := only
  have resolved : t.resolveSram b ar 1 = (t, some off) := resolve_reaches (by rw [here]; exact reaches)
  have port : get 0 (t.block b).writes (ready - 1) < 2 := by rw [here]; exact free
  rw [State.writeRow, resolved]
  dsimp only
  rw [landCheck_plain ((onlyBlock_debugMode only).trans plain), State.takeWrite, if_pos port]
  exact onlyBlock_onBlock (onlyBlock_onBlock only _) _

end

end Sys2Proof.Machine
end

/-! SUPPORT. Drains of a result row (R88, R89, R113, R124, R137): O4. -/

section
namespace Sys2Proof.Machine

open Sys2Proof

section
variable (s : State) (b c : Nat) (rb : Bool) (row : Nat)

theorem finishChunks_cyc (cells : Nat → Bool) (cycle r : Nat) : (s.finishChunks b cells cycle).cyc r = s.cyc r := by
  rw [State.cyc, State.region, (finishChunks_unitWork s b cells cycle).regions]
  rfl

theorem finishChunks_debugMode (cells : Nat → Bool) (cycle : Nat) : (s.finishChunks b cells cycle).debugMode = s.debugMode := by
  rw [State.debugMode, (finishChunks_unitWork s b cells cycle).store]
  rfl

/-- Outside debug mode a drain marks the row and reads it, whether or not its chunk still runs (R89). -/
theorem drainRow_plain (plain : s.debugMode = false) :
    let u := s.finishChunks b (fun x => x == c) (s.cyc (compRegion b))
    let ix := rbIndex ((u.block b).physCell c) rb
    ∃ v, s.drainRow b c rb row = (v, mkRow (fun q => get 0 (u.block b).results (ix * 4096 + 256 * row + q))) ∧
      Claims.OnlyBlock u v b { u.block b with
        undrained := put 0 (u.block b).undrained ix (Claims.drained (get 0 (u.block b).undrained ix) row) } := by
  intro u ix
  have quiet : u.debugMode = false := (finishChunks_debugMode s b _ _).trans plain
  refine ⟨_, ?_, onlyBlock_onBlock (onlyBlock_refl u b) fun k => { k with
    undrained := put 0 k.undrained ix (Claims.drained (get 0 (u.block b).undrained ix) row) }⟩
  unfold State.drainRow
  dsimp only
  rw [show s.finishChunks b (· == c) (s.blockCycle b) = u from rfl, blockHazard_plain quiet, ite_self]
  rfl

end

/-- Settles O4: a drain marks its row and reads it (`drainRow_plain`), and one operation's effect takes it on (`resultT_only`, `resultV_only`,
`writeRow_only`). -/
theorem drainResults : Obligations.DrainResults := by
  intro s b c rb row r ar off calm now u k ix words left
  have ⟨_, plain, _⟩ := calm
  have quiet : u.debugMode = false := (finishChunks_debugMode s b _ _).trans plain
  have time : u.cyc (compRegion b) = now := finishChunks_cyc s b _ _ _
  obtain ⟨v, drained, marked⟩ := drainRow_plain s b c rb row plain
  refine ⟨⟨_, next_slot_calm calm c _, ?tree⟩, ⟨_, next_slot_calm calm c _, ?vec⟩, fun reaches free => ⟨_, next_slot_calm calm c _, ?sram⟩⟩
  all_goals dsimp only; rw [drained]
  case tree =>
    have result := resultT_only marked c r 3 (mkRow words)
    rwa [time] at result
  case vec =>
    have result := resultV_only marked c r 3 (mkRow words)
    rwa [time] at result
  case sram =>
    have ranked := ranked_only marked c
    rw [time] at ranked
    exact writeRow_only ranked quiet (mkRow words) reaches free

end Sys2Proof.Machine
end

/-! SUPPORT. A chunk's issue, and the plan fault of a busy cell (R86, R88, R124, R138, R148). -/

section
namespace Sys2Proof.Machine

open Sys2Proof

/-! Plan faults (R148, R150) -/

section
variable (s : State) (b kind : Nat)

/-- A block's record after a plan fault, as the present place gives it. -/
def State.faultedBlock : Block :=
  let k := s.block b
  { k with
    planFaultInfo := if bit k.err 13 then k.planFaultInfo else pack [(kind, 0), (k.seq.line % 2 ^ 14, 6)]
    planFaults := satInc k.planFaults
    errInfo := captureInfo k.err 0x00007EFF k.errInfo (s.blockInfo b)
    err := setBit k.err 13 }

theorem planFault_block : (s.planFault b kind).block b = s.faultedBlock b kind := by
  unfold State.planFault
  dsimp only
  rw [log_quiet _ (Nat.zero_le 1)]
  show State.block (State.blockErr _ b 13) b = _
  rw [State.blockErr, block_onBlock_same, State.blockInfo, block_onBlock_same]
  rfl

theorem planFault_frame : (s.planFault b kind).mem = s.mem ∧ (s.planFault b kind).sheaf = s.sheaf := by
  unfold State.planFault
  dsimp only
  rw [log_quiet _ (Nat.zero_le 1)]
  exact ⟨rfl, rfl⟩

/-- PLAN_FAULT_INFO names the kind in its lowest bits (R150). -/
theorem pack_kind (place : Nat) (small : kind < 8) : (pack [(kind, 0), (place, 6)]).toNat % 8 = kind := by
  simp only [pack, List.foldl_cons, List.foldl_nil, BitVec.toNat_ofNat]
  omega

end

/-! A chunk's issue (R86, R88) -/

theorem outsideOpb_inside {base : Int} {lines : Nat} (low : 0 ≤ base) (high : base + lines ≤ 1024) : outsideOpb base lines = false := by
  rw [outsideOpb, decide_eq_false (by omega), decide_eq_false (by omega)]
  rfl

theorem exec_chunk (b : Fin 64) (c : Fin 4) (fmt : BitVec 4) (rb : Bool) (desc : BitVec 8) (s : State) :
    exec (.chunk b c fmt rb desc) s = execChunk b c fmt rb desc s := rfl

theorem chunkIssues : Claims.ChunkIssues := by
  intro s b c fmt rb desc f calm format k now d base isMx opb outs
  have ⟨_, plain, _⟩ := calm
  simp only [exec_chunk, execChunk, format, next_slot_calm calm]
  refine ⟨fun free tiles scales => ?issued, fun busy => ⟨_, rfl, ?fault⟩⟩
  case fault =>
    obtain ⟨mem, sheaf⟩ := planFault_frame s b 2
    rw [if_pos (show s.blockCycle b < get 0 (s.block b).cellFree c from busy), planFault_block]
    refine ⟨rfl, bit_setBit_same _ 13, fun first => ?_, rfl, mem, sheaf⟩
    show (if bit k.err 13 then k.planFaultInfo else pack [(2, 0), (k.seq.line % 2 ^ 14, 6)]).toNat % 8 = 2
    rw [first]
    exact pack_kind 2 _ (by decide)
  case issued =>
    rw [if_neg (show ¬ s.blockCycle b < get 0 (s.block b).cellFree c from Nat.not_lt.mpr free)]
    obtain ⟨lowA, highA, lowB, highB⟩ := tiles
    have inside : (outsideOpb (base 0 d.a) (2 * f.bits.1) || outsideOpb (base 1 d.b) (2 * f.bits.2) ||
        (isMx && (outsideOpb (base 2 d.sa) 1 || outsideOpb (base 3 d.sb) 1))) = false := by
      rw [outsideOpb_inside lowA (by push_cast; exact highA), outsideOpb_inside lowB (by push_cast; exact highB)]
      cases scaled : isMx with
      | false => rfl
      | true =>
        obtain ⟨lowSa, highSa, lowSb, highSb⟩ := scales scaled
        rw [outsideOpb_inside lowSa highSa, outsideOpb_inside lowSb highSb]
        rfl
    have unfaulted (bad : Bool) (sound : bad = false) : (if bad then s.planFault b 4 else s) = s := by
      rw [sound]
      rfl
    rw [unfaulted, blockHazard_plain plain, ite_self]
    · exact congrArg _ (onBlock_congr s rfl)
    · exact inside

end Sys2Proof.Machine
end

/-! SUPPORT. A chunk's end: its results, and its report where a check fails (R88, R97, R98, R109, R110, R113, R148): O31. -/

section
namespace Sys2Proof.Machine

open Sys2Proof

/-! The rounders' words in a result buffer (R97, R98, R113) -/

theorem length_rounderWords (wrong : List (Nat × Word32)) (words : List Word32) : (rounderWords words wrong).length = words.length := by
  induction wrong generalizing words with
  | nil => rfl
  | cons p wrong ih => exact (ih _).trans List.length_set

/-- Words put one after another from a place on. -/
theorem get_foldl_put {α : Type} [DecidableEq α] (d : α) (start i : Nat) : ∀ (words : List α) (n : Nat) (m : Sparse α),
    get d ((words.zipIdx n).foldl (fun m p => put d m (start + p.2) p.1) m) i =
      if start + n ≤ i ∧ i < start + n + words.length then words.getD (i - (start + n)) d else get d m i
  | [], n, m => (if_neg (by rw [List.length_nil]; omega)).symm
  | w :: words, n, m => by
    rw [List.zipIdx_cons, List.foldl_cons, get_foldl_put d start i words, List.length_cons]
    by_cases here : i = start + n
    · subst here
      rw [if_neg (by omega), if_pos (by omega), get_put_same, Nat.sub_self, List.getD_cons_zero]
    · rw [get_put_other d m w here]
      by_cases later : start + (n + 1) ≤ i ∧ i < start + (n + 1) + words.length
      · rw [if_pos later, if_pos (by omega), show i - (start + n) = i - (start + (n + 1)) + 1 by omega, List.getD_cons_succ]
      · rw [if_neg later, if_neg (by omega)]

/-! What a report marks (R110, R148) -/

theorem bit_setBit_mono {n : Nat} {x : BitVec n} {i : Nat} (set : bit x i = true) (j : Nat) : bit (setBit x j) i = true := by
  rw [bit] at set
  rw [bit, setBit, BitVec.getLsbD_or, set, Bool.true_or]

/-- Nothing outside one block changes; its chunks and results stay, and no bit of its BLK_ERR falls. -/
structure MarksBlock (b : Nat) (s t : State) : Prop where
  only : Claims.OnlyBlock s t b (t.block b)
  chunks : (t.block b).chunks = (s.block b).chunks
  results : (t.block b).results = (s.block b).results
  stands : ∀ i, bit (s.block b).err i = true → bit (t.block b).err i = true

section
variable {s t u : State} {b : Nat}

theorem MarksBlock.refl (s : State) : MarksBlock b s s := ⟨onlyBlock_refl s b, rfl, rfl, fun _ set => set⟩

theorem MarksBlock.trans (h : MarksBlock b s t) (k : MarksBlock b t u) : MarksBlock b s u where
  only := onlyBlock_trans h.only k.only
  chunks := k.chunks.trans h.chunks
  results := k.results.trans h.results
  stands i set := k.stands i (h.stands i set)

theorem onBlock_marksBlock (s : State) (b : Nat) {f : Block → Block} (chunks : (f (s.block b)).chunks = (s.block b).chunks)
    (results : (f (s.block b)).results = (s.block b).results) (stands : ∀ i, bit (s.block b).err i = true → bit (f (s.block b)).err i = true) :
    MarksBlock b s (s.onBlock b f) := by
  have record := block_onBlock_same s b f
  refine ⟨?_, by rw [record, chunks], by rw [record, results], by rw [record]; exact stands⟩
  rw [record]
  exact onlyBlock_onBlock (onlyBlock_refl s b) f

theorem blockErr_marksBlock (s : State) (b i : Nat) : MarksBlock b s (s.blockErr b i) :=
  onBlock_marksBlock s b rfl rfl fun _ set => bit_setBit_mono set i

theorem bit_blockErr (s : State) (b : Nat) {i : Nat} (inside : i < 32) : bit ((s.blockErr b i).block b).err i = true := by
  rw [State.blockErr, block_onBlock_same]
  exact (bit_setBit_same _ i).trans (decide_eq_true inside)

theorem foldl_blockErr_marksBlock (s : State) (b : Nat) (bits : List Nat) : MarksBlock b s (bits.foldl (fun t i => t.blockErr b i) s) :=
  foldl_related MarksBlock.refl MarksBlock.trans (fun t i => blockErr_marksBlock t b i) bits s

theorem bit_foldl_blockErr (b : Nat) {i : Nat} (inside : i < 32) {bits : List Nat} (named : i ∈ bits) (s : State) :
    bit ((bits.foldl (fun t i => t.blockErr b i) s).block b).err i = true := by
  induction bits generalizing s with
  | nil => exact nomatch named
  | cons j bits ih =>
    cases named with
    | head => exact (foldl_blockErr_marksBlock _ b bits).stands i (bit_blockErr s b inside)
    | tail _ later => exact ih later _

end

/-! The report of a failed check (R110, R148, R331) -/

/-- The block's part of a report: the kinds' bits and the physical cell's in BLK_ERR, and the cell among the faulty ones (R110, R149). -/
def State.cellMarked (s : State) (b pc : Nat) (kinds : List Nat) : State :=
  ((kinds ++ [3 + pc]).foldl (fun t i => t.blockErr b i) s).onBlock b (fun k => { k with
    faulty := if k.faulty.contains pc then k.faulty else k.faulty ++ [pc] })

section
variable (s : State) (b pc : Nat)

theorem cellMarked_marksBlock (kinds : List Nat) : MarksBlock b s (s.cellMarked b pc kinds) :=
  (foldl_blockErr_marksBlock s b (kinds ++ [3 + pc])).trans (onBlock_marksBlock _ b rfl rfl fun _ set => set)

theorem bit_cellMarked {kinds : List Nat} {i : Nat} (inside : i < 32) (named : i ∈ kinds ++ [3 + pc]) :
    bit ((s.cellMarked b pc kinds).block b).err i = true := by
  rw [State.cellMarked, block_onBlock_same]
  exact bit_foldl_blockErr b inside named s

/-- Where a check failed, the block is marked with the kinds that failed and one hard error follows (R110). -/
theorem cellError_some {parity residue rounder : Bool} (failed : (parity || residue || rounder) = true) :
    ∃ kinds a, s.cellError b pc parity residue rounder = (s.cellMarked b pc kinds).hardError a ∧
      (parity = true → 0 ∈ kinds) ∧ (residue = true → 1 ∈ kinds) ∧ (rounder = true → 2 ∈ kinds) := by
  cases parity <;> cases residue <;> cases rounder
  case false.false.false => exact absurd failed (by decide)
  all_goals exact ⟨_, _, rfl, by decide, by decide, by decide⟩

/-- A report leaves the chunks and the results of its block alone. -/
theorem cellError_keeps (parity residue rounder : Bool) :
    ((s.cellError b pc parity residue rounder).block b).chunks = (s.block b).chunks ∧
    ((s.cellError b pc parity residue rounder).block b).results = (s.block b).results := by
  by_cases failed : (parity || residue || rounder) = true
  · obtain ⟨kinds, a, reported, _⟩ := cellError_some s b pc failed
    have marked := cellMarked_marksBlock s b pc kinds
    rw [reported, (hardError_notes _ a).toTells.block b]
    exact ⟨marked.chunks, marked.results⟩
  · simp only [Bool.or_eq_true, not_or, Bool.not_eq_true] at failed
    obtain ⟨⟨rfl, rfl⟩, rfl⟩ := failed
    exact ⟨rfl, rfl⟩

/-- What a report sets: each failed kind's bit, and the physical cell's; in a step that has begun to run outside commit it asks for an
abort (R110, R148, R331). -/
theorem cellError_reports {parity residue rounder : Bool} (failed : (parity || residue || rounder) = true) (small : pc < 8) :
    let t := s.cellError b pc parity residue rounder
    (parity = true → bit (t.block b).err 0 = true) ∧ (residue = true → bit (t.block b).err 1 = true) ∧
    (rounder = true → bit (t.block b).err 2 = true) ∧ bit (t.block b).err (3 + pc) = true ∧ t.mem = s.mem ∧
    (s.relay = false → s.inCommit = false → t.fault.abort.isSome = true) := by
  intro t
  obtain ⟨kinds, a, reported, zero, one, two⟩ := cellError_some s b pc failed
  have marked := cellMarked_marksBlock s b pc kinds
  have told := hardError_notes (s.cellMarked b pc kinds) a
  have block : t.block b = (s.cellMarked b pc kinds).block b := by
    rw [← told.toTells.block b, ← reported]
  have kind {i : Nat} (inside : i < 32) (named : i ∈ kinds) : bit (t.block b).err i = true := by
    rw [block]
    exact bit_cellMarked s b pc inside (List.mem_append_left _ named)
  refine ⟨fun h => kind (by decide) (zero h), fun h => kind (by decide) (one h), fun h => kind (by decide) (two h), ?cell, ?mem, fun compute before => ?abort⟩
  case cell =>
    rw [block]
    exact bit_cellMarked s b pc (by omega) (List.mem_append_right _ (List.mem_singleton_self _))
  case mem => exact (congrArg State.mem reported).trans (told.mem.trans (onlyBlock_mem marked.only))
  case abort =>
    rw [show t = _ from reported]
    exact hardError_aborts _ ((onlyBlock_relay marked.only).trans compute) ((onlyBlock_inCommit marked.only).trans before)

end

/-! The end of a chunk (R88, R97, R113) -/

section
variable {s : State} {b : Fin 64} {c : Fin 4} {run : ChunkRun} {rest : List (Nat × ChunkRun)}

/-- A block's record once a chunk of a logical cell has written words into its result buffer (R97, R113). -/
def Block.written (k : Block) (c start : Nat) (words : List Word32) : Block :=
  { k with
    chunks := (takeChunk c k.chunks).2
    results := (words.zipIdx).foldl (fun m p => put 0 m (start + p.2) p.1) k.results }

theorem get_written (k : Block) (c start : Nat) (words : List Word32) (i : Nat) : get 0 (k.written c start words).results i =
    if start ≤ i ∧ i < start + words.length then words.getD (i - start) 0 else get 0 k.results i :=
  get_foldl_put 0 start i words 0 k.results

theorem finishChunk_eq (s : State) (b c : Nat) (run : ChunkRun) :
    let pc := (s.block b).physCell c
    let words := run.pes.map (fun x => roundOutput ((cellFmt run.fmt).getD .int8) x.value x.flags)
    let first := rounderWords words run.rounders.first
    s.finishChunk b c run = (s.onBlock b (Block.written · c (rbIndex pc run.rb * 4096) first)).cellError b pc run.parityBad
      (run.pes.any PeRun.mismatch || run.residueBad) (first != rounderWords words run.rounders.second) := rfl

theorem physCell_lt (k : Block) (c : Nat) : k.physCell c < 8 := Nat.mod_lt _ (by decide)

theorem takeChunk_head (head : (s.block b).chunks = (c.val, run) :: rest) : takeChunk c (s.block b).chunks = (some run, rest) := by
  rw [head, takeChunk, if_pos rfl]

theorem exec_chunkEnd_head (head : (s.block b).chunks = (c.val, run) :: rest) (p r : Bool) (f : RounderFaults) :
    exec (.chunkEnd b c p r f) s = .next (if s.cyc (compRegion b) < run.due
      then s.onBlock b (fun k => { k with chunks := onChunk c (run.faulted p r f) k.chunks }) else s.finishChunk b c (run.faulted p r f)) := by
  show execChunkEnd b c p r f s = _
  rw [execChunkEnd, takeChunk_head head]
  rfl

end

theorem chunkEndRoundsOnce : Claims.ChunkEndRoundsOnce := by
  intro s b c p r f run rest head full pc words first second p1 r1 d
  have length : first.length = 4096 := by
    rw [length_rounderWords, List.length_map, full]
  rw [exec_chunkEnd_head head]
  refine ⟨fun early => ?runs, fun due => ⟨_, rfl, ?ends⟩⟩
  case runs =>
    rw [if_pos early]
    refine congrArg _ (onBlock_congr s ?_)
    rw [head, onChunk, if_pos rfl]
    rfl
  case ends =>
    let start := rbIndex pc run.rb * 4096
    let v := s.onBlock b (Block.written · c start first)
    have record : v.block b = (s.block b).written c start first := block_onBlock_same s b _
    have chunks : (v.block b).chunks = rest := by
      rw [record]
      exact congrArg Prod.snd (takeChunk_head head)
    have finished : s.finishChunk b c (run.faulted p r f) = v.cellError b pc p1 r1 d := finishChunk_eq s b c (run.faulted p r f)
    rw [if_neg (Nat.not_lt.mpr due), finished]
    obtain ⟨kept, stored⟩ := cellError_keeps v b pc p1 r1 d
    have wordsAt (i : Nat) := get_written (s.block b) c start first i
    rw [length, ← record] at wordsAt
    refine ⟨kept.trans chunks, fun i inside => ?stored, fun right i inside => ?rounded, fun i outside => ?others, fun pOk rOk dOk => ?sound, ?report⟩
    case stored =>
      rw [stored, wordsAt, if_pos (by omega), Nat.add_sub_cancel_left]
    case others =>
      rw [stored, wordsAt, if_neg (by omega)]
    case rounded =>
      have plain : first = words := congrArg (rounderWords words) right
      rw [plain, List.getD_eq_getElem?_getD, List.getD_eq_getElem?_getD, List.getElem?_map, List.getElem?_eq_getElem (by omega)]
      rfl
    case sound =>
      rw [pOk, rOk, dOk]
      exact ⟨rfl, fun x other => block_onBlock_other s _ other⟩
    case report =>
      by_cases failed : (p1 || r1 || d) = true
      · obtain ⟨parity, residue, rounder, cell, mem, aborts⟩ := cellError_reports v b pc failed (physCell_lt _ _)
        exact ⟨parity, residue, rounder, fun _ => ⟨cell, mem, aborts⟩⟩
      · simp only [Bool.or_eq_true, not_or] at failed
        obtain ⟨⟨noParity, noResidue⟩, noRounder⟩ := failed
        refine ⟨fun h => absurd h noParity, fun h => absurd h noResidue, fun h => absurd h noRounder, fun h => ?_⟩
        simp [noParity, noResidue, noRounder] at h

/-- Settles O31: the issue (`chunkIssues`) and the end (`chunkEndRoundsOnce`) of a chunk. -/
theorem chunkLife : Obligations.ChunkLife := ⟨chunkIssues, chunkEndRoundsOnce⟩

end Sys2Proof.Machine
end

/-! SUPPORT. The vector and tree slots of a calm block, whose one result is due after its latency (R126 to R130, R137): O1. -/

section
namespace Sys2Proof.Machine

open Sys2Proof

/-! One result due (R116, R137) -/

section
variable {s : State} {b : Nat}

theorem issues_active (issues : s.issues b = true) : (s.block b).active = true := by
  simp only [State.issues, State.runsOn, Bool.and_eq_true] at issues
  tauto

theorem calm_active (calm : Claims.Calm s b) : (s.block b).active = true := issues_active calm.1

/-- The block that a table does not list is inactive. -/
theorem active_ne_unlisted {k : Block} (active : k.active = true) : k ≠ {} := by
  rintro rfl
  exact absurd active (by decide)

theorem resultV_due (active : (s.block b).active = true) (slot vd lat : Nat) (row : Row) :
    s.resultV b slot vd lat row = Claims.due s b slot lat (.setV vd row) := by
  rw [State.resultV, State.ranked, State.later, onBlock_onBlock]
  · rfl
  · exact active_ne_unlisted active

theorem resultT_due (active : (s.block b).active = true) (slot td lat : Nat) (row : Row) :
    s.resultT b slot td lat row = Claims.due s b slot lat (.setT td row) := by
  rw [State.resultT, State.ranked, State.later, onBlock_onBlock]
  · rfl
  · exact active_ne_unlisted active

theorem rawCheck_plain (plain : s.debugMode = false) (vs ts : List Nat) : s.rawCheck b vs ts = s := by
  simp [State.rawCheck, plain]

end

/-! Lane operations (R126, R127) -/

section
variable {s : State} {b : Nat} (calm : Claims.Calm s b)
include calm

theorem vec1_calm (vd va lat : Nat) (f : Word32 → Word32) :
    s.vec1 b vd va lat f = Claims.toV s b vd lat (fun q => f (lane ((s.block b).vreg va) q)) := by
  rw [State.vec1, slot_calm calm, rawCheck_plain calm.2.1, resultV_due (calm_active calm)]
  rfl

theorem vec2_calm (vd va vb lat : Nat) (f : Word32 → Word32 → Word32) : s.vec2 b vd va vb lat f =
    Claims.toV s b vd lat (fun q => f (lane ((s.block b).vreg va) q) (lane ((s.block b).vreg vb) q)) := by
  rw [State.vec2, slot_calm calm, rawCheck_plain calm.2.1, resultV_due (calm_active calm)]
  rfl

theorem vec3_calm (vd va vb vc lat : Nat) (f : Word32 → Word32 → Word32 → Word32) : s.vec3 b vd va vb vc lat f =
    Claims.toV s b vd lat (fun q =>
      f (lane ((s.block b).vreg va) q) (lane ((s.block b).vreg vb) q) (lane ((s.block b).vreg vc) q)) := by
  rw [State.vec3, slot_calm calm, rawCheck_plain calm.2.1, resultV_due (calm_active calm)]
  rfl

end

/-- VCMP's lane by its predicate (R127): 0 EQ, 1 LT, 2 LE, 3 UNORDERED. -/
theorem vcmpLane_eq {mode : BitVec 3} (known : mode.toNat ≤ 3) (x y : Word32) : vcmpLane mode.toNat x y =
    if (mode = 0 ∧ feq x y) ∨ (mode = 1 ∧ flt x y) ∨ (mode = 2 ∧ (feq x y ∨ flt x y)) ∨ (mode = 3 ∧ (isNan x ∨ isNan y))
    then 0xFFFFFFFF else 0 := by
  have modes : mode = 0 ∨ mode = 1 ∨ mode = 2 ∨ mode = 3 := by bv_omega
  rcases modes with rfl | rfl | rfl | rfl <;> simp [vcmpLane, vcmpHolds]

/-- Settles O1: each operation is one lane function over its sources (`vec1_calm`, `vec2_calm`, `vec3_calm`). -/
theorem vectorSlotResults : Obligations.VectorSlotResults := by
  intro s b vd va vb vc mode calm A B C
  have one (lat : Nat) (f : Word32 → Word32) := vec1_calm calm vd va lat f
  have two (lat : Nat) (f : Word32 → Word32 → Word32) := vec2_calm calm vd va vb lat f
  have three (lat : Nat) (f : Word32 → Word32 → Word32 → Word32) := vec3_calm calm vd va vb vc lat f
  refine ⟨congrArg _ (two 4 fadd), congrArg _ (two 4 fsub), congrArg _ (two 4 fmul), congrArg _ (three 5 ffma), congrArg _ (two 2 fmin),
    congrArg _ (two 2 fmax), fun known => ?vcmp, ?vsel, congrArg _ (one 2 id), congrArg _ (two 4 (· + ·)), congrArg _ (one _ fexp),
    congrArg _ (one _ flog), congrArg _ (one 12 frcp), congrArg _ (one 12 frsqrt), congrArg _ (one 16 ftanh)⟩
  case vcmp =>
    show Host.Outcome.next (if mode.toNat ≤ 3 then s.vec2 b vd va vb 2 (vcmpLane mode.toNat) else s.slot b 4 false id) = _
    rw [if_pos known, two]
    simp only [vcmpLane_eq known]
    rfl
  case vsel =>
    refine congrArg Host.Outcome.next ((three 2 fun x y z => if z = 0 then y else x).trans ?_)
    simp only [ne_eq, ite_not]
    rfl

end Sys2Proof.Machine
end

/-! SUPPORT. The converts of the vector slot: elements packed in a row and read back by place (R94, R129): O2. -/

section
namespace Sys2Proof.Machine

open Sys2Proof

/-! A row's bytes (R9, R113) -/

theorem leNat_lt : ∀ bs : List Byte, leNat bs < 256 ^ bs.length
  | [] => by decide
  | b :: bs => by
    have later := leNat_lt bs
    rw [leNat, List.length_cons, pow_succ]
    have := b.isLt
    omega

theorem leBytes_leNat : ∀ bs : List Byte, leBytes bs.length (leNat bs) = bs
  | [] => rfl
  | b :: bs => by
    have low : BitVec.ofNat 8 (b.toNat + 256 * leNat bs) = b := by
      apply BitVec.eq_of_toNat_eq
      rw [BitVec.toNat_ofNat]
      have := b.isLt
      omega
    have high : (b.toNat + 256 * leNat bs) / 256 = leNat bs := by
      have := b.isLt
      omega
    rw [leNat, List.length_cons, leBytes, low, high, leBytes_leNat bs]

theorem lane_mkRow (f : Nat → Word32) {q : Nat} (inside : q < 256) : lane (mkRow f) q = f q := by
  simp [lane, mkRow, List.getD_eq_getElem?_getD, inside]

theorem slice_inside {bs : List Byte} {o k : Nat} (inside : o + k ≤ bs.length) : slice bs o k = (bs.drop o).take k := by
  have length : ((bs.drop o).take k).length = k := by
    rw [List.length_take, List.length_drop]
    omega
  rw [slice, length, Nat.sub_self]
  exact List.append_nil _

/-- The words of a run of bytes spell the run again. -/
theorem flatMap_words (bs : List Byte) : ∀ n, 4 * n ≤ bs.length →
    (List.range n).flatMap (fun q => leBytes 4 (BitVec.ofNat 32 (fieldLE bs (4 * q) 4)).toNat) = bs.take (4 * n)
  | 0, _ => rfl
  | n + 1, inside => by
    have word : (bs.drop (4 * n)).take 4 = slice bs (4 * n) 4 := (slice_inside (by omega)).symm
    have length : (slice bs (4 * n) 4).length = 4 := by
      rw [← word, List.length_take, List.length_drop]
      omega
    have small : fieldLE bs (4 * n) 4 < 2 ^ 32 := by
      have := leNat_lt (slice bs (4 * n) 4)
      rwa [length] at this
    have spelled : leBytes 4 (fieldLE bs (4 * n) 4) = slice bs (4 * n) 4 := by
      have := leBytes_leNat (slice bs (4 * n) 4)
      rwa [length] at this
    rw [List.range_succ, List.flatMap_append, flatMap_words bs n (by omega), List.flatMap_singleton, BitVec.toNat_ofNat, Nat.mod_eq_of_lt small,
      spelled, ← word, Nat.mul_succ, List.take_add]

theorem rowBytes_bytesRow {bs : List Byte} (length : bs.length = 1024) : rowBytes (bytesRow bs) = bs := by
  have lanes : rowBytes (bytesRow bs) =
      (List.range 256).flatMap (fun q => leBytes 4 (BitVec.ofNat 32 (fieldLE bs (4 * q) 4)).toNat) := by
    refine List.flatMap_congr fun q inside => ?_
    rw [bytesRow, lane_mkRow _ (List.mem_range.mp inside)]
  rw [lanes, flatMap_words bs 256 (by omega), List.take_of_length_le (by omega)]

/-! Elements packed (R94) -/

theorem packElems_lt (w : Nat) : ∀ cs : List Nat, packElems w cs < 2 ^ (w * cs.length)
  | [] => by simp [packElems]
  | c :: cs => by
    calc c % 2 ^ w + 2 ^ w * packElems w cs
      _ < 2 ^ w * (packElems w cs + 1) := by
        rw [Nat.mul_succ, Nat.add_comm]
        exact Nat.add_lt_add_left (Nat.mod_lt _ (Nat.two_pow_pos w)) _
      _ ≤ 2 ^ w * 2 ^ (w * cs.length) := Nat.mul_le_mul_left _ (packElems_lt w cs)
      _ = 2 ^ (w * (c :: cs).length) := by rw [List.length_cons, Nat.mul_succ, Nat.add_comm, pow_add]

theorem elemAt_packElems (w : Nat) : ∀ (cs : List Nat) (i : Nat), elemAt w (packElems w cs) i = cs.getD i 0 % 2 ^ w
  | [], i => by simp [elemAt, packElems]
  | c :: cs, 0 => by simp [elemAt, packElems]
  | c :: cs, i + 1 => by
    have beyond : (c % 2 ^ w + 2 ^ w * packElems w cs) / 2 ^ w = packElems w cs := by
      rw [Nat.add_mul_div_left _ _ (Nat.two_pow_pos w), Nat.div_eq_of_lt (Nat.mod_lt _ (Nat.two_pow_pos w)), Nat.zero_add]
    rw [elemAt, packElems, Nat.mul_succ, Nat.add_comm (w * i), pow_add, ← Nat.div_div_eq_div_mul, beyond, List.getD_cons_succ]
    exact elemAt_packElems w cs i

theorem bits_le (c : CvtFmt) : c.bits ≤ 32 := by
  have plain (f : FpFmt) : f.bits ≤ 32 := by cases f <;> decide
  cases c with
  | plain f => exact plain f
  | mx f => exact plain f
  | int8 => decide
  | int32 => decide

theorem packElems_lt_bytes (c : CvtFmt) (cs : List Nat) : packElems c.bits cs < 256 ^ (4 * cs.length) := by
  calc packElems c.bits cs
    _ < 2 ^ (c.bits * cs.length) := packElems_lt c.bits cs
    _ ≤ 2 ^ (8 * (4 * cs.length)) := by
      rw [← Nat.mul_assoc]
      exact Nat.pow_le_pow_right (by decide) (Nat.mul_le_mul_right _ (bits_le c))
    _ = 256 ^ (4 * cs.length) := pow_mul 2 8 _

/-- A row packed from 256 elements gives each back at its place. -/
theorem elemAt_packedRow (c : CvtFmt) (g : Nat → Nat) {q : Nat} (inside : q < 256) :
    elemAt c.bits (leNat (rowBytes (bytesRow (leBytes 1024 (packElems c.bits ((List.range 256).map g)))))) q = g q % 2 ^ c.bits := by
  have small := packElems_lt_bytes c ((List.range 256).map g)
  rw [List.length_map, List.length_range] at small
  rw [rowBytes_bytesRow (length_leBytes _ _), leNat_leBytes, Nat.mod_eq_of_lt small, elemAt_packElems]
  simp [List.getD_eq_getElem?_getD, inside]

/-! The converts (R129) -/

theorem narrowRow_plain {fmt : Nat} {c : CvtFmt} (named : cvtFmt fmt = some c) (unscaled : ∀ f, c ≠ .mx f) (mode : RMode) (us : Nat → Nat)
    (a : Row) : narrowRow fmt mode us a =
      bytesRow (leBytes 1024 (packElems c.bits ((List.range 256).map (fun q => cvtPlain c mode (us q) (lane a q))))) := by
  rw [narrowRow, named]
  cases c with
  | mx f => exact absurd rfl (unscaled f)
  | plain f => rfl
  | int8 => rfl
  | int32 => rfl

theorem wideRow_lanes (fmt : Nat) (a : Row) : ∃ f, wideRow fmt a = mkRow f ∧ ∀ c, cvtFmt fmt = some c → (∀ x, c ≠ .mx x) →
    ∀ q < 256, f q = widenPlain c (elemAt c.bits (leNat (rowBytes a)) q) := by
  rw [wideRow]
  cases named : cvtFmt fmt with
  | none => exact ⟨fun _ => 0, by simp [mkRow, zeroRow], fun _ h => nomatch h⟩
  | some c =>
    cases c with
    | mx f => exact ⟨_, rfl, fun _ same unscaled => absurd (Option.some.inj same).symm (unscaled f)⟩
    | plain _ | int8 | int32 => exact ⟨_, rfl, fun _ same _ q _ => by rw [← Option.some.inj same]⟩

theorem modeOf_drawless {mode : BitVec 3} (drawless : mode ≠ 2) : modeOf mode.toNat = if mode = 1 then .rtz else .rne := by
  have two : mode.toNat ≠ 2 := by bv_omega
  have one : mode.toNat = 1 ↔ mode = 1 := by bv_omega
  simp only [modeOf, two, if_false, one]

/-- Settles O2: a narrowing convert packs its elements in place (`elemAt_packedRow`), a widening one reads them back (`wideRow_lanes`). -/
theorem vectorConvertResults : Obligations.VectorConvertResults := by
  intro s b vd va mode fmt key calm
  refine ⟨fun legal => ?narrow, fun legal => ?wide⟩
  case narrow =>
    let k := s.block b
    let rk := k.tables.key.getD key.toNat {}
    let us (q : Nat) : Nat := if mode = 2 then s.draw rk.block (keyElement k.seq rk + (q : Int)) else 0
    refine ⟨narrowRow fmt.toNat (modeOf mode.toNat) us (k.vreg va), ?_, fun c named unscaled drawless q inside => ?_⟩
    · show Host.Outcome.next (s.slot b 4 (Instr.vcvtNarrow b vd va mode fmt key).wellFormed _) = _
      rw [legal, next_slot_calm calm, rawCheck_plain calm.2.1, resultV_due (calm_active calm)]
    · rw [narrowRow_plain named unscaled, elemAt_packedRow c _ inside, modeOf_drawless drawless, show us q = 0 from if_neg drawless]
  case wide =>
    obtain ⟨f, lanes, read⟩ := wideRow_lanes fmt.toNat ((s.block b).vreg va)
    refine ⟨f, ?_, read⟩
    show Host.Outcome.next (s.slot b 4 (Instr.vcvtWide b vd va fmt).wellFormed _) = _
    rw [legal, next_slot_calm calm, rawCheck_plain calm.2.1, resultV_due (calm_active calm), lanes]
    rfl

end Sys2Proof.Machine
end

/-! SUPPORT. SRAM rows of a block read and written through an address register that reaches them (R116, R118, R147), the tree slot (R130), and
a block whose slots do not act (R134, R141, R324, R413): O30. -/

section
namespace Sys2Proof.Machine

open Sys2Proof

/-! Rows with no stored bit in error (R147) -/

theorem foldl_max_eq_zero {α : Type} (f : α → Nat) : ∀ (l : List α) (m : Nat), l.foldl (fun m u => max m (f u)) m = 0 → m = 0 ∧ ∀ u ∈ l, f u = 0
  | [], _, zero => ⟨zero, fun _ h => nomatch h⟩
  | x :: l, m, zero => by
    obtain ⟨first, later⟩ := foldl_max_eq_zero f l _ zero
    obtain ⟨low, here⟩ := Nat.max_eq_zero_iff.mp first
    exact ⟨low, List.forall_mem_cons.mpr ⟨here, later⟩⟩

section
variable {s : State} {a n : Nat} (sound : s.weakness a n = 0)
include sound

theorem corrections_sound : s.corrections a n = 0 := by
  have ⟨_, clean⟩ := foldl_max_eq_zero (fun u : Nat × Nat => u.2) _ _ sound
  rw [State.corrections, List.length_eq_zero_iff, List.filter_eq_nil_iff]
  intro u found
  simp [clean u found]

theorem lostUnits_sound : s.lostUnits a n = [] := by
  have ⟨_, clean⟩ := foldl_max_eq_zero (fun u : Nat × Nat => u.2) _ _ sound
  rw [State.lostUnits, List.map_eq_nil_iff, List.filter_eq_nil_iff]
  intro u found
  simp [clean u found]

end

theorem sramCheck_sound {s : State} {b off n : Nat} (sound : s.weakness (blockBase b + off) n = 0) : s.sramCheck b off n = s := by
  have clean : s.sramCorrect b off n = s := by rw [State.sramCorrect, corrections_sound sound]; rfl
  rw [State.sramCheck, clean, lostUnits_sound sound]
  rfl

/-! Ports and places (R116, R118) -/

section
variable {s : State} {b : Nat}

theorem rawSram_plain (plain : s.debugMode = false) (off rows : Nat) : s.rawSram b off rows = s := by
  simp [State.rawSram, plain]

theorem takeRead_free {cycle : Nat} (free : get 0 (s.block b).reads cycle < 2) (off : Nat) : s.takeRead b cycle off =
    (s.onBlock b (fun k => { k with reads := upd 0 k.reads cycle (· + 1) }), false) := if_pos free

theorem takeWrite_free {cycle : Nat} (free : get 0 (s.block b).writes cycle < 2) (off : Nat) : s.takeWrite b cycle off =
    (s.onBlock b (fun k => { k with writes := upd 0 k.writes cycle (· + 1) }), false) := if_pos free

/-- A row read through an address register that reaches it, while a port is free and no stored bit is in error. -/
theorem readRow_reaches (plain : s.debugMode = false) {ar off : Nat} (reaches : Claims.Reaches (s.block b) ar .sram 1024 32 sramSize off)
    (sound : Claims.Sound s b off) (free : get 0 (s.block b).reads (s.cyc (compRegion b)) < 2) : s.readRow b ar =
      (s.onBlock b (fun k => { k with reads := upd 0 k.reads (s.cyc (compRegion b)) (· + 1) }), s.sramRow b off) := by
  have resolved : s.resolveSram b ar 1 = (s, some off) := resolve_reaches reaches
  rw [State.readRow, resolved]
  dsimp only
  rw [rawSram_plain plain, takeRead_free (cycle := s.blockCycle b) free]
  exact congrArg (·, s.sramRow b off) (sramCheck_sound sound)

/-- A row written so: its port is used in the cycle before. -/
theorem writeRow_reaches (plain : s.debugMode = false) {ar off ready : Nat} (reaches : Claims.Reaches (s.block b) ar .sram 1024 32 sramSize off)
    (free : get 0 (s.block b).writes (ready - 1) < 2) (row : Row) : s.writeRow b ar ready row =
      (s.onBlock b (fun k => { k with writes := upd 0 k.writes (ready - 1) (· + 1) })).later b ready (.sram off (rowBytes row)) := by
  have resolved : s.resolveSram b ar 1 = (s, some off) := resolve_reaches reaches
  rw [State.writeRow, resolved]
  dsimp only
  rw [landCheck_plain plain, takeWrite_free free]
  rfl

/-- Two rewrites of an active block are one. -/
theorem onBlock_merge {f : Block → Block} (active : (f (s.block b)).active = true) (g : Block → Block) :
    (s.onBlock b f).onBlock b g = s.onBlock b (fun k => g (f k)) := onBlock_onBlock s b f g (active_ne_unlisted active)

end

/-! The tree slot (R130) -/

theorem tree2_calm {s : State} {b : Nat} (calm : Claims.Calm s b) (td ta tb : Nat) (f : Word32 → Word32 → Word32) : s.tree2 b td ta tb f =
    Claims.toT s b td 4 (fun q => f (lane ((s.block b).treg ta) q) (lane ((s.block b).treg tb) q)) := by
  rw [State.tree2, slot_calm calm, rawCheck_plain calm.2.1, resultT_due (calm_active calm)]
  rfl

theorem treeSlotResults : Claims.TreeSlotResults := by
  intro s b td ta tb v ar off calm A B c
  have ⟨_, plain, _⟩ := calm
  have active := calm_active calm
  refine ⟨congrArg _ (tree2_calm calm td ta tb fadd), congrArg _ (tree2_calm calm td ta tb (· + ·)), ?ttov, ?vtot,
    fun reaches => ⟨fun sound free => ?tload, fun free => ?tstore⟩⟩
  case ttov =>
    refine (next_slot_calm calm 5 _).trans ?_
    rw [rawCheck_plain plain, resultV_due active]
  case vtot =>
    refine (next_slot_calm calm 5 _).trans ?_
    rw [rawCheck_plain plain, resultT_due active]
  case tload =>
    refine (next_slot_calm calm 5 _).trans (congrArg _ ?_)
    have ranked : (s.ranked b 5).block b = { s.block b with rank := issueRank c 5 } := block_onBlock_same s b _
    rw [readRow_reaches (s := s.ranked b 5) plain (by rw [ranked]; exact reaches) sound (by rw [ranked]; exact free)]
    dsimp only
    rw [State.later, State.ranked, onBlock_merge (s := s), onBlock_merge (s := s)]
    · rfl
    · exact active
    · exact active
  case tstore =>
    refine (next_slot_calm calm 5 _).trans (congrArg _ ?_)
    have ranked : (s.ranked b 5).block b = { s.block b with rank := issueRank c 5 } := block_onBlock_same s b _
    rw [rawCheck_plain (s := s.ranked b 5) plain,
      writeRow_reaches (s := s.ranked b 5) plain (by rw [ranked]; exact reaches) (by rw [ranked]; exact free)]
    rw [State.later, State.ranked, onBlock_merge (s := s), onBlock_merge (s := s)]
    · rfl
    · exact active
    · exact active

/-! A block whose slots do not act (R134, R141, R324, R413) -/

theorem slot_stopped {s : State} {b : Nat} (stopped : s.issues b = false) (n : Nat) (legal : Bool) (f : State → State) :
    (.next (s.slot b n legal f) : Host.Outcome State Fault Refusal) = .next s := by
  rw [State.slot, stopped]
  rfl

/-- A wait changes nothing where nothing of its block runs, or where its group is ready but its region stands. -/
theorem waitSlot_stopped {s : State} {b g : Nat} (stopped : s.issues b = false)
    (rests : s.runsOn b = false ∨ (s.block b).groups.ready g = true) : s.waitSlot b true g 0 = s := by
  unfold State.waitSlot
  cases runs : s.runsOn b with
  | false => simp [State.slot, stopped]
  | true =>
    have ready : (s.block b).groups.passes g 0 = true := rests.resolve_left (by simp [runs])
    simp [stopped, ready]

theorem stoppedBlockIgnoresSlots : Claims.StoppedBlockIgnoresSlots := by
  intro s b x y z w c ar arx ch rb row fmt len desc trip tgt stopped
  have rest := slot_stopped stopped
  refine ⟨?chunk, rest .., rest .., rest .., rest .., rest .., rest .., rest .., rest .., rest .., rest .., rest .., rest .., rest ..,
    fun rests => congrArg _ (waitSlot_stopped stopped rests)⟩
  rw [exec_chunk, execChunk]
  cases cellFmt fmt.toNat with
  | none => exact rest ..
  | some f => exact rest ..

/-- Settles O30: the tree slot (`treeSlotResults`) and a block that does not run (`stoppedBlockIgnoresSlots`). -/
theorem treeSlots : Obligations.TreeSlots := ⟨treeSlotResults, stoppedBlockIgnoresSlots⟩

end Sys2Proof.Machine
end

/-! SUPPORT. Waits on arrival groups, and the regions that they gate (R141, R143, R145, R164): O33. -/

section
namespace Sys2Proof.Machine

open Sys2Proof

/-! A region's stall under its units (R141, R143, R164) -/

section
variable {s t u : State} {b : Nat} {k : Block}

/-- The sequencers of a compute region's four blocks. -/
theorem unitStall_compute {b : Nat} (inside : b < 64) (s : State) : s.unitStall (compRegion b) =
    let seqs := (List.range 4).map (fun j => (s.block (4 * (b / 4) + j)).seq)
    if seqs.any (fun q => q.waiting.isSome) then some .arrival else if seqs.any (fun q => q.stalled) then some .instruction else none := by
  have compute : b / 4 < 0x10 := by omega
  rw [State.unitStall, compRegion, if_pos compute]

theorem unitStall_stack {i : Nat} (inside : i < 12) (s : State) : s.unitStall (stackRegion i) =
    if (s.stack i).seq.waiting.isSome then some .arrival else if (s.stack i).seq.stalled then some .instruction else none := by
  have stack : ¬ stackRegion i < 0x10 ∧ (0x14 ≤ stackRegion i ∧ stackRegion i < 0x20) := by
    unfold stackRegion
    omega
  have unit : stackRegion i - 0x14 = i := Nat.add_sub_cancel_left _ _
  rw [State.unitStall, if_neg stack.1, if_pos stack.2, unit]
  simp

theorem unitStall_waiting (inside : b < 64) (waits : (s.block b).seq.waiting.isSome = true) : s.unitStall (compRegion b) = some .arrival := by
  have own : 4 * (b / 4) + b % 4 = b := Nat.div_add_mod b 4
  rw [unitStall_compute inside]
  refine if_pos (List.any_eq_true.mpr ⟨_, List.mem_map.mpr ⟨b % 4, List.mem_range.mpr (Nat.mod_lt b (by decide)), rfl⟩, ?_⟩)
  rw [own]
  exact waits

/-- A region all of whose blocks run goes on. -/
theorem unitStall_runs (inside : b < 64) (run : ∀ x, x / 4 = b / 4 → (s.block x).seq.waiting = none ∧ (s.block x).seq.stalled = false) :
    s.unitStall (compRegion b) = none := by
  have each (j : Nat) (own : j < 4) := run (4 * (b / 4) + j) (by omega)
  rw [unitStall_compute inside, if_neg, if_neg]
  · simpa using fun j own => (each j own).2
  · simpa using fun j own => (each j own).1

theorem restall_only (s : State) (r : Nat) : Claims.OnlyRegion s (s.restall r) r { s.region r with stall := s.unitStall r } :=
  onRegion_only s r _

/-- One block's record becomes `k` and its region stands for `stall`; nothing else changes. -/
structure Restalls (s t : State) (b : Nat) (k : Block) (stall : Option Stall) : Prop where
  rest : t = { s with blocks := t.blocks, regions := t.regions }
  own : t.block b = k
  others : ∀ x, x ≠ b → t.block x = s.block x
  region : t.region (compRegion b) = { s.region (compRegion b) with stall := stall }
  regions : ∀ r, r ≠ compRegion b → t.region r = s.region r

theorem restall_restalls (only : Claims.OnlyBlock s t b k) : Restalls s (t.restall (compRegion b)) b k (t.unitStall (compRegion b)) := by
  obtain ⟨rest, own, others⟩ := only
  have region (r : Nat) : t.region r = s.region r := by
    rw [rest]
    rfl
  obtain ⟨_, here, elsewhere⟩ := restall_only t (compRegion b)
  refine ⟨?_, own, others, by rw [here, region], fun r other => (elsewhere r other).trans (region r)⟩
  rw [State.restall, rest]
  rfl

end

/-! A block's wait (R141, R143, R145) -/

section
variable {s : State} {b g : Nat}

/-- A wait that may not proceed holds its block, and its region gates. -/
theorem waitBlock_gates (plain : s.debugMode = false) (inside : b < 64) {mask : Nat} (blocked : (s.block b).groups.passes g mask = false) :
    Restalls s (s.waitBlock b g mask) b { s.block b with seq := { (s.block b).seq with waiting := some (g, mask) } } (some .arrival) := by
  have held := onlyBlock_onBlock (onlyBlock_refl s b) fun k => { k with seq := { k.seq with waiting := some (g, mask) } }
  have waits := unitStall_waiting inside (s := s.onBlock b fun k => { k with seq := { k.seq with waiting := some (g, mask) } })
    (by rw [held.2.1]; rfl)
  rw [State.waitBlock, if_neg (by simp [blocked]), blockHazard_plain plain, ite_self, ← waits]
  exact restall_restalls held

/-- A wait on one group that proceeds. -/
theorem proceedBlock_wait (s : State) (b g : Nat) : Claims.OnlyBlock s (s.proceedBlock b g 0) b { s.block b with
    seq := { (s.block b).seq with waiting := none }
    variant := if bit (s.block b).groups.loose g && bit (s.block b).groups.disordered g then satInc (s.block b).variant
      else (s.block b).variant } := by
  have proceeds := onlyBlock_onBlock (onlyBlock_refl s b) fun k => { k with seq := { k.seq with waiting := none } }
  unfold State.proceedBlock
  dsimp only
  rw [if_pos rfl]
  split
  · exact onlyBlock_onBlock proceeds _
  · exact proceeds

theorem waitBlock_proceeds {mask : Nat} (passes : (s.block b).groups.passes g mask = true) :
    s.waitBlock b g mask = s.proceedBlock b g mask := if_pos passes

/-- The lowest ready group under a mask. -/
theorem firstReady_eq_some {k : Groups} {mask : BitVec 4} {j : Nat} (inside : j < 4) (masked : mask.getLsbD j = true)
    (ready : k.ready (g + j) = true) (lower : ∀ l < j, mask.getLsbD l = true → k.ready (g + l) = false) :
    k.firstReady g mask.toNat = some j := by
  rw [Groups.firstReady, List.find?_range_eq_some]
  refine ⟨by rw [BitVec.testBit_toNat, masked, ready]; rfl, List.mem_range.mpr inside, fun l below => ?_⟩
  cases bit : mask.getLsbD l with
  | false => simp [BitVec.testBit_toNat, bit]
  | true => simp [lower l below bit]

theorem firstReady_eq_none {k : Groups} {mask : BitVec 4} (unready : ∀ j < 4, mask.getLsbD j = true → k.ready (g + j) = false) :
    k.firstReady g mask.toNat = none := by
  rw [Groups.firstReady, List.find?_eq_none]
  intro j listed
  cases bit : mask.getLsbD j with
  | false => simp [BitVec.testBit_toNat, bit]
  | true => simp [unready j (List.mem_range.mp listed) bit]

/-- A masked group is the reference outcome exactly where no lower one is masked (R145). -/
theorem ne_lowestMasked_iff {mask : BitVec 4} {j : Nat} (inside : j < 4) (masked : mask.getLsbD j = true) :
    j ≠ lowestMasked mask.toNat ↔ ∃ l < j, mask.getLsbD l = true := by
  have lowest {l : Nat} (found : (List.range 4).find? (fun j => mask.toNat.testBit j) = some l) :
      mask.getLsbD l = true ∧ ∀ m < l, mask.getLsbD m = false := by
    obtain ⟨here, _, below⟩ := List.find?_range_eq_some.mp found
    exact ⟨BitVec.testBit_toNat mask ▸ here, fun m lower => by simpa [BitVec.testBit_toNat] using below m lower⟩
  rw [lowestMasked]
  cases found : (List.range 4).find? (fun j => mask.toNat.testBit j) with
  | none => exact absurd (BitVec.testBit_toNat mask ▸ masked) (List.find?_eq_none.mp found j (List.mem_range.mpr inside))
  | some l =>
    obtain ⟨first, below⟩ := lowest found
    rw [Option.getD_some]
    refine ⟨fun other => ⟨l, ?_, first⟩, ?_⟩
    · refine (Nat.lt_or_gt_of_ne other).resolve_left fun lower => ?_
      rw [below j lower] at masked
      exact nomatch masked
    · rintro ⟨m, lower, set⟩ rfl
      rw [below m lower] at set
      exact nomatch set

theorem mask_ne_zero {mask : BitVec 4} {j : Nat} (masked : mask.getLsbD j = true) : mask.toNat ≠ 0 := by
  intro zero
  rw [← BitVec.testBit_toNat, zero, Nat.zero_testBit] at masked
  exact nomatch masked

/-- A WAIT_FIRST that proceeds on the group `g + j`. -/
theorem proceedBlock_waitFirst {mask : BitVec 4} {j : Nat} (inside : j < 4) (masked : mask.getLsbD j = true)
    (first : (s.block b).groups.firstReady g mask.toNat = some j) : Claims.OnlyBlock s (s.proceedBlock b g mask.toNat) b { s.block b with
      seq := { (s.block b).seq with waiting := none }, sel := BitVec.ofNat 2 j
      variant := if ∃ l < j, mask.getLsbD l = true then satInc (s.block b).variant else (s.block b).variant } := by
  have chosen := onlyBlock_onBlock (onlyBlock_onBlock (onlyBlock_refl s b) fun k => { k with seq := { k.seq with waiting := none } })
    fun k => { k with sel := BitVec.ofNat 2 j }
  unfold State.proceedBlock
  dsimp only
  rw [if_neg (mask_ne_zero masked), first, Option.getD_some]
  by_cases lower : ∃ l < j, mask.getLsbD l = true
  · rw [if_pos ((ne_lowestMasked_iff inside masked).mpr lower), if_pos lower]
    exact onlyBlock_onBlock chosen _
  · rw [if_neg fun other => lower ((ne_lowestMasked_iff inside masked).mp other), if_neg lower]
    exact chosen

theorem waitSlot_calm (calm : Claims.Calm s b) (g mask : Nat) : s.waitSlot b true g mask = s.waitBlock b g mask := by
  rw [State.waitSlot, calm.1, slot_calm calm]
  rfl

end

theorem waitProceedsOrGates : Claims.WaitProceedsOrGates := by
  intro s b g mask calm k
  have ⟨_, plain, _⟩ := calm
  have waits : exec (.wait b g) s = .next (s.waitBlock b g 0) := congrArg _ (waitSlot_calm calm g 0)
  refine ⟨fun ready => ⟨_, waits, ?proceeds⟩, fun unready => ⟨_, waits, ?gates⟩, fun legal => ?first⟩
  case proceeds =>
    rw [waitBlock_proceeds (by exact ready)]
    exact proceedBlock_wait s b g
  case gates =>
    obtain ⟨rest, own, others, region, regions⟩ := waitBlock_gates plain b.isLt (g := g) (mask := 0) unready
    exact ⟨rest, own, others, region, regions⟩
  case first =>
    have waits : exec (.waitFirst b g mask) s = .next (s.waitBlock b g mask.toNat) := by
      show Host.Outcome.next (s.waitSlot b (Instr.waitFirst b g mask).wellFormed g mask.toNat) = _
      rw [legal, waitSlot_calm calm]
    have some : mask.toNat ≠ 0 := by
      simp only [Instr.wellFormed, Bool.and_eq_true, bne_iff_ne] at legal
      obtain ⟨some, _⟩ := legal
      exact fun zero => some (BitVec.eq_of_toNat_eq zero)
    refine ⟨fun j inside masked ready lower => ⟨_, waits, ?proceeds⟩, fun unready => ⟨_, waits, ?gates⟩⟩
    case proceeds =>
      have first := firstReady_eq_some inside masked ready lower
      rw [waitBlock_proceeds (by rw [Groups.passes, if_neg some, first]; rfl)]
      exact proceedBlock_waitFirst inside masked first
    case gates =>
      have none := firstReady_eq_none unready
      obtain ⟨rest, own, _, region, _⟩ := waitBlock_gates plain b.isLt (g := g) (mask := mask.toNat)
        (by rw [Groups.passes, if_neg some, none]; rfl)
      exact ⟨rest, own, region⟩

theorem gatedRegionWaits : Claims.GatedRegionWaits := by
  intro s b g plain runs gates unready
  have stands : s.issues b = false := by
    rw [State.issues, runs, ← Option.not_isSome, gates]
    rfl
  have blocked : (s.block b).groups.passes g 0 = false := unready
  have slot : exec (.wait b g) s = .next (if !s.slotOffends b 8 then s.waitBlock b g 0 else s) := by
    show Host.Outcome.next (s.waitSlot b true g 0) = _
    rw [State.waitSlot, stands, runs, blocked]
    simp
  have waits (sound : s.slotOffends b 8 = false) : exec (.wait b g) s = .next (s.waitBlock b g 0) := slot.trans (by rw [sound]; rfl)
  refine ⟨fun offends => slot.trans (by simp [offends]), fun sound => ⟨_, waits sound, ?_⟩⟩
  obtain ⟨rest, own, others, region, _⟩ := waitBlock_gates plain b.isLt blocked
  exact ⟨rest, own, others, region, by rw [own]; rfl⟩

theorem waitProceedResumes : Claims.WaitProceedResumes := by
  intro s b i g h
  refine ⟨fun waits ready => ?block, fun waits ready runs => ?stack⟩
  case block =>
    have proceeds := proceedBlock_wait s b g
    obtain ⟨rest, own, others, region, _⟩ := restall_restalls proceeds
    have passes : (s.block b).groups.passes g 0 = true := ready
    refine ⟨(s.proceedBlock b g 0).restall (compRegion b), ?_, rest, by rw [own], by rw [own], by rw [own], others, fun still unstalled => ?_⟩
    · show execWaitProceed (.block b) s = _
      simp only [execWaitProceed, State.unitSeq, waits, passes, if_true]
      rfl
    · rw [region, unitStall_runs b.isLt fun x near => ?_]
      obtain ⟨_, here, elsewhere⟩ := proceeds
      by_cases same : x = b.val
      · rw [same, here]
        exact ⟨rfl, unstalled⟩
      · rw [elsewhere x same]
        exact still x near same
  case stack =>
    let t := s.onStack i (fun k => { k with seq := { k.seq with waiting := none } })
    have own : t.stack i = { s.stack i with seq := { (s.stack i).seq with waiting := none } } := stack_onStack_same s i _
    have others (x : Nat) (other : x ≠ i.val) : t.stack x = s.stack x := stack_onStack_other s _ other
    have passes : (s.stack i).groups.passes h 0 = true := ready
    refine ⟨t.restall (stackRegion i), ?_, rfl, own, others, ?_⟩
    · show execWaitProceed (.stack i) s = _
      simp only [execWaitProceed, State.unitSeq, waits, passes, if_true]
      rfl
    · obtain ⟨_, region, _⟩ := restall_only t (stackRegion i)
      rw [region, unitStall_stack i.isLt, own]
      simp only [runs]
      rfl

/-- Settles O33: a wait that proceeds or gates its region (`waitProceedsOrGates`), one in a region that gates already (`gatedRegionWaits`),
and its end (`waitProceedResumes`). -/
theorem arrivalWaits : Obligations.ArrivalWaits := ⟨waitProceedsOrGates, gatedRegionWaits, waitProceedResumes⟩

end Sys2Proof.Machine
end

/-! SUPPORT. Signals, and the marked reads of a calm block (R132, R137, R145): O34. -/

section
namespace Sys2Proof.Machine

open Sys2Proof

/-! Tokens (R72, R78) -/

theorem token_clocked {s : State} {k : Token} (clocked : Claims.Clocked s k.src) : s.token k = { s with tokens := s.tokens ++ [k] } := by
  obtain ⟨active, present⟩ := clocked
  rw [State.token, State.crossingOn, active, present]
  rfl

theorem planFault_tokens (s : State) (b kind : Nat) : (s.planFault b kind).tokens = s.tokens := by
  unfold State.planFault
  dsimp only
  rw [log_quiet _ (Nat.zero_le 1)]
  rfl

theorem signalCrossesOrFaults : Claims.SignalCrossesOrFaults := by
  intro s b g target p calm
  refine ⟨fun held inside clocked => ?crosses, fun outside => ⟨s.planFault b 4, ?faults, planFault_tokens s b 4, ?marks⟩⟩
  case crosses =>
    refine (next_slot_calm calm 8 _).trans (congrArg _ ?_)
    rw [held]
    dsimp only
    rw [if_pos inside]
    exact token_clocked clocked
  case faults =>
    refine (next_slot_calm calm 8 _).trans (congrArg _ ?_)
    split
    · exact if_neg (Nat.not_lt.mpr outside)
    · rfl
  case marks =>
    obtain ⟨mem, sheaf⟩ := planFault_frame s b 4
    rw [planFault_block]
    refine ⟨bit_setBit_same _ 13, rfl, fun first => ?_, sheaf, mem⟩
    show (if bit (s.block b).err 13 then (s.block b).planFaultInfo else pack [(4, 0), ((s.block b).seq.line % 2 ^ 14, 6)]).toNat % 8 = 4
    rw [first]
    exact pack_kind 4 _ (by decide)

/-! Marked reads (R132, R145) -/

theorem timeRow_eq (t : BitVec 80) : timeRow t = mkRow (fun q => if q = 0 then t.extractLsb' 16 32 else if q = 1 then t.extractLsb' 48 32
    else if q = 2 then (t.extractLsb' 0 16).setWidth 32 else 0) := by
  refine congrArg mkRow (funext fun q => ?_)
  match q with
  | 0 => rfl
  | 1 => rfl
  | 2 =>
    apply BitVec.eq_of_toNat_eq
    simp [field]
  | q + 3 => rfl

theorem sampleCounter_eq (s : State) (b : Nat) {index : BitVec 6} (known : index.toNat ≤ 4) : s.sampleCounter b index.toNat =
    if index = 0 then (s.block b).arrivalStalls else if index = 1 then (s.block b).instrStalls else if index = 2 then (s.block b).variant
    else if index = 3 then s.sheaf.sheafCount.setWidth 32 else s.sheaf.heldTicks := by
  have counters : index = 0 ∨ index = 1 ∨ index = 2 ∨ index = 3 ∨ index = 4 := by bv_omega
  rcases counters with rfl | rfl | rfl | rfl | rfl
  case inr.inr.inr.inl => exact BitVec.ofNat_toNat _ _
  all_goals rfl

/-- A marked read counts in VARIANT_CHOICES, and its row is due three cycles later. -/
theorem markedRead_only (s : State) (b v : Nat) (row : Row) : Claims.OnlyBlock s ((s.variantChoice b).resultV b 8 v 3 row) b { s.block b with
    variant := satInc (s.block b).variant, rank := issueRank (s.cyc (compRegion b)) 8
    pend := (s.block b).pend ++
      [{ cycle := s.cyc (compRegion b) + 3, rank := issueRank (s.cyc (compRegion b)) 8, act := .setV v row }] } :=
  resultV_only (onlyBlock_onBlock (onlyBlock_refl s b) fun k => { k with variant := satInc k.variant }) 8 v 3 row

theorem markedReadResults : Claims.MarkedReadResults := by
  intro s b v index calm k result
  refine ⟨⟨_, next_slot_calm calm 8 _, ?readT⟩, fun known => ⟨_, ?sample, markedRead_only s b v _⟩⟩
  case readT =>
    rw [timeRow_eq]
    exact markedRead_only s b v _
  case sample =>
    have legal : (Instr.sample b index v).wellFormed = true := decide_eq_true known
    show Host.Outcome.next (s.slot b 8 (Instr.sample b index v).wellFormed _) = _
    rw [legal, next_slot_calm calm, sampleCounter_eq s b known]

/-- Settles O34: SIGNAL (`signalCrossesOrFaults`), READ_T and SAMPLE (`markedReadResults`). -/
theorem signalsAndMarkedReads : Obligations.SignalsAndMarkedReads := ⟨signalCrossesOrFaults, markedReadResults⟩

end Sys2Proof.Machine
end

/-! SUPPORT. A move's parts: its channel, its ports, its rows of the present cycle and of later ones (R116, R131, R137). -/

section
namespace Sys2Proof.Machine

open Sys2Proof

/-! A move's start (R118, R131) -/

section
variable {s t : State} {b : Nat} {k : Block}

/-- A move whose channel is free occupies it for its cycles, at its slot's rank. -/
theorem onChannel_free (here : s.block b = k) {ch : Nat} (free : get 0 k.channelFree ch ≤ s.cyc (compRegion b)) (cycles : Nat)
    (f : State → State) : ∃ t, s.onChannel b ch cycles f = f t ∧ Claims.OnlyBlock s t b { k with
      rank := issueRank (s.cyc (compRegion b)) (6 + ch), channelFree := put 0 k.channelFree ch (s.cyc (compRegion b) + cycles) } := by
  subst here
  exact ⟨_, if_pos free, onlyBlock_onBlock (onlyBlock_onBlock (onlyBlock_refl s b)
    fun k => { k with rank := issueRank (s.cyc (compRegion b)) (6 + ch) })
    fun k => { k with channelFree := put 0 k.channelFree ch (s.cyc (compRegion b) + cycles) }⟩

theorem resolveFill_reaches {arx rows line : Nat} (reaches : Claims.Reaches (s.block b) arx .opb (4 * rows) 1 1024 line) (any : 0 < rows) :
    s.resolveFill b arx rows = (s, some line) := by
  obtain ⟨space, place, inside, aligned⟩ := reaches
  have first : Claims.Reaches (s.block b) arx .opb 1 1 1024 line := ⟨space, place, by omega, aligned⟩
  rw [State.resolveFill, resolve_reaches first]
  dsimp only
  rw [if_neg (by omega)]

theorem onlyBlock_sound (only : Claims.OnlyBlock s t b k) {off : Nat} (sound : Claims.Sound s b off) : Claims.Sound t b off := by
  rw [only.1]
  exact sound

theorem onlyBlock_sramRow (only : Claims.OnlyBlock s t b k) (x off : Nat) : t.sramRow x off = s.sramRow x off := by
  rw [only.1]
  rfl

theorem later_only (only : Claims.OnlyBlock s t b k) (cycle : Nat) (a : Act) :
    Claims.OnlyBlock s (t.later b cycle a) b { k with pend := k.pend ++ [{ cycle := cycle, rank := k.rank, act := a }] } :=
  onlyBlock_onBlock only _

/-- A row read so by a move. -/
theorem readRow_only (only : Claims.OnlyBlock s t b k) (plain : s.debugMode = false) {ar off : Nat}
    (reaches : Claims.Reaches k ar .sram 1024 32 sramSize off) (sound : Claims.Sound s b off) (free : get 0 k.reads (s.cyc (compRegion b)) < 2) :
    ∃ u, t.readRow b ar = (u, s.sramRow b off) ∧
      Claims.OnlyBlock s u b { k with reads := upd 0 k.reads (s.cyc (compRegion b)) (· + 1) } := by
  have read := readRow_reaches ((onlyBlock_debugMode only).trans plain) (by rw [only.2.1]; exact reaches) (onlyBlock_sound only sound)
    (by rw [only.2.1, onlyBlock_cyc only]; exact free)
  rw [onlyBlock_sramRow only, onlyBlock_cyc only] at read
  exact ⟨_, read, onlyBlock_onBlock only _⟩

end

/-! Ports for several rows (R115, R116) -/

section
variable {s t : State} {b : Nat} {k : Block}

theorem taken_succ (u : Sparse Nat) (c rows : Nat) : Claims.taken u c (rows + 1) = Claims.taken (upd 0 u c (· + 1)) (c + 1) rows := by
  rw [Claims.taken, List.range_succ_eq_map, List.foldl_cons, List.foldl_map]
  exact List.foldl_ext _ _ _ fun r m _ => congrArg (upd 0 r · (· + 1)) (by omega)

theorem portsFree_rest {u : Sparse Nat} {c rows : Nat} (free : Claims.portsFree u c (rows + 1)) :
    Claims.portsFree (upd 0 u c (· + 1)) (c + 1) rows := by
  intro m inside
  rw [get_upd_other 0 u _ (by omega), Nat.add_assoc, Nat.add_comm 1]
  exact free (m + 1) (by omega)

/-- Ports of one kind, as a field of a block, are taken row by row where each is free. -/
theorem takeRows_free {take : State → Nat → Nat → State × Bool} {ports : Block → Sparse Nat} {withPorts : Sparse Nat → Block → Block}
    (takes : ∀ (t : State) (c o : Nat), get 0 (ports (t.block b)) c < 2 →
      take t c o = (t.onBlock b (fun k => withPorts (upd 0 (ports k) c (· + 1)) k), false))
    (same : ∀ k, withPorts (ports k) k = k) (taken : ∀ u k, ports (withPorts u k) = u)
    (again : ∀ u v k, withPorts u (withPorts v k) = withPorts u k) :
    ∀ (rows : Nat) {t : State} {k : Block} {c : Nat} (off : Nat), Claims.OnlyBlock s t b k → Claims.portsFree (ports k) c rows →
      ∃ u, State.takeRows take t c off rows = (u, List.replicate rows false) ∧
        Claims.OnlyBlock s u b (withPorts (Claims.taken (ports k) c rows) k)
  | 0, t, k, c, _, only, _ => ⟨t, rfl, by rw [show Claims.taken (ports k) c 0 = ports k from rfl, same]; exact only⟩
  | rows + 1, t, k, c, off, only, free => by
    have first := takes t c off (by rw [only.2.1]; exact free 0 (Nat.succ_pos rows))
    obtain ⟨u, rest, further⟩ := takeRows_free takes same taken again rows (c := c + 1) (off + 1024)
      (onlyBlock_onBlock only fun k => withPorts (upd 0 (ports k) c (· + 1)) k)
      (by rw [taken]; exact portsFree_rest free)
    refine ⟨u, ?_, ?_⟩
    · rw [State.takeRows, first]
      dsimp only
      rw [rest]
      rfl
    · rw [taken, ← taken_succ, again] at further
      exact further

theorem takeReads_free (only : Claims.OnlyBlock s t b k) {c : Nat} (rows off : Nat) (free : Claims.portsFree k.reads c rows) :
    ∃ u, State.takeRows (fun t c o => t.takeRead b c o) t c off rows = (u, List.replicate rows false) ∧
      Claims.OnlyBlock s u b { k with reads := Claims.taken k.reads c rows } :=
  takeRows_free (ports := Block.reads) (withPorts := fun u k => { k with reads := u }) (fun _ _ o free => takeRead_free free o)
    (fun _ => rfl) (fun _ _ => rfl) (fun _ _ _ => rfl) rows off only free

theorem takeWrites_free (only : Claims.OnlyBlock s t b k) {c : Nat} (rows off : Nat) (free : Claims.portsFree k.writes c rows) :
    ∃ u, State.takeRows (fun t c o => t.takeWrite b c o) t c off rows = (u, List.replicate rows false) ∧
      Claims.OnlyBlock s u b { k with writes := Claims.taken k.writes c rows } :=
  takeRows_free (ports := Block.writes) (withPorts := fun u k => { k with writes := u }) (fun _ _ o free => takeWrite_free free o)
    (fun _ => rfl) (fun _ _ => rfl) (fun _ _ _ => rfl) rows off only free

/-- A row that lands from another region needs to displace none where a port is free. -/
theorem takeLandings_free (only : Claims.OnlyBlock s t b k) {c : Nat} (rank rows off : Nat) (free : Claims.portsFree k.writes c rows) :
    ∃ u, State.takeRows (fun t c o => t.takeLanding b rank c o) t c off rows = (u, List.replicate rows false) ∧
      Claims.OnlyBlock s u b { k with writes := Claims.taken k.writes c rows } :=
  takeRows_free (ports := Block.writes) (withPorts := fun u k => { k with writes := u })
    (fun _ _ o free => (if_pos free).trans (takeWrite_free free o)) (fun _ => rfl) (fun _ _ => rfl) (fun _ _ _ => rfl) rows off only free

theorem zipIdx_replicate {α : Type} (a : α) (n : Nat) : (List.replicate n a).zipIdx = (List.range n).map (fun m => (a, m)) := by
  apply List.ext_getElem
  · simp
  · intro i _ _
    simp

theorem zipIdx_map_range {α : Type} (g : Nat → α) (n : Nat) : ((List.range n).map g).zipIdx = (List.range n).map (fun m => (g m, m)) := by
  apply List.ext_getElem
  · simp
  · intro i _ _
    simp

end

/-! Rows kept for later cycles (R116, R138) -/

section
variable {s t : State} {b : Nat} {k : Block}

/-- Effects put into later cycles stand behind those that wait already. -/
theorem foldl_later_only (c : Nat) : ∀ (l : List (Act × Nat)) {t : State} {k : Block}, Claims.OnlyBlock s t b k →
    Claims.OnlyBlock s (l.foldl (fun t p => t.later b (c + p.2) p.1) t) b
      { k with pend := k.pend ++ l.map (fun p => { cycle := c + p.2, rank := k.rank, act := p.1 }) }
  | [], t, k, only => by rw [List.map_nil, List.append_nil]; exact only
  | p :: l, t, k, only => by
    have rest := foldl_later_only c l (later_only only (c + p.2) p.1)
    rwa [List.append_assoc] at rest

/-- Of effects that all lie ahead, the one read of the present cycle is performed, and none is left behind. -/
theorem settle_read {d : Due} {ahead behind : List Due} (only : Claims.OnlyBlock s t b { k with pend := ahead ++ d :: behind })
    (now : d.cycle = s.cyc (compRegion b)) (read : d.act.isStore = false) (first : ∀ e ∈ ahead, s.cyc (compRegion b) < e.cycle)
    (last : ∀ e ∈ behind, s.cyc (compRegion b) < e.cycle) :
    ∃ u, t.settle b = u.perform b d ∧ Claims.OnlyBlock s u b { k with pend := ahead ++ behind } := by
  have due (l : List Due) (later : ∀ e ∈ l, s.cyc (compRegion b) < e.cycle) :
      l.filter (fun e => decide (e.cycle ≤ s.cyc (compRegion b))) = [] ∧ l.filter (fun e => !decide (e.cycle ≤ s.cyc (compRegion b))) = l := by
    rw [List.filter_eq_nil_iff, List.filter_eq_self]
    exact ⟨fun e listed => by simp [later e listed], fun e listed => by simp [later e listed]⟩
  have present : (ahead ++ d :: behind).filter (fun e => decide (e.cycle ≤ s.cyc (compRegion b))) = [d] := by
    rw [List.filter_append, (due ahead first).1, List.filter_cons_of_pos (by simp [now]), (due behind last).1]
    rfl
  have kept : (ahead ++ d :: behind).filter (fun e => !decide (e.cycle ≤ s.cyc (compRegion b))) = ahead ++ behind := by
    rw [List.filter_append, (due ahead first).2, List.filter_cons_of_neg (by simp [now]), (due behind last).2]
  refine ⟨t.onBlock b fun k => { k with pend := k.pend.filter (fun e => !decide (e.cycle ≤ t.blockCycle b)) }, ?_, ?_⟩
  · unfold State.settle
    dsimp only
    rw [State.blockCycle, onlyBlock_cyc only, only.2.1, present, List.filter_cons_of_neg (by simp [read]), List.filter_cons_of_pos (by simp [read])]
    rfl
  · have settled := onlyBlock_onBlock only fun k => { k with pend := k.pend.filter (fun e => !decide (e.cycle ≤ t.blockCycle b)) }
    rw [State.blockCycle, onlyBlock_cyc only] at settled ⊢
    rw [kept] at settled
    exact settled

/-- A move's rows from the present cycle on: row 0 is read at once, row `m` waits for its cycle. -/
theorem laterAll_reads (only : Claims.OnlyBlock s t b k) (fresh : ∀ d ∈ k.pend, s.cyc (compRegion b) < d.cycle) (g : Nat → Act)
    (reads : (g 0).isStore = false) (n : Nat) :
    ∃ u, t.laterAll b (s.cyc (compRegion b)) ((List.range (n + 1)).map g) =
        u.perform b { cycle := s.cyc (compRegion b), rank := k.rank, act := g 0 } ∧
      Claims.OnlyBlock s u b { k with pend := k.pend ++ (List.range n).map (fun m =>
        { cycle := s.cyc (compRegion b) + (m + 1), rank := k.rank, act := g (m + 1) }) } := by
  have started := foldl_later_only (s.cyc (compRegion b)) (((List.range (n + 1)).map g).zipIdx) only
  have rows : (((List.range (n + 1)).map g).zipIdx).map (fun p => ({ cycle := s.cyc (compRegion b) + p.2, rank := k.rank, act := p.1 } : Due)) =
      { cycle := s.cyc (compRegion b), rank := k.rank, act := g 0 } :: (List.range n).map (fun m =>
        { cycle := s.cyc (compRegion b) + (m + 1), rank := k.rank, act := g (m + 1) }) := by
    rw [zipIdx_map_range, List.map_map, List.range_succ_eq_map, List.map_cons, List.map_map]
    rfl
  rw [rows] at started
  refine settle_read started rfl reads fresh fun e listed => ?_
  obtain ⟨m, _, rfl⟩ := List.mem_map.mp listed
  exact Nat.lt_add_of_pos_right (Nat.succ_pos m)

end

end Sys2Proof.Machine
end

/-! SUPPORT. The moves of a block, inside it and out of it (R131, R137, R155): O32. -/

section
namespace Sys2Proof.Machine

open Sys2Proof

/-! Moves inside a block (R131, R137) -/

theorem readOpbNow_only {s t : State} {b : Nat} {k : Block} (only : Claims.OnlyBlock s t b k) {off : Nat} (sound : Claims.Sound s b off)
    (rank cell line : Nat) : Claims.OnlyBlock s (t.readOpbNow b rank cell line off false) b { k with
      pend := k.pend ++ [{ cycle := s.cyc (compRegion b) + 5, rank := rank
                           act := .opb cell line (readBytes s.mem (blockBase b + off) 1024) }] } := by
  have read : t.readOpbNow b rank cell line off false = t.onBlock b (fun k => { k with
      pend := k.pend ++ [{ cycle := s.cyc (compRegion b) + 5, rank := rank
                           act := .opb cell line (readBytes s.mem (blockBase b + off) 1024) }] }) := by
    rw [State.readOpbNow, State.blockCycle, onlyBlock_cyc only, State.peek, onlyBlock_mem only, sramCheck_sound (onlyBlock_sound only sound)]
    rfl
  rw [read]
  exact onlyBlock_onBlock only _

theorem localMoveResults : Claims.LocalMoveResults := by
  intro s b ch ars arx vreg len cell off line calm k c rows row free
  have ⟨_, plain, _⟩ := calm
  refine ⟨fun reaches => ⟨fun sound port => ⟨_, next_slot_calm calm _ _, ?ldV⟩, fun port => ⟨_, next_slot_calm calm _ _, ?stV⟩⟩,
    fun source fill sound ports fresh => ?ldOpb⟩
  case ldV =>
    obtain ⟨t, started, only⟩ := onChannel_free (k := k) rfl free 1 _
    obtain ⟨u, read, further⟩ := readRow_only only plain reaches sound port
    rw [started, read]
    dsimp only
    rw [State.blockCycle, onlyBlock_cyc only]
    exact later_only further _ _
  case stV =>
    obtain ⟨t, started, only⟩ := onChannel_free (k := k) rfl free 1 _
    rw [started, rawCheck_plain ((onlyBlock_debugMode only).trans plain), State.blockCycle, onlyBlock_cyc only, only.2.1]
    exact writeRow_only only plain _ reaches port
  case ldOpb =>
    obtain ⟨t, started, only⟩ := onChannel_free (k := k) rfl free (len.toNat + 1) _
    have resolved : t.resolveSram b ars (len.toNat + 1) = (t, some off) := resolve_reaches (by rw [only.2.1]; exact source)
    have filled : t.resolveFill b arx (len.toNat + 1) = (t, some line) := resolveFill_reaches (by rw [only.2.1]; exact fill) (Nat.succ_pos _)
    obtain ⟨u, taken, further⟩ := takeReads_free only (len.toNat + 1) off ports
    obtain ⟨v, performed, last⟩ := laterAll_reads further fresh
      (fun m => .readOpb cell (line + 4 * m) (off + 1024 * m) false) rfl len.toNat
    refine ⟨_, (next_slot_calm calm _ _).trans (congrArg _ ?_), readOpbNow_only last sound (issueRank c (6 + ch)) cell line⟩
    rw [started]
    dsimp only
    rw [resolved]
    dsimp only
    rw [filled]
    dsimp only
    rw [rawSram_plain ((onlyBlock_debugMode only).trans plain), State.blockCycle, onlyBlock_cyc only, taken, zipIdx_replicate, List.map_map]
    exact performed

/-! Moves out of a block (R131, R137, R155) -/

section
variable {s t u : State} {b : Nat} {k : Block}

theorem onlyBlock_clocked (only : Claims.OnlyBlock s t b k) {r : Nat} (clocked : Claims.Clocked s r) : Claims.Clocked t r := by
  rw [only.1]
  exact clocked

/-- A token put into its crossing by a block that alone has changed. -/
theorem token_only (only : Claims.OnlyBlock s t b k) (x : Token) (clocked : Claims.Clocked s x.src) :
    t.token x = { s with blocks := (t.token x).blocks, tokens := s.tokens ++ [x] } ∧ (t.token x).block b = k ∧
      ∀ y, y ≠ b → (t.token x).block y = s.block y := by
  rw [token_clocked (onlyBlock_clocked only clocked)]
  obtain ⟨rest, own, others⟩ := only
  refine ⟨?_, own, others⟩
  rw [rest]

theorem rowNow_only (only : Claims.OnlyBlock s t b k) (off : Nat) : t.rowNow b off false = readBytes s.mem (blockBase b + off) 1024 := by
  rw [only.1]
  rfl

theorem rowCheck_sound (only : Claims.OnlyBlock s t b k) {off : Nat} (sound : Claims.Sound s b off) (refused : Bool) :
    t.rowCheck b off refused = t := by
  cases refused with
  | false => exact sramCheck_sound (onlyBlock_sound only sound)
  | true => rfl

theorem answerCheck_plain (plain : s.debugMode = false) (b i : Nat) : s.answerCheck b i = s := by
  simp [State.answerCheck, plain]

/-- Blocks that stay active or not, and keep their logical number, are held by the same logical blocks (R114). -/
theorem physOf_only (only : Claims.OnlyBlock s t b k) (active : k.active = (s.block b).active) (logical : k.logical = (s.block b).logical)
    (lb : Nat) : t.physOf lb = s.physOf lb := by
  obtain ⟨_, own, others⟩ := only
  have each (p : Nat) : ((t.block p).active && (t.block p).logical.toNat == lb) = ((s.block p).active && (s.block p).logical.toNat == lb) := by
    by_cases same : p = b
    · rw [same, own, active, logical]
    · rw [others p same]
  rw [State.physOf, State.physOf]
  exact congrArg (List.find? · _) (funext each)

/-- A row sent to an egress buffer in the cycle in which it is read. -/
theorem perform_readEgress (only : Claims.OnlyBlock s t b k) {off : Nat} (sound : Claims.Sound s b off) (cycle rank net e release : Nat) :
    t.perform b { cycle := cycle, rank := rank, act := .readEgress net e off release false } = t.token {
      src := compRegion b, dst := netRegion net, sent := s.cyc (compRegion b), release := release
      payload := .egress (egressBase net e) (readBytes s.mem (blockBase b + off) 1024) } := by
  rw [State.perform]
  dsimp only
  rw [rowCheck_sound only sound, State.blockCycle, onlyBlock_cyc only, rowNow_only only]

/-- A row sent to another block so. -/
theorem perform_readXfer (only : Claims.OnlyBlock s t b k) {off : Nat} (sound : Claims.Sound s b off) (cycle rank p o release : Nat) :
    t.perform b { cycle := cycle, rank := rank, act := .readXfer p o off release false false } = t.token {
      src := compRegion b, dst := compRegion p, sent := s.cyc (compRegion b), release := release
      payload := .rows p o (readBytes s.mem (blockBase b + off) 1024) rank } := by
  rw [State.perform]
  dsimp only
  rw [if_neg Bool.false_ne_true, rowCheck_sound only sound, State.blockCycle, onlyBlock_cyc only, rowNow_only only]

theorem onlyBlock_block (only : Claims.OnlyBlock s t b k) (x : Nat) : t.block x = if x = b then k else s.block x := by
  obtain ⟨_, own, others⟩ := only
  split
  · rename_i same
    rw [same, own]
  · rename_i other
    exact others x other

/-- Rows that land in a block which itself sends, or in another: the ports of the receiving one are taken. -/
theorem landings_only (only : Claims.OnlyBlock s t b k) (writes : k.writes = (s.block b).writes) {p c : Nat} (rank rows off : Nat)
    (free : Claims.portsFree (s.block p).writes c rows) :
    ∃ u, State.takeRows (fun t c o => t.takeLanding p rank c o) t c off rows = (u, List.replicate rows false) ∧
      Claims.OnlyBlock t u p { t.block p with writes := Claims.taken (s.block p).writes c rows } := by
  have held : (t.block p).writes = (s.block p).writes := by
    rw [onlyBlock_block only]
    split
    · rename_i same
      rw [same, writes]
    · rfl
  rw [← held] at free ⊢
  exact takeLandings_free (onlyBlock_refl t p) rank rows off free

/-- The rows of an XFER once the ports of both blocks are taken: row 0 crosses at once, the later ones wait at the sender. -/
theorem landed_sends {w : State} {p c : Nat} {ports : Sparse Nat} (sender : Claims.OnlyBlock s u b k)
    (receiver : Claims.OnlyBlock u w p { u.block p with writes := ports }) (now : s.cyc (compRegion b) = c) (fresh : ∀ d ∈ k.pend, c < d.cycle)
    {off : Nat} (sound : Claims.Sound s b off) (clocked : Claims.Clocked s (compRegion b)) (place n : Nat) :
    ∃ v, w.laterAll b c ((List.range (n + 1)).map (fun m => .readXfer p (place + 1024 * m) (off + 1024 * m) (c + 20 + m) false false)) = v ∧
      v = { s with blocks := v.blocks, tokens := s.tokens ++ [{
        src := compRegion b, dst := compRegion p, sent := c, release := c + 20
        payload := .rows p place (readBytes s.mem (blockBase b + off) 1024) k.rank }] } ∧
      ∀ x, v.block x =
        let q := if x = b then { k with pend := k.pend ++ (List.range n).map (fun m =>
          { cycle := c + (m + 1), rank := k.rank
            act := .readXfer p (place + 1024 * (m + 1)) (off + 1024 * (m + 1)) (c + 20 + (m + 1)) false false }) } else s.block x
        if x = p then { q with writes := ports } else q := by
  have blocks (x : Nat) : w.block x =
      let q := if x = b then k else s.block x
      if x = p then { q with writes := ports } else q := by
    dsimp only
    rw [onlyBlock_block receiver, ← onlyBlock_block sender]
    split
    · rename_i same
      rw [same]
    · rfl
  have own : (w.block b).pend = k.pend ∧ (w.block b).rank = k.rank := by
    rw [blocks]
    dsimp only
    rw [if_pos rfl]
    split <;> exact ⟨rfl, rfl⟩
  have time : w.cyc (compRegion b) = c := ((onlyBlock_cyc receiver _).trans (onlyBlock_cyc sender _)).trans now
  have rest : w = { s with blocks := w.blocks } := by rw [receiver.1, sender.1]
  have reads : Claims.Sound w b off ∧ Claims.Clocked w (compRegion b) ∧ w.mem = s.mem := by
    rw [rest]
    exact ⟨sound, clocked, rfl⟩
  obtain ⟨v, performed, last⟩ := laterAll_reads (onlyBlock_refl w b) (by rw [own.1, time]; exact fresh)
    (fun m => .readXfer p (place + 1024 * m) (off + 1024 * m) (c + 20 + m) false false) rfl n
  have sends := performed.trans (perform_readXfer last reads.1 _ _ _ _ _)
  obtain ⟨others, _, _⟩ := token_only last { src := compRegion b, dst := compRegion p, sent := c, release := c + 20
                                             payload := .rows p place (readBytes s.mem (blockBase b + off) 1024) k.rank } reads.2.1
  rw [time, own.2, reads.2.2] at sends
  refine ⟨_, sends, ?_, fun x => ?_⟩
  · refine others.trans ?_
    rw [rest]
    rfl
  · rw [token_clocked (onlyBlock_clocked last reads.2.1)]
    show v.block x = _
    rw [onlyBlock_block last, own.1, own.2, time]
    by_cases same : x = b
    · rw [if_pos same, same, blocks]
      dsimp only
      rw [if_pos rfl, if_pos rfl]
      split <;> rfl
    · rw [if_neg same, blocks]
      dsimp only
      rw [if_neg same, if_neg same]

end

theorem outwardMoveResults : Claims.OutwardMoveResults := by
  intro s b ch ars arx len off place p calm k c rows row net free clocked
  have ⟨_, plain, _⟩ := calm
  refine ⟨fun source target => ⟨fun ports => ⟨_, next_slot_calm calm _ _, ?hbmRd⟩, fun sound ports => ⟨_, next_slot_calm calm _ _, ?hbmWr⟩⟩,
    fun source sound ports fresh => ⟨fun target => ?egress, fun target held landings => ?xfer⟩⟩
  case hbmRd =>
    obtain ⟨t, started, only⟩ := onChannel_free (k := k) rfl free 2 _
    have quiet := (onlyBlock_debugMode only).trans plain
    have resolved : t.resolveSram b ars 2 = (t, some off) := resolve_reaches (by rw [only.2.1]; exact source)
    have placed : t.resolve b arx .dev 2048 2048 hbmSize = (t, some place) := resolve_reaches (by rw [only.2.1]; exact target)
    obtain ⟨u, taken, further⟩ := takeWrites_free only 2 off ports
    rw [started]
    dsimp only
    rw [resolved]
    dsimp only
    rw [placed]
    dsimp only
    rw [landCheck_plain quiet, State.blockCycle, onlyBlock_cyc only, taken, answerCheck_plain ((onlyBlock_debugMode further).trans plain), only.2.1]
    have granted : (List.replicate 2 false).foldl (fun n r => 2 * n + b2n r) 0 = 0 := rfl
    rw [granted, Nat.zero_mul, Nat.add_zero]
    exact token_only further _ clocked
  case hbmWr =>
    obtain ⟨t, started, only⟩ := onChannel_free (k := k) rfl free 2 _
    have quiet := (onlyBlock_debugMode only).trans plain
    have resolved : t.resolveSram b ars 2 = (t, some off) := resolve_reaches (by rw [only.2.1]; exact source)
    have placed : t.resolve b arx .dev 2048 2048 hbmSize = (t, some place) := resolve_reaches (by rw [only.2.1]; exact target)
    obtain ⟨u, taken, further⟩ := takeReads_free only 2 off ports
    rw [started]
    dsimp only
    rw [resolved]
    dsimp only
    rw [placed]
    dsimp only
    have granted : (List.replicate 2 false).getD 0 false = false ∧ (List.replicate 2 false).getD 1 false = false := ⟨rfl, rfl⟩
    rw [rawSram_plain quiet, State.blockCycle, onlyBlock_cyc only, taken, rowCheck_sound further sound, only.2.1, granted.1, granted.2,
      rowNow_only further]
    exact later_only further _ _
  case egress =>
    obtain ⟨t, started, only⟩ := onChannel_free (k := k) rfl free (len.toNat + 1) _
    have quiet := (onlyBlock_debugMode only).trans plain
    have resolved : t.resolveSram b ars (len.toNat + 1) = (t, some off) := resolve_reaches (by rw [only.2.1]; exact source)
    have placed : t.resolve b arx .egress (2 * (len.toNat + 1)) 1 4096 = (t, some place) := resolve_reaches (by rw [only.2.1]; exact target)
    obtain ⟨u, taken, further⟩ := takeReads_free only (len.toNat + 1) off ports
    obtain ⟨v, performed, last⟩ := laterAll_reads further fresh
      (fun m => .readEgress net (place + 2 * m) (off + 1024 * m) (c + 25 + m) false) rfl len.toNat
    refine ⟨_, (next_slot_calm calm _ _).trans (congrArg _ ?_), token_only last _ clocked⟩
    rw [started]
    dsimp only
    rw [resolved]
    dsimp only
    rw [placed]
    dsimp only
    rw [rawSram_plain quiet, State.blockCycle, onlyBlock_cyc only, taken, only.2.1, zipIdx_replicate, List.map_map]
    exact performed.trans (perform_readEgress last sound _ _ _ _ _)
  case xfer =>
    obtain ⟨t, started, only⟩ := onChannel_free (k := k) rfl free (len.toNat + 1) _
    have quiet := (onlyBlock_debugMode only).trans plain
    have resolved : t.resolveSram b ars (len.toNat + 1) = (t, some off) := resolve_reaches (by rw [only.2.1]; exact source)
    have placed : t.resolve b arx .remote (1024 * (len.toNat + 1)) 32 sramSize = (t, some place) :=
      resolve_reaches (by rw [only.2.1]; exact target)
    have named : t.physOf ((t.block b).areg arx).aux = some p := by
      rw [only.2.1, physOf_only only rfl rfl]
      exact held
    obtain ⟨u, taken, further⟩ := takeReads_free only (len.toNat + 1) off ports
    obtain ⟨w, landed, receiver⟩ := landings_only further rfl (issueRank c (6 + ch)) (len.toNat + 1) place landings
    obtain ⟨v, sent, rest, blocks⟩ := landed_sends further receiver rfl fresh sound clocked place len.toNat
    refine ⟨v, (next_slot_calm calm _ _).trans (congrArg _ ?_), rest, fun x => (blocks x).trans ?_⟩
    · rw [started]
      dsimp only
      rw [resolved, named]
      dsimp only
      rw [placed]
      dsimp only
      rw [rawSram_plain quiet, State.blockCycle, onlyBlock_cyc only, taken, only.2.1]
      dsimp only
      rw [landCheck_plain ((onlyBlock_debugMode further).trans plain), landed]
      dsimp only
      rw [List.zip_replicate', zipIdx_replicate, List.map_map]
      exact sent
    · dsimp only
      by_cases sends : x = b.val
      · rw [sends, if_pos rfl]
        split
        · rename_i receives
          rw [← receives]
        · rfl
      · rw [if_neg sends, if_neg sends]
        split
        · rename_i receives
          rw [receives]
        · rfl

/-- Settles O32: the moves inside a block (`localMoveResults`) and out of it (`outwardMoveResults`). -/
theorem localAndOutwardMoves : Obligations.LocalAndOutwardMoves := ⟨localMoveResults, outwardMoveResults⟩

end Sys2Proof.Machine
end

/-! SUPPORT. Loops of a sequencer, the stalls of instruction fetch, and lines read back from an instruction memory of two halves (R134, R135, R136,
R143, R163, R188). -/

section
namespace Sys2Proof.Machine

open Sys2Proof

/-! Loops (R135) -/

section
variable {q : Sequencer} {l : Nat}

theorem active_eq_false (idle : ∀ y ∈ q.loops, y.level ≠ l) : q.active l = false := by
  rw [Sequencer.active, List.any_eq_false]
  exact fun y listed => by simp [idle y listed]

variable {x : LoopLevel} {rest : List LoopLevel}

theorem active_eq_true (loops : q.loops = x :: rest) (level : x.level = l) : q.active l = true := by
  simp [Sequencer.active, loops, level]

theorem closeLoop_again (loops : q.loops = x :: rest) (level : x.level = l) (others : ∀ y ∈ rest, y.level ≠ l) (more : x.iter + 1 < x.trip) :
    q.closeLoop l = { q with loops := { x with iter := x.iter + 1 } :: rest, jump := some x.body } := by
  have same : rest.map (fun y => if y.level = l then { y with iter := y.iter + 1 } else y) = rest :=
    (List.map_congr_left fun y listed => if_neg (others y listed)).trans (List.map_id' rest)
  rw [Sequencer.closeLoop, loops, List.find?_cons_of_pos (by simp [level])]
  dsimp only
  rw [if_pos more, List.map_cons, if_pos level, same]

theorem closeLoop_last (loops : q.loops = x :: rest) (level : x.level = l) (others : ∀ y ∈ rest, y.level ≠ l) (done : x.trip ≤ x.iter + 1) :
    q.closeLoop l = { q with loops := rest } := by
  have same : rest.filter (fun y => y.level != l) = rest := List.filter_eq_self.mpr fun y listed => by simp [others y listed]
  rw [Sequencer.closeLoop, loops, List.find?_cons_of_pos (by simp [level])]
  dsimp only
  rw [if_neg (Nat.not_lt.mpr done), List.filter_cons_of_neg (by simp [level]), same]

end

theorem blockLoopControl : Claims.BlockLoopControl := by
  intro s b l trip x rest calm k
  refine ⟨fun idle => ?begin, fun loops level others => ⟨fun more => ?again, fun done => ?last⟩, next_slot_calm calm 9 _⟩
  case begin =>
    show Host.Outcome.next (s.slot b 9 (!(s.block b).seq.active l) _) = _
    rw [active_eq_false idle]
    exact next_slot_calm calm 9 _
  all_goals
    show Host.Outcome.next (s.slot b 9 ((s.block b).seq.active l) _) = _
    rw [active_eq_true loops level]
    refine (next_slot_calm calm 9 _).trans (congrArg _ (onBlock_congr s ?_))
  case again => rw [closeLoop_again loops level others more]
  case last => rw [closeLoop_last loops level others done]

/-! Stalls (R134, R143) -/

theorem unitStall_stalled {s : State} {b : Nat} (inside : b < 64) (stalled : (s.block b).seq.stalled = true) :
    (s.unitStall (compRegion b)).isSome = true := by
  have own : 4 * (b / 4) + b % 4 = b := Nat.div_add_mod b 4
  have found : ((List.range 4).map (fun j => (s.block (4 * (b / 4) + j)).seq)).any (fun q => q.stalled) = true := by
    refine List.any_eq_true.mpr ⟨_, List.mem_map.mpr ⟨b % 4, List.mem_range.mpr (Nat.mod_lt b (by decide)), rfl⟩, ?_⟩
    rw [own]
    exact stalled
  rw [unitStall_compute inside]
  dsimp only
  rw [if_pos found]
  split <;> rfl

theorem instructionStall_due {s : State} {u : UnitId} (runs : (s.unitSeq u).ended = false) (late : (s.unitSeq u).fetched ≤ (s.unitSeq u).line) :
    exec (.instructionStall u) s = .next ((s.onSeq u (fun q => { q with stalled := true })).restall (unitRegion u)) := by
  show execInstructionStall u s = _
  simp [execInstructionStall, runs, late]

theorem blockStalls {s : State} {b : Fin 64} (runs : (s.block b).seq.ended = false) (late : (s.block b).seq.fetched ≤ (s.block b).seq.line) :
    ∃ t, exec (.instructionStall (.block b)) s = .next t ∧ t = { s with blocks := t.blocks, regions := t.regions } ∧
      t.block b = { s.block b with seq := { (s.block b).seq with stalled := true } } ∧ (t.region (compRegion b)).stall.isSome = true ∧
      ∀ x, x ≠ b.val → t.block x = s.block x := by
  have stalls := onlyBlock_onBlock (onlyBlock_refl s b) fun k => { k with seq := { k.seq with stalled := true } }
  obtain ⟨rest, own, others, region, _⟩ := restall_restalls stalls
  refine ⟨_, instructionStall_due runs late, rest, own, ?_, others⟩
  have stands := unitStall_stalled (s := s.onBlock b fun k => { k with seq := { k.seq with stalled := true } }) b.isLt (by rw [stalls.2.1])
  exact (congrArg (·.stall.isSome) region).trans stands

theorem stackStalls {s : State} {i : Fin 12} (runs : (s.stack i).seq.ended = false) (late : (s.stack i).seq.fetched ≤ (s.stack i).seq.line) :
    ∃ t, exec (.instructionStall (.stack i)) s = .next t ∧ t = { s with stks := t.stks, regions := t.regions } ∧
      t.stack i = { s.stack i with seq := { (s.stack i).seq with stalled := true } } ∧ (t.region (stackRegion i)).stall.isSome = true ∧
      ∀ x, x ≠ i.val → t.stack x = s.stack x := by
  let t := s.onStack i (fun k => { k with seq := { k.seq with stalled := true } })
  have own : t.stack i = { s.stack i with seq := { (s.stack i).seq with stalled := true } } := stack_onStack_same s i _
  have others (x : Nat) (other : x ≠ i.val) : t.stack x = s.stack x := stack_onStack_other s _ other
  refine ⟨_, instructionStall_due runs late, rfl, own, ?_, others⟩
  obtain ⟨_, region, _⟩ := restall_only t (stackRegion i)
  refine (congrArg (·.stall.isSome) region).trans ?_
  show (t.unitStall (stackRegion i)).isSome = true
  rw [unitStall_stack i.isLt, own]
  simp only [if_true]
  split <;> rfl

/-! Lines in an instruction memory of two halves (R134, R163, R188) -/

theorem readByte_writeBytes : ∀ (bs : List Byte) (m : Memory) (a x : Nat), readByte (writeBytes m a bs) x =
    if a ≤ x ∧ x < a + bs.length then bs.getD (x - a) 0 else readByte m x
  | [], m, a, x => by rw [if_neg (by rw [List.length_nil]; omega)]; rfl
  | b :: bs, m, a, x => by
    rw [writeBytes, readByte_writeBytes bs, List.length_cons]
    by_cases first : x = a
    · rw [first, if_neg (by omega), if_pos (by omega), readByte_writeByte_same, Nat.sub_self, List.getD_cons_zero]
    · rw [readByte_writeByte_other m b first]
      by_cases inside : a + 1 ≤ x ∧ x < a + 1 + bs.length
      · rw [if_pos inside, if_pos (by omega), show x - a = (x - (a + 1)) + 1 by omega, List.getD_cons_succ]
      · rw [if_neg inside, if_neg (by omega)]

theorem readBytes_eq_map (m : Memory) : ∀ (n a : Nat), readBytes m a n = (List.range n).map (fun i => readByte m (a + i))
  | 0, _ => rfl
  | n + 1, a => by
    rw [readBytes, readBytes_eq_map m n, List.range_succ_eq_map, List.map_cons, List.map_map]
    exact congrArg _ (List.map_congr_left fun i _ => congrArg (readByte m) (by rw [Nat.succ_eq_add_one]; omega))

/-- Lines put in from a line on, the rest of them from the first line again, are read back each at its place. -/
theorem readBytes_ring {w lines first j : Nat} {bs : List Byte} (m : Memory) (base : Nat) (short : bs.length ≤ lines * w)
    (inside : w * (j + 1) ≤ bs.length) :
    readBytes (writeBytes (writeBytes m (base + w * (first % lines)) (bs.take ((lines - first % lines) * w))) base
      (bs.drop ((lines - first % lines) * w))) (base + w * ((first + j) % lines)) w = (bs.drop (w * j)).take w := by
  rcases Nat.eq_zero_or_pos w with rfl | wide
  · simp [readBytes]
  have fewer : j < lines := by
    have : w * (j + 1) ≤ w * lines := inside.trans (by rwa [Nat.mul_comm] at short)
    exact Nat.le_of_mul_le_mul_left this wide
  have start : first % lines < lines := Nat.mod_lt _ (by omega)
  have parts : (lines - first % lines) * w + w * (first % lines) = lines * w := by
    rw [Nat.mul_comm w, ← Nat.add_mul]
    congr 1
    omega
  rw [readBytes_eq_map]
  apply List.ext_getElem
  · rw [List.length_map, List.length_range, List.length_take, List.length_drop]
    rw [Nat.mul_succ] at inside
    omega
  intro i low _
  rw [List.length_map, List.length_range] at low
  rw [Nat.mul_succ] at inside
  simp only [List.getElem_map, List.getElem_range, List.getElem_take, List.getElem_drop, readByte_writeBytes, List.length_take, List.length_drop]
  have byte : bs.getD (w * j + i) 0 = bs[w * j + i]'(by omega) := List.getD_eq_getElem _ _ (by omega)
  by_cases within : first % lines + j < lines
  · have place : w * ((first + j) % lines) = w * (first % lines) + w * j := by
      rw [← Nat.mul_add, Nat.add_mod, Nat.mod_eq_of_lt fewer, Nat.mod_eq_of_lt within]
    have room : w * j + w ≤ (lines - first % lines) * w := by
      rw [← Nat.mul_succ, Nat.mul_comm]
      exact Nat.mul_le_mul_right _ (by omega)
    rw [place, if_neg (by omega), if_pos (by omega), ← byte, List.getD_eq_getElem?_getD, List.getD_eq_getElem?_getD, List.getElem?_take,
      if_pos (by omega)]
    congr 2
    omega
  · have place : (lines - first % lines) * w + w * ((first + j) % lines) = w * j := by
      have wrapped : (first + j) % lines = first % lines + j - lines := by
        rw [Nat.add_mod, Nat.mod_eq_of_lt fewer, Nat.mod_eq_sub_mod (by omega), Nat.mod_eq_of_lt (by omega)]
      rw [Nat.mul_comm _ w, ← Nat.mul_add, wrapped]
      congr 1
      omega
    rw [if_pos (by omega), ← byte, List.getD_eq_getElem?_getD, List.getD_eq_getElem?_getD, List.getElem?_drop]
    congr 2
    omega

/-- Of words spelled one after another, the bytes of one. -/
theorem take_drop_flatMap {α : Type} {f : α → List Byte} {w : Nat} (width : ∀ x, (f x).length = w) : ∀ (l : List α) (j : Nat) (inside : j < l.length),
    ((l.flatMap f).drop (w * j)).take w = f l[j]
  | x :: l, 0, _ => by
    rw [List.flatMap_cons, Nat.mul_zero, List.drop_zero, List.take_left' (width x)]
    rfl
  | x :: l, j + 1, inside => by
    rw [List.flatMap_cons, Nat.mul_succ, Nat.add_comm, ← List.drop_drop, List.drop_left' (width x)]
    exact take_drop_flatMap width l j (Nat.lt_of_succ_lt_succ inside)

theorem length_flatMap_words {α : Type} {f : α → List Byte} {w : Nat} (width : ∀ x, (f x).length = w) (l : List α) :
    (l.flatMap f).length = w * l.length := by
  simp [List.length_flatMap, width, Nat.mul_comm]

end Sys2Proof.Machine
end

/-! SUPPORT. The fetch of a stream's lines, and the stall that ends with its line (R134, R143, R163, R181, R188): O35. -/

section
namespace Sys2Proof.Machine

open Sys2Proof

-- Each default of a relation below is a tactic that waits for all earlier declarations: one proof at a time.
set_option Elab.async false

/-! What a fetcher's read leaves unchanged (R156, R181) -/

/-- Blocks, memory and the sheaf stay, and every stack's sequencer and instruction memory. -/
structure FetchReads (s t : State) : Prop where
  blocks : t.blocks = s.blocks := by rfl
  mem : t.mem = s.mem := by rfl
  sheaf : t.sheaf = s.sheaf := by rfl
  seqs : ∀ i, (t.stack i).seq = (s.stack i).seq := by exact fun _ => rfl
  imems : ∀ i, (t.stack i).imem = (s.stack i).imem := by exact fun _ => rfl

/-- Blocks and the sheaf stay, and every stack's sequencer: of a fetch's lines the memories alone change. -/
structure Fetches (s t : State) : Prop where
  blocks : t.blocks = s.blocks := by rfl
  sheaf : t.sheaf = s.sheaf := by rfl
  seqs : ∀ i, (t.stack i).seq = (s.stack i).seq := by exact fun _ => rfl

section
variable {s t u : State}

theorem FetchReads.refl (s : State) : FetchReads s s := {}
theorem Fetches.refl (s : State) : Fetches s s := {}

theorem FetchReads.trans (h : FetchReads s t) (k : FetchReads t u) : FetchReads s u where
  blocks := k.blocks.trans h.blocks
  mem := k.mem.trans h.mem
  sheaf := k.sheaf.trans h.sheaf
  seqs i := (k.seqs i).trans (h.seqs i)
  imems i := (k.imems i).trans (h.imems i)

theorem Fetches.trans (h : Fetches s t) (k : Fetches t u) : Fetches s u where
  blocks := k.blocks.trans h.blocks
  sheaf := k.sheaf.trans h.sheaf
  seqs i := (k.seqs i).trans (h.seqs i)

theorem FetchReads.ite {c : Prop} [Decidable c] (h : FetchReads s t) (k : FetchReads s u) : FetchReads s (if c then t else u) := by
  split
  · exact h
  · exact k

theorem FetchReads.fetches (h : FetchReads s t) : Fetches s t where
  blocks := h.blocks
  sheaf := h.sheaf
  seqs := h.seqs

theorem Notes.fetchReads (h : Notes s t) : FetchReads s t where
  blocks := h.blocks
  mem := h.mem
  sheaf := h.sheaf
  seqs i := by rw [State.stack, h.stks, State.stack]
  imems i := by rw [State.stack, h.stks, State.stack]

end

section
variable (s : State)

/-- A stack's update that leaves its sequencer and its instruction memory alone. -/
theorem onStack_fetchReads (i : Nat) {f : Stack → Stack} (seq : ∀ k, (f k).seq = k.seq) (imem : ∀ k, (f k).imem = k.imem) :
    FetchReads s (s.onStack i f) where
  seqs x := by
    by_cases same : x = i
    · rw [same, stack_onStack_same, seq]
    · rw [stack_onStack_other s f same]
  imems x := by
    by_cases same : x = i
    · rw [same, stack_onStack_same, imem]
    · rw [stack_onStack_other s f same]

theorem stackErr_fetchReads (i bitIx line engine : Nat) : FetchReads s (s.stackErr i bitIx line engine) :=
  onStack_fetchReads s i (fun _ => rfl) fun _ => rfl

theorem stackFault_fetchReads (i kind line engine : Nat) : FetchReads s (s.stackFault i kind line engine) := by
  unfold State.stackFault
  refine FetchReads.trans (onStack_fetchReads s i ?seq ?imem) (log_notes _ _).fetchReads
  all_goals exact fun _ => rfl

theorem hazardAt_fetchReads (r lb line cycle kind addr : Nat) : FetchReads s (s.hazardAt r lb line cycle kind addr) := by
  unfold State.hazardAt
  exact FetchReads.trans {} (log_notes _ _).fetchReads

theorem stackHazard_fetchReads (i kind addr : Nat) : FetchReads s (s.stackHazard i kind addr) := by
  unfold State.stackHazard
  refine .ite (((onStack_fetchReads s i ?seq ?imem).trans (stackErr_fetchReads _ i 7 _ 0)).trans (hazardAt_fetchReads ..)) (FetchReads.refl s)
  all_goals exact fun _ => rfl

theorem stackCorrect_fetchReads (i a n e : Nat) : FetchReads s (s.stackCorrect i a n e) := by
  unfold State.stackCorrect
  refine .ite (FetchReads.refl s) (FetchReads.trans (onStack_fetchReads s i ?seq ?imem) (log_notes _ _).fetchReads)
  all_goals exact fun _ => rfl

theorem stackLost_fetchReads (i : Nat) (units : List Nat) (wide : Bool) (requester line e : Nat) :
    FetchReads s (s.stackLost i units wide requester line e) := by
  unfold State.stackLost
  split
  · exact FetchReads.refl _
  · split
    · refine FetchReads.trans (onStack_fetchReads _ i ?seq ?imem) ((stackErr_fetchReads ..).trans (hardError_notes _ _).fetchReads)
      all_goals exact fun _ => rfl
    · exact (stackErr_fetchReads ..).trans (hardError_notes _ _).fetchReads

theorem fetchRead_reads (place off n requester : Nat) : FetchReads s (s.fetchRead place off n requester).1 := by
  unfold State.fetchRead
  dsimp only
  split
  · exact FetchReads.refl s
  · split
    · exact (stackCorrect_fetchReads s ..).trans (stackLost_fetchReads ..)
    · exact (stackHazard_fetchReads s ..).trans (stackFault_fetchReads ..)

/-- A section with no place, or one fetched while no sheaf runs, is read whole (R156). -/
theorem fetchRead_granted {place : Nat} (free : place = 0 ∨ s.sheaf.running = false) (off n requester : Nat) :
    (s.fetchRead place off n requester).2 = false := by
  unfold State.fetchRead
  dsimp only
  split
  · rfl
  · rename_i placed
    rw [if_pos (by simp [State.fetchOk, free.resolve_left placed])]

/-! Lines put into an instruction memory -/

theorem putAt_fetches (u : UnitId) (line : Nat) (bs : List Byte) : Fetches s (s.putAt u line bs) := by
  cases u with
  | block b => exact {}
  | stack i =>
    refine ⟨rfl, rfl, fun x => ?_⟩
    show ((s.onStack i _).stack x).seq = _
    by_cases same : x = i
    · rw [same, stack_onStack_same]
    · rw [stack_onStack_other s _ same]

theorem putLines_fetches (u : UnitId) (line : Nat) (bs : List Byte) : Fetches s (s.putLines u line bs) :=
  (putAt_fetches s u ..).trans (putAt_fetches _ u ..)

/-- A fetch reads its stream and puts its lines. -/
theorem fetchLines_cases (u : UnitId) (x : Option Stream) (first n : Nat) : s.fetchLines u x first n = s ∨
    ∃ r bs, FetchReads s r ∧ s.fetchLines u x first n = r.putLines u first bs := by
  cases x with
  | none => exact .inl rfl
  | some x =>
    unfold State.fetchLines
    dsimp only
    split
    · exact .inl rfl
    · exact .inr ⟨_, _, fetchRead_reads s .., rfl⟩

theorem fetchLines_fetches (u : UnitId) (x : Option Stream) (first n : Nat) : Fetches s (s.fetchLines u x first n) := by
  rcases fetchLines_cases s u x first n with same | ⟨r, bs, reads, lines⟩
  · rw [same]
    exact Fetches.refl s
  · rw [lines]
    exact reads.fetches.trans (putLines_fetches r u first bs)

theorem fetchLines_stack_mem (i : Fin 12) (x : Option Stream) (first n : Nat) : (s.fetchLines (.stack i) x first n).mem = s.mem := by
  rcases fetchLines_cases s (.stack i) x first n with same | ⟨r, bs, reads, lines⟩
  · rw [same]
  · rw [lines]
    exact reads.mem

theorem fetchLines_none (u : UnitId) (x : Option Stream) (first : Nat) : s.fetchLines u x first 0 = s := by
  cases x <;> rfl

/-- The lines of a stream whose read is granted. -/
theorem fetchLines_granted (u : UnitId) {x : Stream} (free : s.placeOf x.sec = 0 ∨ s.sheaf.running = false) (first : Nat) {n : Nat} (any : n ≠ 0) :
    ∃ r, FetchReads s r ∧ s.fetchLines u (some x) first n =
      r.putLines u first (((x.words.drop first).take n).flatMap (fun v => leBytes (unitWidth u) v.toNat)) := by
  unfold State.fetchLines
  dsimp only
  rw [if_neg any, fetchRead_granted s free]
  exact ⟨_, fetchRead_reads s .., rfl⟩

end

/-- A line of a stream just put in, read back from its place in the two halves. -/
theorem line_putBack {w lines first n j : Nat} {words : List Word256} (m : Memory) (base : Nat) (short : n ≤ lines) (inside : j < n)
    (within : first + j < words.length) :
    let bs := ((words.drop first).take n).flatMap (fun v => leBytes w v.toNat)
    let k := (lines - first % lines) * w
    readBytes (writeBytes (writeBytes m (base + w * (first % lines)) (bs.take k)) base (bs.drop k)) (base + w * ((first + j) % lines)) w =
      leBytes w (words.getD (first + j) 0).toNat := by
  intro bs k
  have width (v : Word256) : (leBytes w v.toNat).length = w := length_leBytes w _
  have length : bs.length = w * ((words.drop first).take n).length := length_flatMap_words width _
  have listed : j < ((words.drop first).take n).length := by
    rw [List.length_take, List.length_drop]
    omega
  have least : ((words.drop first).take n).length ≤ n := List.length_take_le ..
  rw [readBytes_ring m base, take_drop_flatMap width _ j listed]
  · rw [List.getElem_take, List.getElem_drop, List.getD_eq_getElem _ _ within]
  · rw [length, Nat.mul_comm]
    exact Nat.mul_le_mul_right w (least.trans short)
  · rw [length]
    exact Nat.mul_le_mul_left w listed

/-! A unit that comes to its line (R134, R144, R147, R163) -/

/-- What a block's start of a delivered line leaves: other blocks, the sheaf, and what has been fetched. -/
structure BlockLine (b : Nat) (s t : State) : Prop where
  sheaf : t.sheaf = s.sheaf := by rfl
  others : ∀ x, x ≠ b → t.block x = s.block x := by exact fun _ _ => rfl
  fetched : (t.block b).seq.fetched = (s.block b).seq.fetched := by rfl
  stalled : (t.block b).seq.stalled = (s.block b).seq.stalled := by rfl

/-- What a stack's start of a delivered line leaves. -/
structure StackLine (i : Nat) (s t : State) : Prop where
  sheaf : t.sheaf = s.sheaf := by rfl
  blocks : t.blocks = s.blocks := by rfl
  mem : t.mem = s.mem := by rfl
  fetched : (t.stack i).seq.fetched = (s.stack i).seq.fetched := by rfl
  stalled : (t.stack i).seq.stalled = (s.stack i).seq.stalled := by rfl

section
variable {s t u : State} {b : Nat}

theorem BlockLine.refl (s : State) : BlockLine b s s := {}
theorem StackLine.refl (s : State) : StackLine b s s := {}

theorem BlockLine.trans (h : BlockLine b s t) (k : BlockLine b t u) : BlockLine b s u where
  sheaf := k.sheaf.trans h.sheaf
  others x other := (k.others x other).trans (h.others x other)
  fetched := k.fetched.trans h.fetched
  stalled := k.stalled.trans h.stalled

theorem StackLine.trans (h : StackLine b s t) (k : StackLine b t u) : StackLine b s u where
  sheaf := k.sheaf.trans h.sheaf
  blocks := k.blocks.trans h.blocks
  mem := k.mem.trans h.mem
  fetched := k.fetched.trans h.fetched
  stalled := k.stalled.trans h.stalled

theorem BlockLine.ite {c : Prop} [Decidable c] (h : BlockLine b s t) (k : BlockLine b s u) : BlockLine b s (if c then t else u) := by
  split
  · exact h
  · exact k

theorem StackLine.ite {c : Prop} [Decidable c] (h : StackLine b s t) (k : StackLine b s u) : StackLine b s (if c then t else u) := by
  split
  · exact h
  · exact k

theorem Notes.blockLine (h : Notes s t) : BlockLine b s t where
  sheaf := h.sheaf
  others x _ := h.toTells.block x
  fetched := by rw [h.toTells.block]
  stalled := by rw [h.toTells.block]

theorem Notes.stackLine (h : Notes s t) : StackLine b s t where
  sheaf := h.sheaf
  blocks := h.blocks
  mem := h.mem
  fetched := by rw [h.fetchReads.seqs]
  stalled := by rw [h.fetchReads.seqs]

end

section
variable (s : State) (b : Nat)

theorem onBlock_blockLine {f : Block → Block} (fetched : ∀ k, (f k).seq.fetched = k.seq.fetched) (stalled : ∀ k, (f k).seq.stalled = k.seq.stalled) :
    BlockLine b s (s.onBlock b f) where
  others _ other := block_onBlock_other s f other
  fetched := by rw [block_onBlock_same, fetched]
  stalled := by rw [block_onBlock_same, stalled]

theorem onStack_stackLine {f : Stack → Stack} (fetched : ∀ k, (f k).seq.fetched = k.seq.fetched) (stalled : ∀ k, (f k).seq.stalled = k.seq.stalled) :
    StackLine b s (s.onStack b f) where
  fetched := by rw [stack_onStack_same, fetched]
  stalled := by rw [stack_onStack_same, stalled]

theorem sramCorrect_blockLine (off len : Nat) : BlockLine b s (s.sramCorrect b off len) := by
  unfold State.sramCorrect
  refine .ite (BlockLine.refl s) (BlockLine.trans (onBlock_blockLine s b ?fetched ?stalled) (log_notes _ _).blockLine)
  all_goals exact fun _ => rfl

theorem blockErr_blockLine (i : Nat) : BlockLine b s (s.blockErr b i) := onBlock_blockLine s b (fun _ => rfl) fun _ => rfl

theorem stackErr_stackLine (bitIx line engine : Nat) : StackLine b s (s.stackErr b bitIx line engine) :=
  onStack_stackLine s b (fun _ => rfl) fun _ => rfl

theorem illegalBundle_blockLine : BlockLine b s (s.illegalBundle b) := by
  unfold State.illegalBundle
  refine .ite (BlockLine.refl s) ((onBlock_blockLine s b ?fetched ?stalled).trans ((blockErr_blockLine _ b 10).trans
    (stepError_notes _ _).blockLine))
  all_goals exact fun _ => rfl

theorem illegalStack_stackLine (e : Nat) : StackLine b s (s.illegalStack b e) := by
  unfold State.illegalStack
  refine .ite (StackLine.refl s) ((onStack_stackLine s b ?fetched ?stalled).trans ((stackErr_stackLine _ b 4 _ e).trans
    (hardError_notes _ _).stackLine))
  all_goals exact fun _ => rfl

theorem beginBundle_blockLine (delivered : (s.block b).seq.line < (s.block b).seq.fetched) : BlockLine b s (s.beginBundle b) := by
  unfold State.beginBundle
  dsimp only
  rw [if_neg (Nat.not_le.mpr delivered)]
  have idle (n off : Nat) : BlockLine b s ((s.onBlock b fun k => { k with seq := { k.seq with left := n } }).sramCorrect b off 32) := by
    refine (onBlock_blockLine s b ?lines ?stall).trans (sramCorrect_blockLine _ b off 32)
    all_goals exact fun _ => rfl
  refine .ite (BlockLine.refl s) (.ite ((illegalBundle_blockLine s b).trans (onBlock_blockLine _ b ?fetched ?stalled))
    (.ite (idle _ _) ((idle _ _).trans (illegalBundle_blockLine _ b))))
  all_goals exact fun _ => rfl

theorem beginWord_stackLine (delivered : (s.stack b).seq.line < (s.stack b).seq.fetched) : StackLine b s (s.beginWord b) := by
  unfold State.beginWord
  dsimp only
  rw [if_neg (Nat.not_le.mpr delivered)]
  have idle (n : Nat) : StackLine b s (s.onStack b fun k => { k with seq := { k.seq with left := n } }) :=
    onStack_stackLine s b (fun _ => rfl) fun _ => rfl
  refine .ite (StackLine.refl s) (.ite ((illegalStack_stackLine s b 0).trans (onStack_stackLine _ b ?fetched ?stalled))
    (.ite ((idle _).trans (illegalStack_stackLine _ b _)) (idle _)))
  all_goals exact fun _ => rfl

end

end Sys2Proof.Machine
end

/-! SUPPORT. STREAM_FETCH of a block's and of a stack's sequencer (R134, R163, R188): O35. -/

section
namespace Sys2Proof.Machine

open Sys2Proof

/-! The fetch of either kind of sequencer -/

/-- A sequencer whose fetcher has delivered the lines below `n`, and `a` of the stream of pattern `p`: a stall whose line has come ends. -/
def Sequencer.fetchedTo (q : Sequencer) (n a p : Nat) : Sequencer :=
  { q with fetched := n, ahead := a, aheadPattern := p, stalled := q.stalled && decide (n ≤ q.line) }

section
variable {q : Sequencer} {n a p : Nat}

/-- A running sequencer's fetch changes only what it has fetched. -/
theorem fetchedTo_running (running : q.stalled = false) :
    q.fetchedTo n a p = { q with fetched := (q.fetchedTo n a p).fetched, ahead := (q.fetchedTo n a p).ahead, aheadPattern := p } := by
  simp [Sequencer.fetchedTo, running]

theorem fetchedTo_stalled (stalled : q.stalled = true) :
    (q.line < (q.fetchedTo n a p).fetched → (q.fetchedTo n a p).stalled = false) ∧
    ((q.fetchedTo n a p).fetched ≤ q.line → (q.fetchedTo n a p).stalled = true) := by
  simp [Sequencer.fetchedTo, stalled]

/-- The line of a stall that has ended is there. -/
theorem fetchedTo_line (stalled : q.stalled = true) (ended : (q.fetchedTo n a p).stalled = false) :
    (q.fetchedTo n a p).line < (q.fetchedTo n a p).fetched := by
  simpa [Sequencer.fetchedTo, stalled] using ended

end

/-- What a unit's start of a delivered line leaves. -/
def UnitLine : UnitId → State → State → Prop
  | .block b => BlockLine b
  | .stack i => StackLine i

section
variable {u : UnitId} {s t : State}

theorem unitLine_refl (u : UnitId) (s : State) : UnitLine u s s := by
  cases u with
  | block b => exact BlockLine.refl s
  | stack i => exact StackLine.refl s

theorem beginLine_unitLine (delivered : (s.unitSeq u).line < (s.unitSeq u).fetched) : UnitLine u s (s.beginLine u) := by
  cases u with
  | block b => exact beginBundle_blockLine s b delivered
  | stack i => exact beginWord_stackLine s i delivered

theorem UnitLine.seq (h : UnitLine u s t) :
    (t.unitSeq u).fetched = (s.unitSeq u).fetched ∧ (t.unitSeq u).stalled = (s.unitSeq u).stalled := by
  cases u with
  | block b => exact ⟨BlockLine.fetched h, BlockLine.stalled h⟩
  | stack i => exact ⟨StackLine.fetched h, StackLine.stalled h⟩

end

theorem unitSeq_fetches {s t : State} (h : Fetches s t) (u : UnitId) : t.unitSeq u = s.unitSeq u := by
  cases u with
  | block b => rw [State.unitSeq, State.block, h.blocks, State.unitSeq, State.block]
  | stack i => exact h.seqs i

/-- The state in which a unit's sequencer has been given its lines. -/
def State.fetchedTo (s : State) (u : UnitId) (n a p : Nat) : State := (s.onSeq u (fun k => k.fetchedTo n a p)).restall (unitRegion u)

theorem block_fetchedTo (s : State) (b : Fin 64) (n a p x : Nat) : (s.fetchedTo (.block b) n a p).block x =
    (s.onBlock b fun k => { k with seq := k.seq.fetchedTo n a p }).block x := rfl

theorem stack_fetchedTo (s : State) (i : Fin 12) (n a p x : Nat) : (s.fetchedTo (.stack i) n a p).stack x =
    (s.onStack i fun k => { k with seq := k.seq.fetchedTo n a p }).stack x := rfl

theorem unitSeq_fetchedTo (s : State) (u : UnitId) (n a p : Nat) : (s.fetchedTo u n a p).unitSeq u = (s.unitSeq u).fetchedTo n a p := by
  cases u with
  | block b =>
    rw [State.unitSeq, block_fetchedTo, block_onBlock_same]
    rfl
  | stack i =>
    rw [State.unitSeq, stack_fetchedTo, stack_onStack_same]
    rfl

/-- A sequencer's fetch: the present stream's lines, then the next one's; with no more lines asked for than it may hold, the present
stream's alone.  A stall that ends with its line begins it; a running sequencer goes on. -/
theorem exec_streamFetch (s : State) (u : UnitId) (count : Nat) : ∃ r a t, exec (.streamFetch u count) s = .next t ∧ Fetches s r ∧
    (∀ i, u = .stack i → r.mem = s.mem) ∧
    (count ≤ (s.unitSeq u).room (unitHalf u) → r = s.fetchLines u (s.unitStream u s.sheaf.pattern) (s.unitSeq u).fetched count) ∧
    let n := (s.unitSeq u).fetched + min count ((s.unitSeq u).room (unitHalf u))
    UnitLine u (r.fetchedTo u n a s.nextPattern) t ∧ ((s.unitSeq u).stalled = false → t = r.fetchedTo u n a s.nextPattern) := by
  let q := s.unitSeq u
  let n := Nat.min count (q.room (unitHalf u))
  let x := s.unitStream u s.nextPattern
  let ahead := if q.aheadPattern = s.nextPattern then q.ahead else 0
  let m := Nat.min (count - n) (Nat.min (({ q with ahead := ahead } : Sequencer).aheadRoom (unitHalf u))
    ((match x with | some x => x.words.length | none => 0) - ahead))
  let present := s.fetchLines u (s.unitStream u s.sheaf.pattern) q.fetched n
  let r := present.fetchLines u x ahead m
  let given := r.fetchedTo u (q.fetched + n) (ahead + m) s.nextPattern
  have fetches : Fetches s r := (fetchLines_fetches s u _ _ _).trans (fetchLines_fetches present u _ _ _)
  have seq : given.unitSeq u = q.fetchedTo (q.fetched + n) (ahead + m) s.nextPattern := by
    rw [unitSeq_fetchedTo, unitSeq_fetches fetches]
  refine ⟨r, ahead + m, if q.stalled && !(given.unitSeq u).stalled then given.beginLine u else given, rfl, fetches, ?mem, fun whole => ?whole,
    ?line, fun running => ?running⟩
  case mem =>
    rintro i rfl
    exact (fetchLines_stack_mem present i x ahead m).trans (fetchLines_stack_mem s i _ _ _)
  case whole =>
    have all : n = count := Nat.min_eq_left whole
    have none : m = 0 := by
      show Nat.min (count - n) _ = 0
      rw [all, Nat.sub_self]
      exact Nat.zero_min _
    show present.fetchLines u x ahead m = _
    rw [none, fetchLines_none]
    exact congrArg (s.fetchLines u (s.unitStream u s.sheaf.pattern) q.fetched) all
  case line =>
    split
    · rename_i resumes
      rw [seq, Bool.and_eq_true, Bool.not_eq_true'] at resumes
      obtain ⟨stalled, ended⟩ := resumes
      exact beginLine_unitLine (by rw [seq]; exact fetchedTo_line stalled ended)
    · exact unitLine_refl u given
  case running =>
    rw [show q.stalled = false from running]
    rfl

/-- The sequencer after its fetch (R134, R143). -/
theorem fetched_seq {s r t : State} {u : UnitId} {n a : Nat} (fetches : Fetches s r) (line : UnitLine u (r.fetchedTo u n a s.nextPattern) t)
    (running : (s.unitSeq u).stalled = false → t = r.fetchedTo u n a s.nextPattern) :
    let q := s.unitSeq u
    (t.unitSeq u).fetched = n ∧
    (q.stalled = false → t.unitSeq u =
      { q with fetched := (t.unitSeq u).fetched, ahead := (t.unitSeq u).ahead, aheadPattern := s.nextPattern }) ∧
    (q.stalled = true → (q.line < (t.unitSeq u).fetched → (t.unitSeq u).stalled = false) ∧
      ((t.unitSeq u).fetched ≤ q.line → (t.unitSeq u).stalled = true)) := by
  intro q
  have seq : (r.fetchedTo u n a s.nextPattern).unitSeq u = q.fetchedTo n a s.nextPattern := by
    rw [unitSeq_fetchedTo, unitSeq_fetches fetches]
  obtain ⟨fetched, still⟩ := line.seq
  rw [seq] at fetched still
  refine ⟨fetched, fun runs => ?_, fun stalled => ?_⟩
  · rw [running runs, seq]
    exact fetchedTo_running runs
  · rw [fetched, still]
    exact fetchedTo_stalled stalled

/-! Lines as instruction memory gives them -/

/-- A block's line just put in. -/
theorem bundleAt_putLines (r : State) (b : Fin 64) {first n j : Nat} (words : List Word256) (short : n ≤ 16384) (inside : j < n)
    (within : first + j < words.length) :
    (r.putLines (.block b) first (((words.drop first).take n).flatMap (fun v => leBytes 32 v.toNat))).bundleAt b (first + j) =
      words.getD (first + j) 0 := by
  have line := line_putBack (w := 32) (lines := 16384) r.mem (blockBase b + 0x600000) short inside within
  rw [State.bundleAt, State.peek, bundlePlace, ← Nat.add_assoc]
  show BitVec.ofNat 256 (leNat (readBytes (writeBytes (writeBytes r.mem (blockBase b + (0x600000 + 32 * (first % 16384))) _) _ _) _ _)) = _
  rw [← Nat.add_assoc]
  refine (congrArg (fun bs => BitVec.ofNat 256 (leNat bs)) line).trans ?_
  rw [leNat_leBytes_toNat 32 (words.getD (first + j) 0)]
  exact BitVec.eq_of_toNat_eq (by rw [BitVec.toNat_ofNat, Nat.mod_eq_of_lt (BitVec.isLt _)])

/-- A stack's instruction just put in: the low 128 bits of its word. -/
theorem instrAt_putLines (r : State) (i : Fin 12) {first n j : Nat} (words : List Word256) (short : n ≤ 8192) (inside : j < n)
    (within : first + j < words.length) :
    ((r.putLines (.stack i) first (((words.drop first).take n).flatMap (fun v => leBytes 16 v.toNat))).stack i).instrAt (first + j) =
      (words.getD (first + j) 0).setWidth 128 := by
  have line := line_putBack (w := 16) (lines := 8192) (r.stack i).imem 0 short inside within
  simp only [Nat.zero_add] at line
  have imem (line : Nat) (bs : List Byte) : ((r.putLines (.stack i) line bs).stack i).imem =
      writeBytes (writeBytes (r.stack i).imem (16 * (line % 8192)) (bs.take ((8192 - line % 8192) * 16))) 0 (bs.drop ((8192 - line % 8192) * 16)) := by
    show ((State.onStack (State.onStack r i _) i _).stack i).imem = _
    rw [stack_onStack_same, stack_onStack_same]
    rfl
  rw [Stack.instrAt, imem]
  refine (congrArg (fun bs => BitVec.ofNat 128 (leNat bs)) line).trans (BitVec.eq_of_toNat_eq ?_)
  rw [BitVec.toNat_ofNat, BitVec.toNat_setWidth, leNat_leBytes]
  omega

/-! The statement's clauses -/

/-- A block's sequencer after its fetch. -/
theorem blockFetches (s : State) (b : Fin 64) (n : Nat) :
    let q := (s.block b).seq
    ∃ t, exec (.streamFetch (.block b) n) s = .next t ∧ t.sheaf = s.sheaf ∧ (∀ x, x ≠ b.val → t.block x = s.block x) ∧
      (t.block b).seq.fetched = q.fetched + min n (q.room 8192) ∧
      (q.stalled = false → (t.block b).seq =
        { q with fetched := (t.block b).seq.fetched, ahead := (t.block b).seq.ahead, aheadPattern := s.nextPattern }) ∧
      (q.stalled = true → (q.line < (t.block b).seq.fetched → (t.block b).seq.stalled = false) ∧
        ((t.block b).seq.fetched ≤ q.line → (t.block b).seq.stalled = true)) ∧
      (∀ x, s.unitStream (.block b) s.sheaf.pattern = some x → (s.placeOf x.sec = 0 ∨ s.sheaf.running = false) →
        q.stalled = false → n ≤ q.room 8192 → n ≤ 16384 → ∀ j < n, q.fetched + j < x.words.length →
          t.bundleAt b (q.fetched + j) = x.words.getD (q.fetched + j) 0) := by
  intro q
  obtain ⟨r, a, t, exec, fetches, _, whole, line, running⟩ := exec_streamFetch s (.block b) n
  obtain ⟨fetched, runs, stalls⟩ := fetched_seq fetches line running
  refine ⟨t, exec, (BlockLine.sheaf line).trans fetches.sheaf, fun x other => (BlockLine.others line x other).trans ?others, fetched, runs, stalls,
    fun x stream free still room short j inside within => ?lines⟩
  case others =>
    rw [block_fetchedTo, block_onBlock_other r _ other, State.block, fetches.blocks, State.block]
  case lines =>
    obtain ⟨r', reads, put⟩ := fetchLines_granted s (.block b) free q.fetched (n := n) (by omega)
    rw [running still]
    show r.bundleAt b (q.fetched + j) = _
    rw [whole room, stream]
    refine (congrArg (·.bundleAt b (q.fetched + j)) put).trans ?_
    exact bundleAt_putLines r' b x.words short inside within

/-- A stack's sequencer after its fetch. -/
theorem stackFetches (s : State) (i : Fin 12) (n : Nat) :
    let r := (s.stack i).seq
    ∃ t, exec (.streamFetch (.stack i) n) s = .next t ∧ t.sheaf = s.sheaf ∧ t.blocks = s.blocks ∧ t.mem = s.mem ∧
      (t.stack i).seq.fetched = r.fetched + min n (r.room 4096) ∧
      (r.stalled = false → (t.stack i).seq =
        { r with fetched := (t.stack i).seq.fetched, ahead := (t.stack i).seq.ahead, aheadPattern := s.nextPattern }) ∧
      (r.stalled = true → (r.line < (t.stack i).seq.fetched → (t.stack i).seq.stalled = false) ∧
        ((t.stack i).seq.fetched ≤ r.line → (t.stack i).seq.stalled = true)) ∧
      (∀ x, s.unitStream (.stack i) s.sheaf.pattern = some x → (s.placeOf x.sec = 0 ∨ s.sheaf.running = false) →
        r.stalled = false → n ≤ r.room 4096 → n ≤ 8192 → ∀ j < n, r.fetched + j < x.words.length →
          (t.stack i).instrAt (r.fetched + j) = (x.words.getD (r.fetched + j) 0).setWidth 128) := by
  intro q
  obtain ⟨r, a, t, exec, fetches, mem, whole, line, running⟩ := exec_streamFetch s (.stack i) n
  obtain ⟨fetched, runs, stalls⟩ := fetched_seq fetches line running
  refine ⟨t, exec, (StackLine.sheaf line).trans fetches.sheaf, (StackLine.blocks line).trans fetches.blocks, (StackLine.mem line).trans (mem i rfl),
    fetched, runs, stalls, fun x stream free still room short j inside within => ?_⟩
  obtain ⟨r', reads, put⟩ := fetchLines_granted s (.stack i) free q.fetched (n := n) (by omega)
  have imem : (t.stack i).imem = (r.stack i).imem := by
    rw [running still, stack_fetchedTo, stack_onStack_same]
  rw [Stack.instrAt, imem, whole room, stream]
  refine (congrArg (fun t => (t.stack i).instrAt (q.fetched + j)) put).trans ?_
  exact instrAt_putLines r' i x.words short inside within

theorem fetchAndInstructionStall : Claims.FetchAndInstructionStall :=
  fun s b i n => ⟨blockStalls, stackStalls, blockFetches s b n, stackFetches s i n⟩

/-- Settles O35: a block's loops and its end (`blockLoopControl`), fetches and instruction stalls (`fetchAndInstructionStall`). -/
theorem blockControl : Obligations.BlockControl := ⟨blockLoopControl, fetchAndInstructionStall⟩

end Sys2Proof.Machine
end

/-! SUPPORT. Illegal bundles and stack instructions (R123, R144, R148, R160, R163, R182): O36. -/

section
namespace Sys2Proof.Machine

open Sys2Proof

/-! A local error's entry (R331, R346) -/

section
variable {s : State}

/-- An entry of severity 2 or higher is always a new one (R348). -/
theorem log_loud {a : LogArgs} (loud : 2 ≤ a.severity) (small : a.severity < 256) : (s.log a).fault.nextSeq = s.fault.nextSeq + 1 := by
  have high : 2 ≤ (s.logEntry a).severity.toNat := by
    show 2 ≤ (BitVec.ofNat 8 a.severity).toNat
    rw [BitVec.toNat_ofNat, Nat.mod_eq_of_lt small]
    exact loud
  have apart (e : LogEntry) : coalesces e (s.logEntry a) = false := by
    rw [coalesces, decide_eq_false (by omega)]
    rfl
  unfold State.log
  dsimp only
  split
  · rw [if_neg (by simp [apart]), logNew_fault]
    rfl
  · rw [logNew_fault]
    rfl

theorem stepError_nextSeq {a : LogArgs} (loud : 2 ≤ a.severity) (small : a.severity < 256) (compute : s.relay = false)
    (before : s.inCommit = false) : (s.stepError a).fault.nextSeq = s.fault.nextSeq + 1 := by
  have logged := log_notes s { a with action := s.abortAction }
  have entered := log_loud (s := s) (a := { a with action := s.abortAction }) loud small
  unfold State.stepError
  dsimp only
  rw [State.abortFor]
  have relay : State.relay { s.log { a with action := s.abortAction } with
    fault := { (s.log { a with action := s.abortAction }).fault with abortSeq := s.fault.nextSeq } } = false := logged.relay.trans compute
  have commit : State.inCommit { s.log { a with action := s.abortAction } with
    fault := { (s.log { a with action := s.abortAction }).fault with abortSeq := s.fault.nextSeq } } = false := logged.inCommit.trans before
  rw [relay, commit]
  exact entered

/-- Outside commit a hard error is a step's error and no more (R329). -/
theorem hardError_outside (a : LogArgs) (before : s.inCommit = false) : s.hardError a = s.stepError a := by
  have outside : (s.stepError a).inCommit = false := (stepError_notes s a).inCommit.trans before
  rw [State.hardError, State.commitFault, outside]
  rfl

end

/-! An illegal bundle (R123, R144, R148) -/

/-- The step is to be aborted for one bundle of a block: BLK_ERR bit 10 and one entry of the log; the block's units keep what they have. -/
def AbortsForBundle (s t : State) (b : Nat) : Prop :=
  bit (t.block b).err 10 = true ∧ t.fault.abort.isSome = true ∧ t.fault.nextSeq = s.fault.nextSeq + 1 ∧ (t.block b).v = (s.block b).v ∧
    (t.block b).pend = (s.block b).pend ∧ t.mem = s.mem ∧ ∀ x, x ≠ b → t.block x = s.block x

section
variable {s : State} {b : Nat} (fresh : (s.block b).seq.reported = false) (compute : s.relay = false) (before : s.inCommit = false)
include fresh compute before

theorem illegalBundle_aborts : AbortsForBundle s (s.illegalBundle b) b := by
  let marked := (s.onBlock b (fun k => { k with seq := { k.seq with reported := true } })).blockErr b 10
  have only := onlyBlock_onBlock (onlyBlock_onBlock (onlyBlock_refl s b) fun k => { k with seq := { k.seq with reported := true } }) fun k => { k with
    errInfo := captureInfo k.err 0x00007EFF k.errInfo ((s.onBlock b (fun k => { k with seq := { k.seq with reported := true } })).blockInfo b)
    err := setBit k.err 10 }
  let a : LogArgs := { code := 0x0120, severity := 2, region := compRegion b, unit := b, detail := (marked.block b).errInfo.toNat }
  have told := (stepError_notes marked a).toTells
  have reports : s.illegalBundle b = marked.stepError a := by
    rw [State.illegalBundle, fresh]
    rfl
  have block (x : Nat) : ((marked.stepError a).block x) = marked.block x := told.block x
  obtain ⟨_, own, others⟩ := only
  have own : marked.block b = _ := own
  rw [reports]
  refine ⟨?_, stepError_aborts a compute before, stepError_nextSeq (s := marked) (Nat.le_refl 2) (show 2 < 256 by decide) compute before, ?_, ?_, told.mem,
    fun x other => (block x).trans (others x other)⟩
  · rw [block, own]
    exact bit_setBit_same _ 10
  · rw [block, own]
  · rw [block, own]

/-- A slot that keeps no rule, or offends in its line's bundle, is reported and does nothing else. -/
theorem slot_aborts (issues : s.issues b = true) {n : Nat} {legal : Bool} (illegal : legal = false ∨ s.slotOffends b n = true)
    (f : State → State) : ∃ t, (.next (s.slot b n legal f) : Host.Outcome State Fault Refusal) = .next t ∧ AbortsForBundle s t b := by
  have refused : (legal && !s.slotOffends b n) = false := by
    rcases illegal with broken | offends
    · rw [broken, Bool.false_and]
    · rw [offends, Bool.not_true, Bool.and_false]
  refine ⟨s.illegalBundle b, ?_, illegalBundle_aborts fresh compute before⟩
  rw [State.slot, issues, refused]
  rfl

end

theorem waitSlot_issues {s : State} {b : Nat} (issues : s.issues b = true) (legal : Bool) (g mask : Nat) :
    s.waitSlot b legal g mask = s.slot b 8 legal (fun s => s.waitBlock b g mask) := by
  rw [State.waitSlot, issues]
  rfl

theorem cellFmt_reserved {n : Nat} (reserved : 0xC < n) : cellFmt n = none := by
  obtain ⟨k, rfl⟩ := Nat.exists_eq_add_of_lt reserved
  rw [show 0xC + k + 1 = k + 0xD by omega]
  rfl

theorem illegalBundleAborts : Claims.IllegalBundleAborts := by
  intro s b va vb vd l mode fmt m key trip desc index g c rb cause issues fresh compute before bad
  have aborts {n : Nat} {legal : Bool} (illegal : legal = false ∨ s.slotOffends b n = true) (f : State → State) :=
    slot_aborts fresh compute before issues illegal f
  have waits (group mask : Nat) (legal : Bool) (illegal : legal = false ∨ s.slotOffends b 8 = true) :
      bad (.next (s.waitSlot b legal group mask)) := by
    rw [waitSlot_issues issues]
    exact aborts illegal _
  refine ⟨fun offends => aborts (.inr offends) _, fun offends => ?offendingChunk, fun offends => ⟨waits _ _ _ (.inr offends), aborts (.inr offends) _⟩,
    fun reserved => ?vcmp, fun broken => aborts (.inl broken) _, fun reserved => aborts (.inl ?wide) _, fun reserved => ?reservedChunk,
    fun broken => waits _ _ _ (.inl broken), fun reserved => aborts (.inl ?sample) _, fun open_ => aborts (.inl (by rw [open_]; rfl)) _,
    fun closed => aborts (.inl closed) _, ?told⟩
  case offendingChunk =>
    rw [exec_chunk, execChunk]
    cases cellFmt fmt.toNat with
    | none => exact aborts (.inl rfl) _
    | some f => exact aborts (.inr offends) _
  case vcmp =>
    show bad (.next (if mode.toNat ≤ 3 then _ else s.slot b 4 false id))
    rw [if_neg (by omega)]
    exact aborts (.inl rfl) _
  case wide => exact decide_eq_false (Nat.not_le.mpr reserved)
  case reservedChunk =>
    rw [exec_chunk, execChunk, cellFmt_reserved reserved]
    exact aborts (.inl rfl) _
  case sample => exact decide_eq_false (by omega)
  case told =>
    have told := illegalBundle_aborts fresh compute before
    show bad (if s.issues b then .next _ else .next s)
    rw [issues]
    refine ⟨_, rfl, ?_⟩
    dsimp only
    split
    · obtain ⟨err, abort, entry, v, pend, mem, others⟩ := told
      rw [block_onBlock_same]
      exact ⟨err, abort, entry, v, pend, mem, fun x other => (block_onBlock_other _ _ other).trans (others x other)⟩
    · exact told

/-! An illegal stack instruction (R160, R163, R182) -/

/-- The step is to be aborted for one instruction of a stack: STK_ERR bit 4 and one entry of the log; no engine starts. -/
def AbortsForInstruction (s t : State) (i : Nat) : Prop :=
  bit (t.stack i).err 4 = true ∧ t.fault.abort.isSome = true ∧ t.fault.nextSeq = s.fault.nextSeq + 1 ∧ (t.stack i).busy = (s.stack i).busy ∧
    t.mem = s.mem ∧ ∀ j, j ≠ i → t.stack j = s.stack j

theorem stack_eq_of_stks {s t : State} (same : t.stks = s.stks) (x : Nat) : t.stack x = s.stack x := by
  rw [State.stack, State.stack, same]

/-- A stack's own error sets its bit and leaves its engines and the other stacks. -/
theorem stackErr_stack (s : State) (i l e : Nat) {j : Nat} (small : j < 8) : bit ((s.stackErr i j l e).stack i).err j = true ∧
    ((s.stackErr i j l e).stack i).busy = (s.stack i).busy ∧ ∀ x, x ≠ i → (s.stackErr i j l e).stack x = s.stack x := by
  rw [State.stackErr]
  refine ⟨?_, ?_, fun x other => stack_onStack_other s _ other⟩ <;> rw [stack_onStack_same]
  exact (bit_setBit_same (s.stack i).err j).trans (decide_eq_true (by omega))

/-- The state that an illegal instruction of a stack leaves for the log: it is reported once, and its bit and line stand in STK_ERR. -/
def State.markIllegal (s : State) (i e : Nat) : State :=
  (s.onStack i (fun k => { k with seq := { k.seq with reported := true } })).stackErr i 4 (s.stack i).seq.line e

/-- Marking changes the stacks alone, and of stack `i` it sets bit 4 and keeps the engines. -/
theorem markIllegal_stack (s : State) (i e : Nat) : bit ((s.markIllegal i e).stack i).err 4 = true ∧
    ((s.markIllegal i e).stack i).busy = (s.stack i).busy ∧ ∀ x, x ≠ i → (s.markIllegal i e).stack x = s.stack x := by
  obtain ⟨err, busy, others⟩ := stackErr_stack (s.onStack i (fun k => { k with seq := { k.seq with reported := true } })) i (s.stack i).seq.line e
    (show 4 < 8 by decide)
  refine ⟨err, busy.trans ?_, fun x other => (others x other).trans (stack_onStack_other s _ other)⟩
  rw [stack_onStack_same]

/-- Outside commit an illegal instruction is its mark and a step's error. -/
theorem illegalStack_stepError {s : State} {i : Nat} (e : Nat) (fresh : (s.stack i).seq.reported = false) (before : s.inCommit = false) :
    s.illegalStack i e = (s.markIllegal i e).stepError
      { code := 0x0120, severity := 2, region := stackRegion i, unit := e, detail := ((s.markIllegal i e).stack i).errInfo.toNat } := by
  rw [State.illegalStack, fresh]
  exact hardError_outside (s := s.markIllegal i e) _ before

theorem illegalStack_marked {s : State} {i : Nat} (e : Nat) (fresh : (s.stack i).seq.reported = false) (compute : s.relay = false)
    (before : s.inCommit = false) : AbortsForInstruction s (s.illegalStack i e) i := by
  obtain ⟨err, busy, others⟩ := markIllegal_stack s i e
  let a : LogArgs := { code := 0x0120, severity := 2, region := stackRegion i, unit := e, detail := ((s.markIllegal i e).stack i).errInfo.toNat }
  have told := (stepError_notes (s.markIllegal i e) a).toTells
  have stack := stack_eq_of_stks told.stks
  have relay : (s.markIllegal i e).relay = false := compute
  have commit : (s.markIllegal i e).inCommit = false := before
  rw [illegalStack_stepError e fresh before]
  refine ⟨(congrArg (fun k : Stack => bit k.err 4) (stack i)).trans err, stepError_aborts a relay commit,
    stepError_nextSeq (a := a) (Nat.le_refl 2) (show 2 < 256 by decide) relay commit,
    (congrArg Stack.busy (stack i)).trans busy, told.mem, fun x other => (stack x).trans (others x other)⟩

section
variable {s : State} {i : Nat} (fresh : (s.stack i).seq.reported = false) (compute : s.relay = false) (before : s.inCommit = false)
include fresh compute before

/-- An issued instruction that is illegal: its issue itself changes the sequencer alone. -/
theorem illegalStack_aborts (e : Nat) :
    AbortsForInstruction s ((s.onStack i (fun k => { k with seq := { k.seq with issued := true } })).illegalStack i e) i := by
  have own := stack_onStack_same s i (fun k => { k with seq := { k.seq with issued := true } })
  obtain ⟨err, abort, entry, busy, mem, others⟩ := illegalStack_marked
    (s := s.onStack i (fun k => { k with seq := { k.seq with issued := true } })) e ((congrArg (fun k : Stack => k.seq.reported) own).trans fresh)
    compute before
  refine ⟨err, abort, entry, busy.trans ?_, mem, fun x other => (others x other).trans (stack_onStack_other s _ other)⟩
  rw [own]

/-- A stack instruction that keeps no rule, or whose line's word is an illegal one, is reported and does nothing else. -/
theorem stackSlot_aborts (issues : s.stackIssues i = true) {legal : Bool} (illegal : legal = false ∨ s.lineBad i = true) (e : Nat)
    (f : State → State) : ∃ t, (.next (s.stackSlot i e legal f) : Host.Outcome State Fault Refusal) = .next t ∧ AbortsForInstruction s t i := by
  have refused : (legal && !s.lineBad i) = false := by
    rcases illegal with broken | bad
    · rw [broken, Bool.false_and]
    · rw [bad, Bool.not_true, Bool.and_false]
  refine ⟨_, ?_, illegalStack_aborts fresh compute before e⟩
  rw [State.stackSlot, issues, refused]
  rfl

end

/-- Every stack operation is one command of the shared form, under its code. -/
theorem exec_stackOps (i : Fin 12) (f : SFields) (s : State) : ∀ p ∈ Claims.stackOps,
    exec (p.2 i f) s = .next (s.stackOp i p.1 f (p.2 i f).wellFormed) := by
  simp only [Claims.stackOps, List.forall_mem_cons]
  exact ⟨rfl, rfl, rfl, rfl, rfl, rfl, rfl, rfl, rfl, rfl, rfl, rfl, rfl, rfl, rfl, rfl, rfl, rfl, rfl, rfl, rfl, rfl, rfl, fun _ h => nomatch h⟩

theorem illegalStackInstructionAborts : Claims.IllegalStackInstructionAborts := by
  intro s i f l trip cause issues fresh compute before bad
  have aborts {legal : Bool} (illegal : legal = false ∨ s.lineBad i = true) (e : Nat) (g : State → State) :=
    stackSlot_aborts fresh compute before issues illegal e g
  refine ⟨fun p listed illegal => ?operation, fun open_ => aborts (.inl (by rw [open_]; rfl)) _ _, fun closed => aborts (.inl closed) _ _, ?told⟩
  case operation =>
    rw [exec_stackOps i f s p listed]
    exact aborts illegal _ _
  case told =>
    have told := illegalStack_aborts fresh compute before (s.lineEngine i)
    show bad (.next (if s.stackIssues i then _ else s))
    rw [issues]
    refine ⟨_, rfl, ?_⟩
    rw [if_pos rfl]
    dsimp only
    split
    · obtain ⟨err, abort, entry, busy, mem, others⟩ := told
      rw [stack_onStack_same]
      exact ⟨err, abort, entry, busy, mem, fun x other => (stack_onStack_other _ _ other).trans (others x other)⟩
    · exact told

/-- Settles O36: illegal bundles (`illegalBundleAborts`) and illegal stack instructions (`illegalStackInstructionAborts`). -/
theorem illegalInstructionsAbort : Obligations.IllegalInstructionsAbort := ⟨illegalBundleAborts, illegalStackInstructionAborts⟩

end Sys2Proof.Machine
end

/-! SUPPORT. FP32 (R128): the canonical NaN, the order with −0 below +0, and the operands' order: O60. -/

section
namespace Sys2Proof.Machine

open Sys2Proof

/-! NaNs -/

theorem isNan_iff (x : Word32) : isNan x = true ↔ x.toNat / 2 ^ 23 % 2 ^ 8 = 255 ∧ x.toNat % 2 ^ 23 ≠ 0 := by
  rw [isNan, beq_iff_eq, dec32, fpDecode]
  simp only [FpFmt.ieeeTop, FpFmt.eb, FpFmt.mb, Bool.true_and, beq_iff_eq, show ((FpFmt.fp32 == FpFmt.e4m3) = false) from rfl, Bool.false_and]
  constructor
  · intro decoded
    split at decoded
    · next top =>
      split at decoded
      · exact nomatch decoded
      · next mant => exact ⟨top, mant⟩
    · rw [if_neg (by decide)] at decoded
      split at decoded <;> exact nomatch decoded
  · rintro ⟨top, mant⟩
    exact (if_pos top).trans (if_neg mant)

/-- A magnitude up to infinity's is no NaN, whatever its sign. -/
theorem isNan_withSign (neg : Bool) {mag : Nat} (low : mag ≤ 0x7F800000) : isNan (BitVec.ofNat 32 (withSign .fp32 neg mag)) = false := by
  refine Bool.eq_false_iff.mpr fun nan => ?_
  obtain ⟨top, mant⟩ := (isNan_iff _).mp nan
  rw [BitVec.toNat_ofNat] at top mant
  cases neg
  · simp only [withSign, b2n, FpFmt.eb, FpFmt.mb, Bool.false_eq_true, if_false] at top mant
    omega
  · simp only [withSign, b2n, FpFmt.eb, FpFmt.mb, if_true] at top mant
    omega

/-- The only NaN that may result is the canonical one (R128). -/
def NanCanonical (r : Word32) : Prop := isNan r = true → r = nan32

theorem nanCanonical_nan : NanCanonical nan32 := fun _ => rfl

theorem nanCanonical_of_number {r : Word32} (number : isNan r = false) : NanCanonical r := fun nan => absurd (nan.symm.trans number) (by decide)

theorem nanCanonical_ite {p : Prop} [Decidable p] {r q : Word32} (first : NanCanonical r) (second : NanCanonical q) :
    NanCanonical (if p then r else q) := by
  split
  · exact first
  · exact second

theorem nanCanonical_inf (neg : Bool) : NanCanonical (inf32 neg) := nanCanonical_of_number (isNan_withSign neg (Nat.le_refl _))

theorem nanCanonical_zero (neg : Bool) : NanCanonical (zero32 neg) := nanCanonical_of_number (isNan_withSign neg (Nat.zero_le _))

theorem nanCanonical_round (neg : Bool) (n : Nat) (e : Int) (sticky : Bool) : NanCanonical (round32 neg n e sticky) := by
  rw [round32]
  split
  · exact nanCanonical_inf neg
  · next low => exact nanCanonical_of_number (isNan_withSign neg (by omega))

theorem nanCanonical_infOrNan (p : Prop) [Decidable p] (neg : Bool) : NanCanonical (if p then inf32 neg else nan32) :=
  nanCanonical_ite (nanCanonical_inf neg) nanCanonical_nan

theorem nanCanonical_nanOrInf (p : Prop) [Decidable p] (neg : Bool) : NanCanonical (if p then nan32 else inf32 neg) :=
  nanCanonical_ite nanCanonical_nan (nanCanonical_inf neg)

/-- An exact sum: a zero of some sign, or the rounded sum. -/
theorem nanCanonical_sum (s u : Int) (neg : Bool) : NanCanonical (if s = 0 then zero32 neg else round32Int s u) :=
  nanCanonical_ite (nanCanonical_zero neg) (nanCanonical_round _ _ _ _)

theorem nanCanonical_fadd (x y : Word32) : NanCanonical (fadd x y) := by
  rw [fadd]
  split
  · exact nanCanonical_nan
  · exact nanCanonical_nan
  · exact nanCanonical_infOrNan _ _
  · exact nanCanonical_inf _
  · exact nanCanonical_inf _
  · exact nanCanonical_sum _ _ _

theorem nanCanonical_fmul (x y : Word32) : NanCanonical (fmul x y) := by
  rw [fmul]
  split
  · exact nanCanonical_nan
  · exact nanCanonical_nan
  · exact nanCanonical_inf _
  · exact nanCanonical_nanOrInf _ _
  · exact nanCanonical_nanOrInf _ _
  · exact nanCanonical_round _ _ _ _

theorem nanCanonical_ffma (x y z : Word32) : NanCanonical (ffma x y z) := by
  rw [ffma]
  split
  · exact nanCanonical_nan
  · exact nanCanonical_nan
  · exact nanCanonical_nan
  · exact nanCanonical_infOrNan _ _
  · exact nanCanonical_inf _
  · exact nanCanonical_ite nanCanonical_nan (nanCanonical_infOrNan _ _)
  · exact nanCanonical_nanOrInf _ _
  · exact nanCanonical_ite nanCanonical_nan (nanCanonical_infOrNan _ _)
  · exact nanCanonical_nanOrInf _ _
  · exact nanCanonical_inf _
  · exact nanCanonical_sum _ _ _

theorem nanCanonical_fdiv (x y : Word32) : NanCanonical (fdiv x y) := by
  rw [fdiv]
  split
  · exact nanCanonical_nan
  · exact nanCanonical_nan
  · exact nanCanonical_nan
  · exact nanCanonical_inf _
  · exact nanCanonical_zero _
  · exact nanCanonical_ite (nanCanonical_nanOrInf _ _) (nanCanonical_round _ _ _ _)

theorem nanCanonical_fsqrt (x : Word32) : NanCanonical (fsqrt x) := by
  rw [fsqrt]
  split
  · exact nanCanonical_nan
  · exact nanCanonical_nanOrInf _ _
  · exact nanCanonical_ite (nanCanonical_zero _) (nanCanonical_ite nanCanonical_nan (nanCanonical_round _ _ _ _))

/-! The smaller and the larger of two words -/

section
variable {x y : Word32}

theorem fmin_of_nan (nan : isNan x = true ∨ isNan y = true) : fmin x y = nan32 := if_pos (by rwa [Bool.or_eq_true])

theorem fmax_of_nan (nan : isNan x = true ∨ isNan y = true) : fmax x y = nan32 := if_pos (by rwa [Bool.or_eq_true])

theorem fltTotal_asymm (x y : Word32) (below : fltTotal x y = true) : fltTotal y x = false :=
  decide_eq_false (Int.not_lt.mpr (Int.le_of_lt (of_decide_eq_true below)))

theorem fltTotal_irrefl (x : Word32) : fltTotal x x = false := decide_eq_false (Int.lt_irrefl _)

/-- Numerically below is below in the total order. -/
theorem flt_of_fltTotal (above : fltTotal x y = false) : flt x y = false := by rw [flt, above, Bool.and_false]

section
variable (number : isNan x = false) (other : isNan y = false)
include number other

theorem fmin_of_numbers : fmin x y = if fltTotal y x then y else x := by
  rw [fmin, number, other]
  rfl

theorem fmax_of_numbers : fmax x y = if fltTotal x y then y else x := by
  rw [fmax, number, other]
  rfl

/-- The smaller of two numbers is one of them, and neither is below it. -/
theorem fmin_least : (fmin x y = x ∨ fmin x y = y) ∧ flt y (fmin x y) = false ∧ flt x (fmin x y) = false := by
  rw [fmin_of_numbers number other]
  split
  · next below => exact ⟨.inr rfl, flt_of_fltTotal (fltTotal_irrefl y), flt_of_fltTotal (fltTotal_asymm y x below)⟩
  · next above => exact ⟨.inl rfl, flt_of_fltTotal (Bool.eq_false_iff.mpr above), flt_of_fltTotal (fltTotal_irrefl x)⟩

/-- The larger of two numbers is one of them, and it is below neither. -/
theorem fmax_greatest : (fmax x y = x ∨ fmax x y = y) ∧ flt (fmax x y) x = false ∧ flt (fmax x y) y = false := by
  rw [fmax_of_numbers number other]
  split
  · next below => exact ⟨.inr rfl, flt_of_fltTotal (fltTotal_asymm x y below), flt_of_fltTotal (fltTotal_irrefl y)⟩
  · next above => exact ⟨.inl rfl, flt_of_fltTotal (fltTotal_irrefl x), flt_of_fltTotal (Bool.eq_false_iff.mpr above)⟩

end

/-- A choice between two numbers is a number; the choice of anything else is the canonical NaN. -/
theorem nanCanonical_choice {r : Word32} (nans : isNan x = true ∨ isNan y = true → r = nan32)
    (numbers : isNan x = false → isNan y = false → r = x ∨ r = y) : NanCanonical r := by
  cases first : isNan x with
  | true => exact fun _ => nans (.inl first)
  | false =>
    cases second : isNan y with
    | true => exact fun _ => nans (.inr second)
    | false =>
      rcases numbers first second with rfl | rfl
      · exact nanCanonical_of_number first
      · exact nanCanonical_of_number second

end

theorem nanCanonical_fmin (x y : Word32) : NanCanonical (fmin x y) :=
  nanCanonical_choice fmin_of_nan fun number other => (fmin_least number other).1

theorem nanCanonical_fmax (x y : Word32) : NanCanonical (fmax x y) :=
  nanCanonical_choice fmax_of_nan fun number other => (fmax_greatest number other).1

/-! The operands' order -/

theorem fadd_comm (x y : Word32) : fadd x y = fadd y x := by
  rw [fadd, fadd]
  cases dec32 x with
  | nan => cases dec32 y <;> rfl
  | inf a =>
    cases dec32 y with
    | nan => rfl
    | inf b => cases a <;> cases b <;> rfl
    | fin b n g => rfl
  | fin a m e =>
    cases dec32 y with
    | nan => rfl
    | inf b => rfl
    | fin b n g =>
      have zeros : (a && b && decide (m = 0) && decide (n = 0)) = (b && a && decide (n = 0) && decide (m = 0)) := by
        rw [Bool.and_comm a b, Bool.and_assoc, Bool.and_comm (decide (m = 0)), ← Bool.and_assoc]
      dsimp only
      rw [zeros, min_comm e g, Int.add_comm (fixedAt a m e _)]

theorem fmul_comm (x y : Word32) : fmul x y = fmul y x := by
  rw [fmul, fmul]
  cases dec32 x with
  | nan => cases dec32 y <;> rfl
  | inf a =>
    cases dec32 y with
    | nan => rfl
    | inf b => exact congrArg inf32 bne_comm
    | fin b n g =>
      dsimp only
      rw [bne_comm (a := a)]
  | fin a m e =>
    cases dec32 y with
    | nan => rfl
    | inf b =>
      dsimp only
      rw [bne_comm (a := a)]
    | fin b n g =>
      dsimp only
      rw [bne_comm (a := a), Nat.mul_comm m n, Int.add_comm e g]

/-- Settles O60: the results by the form of each operation (`nanCanonical_fadd` and its kin), the order by `fmin_least` and `fmax_greatest`. -/
theorem canonicalNanAndOrder : Obligations.CanonicalNanAndOrder := by
  intro x y z
  refine ⟨?_, fun nan => ⟨fmin_of_nan nan, fmax_of_nan nan⟩, fun number other => ?_, by decide, by decide, by decide, by decide,
    fadd_comm x y, fmul_comm x y⟩
  · simp only [List.forall_mem_cons]
    exact ⟨nanCanonical_fadd x y, nanCanonical_fadd x (fneg y), nanCanonical_fmul x y, nanCanonical_ffma x y z, nanCanonical_fdiv x y,
      nanCanonical_fsqrt x, nanCanonical_fmin x y, nanCanonical_fmax x y, fun _ absent => nomatch absent⟩
  · obtain ⟨least, notSecond, notFirst⟩ := fmin_least number other
    obtain ⟨greatest, first, second⟩ := fmax_greatest number other
    exact ⟨least, greatest, notSecond, notFirst, first, second⟩

end Sys2Proof.Machine
end

/-! SUPPORT. A stack sequencer's control (R135, R136, R164, R176) and the refresh debt (R177 to R179): O39. -/

section
namespace Sys2Proof.Machine

open Sys2Proof

/-! An instruction that a stack issues -/

theorem onStack_congr (s : State) {i : Nat} {f g : Stack → Stack} (same : f (s.stack i) = g (s.stack i)) : s.onStack i f = s.onStack i g := by
  rw [State.stack] at same
  rw [State.onStack, State.onStack, upd, upd, same]

/-- What an issue leaves of a stack: its line has its issue cycle. -/
def issueStack (k : Stack) : Stack := { k with seq := { k.seq with issued := true } }

section
variable {s : State} {i : Nat} (issues : Claims.StackIssues s i)
include issues

/-- An issued instruction that keeps its rules acts on the state in which its sequencer has issued. -/
theorem stackSlot_acts (e : Nat) (f : State → State) :
    s.stackSlot i e true f = f (s.onStack i issueStack) := by
  obtain ⟨free, legal⟩ := issues
  rw [State.stackSlot, free, legal]
  rfl

theorem stackIssues_active : (s.stack i).active = true := by
  obtain ⟨free, _⟩ := issues
  simp only [State.stackIssues, Bool.and_eq_true] at free
  obtain ⟨⟨⟨⟨⟨⟨⟨active, _⟩, _⟩, _⟩, _⟩, _⟩, _⟩, _⟩ := free
  exact active

/-- The issue and a change of the stack by the instruction are one change. -/
theorem issued_onStack (g : Stack → Stack) : (s.onStack i issueStack).onStack i g = s.onStack i (fun k => g (issueStack k)) := by
  have active : (issueStack (s.stack i)).active = true := stackIssues_active issues
  refine onStack_onStack s i issueStack g fun idle => ?_
  rw [idle] at active
  exact absurd active (by decide)

theorem stackSlot_onStack (e : Nat) (g : Stack → Stack) : s.stackSlot i e true (fun s => s.onStack i g) =
    s.onStack i (fun k => g (issueStack k)) := (stackSlot_acts issues e _).trans (issued_onStack issues g)

end

theorem stackHazard_plain {s : State} (plain : s.debugMode = false) (i kind addr : Nat) : s.stackHazard i kind addr = s := by
  rw [State.stackHazard, plain]
  rfl

/-! The digest (R176) -/

/-- What the step's end leaves of a stack: its digest, valid. -/
def showDigest (k : Stack) : Stack := { k with digest := k.xorAcc, digestValid := true }

theorem sendParam_tells (s : State) : Tells s s.sendParam := by
  unfold State.sendParam
  split
  · dsimp only
    split
    · exact {}
    · exact Tells.trans {} (sendKept_tells _ _ _ _ _)
  · exact Tells.refl s

section
variable (s : State) (i : Nat)

theorem finishDigest_cases : s.finishDigest i = (s.onStack i showDigest).sendParam ∨ s.finishDigest i = s := by
  rw [State.finishDigest]
  split
  · exact .inl rfl
  · exact .inr rfl

/-- The end of a stack's work changes no memory and no other stack, and its own sequencer stays. -/
theorem finishDigest_frame : ((s.finishDigest i).stack i).seq = (s.stack i).seq ∧ (s.finishDigest i).mem = s.mem ∧
    ∀ j, j ≠ i → (s.finishDigest i).stack j = s.stack j := by
  rcases finishDigest_cases s i with shows | same
  · have told := sendParam_tells (s.onStack i showDigest)
    have stack := stack_eq_of_stks told.stks
    rw [shows]
    refine ⟨?_, told.mem, fun j other => (stack j).trans (stack_onStack_other s showDigest other)⟩
    rw [stack, stack_onStack_same]
    rfl
  · rw [same]
    exact ⟨rfl, rfl, fun _ _ => rfl⟩

variable {s i}

theorem finishDigest_valid (compute : s.relay = false) (last : s.lastSheaf = true) (active : (s.stack i).active = true)
    (ended : (s.stack i).seq.ended = true) (still : (s.stack i).runs = []) (open_ : (s.stack i).digestValid = false) :
    (s.finishDigest i).stack i = showDigest (s.stack i) := by
  have sends : s.finishDigest i = (s.onStack i showDigest).sendParam := by
    refine if_pos ?_
    rw [compute, last, active, ended, still, open_]
    rfl
  rw [sends]
  exact (stack_eq_of_stks (sendParam_tells (s.onStack i showDigest)).stks i).trans (stack_onStack_same s i showDigest)

theorem finishDigest_waits (waits : s.relay = true ∨ s.lastSheaf = false ∨ (s.stack i).runs ≠ []) : s.finishDigest i = s := by
  refine if_neg fun ready => ?_
  simp only [Bool.and_eq_true, Bool.not_eq_true', List.isEmpty_iff] at ready
  obtain ⟨⟨⟨⟨⟨compute, last⟩, _⟩, _⟩, still⟩, _⟩ := ready
  rcases waits with relay | more | runs
  · exact absurd (relay.symm.trans compute) (by decide)
  · exact absurd (last.symm.trans more) (by decide)
  · exact runs still

end

theorem xorAcc_eq (k : Stack) : k.xorAcc = ((List.range 64).map (get 0 k.acc)).foldl (· ^^^ ·) 0 := List.foldl_map.symm

/-! The control instructions (R135, R136, R164) -/

/-- What SHEAF_END leaves of a stack: its stream has ended. -/
def endStream (k : Stack) : Stack := { k with seq := { (issueStack k).seq with ended := true } }

theorem exec_stackSheafEnd {s : State} {i : Fin 12} (issues : Claims.StackIssues s i) :
    exec (.stackSheafEnd i) s = .next ((s.onStack i endStream).finishDigest i) := by
  have ends := issued_onStack issues (fun k => { k with seq := { k.seq with ended := true } })
  show Host.Outcome.next (s.stackSlot i (s.lineEngine i) true _) = _
  rw [stackSlot_acts issues]
  exact congrArg (fun t : State => (.next (t.finishDigest i) : Host.Outcome State Fault Refusal)) ends

/-- A wait on a group that is not ready: the stack waits and its region stands. -/
theorem exec_stackWait_gates {s : State} {i : Fin 12} {g : Fin 64} (issues : Claims.StackIssues s i) (plain : s.debugMode = false)
    (open_ : (s.stack i).groups.ready g = false) : exec (.stackWait i g) s = .next ((s.onStack i (fun k => { k with
      seq := { { k.seq with issued := true } with waiting := some (g.val, 0) } })).restall (stackRegion i)) := by
  let issued := s.onStack i issueStack
  have waits := issued_onStack issues (fun k => { k with seq := { k.seq with waiting := some (g.val, 0) } })
  have own : issued.stack i = issueStack (s.stack i) := stack_onStack_same s i issueStack
  have ready : (issued.stack i).groups.ready g = false := by
    rw [own]
    exact open_
  have hazard : (if issued.assured (64 + i) g then issued.stackHazard i 3 g else issued) = issued := by
    rw [stackHazard_plain (s := issued) plain, ite_self]
  show Host.Outcome.next (s.stackSlot i (s.lineEngine i) true _) = _
  rw [stackSlot_acts issues]
  show Host.Outcome.next (if (issued.stack i).groups.ready g then issued else _) = _
  rw [ready, if_neg (by decide), hazard]
  exact congrArg (fun t : State => (.next (t.restall (stackRegion i)) : Host.Outcome State Fault Refusal)) waits

theorem stackControl : Claims.StackControl := by
  intro s i g l trip x rest issues plain k issued
  refine ⟨fun ready => ?proceeds, fun open_ => ?gates, fun idle => ?begin, fun loops level others => ⟨fun more => ?again, fun done => ?last⟩, ?sheafEnd⟩
  case proceeds =>
    show Host.Outcome.next (s.stackSlot i (s.lineEngine i) true _) = _
    have own : (s.onStack i issueStack).stack i = issueStack (s.stack i) := stack_onStack_same s i issueStack
    have passes : ((s.onStack i issueStack).stack i).groups.ready g = true := by
      rw [own]
      exact ready
    rw [stackSlot_acts issues, if_pos passes]
    exact congrArg Host.Outcome.next (onStack_congr s rfl)
  case gates =>
    let waits (k : Stack) : Stack := { k with seq := { { k.seq with issued := true } with waiting := some (g.val, 0) } }
    have own : (s.onStack i waits).stack i = waits (s.stack i) := stack_onStack_same s i waits
    obtain ⟨rest, region, _⟩ := restall_only (s.onStack i waits) (stackRegion i)
    refine ⟨_, exec_stackWait_gates issues plain open_, rfl, own, fun j other => stack_onStack_other s waits other, region.trans ?_⟩
    rw [unitStall_stack i.isLt, own]
    rfl
  case begin =>
    show Host.Outcome.next (s.stackSlot i (s.lineEngine i) (!(s.stack i).seq.active l) _) = _
    rw [active_eq_false idle, Bool.not_false, stackSlot_onStack issues]
    rfl
  case again =>
    show Host.Outcome.next (s.stackSlot i (s.lineEngine i) ((s.stack i).seq.active l) _) = _
    rw [active_eq_true loops level, stackSlot_onStack issues]
    refine congrArg Host.Outcome.next (onStack_congr s ?_)
    rw [closeLoop_again (q := (issueStack (s.stack i)).seq) loops level others more]
    rfl
  case last =>
    show Host.Outcome.next (s.stackSlot i (s.lineEngine i) ((s.stack i).seq.active l) _) = _
    rw [active_eq_true loops level, stackSlot_onStack issues]
    refine congrArg Host.Outcome.next (onStack_congr s ?_)
    rw [closeLoop_last (q := (issueStack (s.stack i)).seq) loops level others done]
    rfl
  case sheafEnd =>
    have own : (s.onStack i endStream).stack i = endStream (s.stack i) := stack_onStack_same s i endStream
    obtain ⟨seq, mem, others⟩ := finishDigest_frame (s.onStack i endStream) i
    refine ⟨_, exec_stackSheafEnd issues, seq.trans (congrArg Stack.seq own), mem,
      fun j other => (others j other).trans (stack_onStack_other s endStream other), fun compute last still open_ => ?_, fun waits => ?_⟩
    · have shown := finishDigest_valid (s := s.onStack i endStream) (i := i) compute (decide_eq_true last)
        ((congrArg Stack.active own).trans (stackIssues_active issues)) (congrArg (fun k => k.seq.ended) own) ((congrArg Stack.runs own).trans still)
        ((congrArg Stack.digestValid own).trans open_)
      rw [shown, own]
      exact ⟨rfl, xorAcc_eq (endStream (s.stack i))⟩
    · have busy (runs : k.runs ≠ []) : ((s.onStack i endStream).stack i).runs ≠ [] := by
        rw [own]
        exact runs
      rw [finishDigest_waits (waits.imp id (Or.imp (fun more => decide_eq_false (Nat.not_le.mpr more)) busy))]
      rfl

/-! Refresh (R177 to R179) -/

/-- DEBT_MAX has three bits, and its largest value stands for more. -/
theorem debtMax_toNat (a : BitVec 3) (d : Nat) : (if a.toNat < d then BitVec.ofNat 3 (Nat.min d 7) else a).toNat = max a.toNat (min d 7) := by
  have low := a.isLt
  have cap : Nat.min d 7 ≤ 7 := Nat.min_le_right d 7
  split
  · rw [BitVec.toNat_ofNat, Nat.mod_eq_of_lt (by omega)]
    show min d 7 = _
    omega
  · omega

theorem refreshed_sound {s : State} (sound : ∀ u ∈ s.weak, u.2 ≠ 3) (i g : Nat) :
    s.refreshed i g = s.onStack i (fun k => { k with debt := put 0 k.debt g (get 0 k.debt g - 1) }) := by
  have parity : (s.onStack i (fun k => { k with debt := upd 0 k.debt g (· - 1) })).groupParity i g = [] := by
    rw [State.groupParity, List.map_eq_nil_iff, List.filter_eq_nil_iff]
    intro u listed
    simp [sound u listed]
  have plain : s.groupParity i g = [] := parity
  rw [State.refreshed, plain]
  rfl

theorem refreshDebt : Claims.RefreshDebt := by
  intro s i pc bg k g d
  refine ⟨⟨_, rfl, rfl, fun j other => stack_onStack_other s _ other, ?_⟩, fun runs owner sound => ?_, fun idle early => ?_⟩
  · rw [stack_onStack_same]
    have fourth : d + 1 = 4 ↔ d = 3 := by omega
    exact ⟨rfl, debtMax_toNat _ _, fun other => ⟨if_neg (mt fourth.mp other), if_neg fun full => other (fourth.mp full.1)⟩,
      fun three => ⟨if_pos (fourth.mpr three), fun free => if_pos ⟨fourth.mpr three, free⟩⟩⟩
  · show Host.Outcome.next (if s.stackRuns i && sliceOwner k.slices pc bg (s.cyc (stackRegion i) / 32) == 3 then s.refreshed i g else s) = _
    rw [runs, owner, if_pos (by decide), refreshed_sound sound]
  · show Host.Outcome.next (if s.stackRuns i || (s.jobRuns && decide (s.tickTime < s.nowNs + 2000)) then s else _) = _
    have free : (s.jobRuns && decide (s.tickTime < s.nowNs + 2000)) = false := by
      rcases early with still | early
      · rw [State.jobRuns, beq_false_of_ne still, Bool.false_and]
      · rw [decide_eq_false (by omega), Bool.and_false]
    rw [idle, free]
    rfl

/-- Settles O39: a stack's control instructions (`stackControl`) and the refresh of its memory (`refreshDebt`). -/
theorem stackControlAndRefresh : Obligations.StackControlAndRefresh := ⟨stackControl, refreshDebt⟩

end Sys2Proof.Machine
end

/-! SUPPORT. What the engines of a stack leave unchanged: the frame of a group, of a run and of its issue (R155 to R175). -/

section
namespace Sys2Proof.Machine

open Sys2Proof

-- Each default of a relation below is a tactic that waits for all earlier declarations: one proof at a time.
set_option Elab.async false

/-! What an operation's engines leave unchanged -/

/-- The part of a stack that the work of its engines leaves to the sequencer: its tables, its place in the stream, and which
engines work on what until when. -/
structure Stack.SameCourse (k l : Stack) : Prop where
  tables : l.tables = k.tables := by rfl
  seq : l.seq = k.seq := by rfl
  busy : l.busy = k.busy := by rfl
  runs : l.runs = k.runs := by rfl

/-- The work of the engines of stack `i`: blocks, memories, the sheaf, the job and the regions stay, every other stack, and the course
of its own. -/
structure EngineWork (i : Nat) (s t : State) : Prop where
  blocks : t.blocks = s.blocks := by rfl
  mem : t.mem = s.mem := by rfl
  egress : t.egress = s.egress := by rfl
  sheaf : t.sheaf = s.sheaf := by rfl
  job : t.job = s.job := by rfl
  regions : t.regions = s.regions := by rfl
  others : ∀ j, j ≠ i → t.stack j = s.stack j := by exact fun _ _ => rfl
  own : (s.stack i).SameCourse (t.stack i) := by exact {}

section
variable {i : Nat} {s t u : State}

theorem EngineWork.refl (s : State) : EngineWork i s s := {}

theorem EngineWork.trans (h : EngineWork i s t) (k : EngineWork i t u) : EngineWork i s u where
  blocks := k.blocks.trans h.blocks
  mem := k.mem.trans h.mem
  egress := k.egress.trans h.egress
  sheaf := k.sheaf.trans h.sheaf
  job := k.job.trans h.job
  regions := k.regions.trans h.regions
  others j other := (k.others j other).trans (h.others j other)
  own :=
    { tables := k.own.tables.trans h.own.tables, seq := k.own.seq.trans h.own.seq, busy := k.own.busy.trans h.own.busy
      runs := k.own.runs.trans h.own.runs }

theorem EngineWork.ite {c : Prop} [Decidable c] (h : EngineWork i s t) (k : EngineWork i s u) : EngineWork i s (if c then t else u) := by
  split
  · exact h
  · exact k

/-- The same of a state that comes with a value. -/
theorem EngineWork.iteFst {α : Type} {c : Prop} [Decidable c] {p q : State × α} (h : EngineWork i s p.1) (k : EngineWork i s q.1) :
    EngineWork i s (if c then p else q).1 := by
  split
  · exact h
  · exact k

theorem EngineWork.foldl {α : Type} {f : State → α → State} (h : ∀ t x, EngineWork i t (f t x)) (l : List α) (s : State) :
    EngineWork i s (l.foldl f s) := foldl_related EngineWork.refl EngineWork.trans h l s

/-- An entry of the log or a message reaches no unit. -/
theorem Notes.engineWork (h : Notes s t) : EngineWork i s t where
  blocks := h.blocks
  mem := h.mem
  egress := h.egress
  sheaf := h.sheaf
  job := h.job
  regions := h.regions
  others j _ := stack_eq_of_stks h.stks j
  own := by rw [stack_eq_of_stks h.stks i]; exact {}

end

section
variable (s : State) (i : Nat)

theorem onStack_engineWork {f : Stack → Stack} (own : ∀ k, Stack.SameCourse k (f k)) : EngineWork i s (s.onStack i f) where
  others _ other := stack_onStack_other s f other
  own := by rw [stack_onStack_same]; exact own _

/-! Errors (R182, R323) -/

theorem stackErr_engineWork (j line e : Nat) : EngineWork i s (s.stackErr i j line e) := onStack_engineWork s i fun _ => {}

theorem stackFault_engineWork (kind line e : Nat) : EngineWork i s (s.stackFault i kind line e) := by
  unfold State.stackFault
  exact EngineWork.trans (onStack_engineWork s i fun _ => {}) (log_notes _ _).engineWork

theorem hazardAt_engineWork (r lb line cycle kind addr : Nat) : EngineWork i s (s.hazardAt r lb line cycle kind addr) := by
  unfold State.hazardAt
  exact EngineWork.trans {} (log_notes _ _).engineWork

theorem stackHazard_engineWork (kind addr : Nat) : EngineWork i s (s.stackHazard i kind addr) :=
  .ite (((onStack_engineWork s i fun _ => {}).trans (stackErr_engineWork _ i 7 _ 0)).trans (hazardAt_engineWork ..)) (.refl s)

theorem netHazard_engineWork (n kind addr : Nat) : EngineWork i s (s.netHazard n kind addr) :=
  .ite (EngineWork.trans {} (hazardAt_engineWork _ i ..)) (.refl s)

theorem stackCorrect_engineWork (a n e : Nat) : EngineWork i s (s.stackCorrect i a n e) := by
  unfold State.stackCorrect
  exact .ite (.refl s) (EngineWork.trans (onStack_engineWork s i fun _ => {}) (log_notes _ _).engineWork)

theorem stackLost_engineWork (units : List Nat) (wide : Bool) (requester line e : Nat) :
    EngineWork i s (s.stackLost i units wide requester line e) := by
  unfold State.stackLost
  split
  · exact .refl _
  · exact .ite ((onStack_engineWork _ i fun _ => {}).trans ((stackErr_engineWork ..).trans (hardError_notes _ _).engineWork))
      ((stackErr_engineWork ..).trans (hardError_notes _ _).engineWork)

theorem stackCheck_engineWork (a n : Nat) (wide : Bool) (requester line e : Nat) :
    EngineWork i s (s.stackCheck i a n wide requester line e) := (stackCorrect_engineWork ..).trans (stackLost_engineWork ..)

theorem stagingHazard_engineWork (a n cycle : Nat) : EngineWork i s (s.stagingHazard i a n cycle) :=
  .ite (.ite (stackHazard_engineWork s i 1 a) (.ite (stackHazard_engineWork s i 6 a) (.ite (stackHazard_engineWork s i 7 a) (.refl s)))) (.refl s)

theorem moveHazard_engineWork (a n : Nat) : EngineWork i s (s.moveHazard i a n) := .ite (stackHazard_engineWork s i 6 a) (.refl s)

theorem stageHazard_engineWork (a n : Nat) : EngineWork i s (s.stageHazard i a n) := .ite (stackHazard_engineWork s i 6 a) (.refl s)

/-! Reads and writes of engines (R156, R165) -/

theorem engineRead_engineWork (e line : Nat) (pl : Option Nat) (n cycle : Nat) : EngineWork i s (s.engineRead i e line pl n cycle).1 := by
  unfold State.engineRead
  split
  · exact .refl s
  · exact .iteFst (.iteFst ((moveHazard_engineWork ..).trans (stackCheck_engineWork ..)) ((stackHazard_engineWork ..).trans (stackFault_engineWork ..)))
      ((stagingHazard_engineWork ..).trans (stackCheck_engineWork ..))

theorem post_engineWork (cycle a : Nat) (bs : List Byte) : EngineWork i s (s.post i cycle a bs) := onStack_engineWork s i fun _ => {}

/-- A row for the egress buffers waits in its crossing; a disabled one is a hazard of the network region. -/
theorem egressToken_engineWork {x : Token} {a : Nat} {bs : List Byte} (egress : x.payload = .egress a bs) : EngineWork i s (s.token x) := by
  unfold State.token State.crossingMisuse
  rw [egress]
  exact .ite {} (netHazard_engineWork ..)

theorem engineWrite_engineWork (e line ar : Nat) (pl : Option Nat) (bs : List Byte) (v : Nat) :
    EngineWork i s (s.engineWrite i e line ar pl bs v) := by
  unfold State.engineWrite
  split
  · exact .refl s
  · refine .ite (.ite ?hbm (onStack_engineWork s i fun _ => {})) (.ite (egressToken_engineWork s i rfl) ?staging)
    case hbm => exact (moveHazard_engineWork ..).trans ((post_engineWork ..).trans (stackLost_engineWork ..))
    case staging =>
      exact (stageHazard_engineWork ..).trans ((post_engineWork ..).trans (.ite (onStack_engineWork _ i fun _ => {}) (.refl _)))

/-! One group (R165 to R174) -/

theorem groupReads_engineWork (e : Nat) (r : StackRun) (l : List Source) : EngineWork i s (s.groupReads i e r l).1 := by
  induction l generalizing s with
  | nil => exact .refl s
  | cons x l ih => exact EngineWork.trans (engineRead_engineWork ..) (ih _)

theorem groupWrite_engineWork (r : StackRun) (x : EngineRun) (vals : List (List Word32)) (d : Dest) :
    EngineWork i s (s.groupWrite i r x vals d).1 :=
  .ite ((engineWrite_engineWork ..).trans (engineWrite_engineWork ..)) (engineWrite_engineWork ..)

theorem groupWrites_engineWork (r : StackRun) (x : EngineRun) (vals : List (List Word32)) (l : List Dest) :
    EngineWork i s (s.groupWrites i r x vals l).1 := by
  induction l generalizing s x with
  | nil => exact .refl s
  | cons d l ih => exact EngineWork.trans (groupWrite_engineWork ..) (ih _ _)

theorem gatherRow_engineWork (r : StackRun) (x : EngineRun) : EngineWork i s (s.gatherRow i r x).1 := by
  have read (line : Nat) (pl : Option Nat) (n cycle : Nat) := engineRead_engineWork s i x.engine line pl n cycle
  unfold State.gatherRow
  refine EngineWork.trans ?row (engineWrite_engineWork ..)
  case row =>
    exact .iteFst ((read ..).trans (stackFault_engineWork ..)) (.iteFst ((read ..).trans (engineRead_engineWork ..))
      ((read ..).trans ((stackHazard_engineWork ..).trans (stackFault_engineWork ..))))

theorem engineGroup_engineWork (r : StackRun) (x : EngineRun) : EngineWork i s (s.engineGroup i r x).1 := by
  unfold State.engineGroup
  exact .iteFst (gatherRow_engineWork ..) ((groupReads_engineWork ..).trans (groupWrites_engineWork ..))

theorem enginesGroup_engineWork (r : StackRun) (l : List EngineRun) : EngineWork i s (s.enginesGroup i r l).1 := by
  induction l generalizing s with
  | nil => exact .refl s
  | cons x l ih => exact (engineGroup_engineWork ..).trans (ih _)

theorem engineEnd_engineWork (r : StackRun) (x : EngineRun) : EngineWork i s (s.engineEnd i r x) := by
  have norms : EngineWork i s (if r.code = 0x16 then s.partialNorms i r x else s) := .ite (engineWrite_engineWork ..) (.refl s)
  unfold State.engineEnd
  exact .ite (norms.trans (onStack_engineWork _ i fun _ => {})) norms

theorem advanceRun_engineWork (cycle : Nat) (r : StackRun) : EngineWork i s (s.advanceRun i cycle r).1 := by
  have group := enginesGroup_engineWork s i r r.engines
  unfold State.advanceRun
  exact .iteFst (.refl s) (.iteFst (.refl s) (.iteFst group (group.trans (.foldl (fun t x => engineEnd_engineWork t i _ x) _ _))))

/-! The issue (R162, R167) -/

theorem operandFaults_engineWork (e line code : Nat) (f : SFields) (kd : KDesc) : EngineWork i s (s.operandFaults i e line code f kd) :=
  .foldl (fun t _ => .foldl (fun t kind => stackFault_engineWork t i kind line e) _ t) _ s

theorem scalarReads_engineWork (e line code : Nat) (f : SFields) (kd : KDesc) : EngineWork i s (s.scalarReads i e line code f kd).1 := by
  unfold State.scalarReads
  extract_lets c step ix word inPc rate scale ratio
  have reads (t : State) (pl : Option Nat) : EngineWork i t (word t pl).1 := engineRead_engineWork t i e line pl 4 c
  have readsPc (t : State) (off : Nat) : EngineWork i t (inPc t off).1 :=
    .iteFst (reads ..) ((stackFault_engineWork t i 4 line e).trans (reads ..))
  refine .iteFst ?kernel (.refl s)
  have scaled : EngineWork i s scale.1 := .iteFst (readsPc ..) ((readsPc ..).trans (readsPc ..))
  exact .iteFst (scaled.trans (reads ..)) scaled

theorem scalarsAll_engineWork (line code : Nat) (f : SFields) (kd : KDesc) (es : List Nat) :
    EngineWork i s (s.scalarsAll i line code f kd es).1 := by
  induction es generalizing s with
  | nil => exact .refl s
  | cons e es ih => exact ((operandFaults_engineWork ..).trans (scalarReads_engineWork ..)).trans (ih _)

end
end Sys2Proof.Machine
end

/-! SUPPORT. A stack operation's issue: its engines free, or one of them busy (R163, R165, R182): O37. -/

section
namespace Sys2Proof.Machine

open Sys2Proof

/-! The engines that a run names -/

section
variable (s : State) (i : Nat)

theorem scalarReads_engine (e line code : Nat) (f : SFields) (kd : KDesc) : (s.scalarReads i e line code f kd).2.engine = e := by
  unfold State.scalarReads
  extract_lets
  split <;> rfl

theorem scalarsAll_engines (line code : Nat) (f : SFields) (kd : KDesc) (es : List Nat) :
    (s.scalarsAll i line code f kd es).2.map (·.engine) = es := by
  induction es generalizing s with
  | nil => rfl
  | cons e es ih => exact congrArg₂ List.cons (scalarReads_engine ..) (ih _)

theorem groupWrite_engine (r : StackRun) (x : EngineRun) (vals : List (List Word32)) (d : Dest) :
    (s.groupWrite i r x vals d).2.engine = x.engine := by
  unfold State.groupWrite
  dsimp only
  rw [apply_ite EngineRun.engine, ite_self, apply_ite EngineRun.engine, ite_self]

theorem groupWrites_engine (r : StackRun) (x : EngineRun) (vals : List (List Word32)) (l : List Dest) :
    (s.groupWrites i r x vals l).2.engine = x.engine := by
  induction l generalizing s x with
  | nil => rfl
  | cons d l ih => exact (ih _ _).trans (groupWrite_engine ..)

theorem engineGroup_engine (r : StackRun) (x : EngineRun) : (s.engineGroup i r x).2.engine = x.engine := by
  unfold State.engineGroup
  split
  · exact (apply_ite EngineRun.engine ..).trans (ite_self _)
  · exact groupWrites_engine ..

theorem enginesGroup_engines (r : StackRun) (l : List EngineRun) : (s.enginesGroup i r l).2.map (·.engine) = l.map (·.engine) := by
  induction l generalizing s with
  | nil => rfl
  | cons x l ih => exact congrArg₂ List.cons (engineGroup_engine ..) (ih _)

/-- A run whose first group is due reads it, and goes on while it has another. -/
theorem advanceRun_first {cycle : Nat} {r : StackRun} (issued : r.issue = cycle) (start : r.next = 0) (more : 2 ≤ r.groups) :
    (s.advanceRun i cycle r).2 = some { r with next := 1, engines := (s.enginesGroup i r r.engines).2 } := by
  unfold State.advanceRun
  rw [start, Nat.zero_mul, issued, if_neg (by omega), if_neg (by omega)]
  exact congrArg Prod.snd (if_pos more)

end

/-! A stack operation's issue (R163, R165) -/

theorem get_put_all (v x : Nat) : ∀ (es : List Nat) (m : Sparse Nat),
    get 0 (es.foldl (fun m e => put 0 m e v) m) x = if x ∈ es then v else get 0 m x
  | [], m => by rw [if_neg List.not_mem_nil]; rfl
  | e :: es, m => by
    rw [List.foldl_cons, get_put_all v x es]
    by_cases same : x = e
    · rw [same, get_put_same, ite_self, if_pos List.mem_cons_self]
    · rw [get_put_other 0 m v same]
      exact if_congr (by rw [List.mem_cons, or_iff_right same]) rfl rfl

theorem mem_enginesOf {m : Word64} {e : Nat} : e ∈ enginesOf m ↔ e < 64 ∧ m.getLsbD e = true := by
  rw [enginesOf, List.mem_filter, List.mem_range, bit]

/-- The descriptor that an instruction names. -/
def Stack.descOf (k : Stack) (f : SFields) : KDesc := k.tables.kdesc.getD f.kdesc.toNat {}

/-- The engine set that an instruction names. -/
def Stack.setOf (k : Stack) (f : SFields) : Word64 := k.tables.eset.getD f.eset.toNat 0

/-- The reads of scalars in every engine of an instruction's set, at its issue. -/
def State.startScalars (s : State) (i code : Nat) (f : SFields) : State × List EngineRun :=
  s.scalarsAll i (s.stack i).seq.line code f ((s.stack i).descOf f) (enginesOf ((s.stack i).setOf f))

/-- The run that an instruction starts. -/
def State.startRun (s : State) (i code : Nat) (f : SFields) : StackRun :=
  let k := s.stack i
  { code := code, f := f, line := k.seq.line, iters := k.seq.iters, kd := k.descOf f, hashed := f.hash && s.inCommit && !s.relay
    issue := s.cyc (stackRegion i), groups := groupsOf code f, t := occupancy k code f (k.descOf f)
    rho := readLatency k code f (k.descOf f) + stackLatency code f s.lp2, next := 0, engines := (s.startScalars i code f).2 }

/-- The first group of the run that an instruction starts. -/
def State.startGroup (s : State) (i code : Nat) (f : SFields) : State × Option StackRun :=
  (s.startScalars i code f).1.advanceRun i (s.cyc (stackRegion i)) (s.startRun i code f)

/-- What an operation leaves of its stack's engines: those of its set are occupied, and its run goes on while it has another group. -/
def Stack.occupied (es : List Nat) (until_ : Nat) (run : Option StackRun) (k : Stack) : Stack :=
  { k with busy := es.foldl (fun m e => put 0 m e until_) k.busy, runs := k.runs ++ (match run with | some r => [r] | none => []) }

section
variable {s : State} {i : Nat} {f : SFields}

/-- With every engine of its set free, an operation reads its first group and occupies its engines. -/
theorem stackStart_free (code : Nat)
    (free : ∀ e ∈ enginesOf ((s.stack i).setOf f), get 0 (s.stack i).busy e ≤ s.cyc (stackRegion i)) :
    s.stackStart i code f = (s.startGroup i code f).1.onStack i (Stack.occupied (enginesOf ((s.stack i).setOf f))
      (s.cyc (stackRegion i) + groupsOf code f * occupancy (s.stack i) code f ((s.stack i).descOf f)) (s.startGroup i code f).2) := by
  have idle : (enginesOf ((s.stack i).setOf f)).find? (fun e => decide (s.cyc (stackRegion i) < get 0 (s.stack i).busy e)) = none := by
    refine List.find?_eq_none.mpr fun e member busy => ?_
    exact absurd (of_decide_eq_true busy) (Nat.not_lt.mpr (free e member))
  unfold State.stackStart
  extract_lets k c es kd
  rw [show es.find? (fun e => decide (c < get 0 k.busy e)) = none from idle]
  rfl

/-- With another group to read, the run goes on in all its engines. -/
theorem startGroup_continues (s : State) (i : Nat) (f : SFields) {code : Nat} (more : 2 ≤ groupsOf code f) :
    ∃ r, (s.startGroup i code f).2 = some r ∧ r.code = code ∧ r.issue = s.cyc (stackRegion i) ∧ r.groups = groupsOf code f ∧ r.next = 1 ∧
      r.engines.map (·.engine) = enginesOf ((s.stack i).setOf f) :=
  ⟨_, advanceRun_first _ i (r := s.startRun i code f) rfl rfl more, rfl, rfl, rfl, rfl,
    (enginesGroup_engines ..).trans (scalarsAll_engines ..)⟩

/-- With an engine of its set busy, an operation is a plan fault of its line and does nothing else. -/
theorem stackStart_busy (code : Nat) {e : Nat} (member : e ∈ enginesOf ((s.stack i).setOf f))
    (busy : s.cyc (stackRegion i) < get 0 (s.stack i).busy e) :
    ∃ x, s.stackStart i code f = s.stackFault i 2 (s.stack i).seq.line x := by
  have found : ((enginesOf ((s.stack i).setOf f)).find? (fun e => decide (s.cyc (stackRegion i) < get 0 (s.stack i).busy e))).isSome :=
    List.find?_isSome.mpr ⟨e, member, decide_eq_true busy⟩
  obtain ⟨x, first⟩ := Option.isSome_iff_exists.mp found
  refine ⟨x, ?_⟩
  unfold State.stackStart
  extract_lets k c es kd
  rw [show es.find? (fun e => decide (c < get 0 k.busy e)) = some x from first]

end

section
variable {s : State} {i : Fin 12} {f : SFields} (issues : Claims.StackIssues s i)
include issues

/-- A stack operation that issues and keeps its rules starts in the state in which its sequencer has issued. -/
theorem stackOp_starts (code : Nat) : s.stackOp i code f true = (s.onStack i issueStack).stackStart i code f :=
  stackSlot_acts issues ..

end

/-- A legal operation whose engines are all free occupies them for its groups (R163, R165, R166). -/
theorem stackOp_occupies {s : State} {i : Fin 12} {f : SFields} (issues : Claims.StackIssues s i)
    (free : ∀ e < 64, ((s.stack i).setOf f).getLsbD e = true → get 0 (s.stack i).busy e ≤ s.cyc (stackRegion i)) (code : Nat) :
    Claims.Occupies s i f code (.next (s.stackOp i code f true)) := by
  let u := s.onStack i issueStack
  have own : u.stack i = issueStack (s.stack i) := stack_onStack_same s i issueStack
  have idle : ∀ e ∈ enginesOf ((u.stack i).setOf f), get 0 (u.stack i).busy e ≤ u.cyc (stackRegion i) := by
    rw [own]
    intro e member
    obtain ⟨inside, named⟩ := mem_enginesOf.mp member
    exact free e inside named
  have work : EngineWork i u (u.startGroup i code f).1 := (scalarsAll_engineWork ..).trans (advanceRun_engineWork ..)
  have course := own ▸ work.own
  refine ⟨_, congrArg Host.Outcome.next ((stackOp_starts issues code).trans (stackStart_free code idle)), fun e inside => ?busy, fun more => ?run,
    fun j other => ?others, work.blocks, work.mem, work.egress, work.sheaf, work.job, work.regions, ?tables, ?seq⟩
  case others => exact (stack_onStack_other _ _ other).trans ((work.others j other).trans (stack_onStack_other s _ other))
  all_goals rw [stack_onStack_same]
  case tables => exact course.tables
  case seq => exact course.seq
  case busy =>
    refine (get_put_all ..).trans ?_
    rw [course.busy, own]
    exact if_congr (mem_enginesOf.trans (and_iff_right inside)) rfl rfl
  case run =>
    obtain ⟨r, runs, code, issue, groups, next, engines⟩ := startGroup_continues (s.onStack i issueStack) i f more
    rw [runs]
    refine ⟨r, List.mem_append_right _ List.mem_cons_self, code, issue, groups, next, engines.trans ?_⟩
    rw [stack_onStack_same]
    rfl

theorem stackOperationsRun : Claims.StackOperationsRun := by
  intro s i f issues free
  have runs : ∀ p ∈ Claims.stackOps, (p.2 i f).wellFormed = true → Claims.Occupies s i f p.1 (exec (p.2 i f) s) := by
    intro p listed legal
    rw [exec_stackOps i f s p listed, legal]
    exact stackOp_occupies issues free p.1
  simpa only [Claims.stackOps, List.forall_mem_cons, List.not_mem_nil, false_implies, implies_true, and_true] using runs

/-! A busy engine (R165, R182) -/

/-- A stack's record after a plan fault. -/
def Stack.faulted (k : Stack) (kind line e : Nat) : Stack :=
  { k with
    planFaultInfo := if bit k.err 6 then k.planFaultInfo else pack [(kind, 0), (line % 2 ^ 13, 3), (e % 64, 16)]
    planFaults := satInc k.planFaults
    errInfo := captureInfo k.err 0x000000FE k.errInfo (pack [(line % 2 ^ 13, 0), (e % 64, 13)])
    err := setBit k.err 6 }

theorem stackFault_stack (s : State) (i kind line e : Nat) : (s.stackFault i kind line e).stack i = (s.stack i).faulted kind line e := by
  unfold State.stackFault
  exact (stack_eq_of_stks (log_notes _ _).stks i).trans (stack_onStack_same s i _)

/-- The kind stands in the lowest bits of PLAN_FAULT_INFO (R184). -/
theorem pack_stackKind {kind : Nat} (small : kind < 8) (a b : Nat) : (pack [(kind, 0), (a, 3), (b, 16)]).toNat % 8 = kind := by
  rw [pack, BitVec.toNat_ofNat, List.foldl_cons, List.foldl_cons, List.foldl_cons, List.foldl_nil, Nat.mod_mod_of_dvd _ (by decide)]
  dsimp only
  omega

theorem faulted_kind {k : Stack} {kind : Nat} (small : kind < 8) (line e : Nat) (first : bit k.err 6 = false) :
    (k.faulted kind line e).planFaultInfo.toNat % 8 = kind := by
  have told : (k.faulted kind line e).planFaultInfo = pack [(kind, 0), (line % 2 ^ 13, 3), (e % 64, 16)] := if_neg (by rw [first]; decide)
  rw [told, pack_stackKind small]

/-- With an engine of its set busy, an operation is a plan fault of its line and does nothing else. -/
theorem stackStart_drops {s : State} {i : Nat} {f : SFields} (code : Nat) {e : Nat} (member : e ∈ enginesOf ((s.stack i).setOf f))
    (busy : s.cyc (stackRegion i) < get 0 (s.stack i).busy e) :
    ∃ x, (s.stackStart i code f).stack i = (s.stack i).faulted 2 (s.stack i).seq.line x ∧ (s.stackStart i code f).mem = s.mem ∧
      (s.stackStart i code f).sheaf = s.sheaf := by
  obtain ⟨x, dropped⟩ := stackStart_busy code member busy
  have kept := stackFault_engineWork s i 2 (s.stack i).seq.line x
  rw [dropped]
  exact ⟨x, stackFault_stack .., kept.mem, kept.sheaf⟩

theorem busyEngineDropsOperation : Claims.BusyEngineDropsOperation := by
  intro s i f p listed issues legal k set ⟨e, inside, named, busy⟩
  have own : (s.onStack i issueStack).stack i = issueStack k := stack_onStack_same s i issueStack
  have drops := stackStart_drops (s := s.onStack i issueStack) (i := i) (f := f) p.1 (e := e)
  rw [own] at drops
  obtain ⟨x, fault, mem, sheaf⟩ := drops (mem_enginesOf.mpr ⟨inside, named⟩) busy
  refine ⟨(s.onStack i issueStack).stackStart i p.1 f, ?_, ?_⟩
  · rw [exec_stackOps i f s p listed, legal, stackOp_starts issues]
  · rw [fault]
    exact ⟨rfl, rfl, rfl, rfl, bit_setBit_same k.err 6, faulted_kind (k := issueStack k) (by decide) k.seq.line x, mem, sheaf⟩

/-- Settles O37: operations whose engines are free (`stackOperationsRun`), and those with an engine busy (`busyEngineDropsOperation`). -/
theorem stackOperations : Obligations.StackOperations := ⟨stackOperationsRun, busyEngineDropsOperation⟩

end Sys2Proof.Machine
end

/-! SUPPORT. The fixed tree, and the elements of the optimizer kernels (R100, R166, R169, R170, R173): O38. -/

section
namespace Sys2Proof.Machine

open Sys2Proof

/-! The fixed tree (R100, R166, R173) -/

section
variable {α : Type} (op : α → α → α)

theorem length_pairUp : ∀ xs : List α, (pairUp op xs).length = (xs.length + 1) / 2
  | [] | [_] => by simp [pairUp]
  | _ :: _ :: xs => by
    rw [pairUp, List.length_cons, length_pairUp xs, List.length_cons, List.length_cons]
    omega

/-- With as much fuel as it has values the tree is whole: more adds no level. -/
theorem treeFuel_enough : ∀ (m n : Nat) (xs : List α), xs.length ≤ m → xs.length ≤ n → treeFuel op m xs = treeFuel op n xs
  | 0, 0, _, _, _ => rfl
  | 0, n + 1, xs, few, _ => (if_pos (by omega)).symm
  | m + 1, 0, xs, _, few => if_pos (by omega)
  | m + 1, n + 1, xs, less, fewer => by
    rw [treeFuel, treeFuel]
    split
    · rfl
    · have half := length_pairUp op xs
      exact treeFuel_enough m n (pairUp op xs) (by omega) (by omega)

theorem treeCombine_pairUp (d : α) {xs : List α} (several : 2 ≤ xs.length) : treeCombine op d xs = treeCombine op d (pairUp op xs) := by
  have half := length_pairUp op xs
  rw [treeCombine, treeFuel, if_neg (by omega), treeCombine, treeFuel_enough op xs.length _ _ (by omega) (Nat.le_succ _)]

/-- Pair k of a level is its places 2k and 2k + 1. -/
theorem pairUp_pair (d : α) : ∀ (xs : List α) (k : Nat), 2 * k + 1 < xs.length →
    (pairUp op xs)[k]? = some (op (xs.getD (2 * k) d) (xs.getD (2 * k + 1) d))
  | [], k, inside => by simp at inside
  | [_], k, inside => by simp at inside
  | _ :: _ :: _, 0, _ => rfl
  | a :: b :: xs, k + 1, inside => by
    simp only [List.length_cons] at inside
    exact pairUp_pair d xs k (by omega)

/-- A lone last value moves up. -/
theorem pairUp_last : ∀ (xs : List α) (k : Nat), xs.length = 2 * k + 1 → (pairUp op xs)[k]? = xs[2 * k]?
  | [], k, odd => by simp at odd
  | [_], k, odd => by
    obtain rfl : k = 0 := by simpa using odd.symm
    rfl
  | _ :: _ :: _, 0, odd => by simp at odd
  | a :: b :: xs, k + 1, odd => by
    simp only [List.length_cons] at odd
    exact pairUp_last xs k (by omega)

end

theorem fixedTreeOrder : Claims.FixedTreeOrder := fun op d xs =>
  ⟨rfl, fun _ => rfl, treeCombine_pairUp op d, pairUp_pair op 0 xs, pairUp_last op xs⟩

/-! The elements of the optimizer kernels (R169, R170) -/

theorem optimizerKernelElements : Claims.OptimizerKernelElements := by
  intro kd sc lr gs ratio w m v g gw gd m1 v1 u
  refine ⟨?adamw, ?adam, ?sgdm, ?trustNorm, ?trustApply⟩
  case adamw | adam | trustNorm => exact ⟨rfl, rfl, rfl⟩
  case sgdm => exact ⟨rfl, rfl⟩
  case trustApply => rfl

end Sys2Proof.Machine
end

/-! SUPPORT. An engine's reads and writes in the staging store, and the operands of one group (R156, R158, R162, R165): O38. -/

section
namespace Sys2Proof.Machine

open Sys2Proof

/-! Operands in the staging store (R159, R162, R185) -/

section
variable {k : Stack} {i e ar len off : Nat}

/-- An operand that lies whole and aligned in its partition is at its place and raises no plan fault. -/
theorem place_staged (staged : Claims.Staged k ar len off) (write : Bool) :
    k.place i e k.seq.iters ar len write = ([], some (stageBase i e + off)) := by
  obtain ⟨space, effective, aligned, inside⟩ := staged
  have whole : off / 256 * 256 = off := by omega
  have even : ¬ (off : Int) % 256 ≠ 0 := by omega
  have within : 0 ≤ (off : Int) ∧ off + len ≤ 2 ^ 18 := ⟨by omega, inside⟩
  rw [Stack.place]
  rw [space, effective, if_neg even, Int.toNat_natCast, whole]
  exact if_pos within

theorem stagePlace_notHbm (i e off : Nat) : isHbm (stageBase i e + off) = false := by
  refine decide_eq_false ?_
  rw [stageBase, hbmSize]
  omega

theorem stagePlace_below (stack : i < 12) (inside : e < 64) (within : off ≤ 2 ^ 18) : ¬ egressPlace ≤ stageBase i e + off := by
  rw [stageBase, egressPlace]
  omega

theorem omega_staged (staged : Claims.Staged k ar len off) : k.omega i ar = 4 := by
  obtain ⟨space, _⟩ := staged
  rw [Stack.omega, Stack.spaceOf, space]

end

section
variable {s : State} {i e off n : Nat} (plain : s.debugMode = false)
include plain

/-- A read of the staging store where no stored bit is in error leaves no mark. -/
theorem engineRead_staged (sound : s.weakness (stageBase i e + off) n = 0) (line cycle : Nat) :
    s.engineRead i e line (some (stageBase i e + off)) n cycle = (s, s.stackBytes i (stageBase i e + off) n cycle) := by
  have calm : s.stagingHazard i (stageBase i e + off) n cycle = s := by rw [State.stagingHazard, plain]; rfl
  have corrected : s.stackCorrect i (stageBase i e + off) n e = s := by rw [State.stackCorrect, corrections_sound sound]; rfl
  have checked : s.stackCheck i (stageBase i e + off) n true (stackRegion i) line e = s := by
    rw [State.stackCheck, corrected, lostUnits_sound sound]
    rfl
  rw [State.engineRead, stagePlace_notHbm]
  rw [if_neg (by decide), calm, checked]

/-- A write there is posted, readable ω = 4 cycles later. -/
theorem engineWrite_staged {ar len : Nat} (stack : i < 12) (inside : e < 64) (staged : Claims.Staged (s.stack i) ar len off) (line : Nat)
    (bs : List Byte) (v : Nat) :
    s.engineWrite i e line ar (some (stageBase i e + off)) bs v = s.post i (v + 4) (stageBase i e + off) bs := by
  obtain ⟨_, _, _, within⟩ := id staged
  have calm : s.stageHazard i (stageBase i e + off) bs.length = s := by rw [State.stageHazard, plain]; rfl
  rw [State.engineWrite, stagePlace_notHbm]
  rw [if_neg (by decide), if_neg (stagePlace_below stack inside (by omega)), calm, omega_staged staged]
  exact if_neg (by rw [show (s.post i (v + 4) (stageBase i e + off) bs).debugMode = s.debugMode from rfl, plain]; decide)

end

/-! The operands of one group (R158, R166) -/

theorem bytes_64 (c : CvtFmt) : c.bytes 64 = 8 * c.bits := by
  rw [CvtFmt.bytes]
  omega

/-- An operand of an element-wise operation: its address register, its format and its place in the partition. -/
structure Operand where
  ar : Nat
  fmt : CvtFmt
  off : Nat

/-- The operand as a source of 64 elements a group. -/
def Operand.source (o : Operand) : Source := { ar := o.ar, fmt := o.fmt, ne := 64 }

/-- The operand lies in its partition, whole and aligned, and none of the bits that it may stand in is in error. -/
structure Operand.Here (o : Operand) (s : State) (i e : Nat) : Prop where
  staged : Claims.Staged (s.stack i) o.ar (8 * o.fmt.bits) o.off
  sound : ∀ off, s.weakness (stageBase i e + off) (8 * o.fmt.bits) = 0

/-- Element j of an operand as an engine reads it in a cycle. -/
def Operand.value (o : Operand) (s : State) (i e cycle j : Nat) : Word32 :=
  Claims.element (s.stackBytes i (stageBase i e + o.off) (8 * o.fmt.bits) cycle) o.fmt j

/-- The elements of an operand's group. -/
def Operand.values (o : Operand) (s : State) (i e cycle : Nat) : List Word32 := (List.range 64).map (o.value s i e cycle)

/-- Element j of the n-th operand; 0 where there is none. -/
def operandAt (ops : List Operand) (s : State) (i e cycle n j : Nat) : Word32 :=
  match ops[n]? with
  | some o => o.value s i e cycle j
  | none => 0

theorem getD_values (ops : List Operand) (s : State) (i e cycle n : Nat) {j : Nat} (inside : j < 64) :
    ((ops.map (·.values s i e cycle)).getD n []).getD j 0 = operandAt ops s i e cycle n j := by
  rw [operandAt, List.getD_eq_getElem?_getD (l := ops.map _), List.getElem?_map]
  cases ops[n]? with
  | none => rfl
  | some o => simp [Operand.values, List.getD_eq_getElem?_getD, inside]

/-- A run of one group, not yet read, of the instruction at its stack's present line. -/
structure StackRun.Single (r : StackRun) (k : Stack) : Prop where
  iters : r.iters = k.seq.iters
  groups : r.groups = 1
  next : r.next = 0

section
variable {s : State} {i e : Nat} {r : StackRun} (plain : s.debugMode = false) (single : r.Single (s.stack i))
include plain single

theorem groupRead_here {o : Operand} (here : o.Here s i e) : s.groupRead i e r o.source = (s, o.values s i e r.issue) := by
  obtain ⟨staged, sound⟩ := here
  obtain ⟨iters, groups, next⟩ := single
  have place : (s.stack i).place i e r.iters o.ar (o.fmt.bytes 64 * r.groups) false = ([], some (stageBase i e + o.off)) := by
    rw [iters, groups, bytes_64, Nat.mul_one, place_staged staged]
  rw [State.groupRead, Operand.source]
  dsimp only
  rw [place, next, bytes_64, Nat.mul_zero, Nat.zero_mul]
  dsimp only [Option.map_some, Nat.add_zero]
  rw [engineRead_staged plain (sound o.off)]
  rfl

theorem groupReads_here : ∀ ops : List Operand, (∀ o ∈ ops, o.Here s i e) →
    s.groupReads i e r (ops.map Operand.source) = (s, ops.map (·.values s i e r.issue))
  | [], _ => rfl
  | o :: ops, here => by
    obtain ⟨first, later⟩ := List.forall_mem_cons.mp here
    rw [List.map_cons, State.groupReads, groupRead_here plain single first]
    dsimp only
    rw [groupReads_here ops later]
    rfl

end

end Sys2Proof.Machine
end

/-! SUPPORT. One group of an element-wise operation in one engine: its results, narrowed, packed and posted (R102, R158, R165, R166): O38. -/

section
namespace Sys2Proof.Machine

open Sys2Proof

/-! The element-wise operations (R160, R166) -/

/-- The codes of the element-wise operations with one plain destination. -/
def elementCodes : List Nat := [0x01, 0x02, 0x03, 0x04, 0x05, 0x06, 0x07, 0x08, 0x0A, 0x0B, 0x0E]

/-- The destination of an element-wise operation. -/
def elementDest (f : SFields) : Dest := { ar := f.ard, fmt := fmtOf f.fmtOut.toNat, ne := 64, role := .main }

section
variable {code : Nat} (element : code ∈ elementCodes)
include element

theorem dests_element (f : SFields) (kd : KDesc) : dests code f kd = [elementDest f] := by
  fin_cases element <;> rfl

theorem sources_element (f : SFields) (kd : KDesc) : sources code f kd ≠ [] := by
  fin_cases element <;> exact List.cons_ne_nil _ _

theorem isKernel_element : isKernel code = false := by
  fin_cases element <;> rfl

theorem moves_element : code ≠ 0x10 ∧ code ≠ 0x12 ∧ code ≠ 0x16 ∧ code ≠ 0x17 := by
  fin_cases element <;> decide

theorem occupancy_element (k : Stack) (f : SFields) (kd : KDesc) : occupancy k code f kd =
    max (max (ceilDiv (sideBytes k .hbm none (sides code f kd)) 256) (ceilDiv (sideBytes k .staging (some false) (sides code f kd)) 256))
      (max (ceilDiv (sideBytes k .staging (some true) (sides code f kd)) 256) (occupancyQ code f)) := by
  fin_cases element <;> rfl

end

theorem groupResults_element {r : StackRun} (element : r.code ∈ elementCodes) (x : EngineRun) (sc : StepScalars) (vals : List (List Word32)) :
    groupResults r x sc vals .main = (List.range (vals.getD 0 []).length).map (fun j =>
      elementOp r.code r.kd ((vals.getD 0 []).getD j 0) ((vals.getD 1 []).getD j 0) ((vals.getD 2 []).getD j 0)) := by
  obtain ⟨code, _, _, _, _, _, _, _, _, _, _, _⟩ := r
  fin_cases element <;> rfl

/-- A plain output code names no MX format. -/
theorem plainOut_unscaled : ∀ c : BitVec 4, plainOut c = true → (fmtOf c.toNat).isMx = false := by decide

theorem narrowGroup_plain {d : Dest} (unscaled : d.fmt.isMx = false) (mode : RMode) (us : List Nat) (vals : List Word32) :
    (narrowGroup d mode us vals).1 =
      leBytes (d.fmt.bytes d.ne) (packElems d.fmt.bits ((vals.zip us).map (fun p => cvtPlain d.fmt mode p.2 p.1))) := by
  obtain ⟨_, fmt, _, _⟩ := d
  cases fmt with
  | mx f => exact nomatch unscaled
  | plain f => rfl
  | int8 => rfl
  | int32 => rfl

/-- A plain destination is written once. -/
theorem groupWrite_unscaled {s : State} {i : Nat} {r : StackRun} {d : Dest} (unscaled : d.fmt.isMx = false) (x : EngineRun) (vals : List (List Word32)) :
    (s.groupWrite i r x vals d).1 = s.engineWrite i x.engine r.line d.ar
      (((s.stack i).place i x.engine r.iters d.ar (d.fmt.bytes d.ne * r.groups) true).2.map (· + d.fmt.bytes d.ne * r.next))
      (narrowGroup d (destMode r).1
        ((List.range d.ne).map (fun j =>
          if (destMode r).1 = .sr then s.stackDraw i r.iters (destMode r).2 x.engine (r.next * d.ne + j) else 0))
        (groupResults r x (get {} (s.stack i).scalars r.f.kdesc.toNat) vals d.role)).1
      (r.issue + r.rho + (r.next + 1) * r.t - 1) := if_neg (by rw [unscaled]; decide)

/-- A group packed from 64 elements gives each back at its place (R94). -/
theorem elemAt_packedGroup (c : CvtFmt) (g : Nat → Nat) {j : Nat} (inside : j < 64) :
    elemAt c.bits (leNat (leBytes (8 * c.bits) (packElems c.bits ((List.range 64).map g)))) j = g j % 2 ^ c.bits := by
  have small : packElems c.bits ((List.range 64).map g) < 256 ^ (8 * c.bits) := by
    calc packElems c.bits ((List.range 64).map g)
      _ < 2 ^ (c.bits * ((List.range 64).map g).length) := packElems_lt ..
      _ = 2 ^ (8 * (8 * c.bits)) := by rw [List.length_map, List.length_range]; congr 1; omega
      _ = 256 ^ (8 * c.bits) := pow_mul 2 8 _
  rw [leNat_leBytes, Nat.mod_eq_of_lt small, elemAt_packElems]
  simp [List.getD_eq_getElem?_getD, inside]

/-! One group in one engine (R165, R166) -/

/-- The random word of element j under a rounding mode; 0 where the mode draws none. -/
def elementDraw (s : State) (i e : Nat) (iters : List Nat) (f : SFields) (j : Nat) : Nat :=
  if modeOf f.mode.toNat = .sr then s.stackDraw i iters f.key.toNat e j else 0

/-- Element j of an operation's result, narrowed to FMT_OUT. -/
def elementCode (s : State) (i e : Nat) (r : StackRun) (ops : List Operand) (j : Nat) : Nat :=
  cvtPlain (fmtOf r.f.fmtOut.toNat) (modeOf r.f.mode.toNat) (elementDraw s i e r.iters r.f j)
    (elementOp r.code r.kd (operandAt ops s i e r.issue 0 j) (operandAt ops s i e r.issue 1 j) (operandAt ops s i e r.issue 2 j))

/-- The bytes of an operation's group. -/
def elementBytes (s : State) (i e : Nat) (r : StackRun) (ops : List Operand) : List Byte :=
  leBytes (8 * (fmtOf r.f.fmtOut.toNat).bits) (packElems (fmtOf r.f.fmtOut.toNat).bits ((List.range 64).map (elementCode s i e r ops)))

/-- An element-wise operation of one group, its operands and its destination in one engine's partition. -/
structure StackRun.Elementwise (r : StackRun) (s : State) (i e : Nat) (ops : List Operand) (d : Nat) : Prop where
  stack : i < 12
  inside : e < 64
  plain : s.debugMode = false
  single : r.Single (s.stack i)
  element : r.code ∈ elementCodes
  unscaled : (fmtOf r.f.fmtOut.toNat).isMx = false
  reads : sources r.code r.f r.kd = ops.map Operand.source
  here : ∀ o ∈ ops, o.Here s i e
  dest : Claims.Staged (s.stack i) r.f.ard (8 * (fmtOf r.f.fmtOut.toNat).bits) d

section
variable {s : State} {i e d : Nat} {r : StackRun} {ops : List Operand} (run : r.Elementwise s i e ops d)
include run

theorem groupResults_here (x : EngineRun) (sc : StepScalars) : groupResults r x sc (ops.map (·.values s i e r.issue)) .main =
    (List.range 64).map (fun j => elementOp r.code r.kd (operandAt ops s i e r.issue 0 j) (operandAt ops s i e r.issue 1 j)
      (operandAt ops s i e r.issue 2 j)) := by
  have count : ((ops.map (·.values s i e r.issue)).getD 0 []).length = 64 := by
    have present : ops ≠ [] := fun none => sources_element run.element r.f r.kd (by rw [run.reads, none]; rfl)
    obtain ⟨o, rest, rfl⟩ := List.exists_cons_of_ne_nil present
    exact (List.length_map _).trans List.length_range
  rw [groupResults_element run.element, count]
  refine List.map_congr_left fun j inside => ?_
  have inside : j < 64 := List.mem_range.mp inside
  rw [getD_values _ _ _ _ _ _ inside, getD_values _ _ _ _ _ _ inside, getD_values _ _ _ _ _ _ inside]

/-- A group's results, narrowed and packed. -/
theorem narrowGroup_here (x : EngineRun) (sc : StepScalars) : (narrowGroup (elementDest r.f) (modeOf r.f.mode.toNat)
    ((List.range 64).map (elementDraw s i e r.iters r.f)) (groupResults r x sc (ops.map (·.values s i e r.issue)) .main)).1 =
      elementBytes s i e r ops := by
  have bytes : (elementDest r.f).fmt.bytes (elementDest r.f).ne = 8 * (fmtOf r.f.fmtOut.toNat).bits := bytes_64 _
  rw [narrowGroup_plain (d := elementDest r.f) run.unscaled, groupResults_here run, List.zip_map', List.map_map, bytes]
  rfl

theorem groupWrite_here (lr gs ratio : Word32) : (s.groupWrite i r { engine := e, lr := lr, gs := gs, ratio := ratio }
    (ops.map (·.values s i e r.issue)) (elementDest r.f)).1 =
      s.post i (r.issue + r.rho + r.t - 1 + 4) (stageBase i e + d) (elementBytes s i e r ops) := by
  have mode : destMode r = (modeOf r.f.mode.toNat, r.f.key.toNat) := by
    rw [destMode, isKernel_element run.element, if_neg (by decide), if_neg (moves_element run.element).2.1]
  have place : (s.stack i).place i e r.iters r.f.ard ((fmtOf r.f.fmtOut.toNat).bytes 64 * r.groups) true = ([], some (stageBase i e + d)) := by
    rw [run.single.iters, run.single.groups, bytes_64, Nat.mul_one, place_staged run.dest]
  have draws : (List.range 64).map (fun j => if modeOf r.f.mode.toNat = .sr then s.stackDraw i r.iters r.f.key.toNat e (r.next * 64 + j) else 0) =
      (List.range 64).map (elementDraw s i e r.iters r.f) := by
    refine List.map_congr_left fun j _ => ?_
    rw [run.single.next, Nat.zero_mul, Nat.zero_add]
    rfl
  refine (groupWrite_unscaled (d := elementDest r.f) run.unscaled _ _).trans ?_
  rw [mode]
  show s.engineWrite i e r.line r.f.ard
    (((s.stack i).place i e r.iters r.f.ard ((fmtOf r.f.fmtOut.toNat).bytes 64 * r.groups) true).2.map
      (· + (fmtOf r.f.fmtOut.toNat).bytes 64 * r.next)) (narrowGroup (elementDest r.f) (modeOf r.f.mode.toNat)
      ((List.range 64).map (fun j => if modeOf r.f.mode.toNat = .sr then s.stackDraw i r.iters r.f.key.toNat e (r.next * 64 + j) else 0))
      (groupResults r _ _ _ .main)).1 (r.issue + r.rho + (r.next + 1) * r.t - 1) = _
  rw [place, draws, narrowGroup_here run, run.single.next, Nat.mul_zero, Nat.zero_add, Nat.one_mul]
  exact engineWrite_staged run.plain run.stack run.inside run.dest ..

end

end Sys2Proof.Machine
end

/-! SUPPORT. The issue of an element-wise operation of one group in one engine: its occupancy, its run and its end (R163, R165, R175): O38. -/

section
namespace Sys2Proof.Machine

open Sys2Proof

/-! A run of one group in one engine (R165, R175) -/

section
variable {s : State} {i e d : Nat} {r : StackRun} {ops : List Operand} (run : r.Elementwise s i e ops d)
include run

theorem engineGroup_here : (s.engineGroup i r { engine := e }).1 =
    s.post i (r.issue + r.rho + r.t - 1 + 4) (stageBase i e + d) (elementBytes s i e r ops) := by
  rw [State.engineGroup, if_neg (moves_element run.element).1, run.reads, groupReads_here run.plain run.single ops run.here,
    dests_element run.element]
  exact groupWrite_here run _ _ _

end

/-- Nothing but one stack changes. -/
structure OnlyStack (i : Nat) (s t : State) : Prop where
  rest : t = { s with stks := t.stks }
  others : ∀ j, j ≠ i → t.stack j = s.stack j

theorem OnlyStack.refl (i : Nat) (s : State) : OnlyStack i s s := ⟨rfl, fun _ _ => rfl⟩

theorem OnlyStack.trans {i : Nat} {s t u : State} (h : OnlyStack i s t) (k : OnlyStack i t u) : OnlyStack i s u := by
  obtain ⟨first, others⟩ := h
  obtain ⟨second, later⟩ := k
  refine ⟨?_, fun j other => (later j other).trans (others j other)⟩
  rw [second, first]

theorem onStack_onlyStack (s : State) (i : Nat) (f : Stack → Stack) : OnlyStack i s (s.onStack i f) :=
  ⟨rfl, fun _ other => stack_onStack_other s f other⟩

/-- What an engine leaves at its last group: of its stack the digests' accumulators alone may change, and they do so where the run is
hashed. -/
structure Absorbs (i : Nat) (hashed : Bool) (s t : State) : Prop where
  only : OnlyStack i s t
  own : ∃ acc, t.stack i = { s.stack i with acc := acc } ∧ (hashed = false → acc = (s.stack i).acc)

theorem engineEnd_absorbs (s : State) (i : Nat) {r : StackRun} (x : EngineRun) (norms : r.code ≠ 0x16) :
    Absorbs i r.hashed s (s.engineEnd i r x) := by
  rw [State.engineEnd, if_neg norms]
  cases r.hashed with
  | false => exact ⟨.refl i s, _, rfl, fun _ => rfl⟩
  | true => exact ⟨onStack_onlyStack s i _, _, stack_onStack_same s i _, fun plain => nomatch plain⟩

/-- A run of one group in one engine reads it, ends and is no more. -/
theorem advanceRun_single (s : State) (i : Nat) {r : StackRun} (single : r.groups = 1) (start : r.next = 0) {x : EngineRun}
    (one : r.engines = [x]) (norms : r.code ≠ 0x16) : (s.advanceRun i r.issue r).2 = none ∧
      Absorbs i r.hashed (s.engineGroup i r x).1 (s.advanceRun i r.issue r).1 := by
  unfold State.advanceRun
  rw [single, start, Nat.zero_mul, Nat.add_zero, if_neg (by decide), if_neg (Nat.lt_irrefl _), one]
  exact ⟨rfl, engineEnd_absorbs _ i (r := { r with groups := 1, next := 1, engines := (s.enginesGroup i r [x]).2 }) _ norms⟩

/-! The issue of an operation in one engine (R162, R163, R165) -/

theorem enginesOf_single : ∀ e < 64, enginesOf (BitVec.ofNat 64 (2 ^ e)) = [e] := by decide

theorem foldl_eq_self {α σ : Type} {f : σ → α → σ} {s : σ} : ∀ {l : List α}, (∀ x ∈ l, f s x = s) → l.foldl f s = s
  | [], _ => rfl
  | x :: l, fixed => by
    obtain ⟨first, later⟩ := List.forall_mem_cons.mp fixed
    rw [List.foldl_cons, first, foldl_eq_self later]

/-- An operand as a side of its operation: bytes read from its address register. -/
def Operand.side (o : Operand) : Nat × Nat × Bool := (o.ar, 8 * o.fmt.bits, false)

/-- Whether a side's bytes count among those of a space and a direction. -/
def Stack.counts (k : Stack) (sp : Space) (write : Option Bool) (x : Nat × Nat × Bool) : Bool :=
  decide (k.spaceOf x.1 = sp ∧ (write = none ∨ write = some x.2.2))

theorem sideBytes_eq (k : Stack) (sp : Space) (write : Option Bool) (l : List (Nat × Nat × Bool)) :
    sideBytes k sp write l = ((l.filter (k.counts sp write)).map (·.2.1)).sum := by
  have added : ∀ (l : List (Nat × Nat × Bool)) (n : Nat), l.foldl
      (fun n x => if k.spaceOf x.1 = sp ∧ (write = none ∨ write = some x.2.2) then n + x.2.1 else n) n =
        n + ((l.filter (k.counts sp write)).map (·.2.1)).sum := by
    intro l
    induction l with
    | nil => exact fun n => rfl
    | cons x l ih =>
      intro n
      rw [List.foldl_cons, ih]
      split
      · next here => rw [List.filter_cons_of_pos (p := k.counts sp write) (decide_eq_true here), List.map_cons, List.sum_cons, Nat.add_assoc]
      · next other => rw [List.filter_cons_of_neg (p := k.counts sp write) (by simpa [Stack.counts] using other)]
  exact (added l 0).trans (Nat.zero_add _)

/-- The sides of an element-wise operation: its operands and its one destination. -/
theorem sides_element {code : Nat} {f : SFields} {kd : KDesc} {ops : List Operand} (element : code ∈ elementCodes)
    (unscaled : (fmtOf f.fmtOut.toNat).isMx = false) (reads : sources code f kd = ops.map Operand.source) :
    sides code f kd = ops.map Operand.side ++ [(f.ard.val, 8 * (fmtOf f.fmtOut.toNat).bits, true)] := by
  have scales : [elementDest f].filter (fun x => x.fmt.isMx) = [] := List.filter_cons_of_neg (by rw [elementDest, unscaled]; decide)
  have side (o : Operand) : (o.source.ar, o.source.fmt.bytes o.source.ne, false) = o.side :=
    congrArg (fun n => (o.ar, n, false)) (bytes_64 o.fmt)
  have dest : ((elementDest f).ar, (elementDest f).fmt.bytes (elementDest f).ne, true) = (f.ard.val, 8 * (fmtOf f.fmtOut.toNat).bits, true) :=
    congrArg (fun n => (f.ard.val, n, true)) (bytes_64 _)
  rw [sides, reads, dests_element element, scales, List.map_map, List.map_nil, List.append_nil, List.map_singleton, dest]
  exact congrArg (· ++ _) (List.map_congr_left fun o _ => side o)

/-- With its run done, an operation leaves its engines occupied. -/
theorem occupied_done (es : List Nat) (until_ : Nat) (k : Stack) :
    Stack.occupied es until_ none k = { k with busy := (Stack.occupied es until_ none k).busy } :=
  congrArg (fun runs => { k with busy := (Stack.occupied es until_ none k).busy, runs := runs }) (List.append_nil k.runs)

/-- A stack that can issue an element-wise operation of one group in one engine, which is free, with its operands and its destination in that
engine's partition. -/
structure CanIssue (s : State) (i e code : Nat) (f : SFields) (ops : List Operand) (d : Nat) : Prop where
  stack : i < 12
  inside : e < 64
  plain : s.debugMode = false
  element : code ∈ elementCodes
  unscaled : (fmtOf f.fmtOut.toNat).isMx = false
  reads : sources code f ((s.stack i).descOf f) = ops.map Operand.source
  here : ∀ o ∈ ops, o.Here s i e
  dest : Claims.Staged (s.stack i) f.ard (8 * (fmtOf f.fmtOut.toNat).bits) d
  single : f.count = 0
  engine : (s.stack i).setOf f = BitVec.ofNat 64 (2 ^ e)
  free : get 0 (s.stack i).busy e ≤ s.cyc (stackRegion i)

section
variable {s : State} {i e code d : Nat} {f : SFields} {ops : List Operand} (can : CanIssue s i e code f ops d)
include can

theorem groupsOf_single : groupsOf code f = 1 := by
  rw [groupsOf, if_neg (moves_element can.element).2.1, can.single]
  rfl

theorem enginesOf_set : enginesOf ((s.stack i).setOf f) = [e] := by rw [can.engine, enginesOf_single e can.inside]

theorem sides_staged : ∀ x ∈ sides code f ((s.stack i).descOf f), ∃ off, Claims.Staged (s.stack i) x.1 x.2.1 off := by
  rw [sides_element can.element can.unscaled can.reads, List.forall_mem_append, List.forall_mem_map, List.forall_mem_singleton]
  exact ⟨fun o listed => ⟨o.off, (can.here o listed).staged⟩, d, can.dest⟩

theorem operandFaults_none (line : Nat) : s.operandFaults i e line code f ((s.stack i).descOf f) = s := by
  obtain ⟨gather, _, norm, apply_⟩ := moves_element can.element
  unfold State.operandFaults
  extract_lets k it g len all
  refine foldl_eq_self fun x listed => ?_
  have plainSides : all = (sides code f (k.descOf f)).map (fun x => (x.1, x.2.1 * g, x.2.2)) := by
    refine (if_neg gather).trans ?_
    rw [if_neg norm, if_neg apply_, List.append_nil, List.append_nil]
  rw [plainSides] at listed
  obtain ⟨y, side, rfl⟩ := List.mem_map.mp listed
  obtain ⟨off, staged⟩ := sides_staged can y side
  dsimp only
  rw [show g = 1 from groupsOf_single can, Nat.mul_one, place_staged staged]
  rfl

theorem startScalars_here : s.startScalars i code f = (s, [{ engine := e }]) := by
  have scalars (line : Nat) : s.scalarReads i e line code f ((s.stack i).descOf f) = (s, { engine := e }) :=
    if_neg (by rw [isKernel_element can.element]; decide)
  rw [State.startScalars, enginesOf_set can, State.scalarsAll, operandFaults_none can, scalars]
  rfl

theorem startRun_elementwise : (s.startRun i code f).Elementwise s i e ops d where
  stack := can.stack
  inside := can.inside
  plain := can.plain
  single := ⟨rfl, groupsOf_single can, rfl⟩
  element := can.element
  unscaled := can.unscaled
  reads := can.reads
  here := can.here
  dest := can.dest

/-- Of the sides the operands are read and the destination is written, all of them in the staging store. -/
theorem filter_sides (sp : Space) (write : Option Bool) : (sides code f ((s.stack i).descOf f)).filter ((s.stack i).counts sp write) =
    (sides code f ((s.stack i).descOf f)).filter (fun x => decide (Space.staging = sp ∧ (write = none ∨ write = some x.2.2))) := by
  refine List.filter_congr fun x side => ?_
  obtain ⟨off, space, _⟩ := sides_staged can x side
  rw [Stack.counts, Stack.spaceOf, space]

theorem sideBytes_hbm : sideBytes (s.stack i) .hbm none (sides code f ((s.stack i).descOf f)) = 0 := by
  rw [sideBytes_eq, filter_sides can, List.filter_eq_nil_iff.mpr fun _ _ => by simp]
  rfl

theorem sideBytes_read : sideBytes (s.stack i) .staging (some false) (sides code f ((s.stack i).descOf f)) =
    (ops.map (fun o => 8 * o.fmt.bits)).sum := by
  have read : ∀ x ∈ ops.map Operand.side, decide (Space.staging = .staging ∧ (some false = none ∨ some false = some x.2.2)) = true :=
    List.forall_mem_map.mpr fun o _ => by simp [Operand.side]
  rw [sideBytes_eq, filter_sides can, sides_element can.element can.unscaled can.reads, List.filter_append, List.filter_eq_self.mpr read,
    List.filter_cons_of_neg (by simp), List.filter_nil, List.append_nil, List.map_map]
  rfl

theorem sideBytes_written : sideBytes (s.stack i) .staging (some true) (sides code f ((s.stack i).descOf f)) =
    8 * (fmtOf f.fmtOut.toNat).bits := by
  have read : ∀ x ∈ ops.map Operand.side, ¬ decide (Space.staging = .staging ∧ (some true = none ∨ some true = some x.2.2)) = true :=
    List.forall_mem_map.mpr fun o _ => by simp [Operand.side]
  rw [sideBytes_eq, filter_sides can, sides_element can.element can.unscaled can.reads, List.filter_append, List.filter_eq_nil_iff.mpr read,
    List.filter_cons_of_pos (by simp), List.filter_nil, List.nil_append, List.map_singleton, List.sum_singleton]

/-- The occupancy of one group (R165): its bytes read, its bytes written, and the operation's own. -/
theorem occupancy_here : occupancy (s.stack i) code f ((s.stack i).descOf f) =
    max (ceilDiv (ops.map (fun o => 8 * o.fmt.bits)).sum 256) (max (ceilDiv (8 * (fmtOf f.fmtOut.toNat).bits) 256) (occupancyQ code f)) := by
  rw [occupancy_element can.element, sideBytes_hbm can, sideBytes_read can, sideBytes_written can]
  exact congrArg (max · _) (Nat.zero_max _)

/-- No operand is in HBM (R165). -/
theorem readLatency_here : readLatency (s.stack i) code f ((s.stack i).descOf f) = 6 := by
  have near : (ops.map Operand.source).any (fun x => (s.stack i).spaceOf x.ar == .hbm) = false := by
    rw [List.any_eq_false, List.forall_mem_map]
    intro o listed
    obtain ⟨space, _⟩ := (can.here o listed).staged
    rw [Operand.source, Stack.spaceOf, space]
    decide
  rw [readLatency, isKernel_element can.element, can.reads, near, Bool.or_false, Bool.false_or,
    if_neg (by simpa using (moves_element can.element).1)]

/-- The write that an element-wise operation posts: readable ω = 4 cycles after its group has left the engine. -/
def groupResult (s : State) (i e code : Nat) (f : SFields) (ops : List Operand) (d : Nat) : StackWrite :=
  { cycle := s.cyc (stackRegion i) + (6 + stackLatency code f s.lp2) + occupancy (s.stack i) code f ((s.stack i).descOf f) - 1 + 4
    addr := stageBase i e + d, bytes := elementBytes s i e (s.startRun i code f) ops }

theorem engineGroup_posts : (s.engineGroup i (s.startRun i code f) { engine := e }).1 =
    s.onStack i (fun k => { k with writes := writeIn (groupResult s i e code f ops d) k.writes }) := by
  have rho : (s.startRun i code f).rho = 6 + stackLatency code f s.lp2 := congrArg (· + _) (readLatency_here can)
  rw [engineGroup_here (startRun_elementwise can), rho]
  rfl

/-- An element-wise operation of one group posts its result; of its stack only the engines' occupation and the digest change besides. -/
theorem stackStart_element : OnlyStack i s (s.stackStart i code f) ∧ ∃ busy acc, (s.stackStart i code f).stack i =
    { s.stack i with busy := busy, writes := writeIn (groupResult s i e code f ops d) (s.stack i).writes, acc := acc } ∧
      (f.hash = false → acc = (s.stack i).acc) := by
  have run := startRun_elementwise can
  have idle : ∀ x ∈ enginesOf ((s.stack i).setOf f), get 0 (s.stack i).busy x ≤ s.cyc (stackRegion i) := by
    rw [enginesOf_set can, List.forall_mem_singleton]
    exact can.free
  have engines : (s.startRun i code f).engines = [{ engine := e }] := congrArg Prod.snd (startScalars_here can)
  have group : s.startGroup i code f = s.advanceRun i (s.startRun i code f).issue (s.startRun i code f) := by
    rw [State.startGroup, startScalars_here can]
    rfl
  obtain ⟨last, only, acc, own, unhashed⟩ :=
    advanceRun_single s i run.single.groups run.single.next engines (moves_element run.element).2.2.1
  rw [engineGroup_posts can] at only own unhashed
  rw [stack_onStack_same] at own unhashed
  rw [stackStart_free code idle, group, last]
  refine ⟨(onStack_onlyStack ..).trans (only.trans (onStack_onlyStack ..)), _, acc,
    (stack_onStack_same ..).trans ((congrArg _ own).trans (occupied_done ..)), fun plain => unhashed ?_⟩
  show (f.hash && s.inCommit && !s.relay) = false
  rw [plain]
  rfl

end

end Sys2Proof.Machine
end

/-! SUPPORT. What stack operations compute: one group of each element-wise operation (R158, R165, R166): O38. -/

section
namespace Sys2Proof.Machine

open Sys2Proof

/-! The rounding mode (R160) -/

theorem modeOf_toNat : ∀ m : BitVec 2, modeOf m.toNat = if m = 2 then .sr else if m = 1 then .rtz else .rne := by decide

theorem modeOf_eq_sr : ∀ m : BitVec 2, modeOf m.toNat = .sr ↔ m = 2 := by decide

/-! The issue itself moves no operand (R163) -/

section
variable {s : State} {i : Nat}

theorem stackBytes_issued (a n cycle : Nat) : (s.onStack i issueStack).stackBytes i a n cycle = s.stackBytes i a n cycle := by
  rw [State.stackBytes, stack_onStack_same]
  rfl

theorem stackDraw_issued (iters : List Nat) (key e q : Nat) :
    (s.onStack i issueStack).stackDraw i iters key e q = s.stackDraw i iters key e q := by
  rw [State.stackDraw, stack_onStack_same]
  rfl

theorem operandAt_issued (ops : List Operand) (e cycle n j : Nat) :
    operandAt ops (s.onStack i issueStack) i e cycle n j = operandAt ops s i e cycle n j := by
  rw [operandAt, operandAt]
  cases ops[n]? with
  | none => rfl
  | some o =>
    dsimp only
    rw [Operand.value, stackBytes_issued]
    rfl

theorem canIssue_issued {e code d : Nat} {f : SFields} {ops : List Operand} (can : CanIssue s i e code f ops d) :
    CanIssue (s.onStack i issueStack) i e code f ops d := by
  obtain ⟨stack, inside, plain, element, unscaled, reads, here, dest, single, engine, free⟩ := can
  have own : (s.onStack i issueStack).stack i = issueStack (s.stack i) := stack_onStack_same s i issueStack
  refine ⟨stack, inside, plain, element, unscaled, ?_, fun o listed => ⟨?_, (here o listed).sound⟩, ?_, single, ?_, ?_⟩ <;> rw [own]
  · exact reads
  · exact (here o listed).staged
  · exact dest
  · exact engine
  · exact free

end

/-! What an element-wise operation leaves (R158, R165, R166) -/

/-- The outcome of an element-wise operation of one group in engine `e`: its results x, narrowed to FMT_OUT under MODE, are posted for the
place `d` of its partition, readable 4 cycles after the group has left the engine; of the stack only that, the engines' occupation, the
digest and the issue change. -/
def PostsGroup (s : State) (i : Fin 12) (f : SFields) (e d lat occ : Nat) (x : Nat → Word32) (o : Host.Outcome State Fault Refusal) : Prop :=
  let k := s.stack i
  let fo := fmtOf f.fmtOut.toNat
  ∃ t, o = .next t ∧
    (∃ w ∈ (t.stack i).writes, w.cycle = s.cyc (stackRegion i) + 6 + lat + occ - 1 + 4 ∧ w.addr = stageBase i e + d ∧
      w.bytes.length = 8 * fo.bits ∧ ∀ j < 64, elemAt fo.bits (leNat w.bytes) j =
        cvtPlain fo (if f.mode = 2 then .sr else if f.mode = 1 then .rtz else .rne)
          (if f.mode = 2 then s.stackDraw i k.seq.iters f.key.toNat e j else 0) (x j) % 2 ^ fo.bits) ∧
    t = { s with stks := t.stks } ∧ (∀ j, j ≠ i.val → t.stack j = s.stack j) ∧
    t.stack i = { k with busy := (t.stack i).busy, writes := (t.stack i).writes, acc := (t.stack i).acc, seq := { k.seq with issued := true } } ∧
    (f.hash = false → (t.stack i).acc = k.acc)

/-- Element j of a result, in the words of the statement. -/
theorem elementCode_issued (s : State) (i e code : Nat) (f : SFields) (ops : List Operand) (j : Nat) :
    elementCode (s.onStack i issueStack) i e ((s.onStack i issueStack).startRun i code f) ops j =
      cvtPlain (fmtOf f.fmtOut.toNat) (if f.mode = 2 then .sr else if f.mode = 1 then .rtz else .rne)
        (if f.mode = 2 then s.stackDraw i (s.stack i).seq.iters f.key.toNat e j else 0)
        (elementOp code ((s.stack i).descOf f) (operandAt ops s i e (s.cyc (stackRegion i)) 0 j) (operandAt ops s i e (s.cyc (stackRegion i)) 1 j)
          (operandAt ops s i e (s.cyc (stackRegion i)) 2 j)) := by
  have draw : elementDraw (s.onStack i issueStack) i e (s.stack i).seq.iters f j =
      if f.mode = 2 then s.stackDraw i (s.stack i).seq.iters f.key.toNat e j else 0 :=
    if_congr (modeOf_eq_sr f.mode) (stackDraw_issued ..) rfl
  rw [elementCode, State.startRun, operandAt_issued, operandAt_issued, operandAt_issued, stack_onStack_same, ← modeOf_toNat, ← draw]
  rfl


theorem stackOp_postsGroup {s : State} {i : Fin 12} {f : SFields} {e code d : Nat} {ops : List Operand} (issues : Claims.StackIssues s i)
    (can : CanIssue s i e code f ops d) : PostsGroup s i f e d (stackLatency code f s.lp2)
      (max (ceilDiv (ops.map (fun o => 8 * o.fmt.bits)).sum 256) (max (ceilDiv (8 * (fmtOf f.fmtOut.toNat).bits) 256) (occupancyQ code f)))
      (fun j => elementOp code ((s.stack i).descOf f) (operandAt ops s i e (s.cyc (stackRegion i)) 0 j)
        (operandAt ops s i e (s.cyc (stackRegion i)) 1 j) (operandAt ops s i e (s.cyc (stackRegion i)) 2 j))
      (.next (s.stackOp i code f true)) := by
  have issued := canIssue_issued can
  have own : (s.onStack i issueStack).stack i = issueStack (s.stack i) := stack_onStack_same s i issueStack
  obtain ⟨only, busy, acc, left, unhashed⟩ := stackStart_element issued
  obtain ⟨rest, others⟩ := (onStack_onlyStack s i issueStack).trans only
  rw [own] at left unhashed
  refine ⟨_, congrArg Host.Outcome.next (stackOp_starts issues code), ⟨groupResult (s.onStack i issueStack) i e code f ops d, ?posted, ?cycle, rfl, ?length,
    fun j inside => ?element⟩, rest, others, ?own, ?acc⟩
  case posted => rw [left]; exact mem_writeIn _ _
  case own => rw [left]; rfl
  case acc => rw [left]; exact unhashed
  case cycle =>
    rw [groupResult, occupancy_here issued]
    exact congrArg (· + _ - 1 + 4) (Nat.add_assoc ..).symm
  case length => exact length_leBytes _ _
  case element =>
    refine (elemAt_packedGroup (fmtOf f.fmtOut.toNat) _ inside).trans ?_
    rw [elementCode_issued]

theorem arithOk_unscaled {f : SFields} (legal : arithOk f = true) : (fmtOf f.fmtOut.toNat).isMx = false := by
  rw [arithOk, Bool.and_eq_true] at legal
  exact plainOut_unscaled _ legal.2

/-- The same of the operation's command, in the statement's latency, occupancy and elements. -/
theorem exec_postsGroup {s : State} {i : Fin 12} {f : SFields} {e code d : Nat} {ops : List Operand} (issues : Claims.StackIssues s i)
    (can : CanIssue s i e code f ops d) {op : Instr} (runs : exec op s = .next (s.stackOp i code f op.wellFormed)) (legal : op.wellFormed = true)
    {lat bytes occ : Nat} {x : Nat → Word32} (latency : stackLatency code f s.lp2 = lat) (read : (ops.map (fun o => 8 * o.fmt.bits)).sum = bytes)
    (occupied : max (ceilDiv bytes 256) (max (ceilDiv (8 * (fmtOf f.fmtOut.toNat).bits) 256) (occupancyQ code f)) = occ)
    (elements : (fun j => elementOp code ((s.stack i).descOf f) (operandAt ops s i e (s.cyc (stackRegion i)) 0 j)
      (operandAt ops s i e (s.cyc (stackRegion i)) 1 j) (operandAt ops s i e (s.cyc (stackRegion i)) 2 j)) = x) :
    PostsGroup s i f e d lat occ x (exec op s) := by
  rw [runs, legal, ← latency, ← occupied, ← read, ← elements]
  exact stackOp_postsGroup issues can

/-- DIV and SQRT occupy their engine for 4 periods at least (R166). -/
theorem max_occupancy (x y : Nat) : max x (max y 4) = max (max x (max y 1)) 4 := by omega

theorem stackElementResults : Claims.StackElementResults := by
  intro s i f e a b c d issues plain inside k now fi fo kd operand u engine free single stagedA stagedD soundIn soundOut A B C D hasB hasC
    leaves occ
  let oa : Operand := { ar := f.ara, fmt := fi, off := a }
  let ob : Operand := { ar := f.arb, fmt := fi, off := b }
  let oc : Operand := { ar := f.arc, fmt := fi, off := c }
  let od : Operand := { ar := f.ard, fmt := fo, off := d }
  have hereA : oa.Here s i e := ⟨stagedA, soundIn⟩
  have hereD : od.Here s i e := ⟨stagedD, soundOut⟩
  have one : ∀ o ∈ [oa], o.Here s i e := List.forall_mem_singleton.mpr hereA
  have two (hereB : hasB) : ∀ o ∈ [oa, ob], o.Here s i e := List.forall_mem_cons.mpr ⟨hereA, List.forall_mem_singleton.mpr ⟨hereB, soundIn⟩⟩
  have three : hasB ∧ hasC → ∀ o ∈ [oa, ob, oc], o.Here s i e := fun ⟨hereB, hereC⟩ =>
    List.forall_mem_cons.mpr ⟨hereA, List.forall_mem_cons.mpr ⟨⟨hereB, soundIn⟩, List.forall_mem_singleton.mpr ⟨hereC, soundIn⟩⟩⟩
  have both : ∀ o ∈ [oa, od], o.Here s i e := List.forall_mem_cons.mpr ⟨hereA, List.forall_mem_singleton.mpr hereD⟩
  have bytes1 : 8 * fi.bits + 0 = 1 * (8 * fi.bits) := by omega
  have bytes2 : 8 * fi.bits + (8 * fi.bits + 0) = 2 * (8 * fi.bits) := by omega
  have bytes3 : 8 * fi.bits + (8 * fi.bits + (8 * fi.bits + 0)) = 3 * (8 * fi.bits) := by omega
  have can {code : Nat} {ops : List Operand} (element : code ∈ elementCodes) (reads : sources code f kd = ops.map Operand.source)
      (here : ∀ o ∈ ops, o.Here s i e) (legal : arithOk f = true) : CanIssue s i e code f ops d :=
    { stack := i.isLt, inside, plain, element, unscaled := arithOk_unscaled legal, reads, here, dest := stagedD, single, engine, free := free }
  have leaf {op : Instr} {needs : Prop} {lat n : Nat} {x : Nat → Word32}
      (posted : op.wellFormed = true → needs → PostsGroup s i f e d lat n x (exec op s)) : leaves op needs lat n x := posted
  refine ⟨?add, ?sub, ?mul, ?fma, ?axpby, ?min, ?max, ?cvt, ?div, ?sqrt, ?accum⟩
  case add =>
    exact leaf fun legal present => exec_postsGroup issues (can (code := 0x01) (by decide) rfl (two present) legal) rfl legal rfl bytes2 rfl rfl
  case sub =>
    exact leaf fun legal present => exec_postsGroup issues (can (code := 0x02) (by decide) rfl (two present) legal) rfl legal rfl bytes2 rfl rfl
  case mul =>
    exact leaf fun legal present => exec_postsGroup issues (can (code := 0x03) (by decide) rfl (two present) legal) rfl legal rfl bytes2 rfl rfl
  case fma =>
    exact leaf fun legal present => exec_postsGroup issues (can (code := 0x04) (by decide) rfl (three present) legal) rfl legal rfl bytes3 rfl rfl
  case axpby =>
    exact leaf fun legal present => exec_postsGroup issues (can (code := 0x05) (by decide) rfl (two present) legal) rfl legal rfl bytes2 rfl rfl
  case min =>
    exact leaf fun legal present => exec_postsGroup issues (can (code := 0x06) (by decide) rfl (two present) legal) rfl legal rfl bytes2 rfl rfl
  case max =>
    exact leaf fun legal present => exec_postsGroup issues (can (code := 0x07) (by decide) rfl (two present) legal) rfl legal rfl bytes2 rfl rfl
  case cvt =>
    exact leaf fun legal _ => exec_postsGroup issues (can (code := 0x08) (by decide) rfl one legal) rfl legal rfl bytes1 rfl rfl
  case div =>
    exact leaf fun legal present => exec_postsGroup issues (can (code := 0x0A) (by decide) rfl (two present) legal) rfl legal rfl bytes2 (max_occupancy ..) rfl
  case sqrt =>
    exact leaf fun legal _ => exec_postsGroup issues (can (code := 0x0B) (by decide) rfl one legal) rfl legal rfl bytes1 (max_occupancy ..) rfl
  case accum =>
    exact leaf fun legal _ => exec_postsGroup issues (can (code := 0x0E) (by decide) rfl both legal) rfl legal rfl rfl rfl rfl

/-- Settles O38: one group of each element-wise operation (`stackElementResults`), the optimizer kernels' elements
(`optimizerKernelElements`), and the fixed tree (`fixedTreeOrder`). -/
theorem stackResults : Obligations.StackResults := ⟨stackElementResults, optimizerKernelElements, fixedTreeOrder⟩

end Sys2Proof.Machine
end

/-! SUPPORT. Device memory by bytes: a canonical table is determined by what it reads, and what a poke and a zeroed range leave (R185). -/

section
namespace Sys2Proof.Machine

open Sys2Proof

/-! The canonical form is unique -/

section
variable {α : Type} {d : α}

theorem get_below : ∀ {m : Sparse α} {lo i : Nat}, rising lo m = true → i < lo → get d m i = d
  | [], _, _, _, _ => rfl
  | (k, v) :: m, lo, i, up, below => by
    simp only [rising, Bool.and_eq_true, decide_eq_true_eq] at up
    rw [get_cons, if_neg (by omega)]
    exact get_below up.2 (by omega)

/-- The head of a table is its first index that does not read `d`; so tables that read alike have the same head, and then the same rest. -/
theorem rising_ext : ∀ {m n : Sparse α} {lo : Nat}, rising lo m = true → rising lo n = true → (∀ p ∈ m, p.2 ≠ d) → (∀ p ∈ n, p.2 ≠ d) →
    (∀ i, get d m i = get d n i) → m = n
  | [], [], _, _, _, _, _, _ => rfl
  | [], (k, v) :: n, _, _, _, _, other, same => by
    have head := same k
    rw [get_nil, get_cons, if_pos rfl] at head
    exact absurd head.symm (other _ List.mem_cons_self)
  | (k, v) :: m, [], _, _, _, other, _, same => by
    have head := same k
    rw [get_nil, get_cons, if_pos rfl] at head
    exact absurd head (other _ List.mem_cons_self)
  | (k, v) :: m, (j, w) :: n, lo, upM, upN, otherM, otherN, same => by
    simp only [rising, Bool.and_eq_true, decide_eq_true_eq] at upM upN
    have atK := same k
    have atJ := same j
    rw [get_cons, if_pos rfl, get_cons] at atK
    rw [get_cons, get_cons, if_pos rfl] at atJ
    have heads : k = j := by
      rcases Nat.lt_trichotomy k j with less | equal | more
      · rw [if_neg (by omega), get_below upN.2 (by omega)] at atK
        exact absurd atK (otherM _ List.mem_cons_self)
      · exact equal
      · rw [if_neg (by omega), get_below upM.2 (by omega)] at atJ
        exact absurd atJ.symm (otherN _ List.mem_cons_self)
    subst heads
    rw [if_pos rfl] at atK
    have rest (i : Nat) : get d m i = get d n i := by
      by_cases low : i < k + 1
      · rw [get_below upM.2 low, get_below upN.2 low]
      · have here := same i
        rwa [get_cons, get_cons, if_neg (by omega), if_neg (by omega)] at here
    rw [atK, rising_ext upM.2 upN.2 (fun p h => otherM p (List.mem_cons_of_mem _ h)) (fun p h => otherN p (List.mem_cons_of_mem _ h)) rest]

end

/-- Memories in canonical form that read alike are one memory. -/
theorem wf_ext {m n : Memory} (hm : Memory.wf m = true) (hn : Memory.wf n = true) (same : ∀ x, readByte m x = readByte n x) : m = n := by
  simp only [Memory.wf, canon, Bool.and_eq_true, List.all_eq_true, decide_eq_true_eq] at hm hn
  exact rising_ext hm.1 hn.1 hm.2 hn.2 same

/-! Zeroed ranges and written runs -/

theorem readByte_zeroSpan (m : Memory) (a k x : Nat) : readByte (zeroSpan m a k) x = if a ≤ x ∧ x < a + k then 0 else readByte m x := by
  refine (readByte_filter m (fun y => !(a ≤ y && y < a + k)) x).trans ?_
  by_cases inside : a ≤ x ∧ x < a + k
  · rw [if_neg (by simpa using inside), if_pos inside]
  · rw [if_pos (by simp; omega), if_neg inside]

theorem readBytes_zeroSpan (m : Memory) (a k : Nat) : readBytes (zeroSpan m a k) a k = List.replicate k 0 := by
  rw [readBytes_eq_map, List.eq_replicate_iff]
  refine ⟨by rw [List.length_map, List.length_range], fun b read => ?_⟩
  obtain ⟨i, inside, rfl⟩ := List.mem_map.mp read
  rw [readByte_zeroSpan, if_pos ⟨Nat.le_add_right a i, Nat.add_lt_add_left (List.mem_range.mp inside) a⟩]

theorem poke_inv {s : State} (h : s.Inv) (a : Nat) (bs : List Byte) : (s.poke a bs).Inv := ⟨wf_writeBytes bs a h.1, h.2⟩

theorem zeroMem_inv {s : State} (h : s.Inv) (a k : Nat) : (s.zeroMem a k).Inv := ⟨wf_zeroSpan a k h.1, h.2⟩

/-- Settles O59: a run written (`readBytes_writeBytes_same`, `readByte_writeBytes_outside`), a range zeroed (`readByte_zeroSpan`), and one
canonical form for what memory reads (`wf_ext`). -/
theorem memoryReadsBack : Obligations.MemoryReadsBack := by
  intro s a k bs
  refine ⟨readBytes_writeBytes_same bs s.mem a, fun x => readByte_writeBytes_outside bs s.mem a x, rfl, readBytes_zeroSpan s.mem a k, ?_,
    fun h => ⟨poke_inv h a bs, zeroMem_inv h a k⟩, fun m n => wf_ext⟩
  intro x outside
  exact (readByte_zeroSpan s.mem a k x).trans (if_neg (by omega))

end Sys2Proof.Machine
end

/-! SUPPORT. What every command keeps: the queue of waiting commands, and the canonical form of the memories (log entry 49). -/

section
namespace Sys2Proof.Machine

open Sys2Proof

/-- The queue of waiting commands stands as `cs`, and the memories are in their canonical form. -/
def Tidy (cs : List Instr) (t : State) : Prop := t.pending = cs ∧ t.Inv

/-- A command answers a next state, and a tidy one. -/
def Answers (cs : List Instr) (o : Host.Outcome State Fault Refusal) : Prop := ∃ t, o = .next t ∧ Tidy cs t

/-- A run of bytes copied keeps the canonical form: what stands is a filter of the list, then bytes written one by one. -/
theorem wf_copySpan {m : Memory} {src dst n : Nat} {ok into : Nat → Bool} (h : Memory.wf m = true) : Memory.wf (copySpan m src dst n ok into) = true :=
  List.foldlRecOn (motive := fun x => Memory.wf x = true) _ _ (wf_filter _ h) fun _ k p _ => wf_writeByte _ p.2 k

variable {cs : List Instr} {s t : State}

/-- Whatever else a step of the model changes. -/
theorem Tidy.set {time servo sheaf holds fault assay coord glean hazard store job save ports feed results counts rst granary mgmt regions tokens
    blocks stks ddr nets tables links bypass role weak forward fwdArrivals turn out free} (h : Tidy cs s) :
    Tidy cs { s with
      time := time, servo := servo, sheaf := sheaf, holds := holds, fault := fault, assay := assay, coord := coord, glean := glean,
      hazard := hazard, store := store, job := job, save := save, ports := ports, feed := feed, results := results, counts := counts,
      rst := rst, granary := granary, mgmt := mgmt, regions := regions, tokens := tokens, blocks := blocks, stks := stks, ddr := ddr,
      nets := nets, tables := tables, links := links, bypass := bypass, role := role, weak := weak, forward := forward, fwdArrivals :=
      fwdArrivals, turn := turn, out := out, free := free } := h

theorem Tidy.mem (h : Tidy cs s) : Memory.wf s.mem = true := h.2.1

theorem Tidy.setMem {mem weak blocks stks} (h : Tidy cs s) (canonical : Memory.wf mem = true) :
    Tidy cs { s with mem := mem, weak := weak, blocks := blocks, stks := stks } := by
  obtain ⟨waiting, _, egress⟩ := h
  exact ⟨waiting, canonical, egress⟩

theorem Tidy.errs (h : Tidy cs s) (k : Errs s t) : Tidy cs t := by
  obtain ⟨_, _, _, _, _, _, _, _, _, _, _, _, _, rfl⟩ := k
  exact h.set

theorem Tidy.completes (h : Tidy cs s) (k : Completes s t) : Tidy cs t := by
  obtain ⟨_, _, _, rfl⟩ := k
  exact h.set

theorem Tidy.ite {c : Prop} [Decidable c] (h : Tidy cs s) (k : Tidy cs t) : Tidy cs (if c then s else t) := by
  split
  · exact h
  · exact k

theorem Tidy.iteFst {α : Type} {c : Prop} [Decidable c] {x y : State × α} (h : Tidy cs x.1) (k : Tidy cs y.1) : Tidy cs (if c then x else y).1 := by
  split
  · exact h
  · exact k

theorem Tidy.foldl {α : Type} {f : State → α → State} {l : List α} (h : Tidy cs s) (each : ∀ t x, Tidy cs t → Tidy cs (f t x)) :
    Tidy cs (l.foldl f s) := List.foldlRecOn l f h fun t k x _ => each t x k

/-- A fold that carries more along than the state. -/
theorem Tidy.foldlFst {α β : Type} {f : State × β → α → State × β} {l : List α} {x : State × β} (h : Tidy cs x.1)
    (each : ∀ y a, Tidy cs y.1 → Tidy cs (f y a).1) : Tidy cs (l.foldl f x).1 :=
  List.foldlRecOn (motive := fun y => Tidy cs y.1) l f h fun y k a _ => each y a k

theorem Answers.next (h : Tidy cs s) : Answers cs (.next s) := ⟨s, rfl, h⟩

theorem Answers.ite {c : Prop} [Decidable c] {o p : Host.Outcome State Fault Refusal} (h : Answers cs o) (k : Answers cs p) :
    Answers cs (if c then o else p) := by
  split
  · exact h
  · exact k

/-! Units, the log, events, messages and the journal -/

theorem Tidy.onRegion {r f} (h : Tidy cs s) : Tidy cs (s.onRegion r f) := h.set
theorem Tidy.onBlock {b f} (h : Tidy cs s) : Tidy cs (s.onBlock b f) := h.set
theorem Tidy.onStack {i f} (h : Tidy cs s) : Tidy cs (s.onStack i f) := h.set
theorem Tidy.onChan {c f} (h : Tidy cs s) : Tidy cs (s.onChan c f) := h.set
theorem Tidy.onNet {n f} (h : Tidy cs s) : Tidy cs (s.onNet n f) := h.set
theorem Tidy.onLink {l f} (h : Tidy cs s) : Tidy cs (s.onLink l f) := h.set
theorem Tidy.onPort {p f} (h : Tidy cs s) : Tidy cs (s.onPort p f) := h.set
theorem Tidy.onMbx {p m f} (h : Tidy cs s) : Tidy cs (s.onMbx p m f) := h.onPort
theorem Tidy.poke {a bs} (h : Tidy cs s) : Tidy cs (s.poke a bs) := .setMem h (wf_writeBytes bs a h.mem)
theorem Tidy.healed {a n} (h : Tidy cs s) : Tidy cs (s.healed a n) := h.set

theorem Tidy.pokeEgress {a bs} (h : Tidy cs s) : Tidy cs (s.pokeEgress a bs) := by
  obtain ⟨waiting, mem, egress⟩ := h
  exact ⟨waiting, mem, wf_writeBytes bs a egress⟩

theorem Tidy.onRecord {ty f} (h : Tidy cs s) : Tidy cs (s.onRecord ty f) := h.set
theorem Tidy.committed {ty} (h : Tidy cs s) : Tidy cs (s.committed ty) := h.errs (committed_logs ..).errs
theorem Tidy.platform {what v} (h : Tidy cs s) : Tidy cs (s.platform what v) := h.errs (platform_logs ..).errs
theorem Tidy.endOfLife {i} (h : Tidy cs s) : Tidy cs (s.endOfLife i) := h.errs (endOfLife_logs ..).errs
theorem Tidy.vector {p v} (h : Tidy cs s) : Tidy cs (s.vector p v) := h.completes (vector_completes ..)
theorem Tidy.event {p i} (h : Tidy cs s) : Tidy cs (s.event p i) := h.completes (event_completes ..)
theorem Tidy.eventAll {i} (h : Tidy cs s) : Tidy cs (s.eventAll i) := .foldl h fun _ _ h => h.event
theorem Tidy.ownerEvent {i} (h : Tidy cs s) : Tidy cs (s.ownerEvent i) := h.errs (ownerEvent_logs ..).errs
theorem Tidy.hostWrite {p a bs} (h : Tidy cs s) : Tidy cs (s.hostWrite p a bs) := h.completes (hostWrite_completes ..)
theorem Tidy.appendLog {e} (h : Tidy cs s) : Tidy cs (s.appendLog e) := h.set
theorem Tidy.logNew {e} (h : Tidy cs s) : Tidy cs (s.logNew e) := h.errs (logNew_logs ..).errs
theorem Tidy.log {a} (h : Tidy cs s) : Tidy cs (s.log a) := h.errs (log_logs ..).errs
theorem Tidy.logOpen {a} (h : Tidy cs s) : Tidy cs (s.logOpen a) := h.log.set
theorem Tidy.enqueue {l m} (h : Tidy cs s) : Tidy cs (s.enqueue l m) := h.onLink
theorem Tidy.queueFor {m} (h : Tidy cs s) : Tidy cs (s.queueFor m) := h.errs (queueFor_sends ..).errs
theorem Tidy.sendWith {dest mtype len body id} (h : Tidy cs s) : Tidy cs (s.sendWith dest mtype len body id) := h.errs (sendWith_sends ..).errs
theorem Tidy.send {dest mtype len body} (h : Tidy cs s) : Tidy cs (s.send dest mtype len body) := h.errs (send_sends ..).errs
theorem Tidy.sendSeries {dest mtype content} (h : Tidy cs s) : Tidy cs (s.sendSeries dest mtype content) := h.errs (sendSeries_sends ..).errs
theorem Tidy.answerTo {src id mtype len body} (h : Tidy cs s) : Tidy cs (s.answerTo src id mtype len body) := h.errs (answerTo_sends ..).errs
theorem Tidy.answer {src req mtype len body} (h : Tidy cs s) : Tidy cs (s.answer src req mtype len body) := h.errs (answer_sends ..).errs
theorem Tidy.sendKept {dest mtype len body} (h : Tidy cs s) : Tidy cs (s.sendKept dest mtype len body) := h.errs (sendKept_sends ..).errs
theorem Tidy.sendAll {dests mtype len body} (h : Tidy cs s) : Tidy cs (s.sendAll dests mtype len body) := h.errs (sendAll_sends ..).errs
theorem Tidy.sendLink {l mtype len body} (h : Tidy cs s) : Tidy cs (s.sendLink l mtype len body) := h.enqueue.set

theorem Tidy.answerLink {l src req mtype len body} (h : Tidy cs s) : Tidy cs (s.answerLink l src req mtype len body) := by
  unfold State.answerLink
  extract_lets t
  have ht : Tidy cs t := h.sendLink
  split
  · exact ht.set
  · exact ht

theorem Tidy.relayRequest {isAbort} (h : Tidy cs s) : Tidy cs (s.relayRequest isAbort) := h.errs (relayRequest_errs ..)
theorem Tidy.abortFor {c} (h : Tidy cs s) : Tidy cs (s.abortFor c) := h.errs (abortFor_errs ..)
theorem Tidy.commitFault {seq} (h : Tidy cs s) : Tidy cs (s.commitFault seq) := h.errs (commitFault_errs ..)
theorem Tidy.stepError {a} (h : Tidy cs s) : Tidy cs (s.stepError a) := h.errs (stepError_errs ..)
theorem Tidy.hardError {a} (h : Tidy cs s) : Tidy cs (s.hardError a) := h.errs (hardError_errs ..)

theorem Tidy.ringPoke {off bs} (h : Tidy cs s) : Tidy cs (s.ringPoke off bs) :=
  .foldlFst h fun _ _ h => h.poke

theorem Tidy.storeItem {i} (h : Tidy cs s) : Tidy cs (s.storeItem i) := h.ringPoke

theorem Tidy.appendRecord {rtype flags step inStep body} (h : Tidy cs s) : Tidy cs (s.appendRecord rtype flags step inStep body) := by
  unfold State.appendRecord
  extract_lets t
  have ht : Tidy cs t := h.set
  split
  · exact ht.storeItem
  · exact ht

theorem Tidy.dropRecords (h : Tidy cs s) : Tidy cs s.dropRecords := by
  unfold State.dropRecords
  extract_lets
  split
  · split
    · exact h
    · exact h.set.appendRecord
  · exact h

theorem Tidy.journal {rtype flags step inStep body} (h : Tidy cs s) : Tidy cs (s.journal rtype flags step inStep body) :=
  .ite h.appendRecord.dropRecords h

theorem Tidy.journalNow {rtype body} (h : Tidy cs s) : Tidy cs (s.journalNow rtype body) := h.journal
theorem Tidy.blockErr {b i} (h : Tidy cs s) : Tidy cs (s.blockErr b i) := h.onBlock
theorem Tidy.planFault {b kind} (h : Tidy cs s) : Tidy cs (s.planFault b kind) := h.errs (planFault_errs ..)
theorem Tidy.stackFault {i kind line engine} (h : Tidy cs s) : Tidy cs (s.stackFault i kind line engine) := h.errs (stackFault_errs ..)
theorem Tidy.stackErr {i bitIx line engine} (h : Tidy cs s) : Tidy cs (s.stackErr i bitIx line engine) := h.onStack
theorem Tidy.sramCorrect {b off len} (h : Tidy cs s) : Tidy cs (s.sramCorrect b off len) := h.errs (sramCorrect_errs ..)
theorem Tidy.sramLost {b units} (h : Tidy cs s) : Tidy cs (s.sramLost b units) := h.errs (sramLost_errs ..)
theorem Tidy.sramCheck {b off len} (h : Tidy cs s) : Tidy cs (s.sramCheck b off len) := h.errs (sramCheck_errs ..)
theorem Tidy.illegalBundle {b} (h : Tidy cs s) : Tidy cs (s.illegalBundle b) := h.errs (illegalBundle_errs ..)
theorem Tidy.illegalStack {i e} (h : Tidy cs s) : Tidy cs (s.illegalStack i e) := h.errs (illegalStack_errs ..)

theorem Tidy.hazardAt {region lb line cycle kind addr} (h : Tidy cs s) : Tidy cs (s.hazardAt region lb line cycle kind addr) :=
  h.errs (hazardAt_errs ..)

theorem Tidy.blockHazard {b kind addr} (h : Tidy cs s) : Tidy cs (s.blockHazard b kind addr) := h.errs (blockHazard_errs ..)
theorem Tidy.netHazard {n kind addr} (h : Tidy cs s) : Tidy cs (s.netHazard n kind addr) := .ite h.onNet.hazardAt h
theorem Tidy.stackHazard {i kind addr} (h : Tidy cs s) : Tidy cs (s.stackHazard i kind addr) := h.errs (stackHazard_errs ..)

end Sys2Proof.Machine
end

/-! SUPPORT. What every command keeps: blocks, stacks and regions. -/

section
namespace Sys2Proof.Machine

open Sys2Proof

variable {cs : List Instr} {s t : State}

/-! Operands and their accesses -/

theorem Tidy.resolve {b ar want len align limit} (h : Tidy cs s) : Tidy cs (s.resolve b ar want len align limit).1 := by
  unfold State.resolve
  extract_lets _ _ _ _ s1
  have hs1 : Tidy cs s1 := .ite h.planFault h
  exact .iteFst hs1.planFault hs1

theorem Tidy.resolveSram {b ar rows} (h : Tidy cs s) : Tidy cs (s.resolveSram b ar rows).1 := h.resolve
theorem Tidy.takeRead {b cycle off} (h : Tidy cs s) : Tidy cs (s.takeRead b cycle off).1 := .iteFst h.onBlock h.blockHazard.planFault
theorem Tidy.takeWrite {b cycle off} (h : Tidy cs s) : Tidy cs (s.takeWrite b cycle off).1 := .iteFst h.onBlock h.blockHazard.planFault

theorem Tidy.displace {b cycle rank} (h : Tidy cs s) (displaced : s.displace b cycle rank = some t) : Tidy cs t := by
  unfold State.displace at displaced
  split at displaced
  · exact Option.some.inj displaced ▸ h.onBlock
  · split at displaced
    · exact Option.some.inj displaced ▸ h.set
    · split at displaced
      · exact Option.some.inj displaced ▸ h.onBlock
      · exact nomatch displaced

theorem Tidy.takeLanding {b rank cycle off} (h : Tidy cs s) : Tidy cs (s.takeLanding b rank cycle off).1 := by
  unfold State.takeLanding
  split
  · exact h.takeWrite
  · split
    · exact (h.displace ‹_›).blockHazard.planFault
    · exact h.takeWrite

theorem Tidy.takeRows {take n c off} (h : Tidy cs s) (htake : ∀ t x1 x2, Tidy cs t → Tidy cs (take t x1 x2).1) :
    Tidy cs (State.takeRows take s c off n).1 := by
  induction n generalizing s c off with
  | zero => exact h
  | succ n ih =>
    rw [State.takeRows]
    exact ih (htake _ _ _ h)

theorem Tidy.ranked {b slot} (h : Tidy cs s) : Tidy cs (s.ranked b slot) := h.onBlock
theorem Tidy.later {b cycle a} (h : Tidy cs s) : Tidy cs (s.later b cycle a) := h.onBlock
theorem Tidy.laterAs {b cycle rank a} (h : Tidy cs s) : Tidy cs (s.laterAs b cycle rank a) := h.onBlock

theorem Tidy.rawCheck {b vs ts} (h : Tidy cs s) : Tidy cs (s.rawCheck b vs ts) := by
  unfold State.rawCheck
  extract_lets
  split
  · split
    · exact h.blockHazard
    · split
      · exact h.blockHazard
      · exact h
  · exact h

theorem Tidy.rawSram {b off rows} (h : Tidy cs s) : Tidy cs (s.rawSram b off rows) := by
  unfold State.rawSram
  extract_lets
  split
  · exact h
  · split
    · exact h.blockHazard
    · split
      · exact h.blockHazard
      · split
        · exact h.blockHazard
        · exact h

theorem Tidy.landCheck {b off rows} (h : Tidy cs s) : Tidy cs (s.landCheck b off rows) := .ite h.blockHazard h
theorem Tidy.resultV {b slot vd lat row} (h : Tidy cs s) : Tidy cs (s.resultV b slot vd lat row) := h.ranked.later
theorem Tidy.resultT {b slot td lat row} (h : Tidy cs s) : Tidy cs (s.resultT b slot td lat row) := h.ranked.later

theorem Tidy.slot {b n legal f} (h : Tidy cs s) (hf : ∀ t, Tidy cs t → Tidy cs (f t)) : Tidy cs (s.slot b n legal f) :=
  .ite (.ite (hf _ h) h.illegalBundle) h

theorem Tidy.crossingMisuse {t} (h : Tidy cs s) : Tidy cs (s.crossingMisuse t) := by
  unfold State.crossingMisuse
  split
  · exact h.blockHazard
  · exact h.blockHazard
  · exact h.blockHazard
  · exact h.netHazard
  · exact h.netHazard
  · exact h.stackHazard
  · exact h.stackHazard

theorem Tidy.token {t} (h : Tidy cs s) : Tidy cs (s.token t) := .ite h.set h.crossingMisuse

/-! The vector slot -/

theorem Tidy.vec1 {b vd va lat f} (h : Tidy cs s) : Tidy cs (s.vec1 b vd va lat f) := h.slot fun _ h => h.rawCheck.resultV
theorem Tidy.vec2 {b vd va vb lat f} (h : Tidy cs s) : Tidy cs (s.vec2 b vd va vb lat f) := h.slot fun _ h => h.rawCheck.resultV
theorem Tidy.vec3 {b vd va vb vc lat f} (h : Tidy cs s) : Tidy cs (s.vec3 b vd va vb vc lat f) := h.slot fun _ h => h.rawCheck.resultV
theorem execVadd_answers {b vd va vb} (h : Tidy cs s) : Answers cs (execVadd b vd va vb s) := .next h.vec2
theorem execVsub_answers {b vd va vb} (h : Tidy cs s) : Answers cs (execVsub b vd va vb s) := .next h.vec2
theorem execVmul_answers {b vd va vb} (h : Tidy cs s) : Answers cs (execVmul b vd va vb s) := .next h.vec2
theorem execVfma_answers {b vd va vb vc} (h : Tidy cs s) : Answers cs (execVfma b vd va vb vc s) := .next h.vec3
theorem execVmin_answers {b vd va vb} (h : Tidy cs s) : Answers cs (execVmin b vd va vb s) := .next h.vec2
theorem execVmax_answers {b vd va vb} (h : Tidy cs s) : Answers cs (execVmax b vd va vb s) := .next h.vec2
theorem execVcmp_answers {b vd va vb mode} (h : Tidy cs s) : Answers cs (execVcmp b vd va vb mode s) := .next (.ite h.vec2 (h.slot fun _ h => h))
theorem execVsel_answers {b vd va vb vc} (h : Tidy cs s) : Answers cs (execVsel b vd va vb vc s) := .next h.vec3
theorem execVmov_answers {b vd va} (h : Tidy cs s) : Answers cs (execVmov b vd va s) := .next h.vec1

theorem execVcvtNarrow_answers {b vd va mode fmt key} (h : Tidy cs s) : Answers cs (execVcvtNarrow b vd va mode fmt key s) :=
  .next (h.slot fun _ h => h.rawCheck.resultV)

theorem execVcvtWide_answers {b vd va fmt} (h : Tidy cs s) : Answers cs (execVcvtWide b vd va fmt s) := .next (h.slot fun _ h => h.rawCheck.resultV)
theorem execVexp_answers {b vd va} (h : Tidy cs s) : Answers cs (execVexp b vd va s) := .next h.vec1
theorem execVlog_answers {b vd va} (h : Tidy cs s) : Answers cs (execVlog b vd va s) := .next h.vec1
theorem execVrcp_answers {b vd va} (h : Tidy cs s) : Answers cs (execVrcp b vd va s) := .next h.vec1
theorem execVrsqrt_answers {b vd va} (h : Tidy cs s) : Answers cs (execVrsqrt b vd va s) := .next h.vec1
theorem execVtanh_answers {b vd va} (h : Tidy cs s) : Answers cs (execVtanh b vd va s) := .next h.vec1
theorem execViadd_answers {b vd va vb} (h : Tidy cs s) : Answers cs (execViadd b vd va vb s) := .next h.vec2

/-! The tree slot -/

theorem Tidy.tree2 {b td ta tb f} (h : Tidy cs s) : Tidy cs (s.tree2 b td ta tb f) := h.slot fun _ h => h.rawCheck.resultT
theorem execTadd_answers {b td ta tb} (h : Tidy cs s) : Answers cs (execTadd b td ta tb s) := .next h.tree2
theorem execTaddi_answers {b td ta tb} (h : Tidy cs s) : Answers cs (execTaddi b td ta tb s) := .next h.tree2

theorem Tidy.readRow {b ar} (h : Tidy cs s) : Tidy cs (s.readRow b ar).1 := by
  unfold State.readRow
  extract_lets
  split
  · exact h.resolveSram
  · exact .ite h.resolveSram.rawSram.takeRead h.resolveSram.rawSram.takeRead.sramCheck

theorem Tidy.writeRow {b ar ready row} (h : Tidy cs s) : Tidy cs (s.writeRow b ar ready row) := by
  unfold State.writeRow
  extract_lets
  split
  · exact h.resolveSram
  · exact .ite h.resolveSram.landCheck.takeWrite h.resolveSram.landCheck.takeWrite.later

theorem execTload_answers {b td ar} (h : Tidy cs s) : Answers cs (execTload b td ar s) := .next (h.slot fun _ h => h.ranked.readRow.later)
theorem execTstore_answers {b ar ta} (h : Tidy cs s) : Answers cs (execTstore b ar ta s) := .next (h.slot fun _ h => h.ranked.rawCheck.writeRow)
theorem execTtov_answers {b v ta} (h : Tidy cs s) : Answers cs (execTtov b v ta s) := .next (h.slot fun _ h => h.rawCheck.resultV)
theorem execVtot_answers {b td v} (h : Tidy cs s) : Answers cs (execVtot b td v s) := .next (h.slot fun _ h => h.rawCheck.resultT)

/-! The move channels -/

theorem Tidy.onChannel {b ch cycles f} (h : Tidy cs s) (hf : ∀ t, Tidy cs t → Tidy cs (f t)) : Tidy cs (s.onChannel b ch cycles f) :=
  .ite (hf _ h.ranked.onBlock) h.planFault

theorem Tidy.readOpbNow {b rank cell line off refused} (h : Tidy cs s) : Tidy cs (s.readOpbNow b rank cell line off refused) :=
  .onBlock (.ite h h.sramCheck)

theorem Tidy.landOne {b ready x} (h : Tidy cs s) : Tidy cs (s.landOne b ready x) := .poke (.onBlock (.ite h.sramCheck h))
theorem Tidy.landArrivals {b ready} (h : Tidy cs s) : Tidy cs (s.landArrivals b ready) := .foldl h.onBlock fun _ _ h => h.landOne
theorem Tidy.rowCheck {b off refused} (h : Tidy cs s) : Tidy cs (s.rowCheck b off refused) := .ite h h.sramCheck

theorem Tidy.perform {b d} (h : Tidy cs s) : Tidy cs (s.perform b d) := by
  unfold State.perform
  extract_lets
  split
  · exact h.onBlock
  · exact h.onBlock
  · exact h.poke
  · exact h.onBlock
  · exact h.readOpbNow
  · exact .ite h h.rowCheck.token
  · exact h.rowCheck.token
  · exact h.rowCheck.token

theorem Tidy.settle {b between} (h : Tidy cs s) (hbetween : ∀ t, Tidy cs t → Tidy cs (between t)) : Tidy cs (s.settle b between) :=
  .foldl (hbetween _ (.foldl h.onBlock fun _ _ h => h.perform)) fun _ _ h => h.perform

theorem Tidy.laterAll {b c acts} (h : Tidy cs s) : Tidy cs (s.laterAll b c acts) := .settle (.foldl h fun _ _ h => h.later) fun _ h => h

theorem Tidy.resolveFill {b arx rows} (h : Tidy cs s) : Tidy cs (s.resolveFill b arx rows).1 := by
  unfold State.resolveFill
  extract_lets
  split
  · exact .ite h.resolve.planFault h.resolve
  · exact h.resolve

theorem execLdOpb_answers {b ch ars arx len cell} (h : Tidy cs s) : Answers cs (execLdOpb b ch ars arx len cell s) := by
  unfold execLdOpb
  extract_lets
  refine .next (.slot h fun t h => .onChannel h fun t h => ?_)
  extract_lets
  split
  · exact h.resolveSram.resolveFill
  · exact h.resolveSram.resolveFill.laterAll
  · exact .laterAll (h.resolveSram.resolveFill.rawSram.takeRows fun _ _ _ h => h.takeRead)

theorem execLdV_answers {b ch ars vreg} (h : Tidy cs s) : Answers cs (execLdV b ch ars vreg s) :=
  .next (h.slot fun _ h => h.onChannel fun _ h => h.readRow.later)

theorem execStV_answers {b ch ars vreg} (h : Tidy cs s) : Answers cs (execStV b ch ars vreg s) :=
  .next (h.slot fun _ h => h.onChannel fun _ h => h.rawCheck.writeRow)

theorem Tidy.answerCheck {b i} (h : Tidy cs s) : Tidy cs (s.answerCheck b i) := .ite h.blockHazard h

theorem execHbmRd_answers {b ch ars arx} (h : Tidy cs s) : Answers cs (execHbmRd b ch ars arx s) := by
  unfold execHbmRd
  refine .next (.slot h fun t h => .onChannel h fun t h => ?_)
  extract_lets
  split
  · exact .token (.answerCheck (h.resolveSram.resolve.landCheck.takeRows fun _ _ _ h => h.takeWrite))
  · exact .foldl (h.resolveSram.resolve.landCheck.takeRows fun _ _ _ h => h.takeWrite) fun _ _ h => .ite h h.later
  · exact h.resolveSram.resolve

theorem execHbmWr_answers {b ch ars arx} (h : Tidy cs s) : Answers cs (execHbmWr b ch ars arx s) := by
  unfold execHbmWr
  refine .next (.slot h fun t h => .onChannel h fun t h => ?_)
  extract_lets
  split
  · exact h.resolveSram.resolve
  · exact h.resolveSram.resolve.token
  · exact .later (.rowCheck (h.resolveSram.resolve.rawSram.takeRows fun _ _ _ h => h.takeRead))

theorem execEgress_answers {b ch ars arx len} (h : Tidy cs s) : Answers cs (execEgress b ch ars arx len s) := by
  unfold execEgress
  extract_lets
  refine .next (.slot h fun t h => .onChannel h fun t h => ?_)
  extract_lets
  split
  · exact h.resolveSram.resolve
  · exact h.resolveSram.resolve.laterAll
  · exact .laterAll (h.resolveSram.resolve.rawSram.takeRows fun _ _ _ h => h.takeRead)

theorem execXfer_answers {b ch ars arx len} (h : Tidy cs s) : Answers cs (execXfer b ch ars arx len s) := by
  unfold execXfer
  extract_lets
  refine .next (.slot h fun t h => .onChannel h fun t h => ?_)
  extract_lets
  split
  · exact h.resolveSram.planFault
  · split
    · exact h.resolveSram.resolve
    · exact .laterAll (h.resolveSram.resolve.landCheck.takeRows fun _ _ _ h => h.takeLanding)
    · exact .laterAll (.takeRows (.landCheck (h.resolveSram.resolve.rawSram.takeRows fun _ _ _ h => h.takeRead)) fun _ _ _ h => h.takeLanding)

/-! The cells -/

theorem execChunk_answers {b c fmt rb desc} (h : Tidy cs s) : Answers cs (execChunk b c fmt rb desc s) := by
  unfold execChunk
  split
  · exact .next (h.slot fun _ h => h)
  · extract_lets
    refine .next (.slot h fun t h => ?_)
    extract_lets _ _ _ _ _ _ _ _ _ s1
    have hs1 : Tidy cs s1 := .ite h.planFault h
    exact .ite h.planFault (.onBlock (.ite hs1.blockHazard hs1))

theorem Tidy.cellError {b pc parity residue rounder} (h : Tidy cs s) : Tidy cs (s.cellError b pc parity residue rounder) := by
  unfold State.cellError
  dsimp only
  split
  · exact h
  · exact .hardError (.onBlock (.foldl h fun _ _ h => h.blockErr))

theorem Tidy.finishChunk {b c run} (h : Tidy cs s) : Tidy cs (s.finishChunk b c run) := h.onBlock.cellError

theorem execChunkEnd_answers {b c parityBad residueBad rounders} (h : Tidy cs s) : Answers cs (execChunkEnd b c parityBad residueBad rounders s) := by
  unfold execChunkEnd
  split
  · exact .next h
  · exact .next (.ite h.onBlock h.finishChunk)

theorem Tidy.finishChunks {b cells cycle} (h : Tidy cs s) : Tidy cs (s.finishChunks b cells cycle) := .foldl h fun _ _ h => h.finishChunk

theorem Tidy.drainRow {b c rb row} (h : Tidy cs s) : Tidy cs (s.drainRow b c rb row).1 := by
  unfold State.drainRow
  extract_lets t
  have ht : Tidy cs t := h.finishChunks
  exact .onBlock (.ite ht.blockHazard ht)

theorem execDrainTree_answers {b c rb row t} (h : Tidy cs s) : Answers cs (execDrainTree b c rb row t s) :=
  .next (h.slot fun _ h => h.drainRow.resultT)

theorem execDrainVec_answers {b c rb row v} (h : Tidy cs s) : Answers cs (execDrainVec b c rb row v s) := .next (h.slot fun _ h => h.drainRow.resultV)

theorem execDrainSram_answers {b c rb row ar} (h : Tidy cs s) : Answers cs (execDrainSram b c rb row ar s) :=
  .next (h.slot fun _ h => h.drainRow.ranked.writeRow)

/-! Waits, signals and loops -/

theorem Tidy.variantChoice {b} (h : Tidy cs s) : Tidy cs (s.variantChoice b) := h.onBlock
theorem Tidy.restall {r} (h : Tidy cs s) : Tidy cs (s.restall r) := h.onRegion

theorem Tidy.proceedBlock {b g mask} (h : Tidy cs s) : Tidy cs (s.proceedBlock b g mask) := by
  unfold State.proceedBlock
  extract_lets _ t _ t1
  have ht : Tidy cs t := h.onBlock
  have ht1 : Tidy cs t1 := ht.onBlock
  exact .ite (.ite ht.variantChoice ht) (.ite ht1.variantChoice ht1)

theorem Tidy.waitBlock {b g mask} (h : Tidy cs s) : Tidy cs (s.waitBlock b g mask) := .ite h.proceedBlock (.restall (.onBlock (.ite h.blockHazard h)))

theorem Tidy.waitSlot {b legal g mask} (h : Tidy cs s) : Tidy cs (s.waitSlot b legal g mask) :=
  .ite (.ite h.waitBlock h) (h.slot fun _ h => h.waitBlock)

theorem execWait_answers {b group} (h : Tidy cs s) : Answers cs (execWait b group s) := .next h.waitSlot
theorem execWaitFirst_answers {b group mask} (h : Tidy cs s) : Answers cs (execWaitFirst b group mask s) := .next h.waitSlot

theorem execSignal_answers {b group target} (h : Tidy cs s) : Answers cs (execSignal b group target s) := by
  unfold execSignal
  refine .next (.slot h fun t h => ?_)
  split
  · exact .ite h.token h.planFault
  · exact h.planFault

theorem execReadT_answers {b v} (h : Tidy cs s) : Answers cs (execReadT b v s) := .next (h.slot fun _ h => h.variantChoice.resultV)
theorem execSample_answers {b index v} (h : Tidy cs s) : Answers cs (execSample b index v s) := .next (h.slot fun _ h => h.variantChoice.resultV)
theorem execLoopBegin_answers {b level trip} (h : Tidy cs s) : Answers cs (execLoopBegin b level trip s) := .next (h.slot fun _ h => h.onBlock)
theorem execLoopEnd_answers {b level} (h : Tidy cs s) : Answers cs (execLoopEnd b level s) := .next (h.slot fun _ h => h.onBlock)
theorem execSheafEnd_answers {b} (h : Tidy cs s) : Answers cs (execSheafEnd b s) := .next (h.slot fun _ h => h.onBlock)

theorem Tidy.beginBundle {b} (h : Tidy cs s) : Tidy cs (s.beginBundle b) := by
  unfold State.beginBundle
  extract_lets _ _ t
  have ht : Tidy cs t := h.onBlock.sramCorrect
  exact .ite h (.ite h.illegalBundle.onBlock (.ite h.onBlock.restall (.ite ht ht.illegalBundle)))

theorem execIllegalBundle_answers {b cause} (h : Tidy cs s) : Answers cs (execIllegalBundle b cause s) := by
  unfold execIllegalBundle
  extract_lets t
  have ht : Tidy cs t := h.illegalBundle
  exact .ite (.next (.ite ht.onBlock ht)) (.next h)

/-! The stack engines -/

theorem Tidy.post {i cycle a bs owner} (h : Tidy cs s) : Tidy cs (s.post i cycle a bs owner) := h.onStack
theorem Tidy.retireWrites {i cycle} (h : Tidy cs s) : Tidy cs (s.retireWrites i cycle) := .onStack (.foldl h fun _ _ h => h.poke)
theorem Tidy.stackCorrect {i a n e} (h : Tidy cs s) : Tidy cs (s.stackCorrect i a n e) := h.errs (stackCorrect_errs ..)

theorem Tidy.stackLost {i units wide requester line e} (h : Tidy cs s) : Tidy cs (s.stackLost i units wide requester line e) :=
  h.errs (stackLost_errs ..)

theorem Tidy.stackCheck {i a n wide requester line e} (h : Tidy cs s) : Tidy cs (s.stackCheck i a n wide requester line e) :=
  h.errs (stackCheck_errs ..)

theorem Tidy.writeCheck {i a n wide requester line e} (h : Tidy cs s) : Tidy cs (s.writeCheck i a n wide requester line e) :=
  h.errs (writeCheck_errs ..)

theorem Tidy.noteStaging {i a n} (h : Tidy cs s) : Tidy cs (s.noteStaging i a n) := .ite h.onStack h
theorem Tidy.stagingHazard {i a n cycle} (h : Tidy cs s) : Tidy cs (s.stagingHazard i a n cycle) := h.errs (stagingHazard_errs ..)
theorem Tidy.moveHazard {i a n} (h : Tidy cs s) : Tidy cs (s.moveHazard i a n) := h.errs (moveHazard_errs ..)
theorem Tidy.stageHazard {i a n} (h : Tidy cs s) : Tidy cs (s.stageHazard i a n) := h.errs (stageHazard_errs ..)

theorem Tidy.engineRead {i e line pl n cycle} (h : Tidy cs s) : Tidy cs (s.engineRead i e line pl n cycle).1 := by
  unfold State.engineRead
  split
  · exact h
  · exact .iteFst (.iteFst h.moveHazard.stackCheck h.stackHazard.stackFault) h.stagingHazard.stackCheck

theorem Tidy.engineWrite {i e line ar pl bs v} (h : Tidy cs s) : Tidy cs (s.engineWrite i e line ar pl bs v) := by
  unfold State.engineWrite
  extract_lets
  split
  · exact h
  · exact .ite (.ite h.moveHazard.post.writeCheck h.onStack) (.ite h.token h.stageHazard.post.noteStaging)

theorem Tidy.groupRead {i e r x} (h : Tidy cs s) : Tidy cs (s.groupRead i e r x).1 := h.engineRead

theorem Tidy.groupReads {i e r} : ∀ {l s}, Tidy cs s → Tidy cs (State.groupReads s i e r l).1
  | [], _, h => h
  | _ :: _, _, h => by
    rw [State.groupReads]
    exact groupReads h.groupRead

theorem Tidy.groupWrite {i r x vals d} (h : Tidy cs s) : Tidy cs (s.groupWrite i r x vals d).1 := by
  unfold State.groupWrite
  extract_lets _ _ _ _ _ _ _ _ s1
  have hs1 : Tidy cs s1 := h.engineWrite
  exact .ite hs1.engineWrite hs1

theorem Tidy.groupWrites {i r vals} : ∀ {l s x}, Tidy cs s → Tidy cs (State.groupWrites s i r x vals l).1
  | [], _, _, h => h
  | _ :: _, _, _, h => by
    rw [State.groupWrites]
    exact groupWrites h.groupWrite

theorem Tidy.gatherRow {i r x} (h : Tidy cs s) : Tidy cs (s.gatherRow i r x).1 :=
  .engineWrite (.iteFst h.engineRead.stackFault (.iteFst h.engineRead.engineRead h.engineRead.stackHazard.stackFault))

theorem Tidy.engineGroup {i r x} (h : Tidy cs s) : Tidy cs (s.engineGroup i r x).1 := .iteFst h.gatherRow h.groupReads.groupWrites

theorem Tidy.enginesGroup {i r} : ∀ {l s}, Tidy cs s → Tidy cs (State.enginesGroup s i r l).1
  | [], _, h => h
  | _ :: _, _, h => by
    rw [State.enginesGroup]
    exact enginesGroup h.engineGroup

theorem Tidy.partialNorms {i r x} (h : Tidy cs s) : Tidy cs (s.partialNorms i r x) := h.engineWrite

theorem Tidy.engineEnd {i r x} (h : Tidy cs s) : Tidy cs (s.engineEnd i r x) := by
  unfold State.engineEnd
  extract_lets s1
  have hs1 : Tidy cs s1 := .ite h.partialNorms h
  exact .ite hs1.onStack hs1

theorem Tidy.advanceRun {i cycle r} (h : Tidy cs s) : Tidy cs (s.advanceRun i cycle r).1 :=
  .iteFst h (.iteFst h (.iteFst h.enginesGroup (.foldl h.enginesGroup fun _ _ h => h.engineEnd)))

theorem Tidy.advanceRuns {i cycle} : ∀ {l s}, Tidy cs s → Tidy cs (State.advanceRuns s i cycle l).1
  | [], _, h => h
  | _ :: _, _, h => by
    rw [State.advanceRuns]
    exact advanceRuns h.advanceRun

theorem Tidy.sendParam (h : Tidy cs s) : Tidy cs s.sendParam := by
  unfold State.sendParam
  extract_lets _ _ t
  have ht : Tidy cs t := h.set
  exact .ite (.ite ht ht.set.sendKept) h

theorem Tidy.landStaged {i ready} (h : Tidy cs s) : Tidy cs (s.landStaged i ready) := .foldl h.onStack fun _ _ h => h.onStack.poke
theorem Tidy.raiseSlips {i cycle} (h : Tidy cs s) : Tidy cs (s.raiseSlips i cycle) := .foldl h.onStack fun _ _ h => h.stackHazard.stackFault
theorem Tidy.finishDigest {i} (h : Tidy cs s) : Tidy cs (s.finishDigest i) := .ite h.onStack.sendParam h
theorem Tidy.stackCycle {i} (h : Tidy cs s) : Tidy cs (s.stackCycle i) := h.retireWrites.landStaged.raiseSlips.advanceRuns.onStack.finishDigest

theorem Tidy.operandFaults {i e line code f kd} (h : Tidy cs s) : Tidy cs (s.operandFaults i e line code f kd) :=
  .foldl h fun _ _ h => .foldl h fun _ _ h => h.stackFault

theorem Tidy.scalarReads {i e line code f kd} (h : Tidy cs s) : Tidy cs (s.scalarReads i e line code f kd).1 := by
  have inPc {t : State} {c : Prop} [Decidable c] {p p' a n} (h : Tidy cs t) : Tidy cs (if c then
      let x := t.engineRead i e line p 4 a
      (x.1, BitVec.ofNat 32 (leNat x.2))
    else
      let x := (t.stackFault i 4 line e).engineRead i e line p' 4 n
      (x.1, BitVec.ofNat 32 (leNat x.2)) : State × Word32).1 := .iteFst h.engineRead h.stackFault.engineRead
  unfold State.scalarReads
  extract_lets _ _ _ _ _ l g r
  have hl : Tidy cs l.1 := inPc h
  have hg : Tidy cs g.1 := .iteFst hl (inPc hl)
  have hr : Tidy cs r.1 := .iteFst hg.engineRead hg
  exact .iteFst hr h

theorem Tidy.scalarsAll {i line code f kd} : ∀ {l s}, Tidy cs s → Tidy cs (State.scalarsAll s i line code f kd l).1
  | [], _, h => h
  | _ :: _, _, h => by
    rw [State.scalarsAll]
    exact scalarsAll h.operandFaults.scalarReads

theorem Tidy.stackStart {i code f} (h : Tidy cs s) : Tidy cs (s.stackStart i code f) := by
  unfold State.stackStart
  extract_lets
  split
  · exact h.stackFault
  · exact h.scalarsAll.advanceRun.onStack

theorem Tidy.stackSlot {i e legal f} (h : Tidy cs s) (hf : ∀ t, Tidy cs t → Tidy cs (f t)) : Tidy cs (s.stackSlot i e legal f) := by
  unfold State.stackSlot
  extract_lets t
  have ht : Tidy cs t := h.onStack
  exact .ite (.ite (hf _ ht) ht.illegalStack) h

theorem Tidy.stackOp {i code f legal} (h : Tidy cs s) : Tidy cs (s.stackOp i code f legal) := h.stackSlot fun _ h => h.stackStart

theorem Tidy.beginWord {i} (h : Tidy cs s) : Tidy cs (s.beginWord i) := by
  unfold State.beginWord
  extract_lets _ _ _ t
  have ht : Tidy cs t := h.onStack
  exact .ite h (.ite h.illegalStack.onStack (.ite h.onStack.restall (.ite ht.illegalStack ht)))

/-! The stack operations and instruction fetches -/

theorem execAdd_answers {i f} (h : Tidy cs s) : Answers cs (execAdd i f s) := .next h.stackOp
theorem execSub_answers {i f} (h : Tidy cs s) : Answers cs (execSub i f s) := .next h.stackOp
theorem execMul_answers {i f} (h : Tidy cs s) : Answers cs (execMul i f s) := .next h.stackOp
theorem execFma_answers {i f} (h : Tidy cs s) : Answers cs (execFma i f s) := .next h.stackOp
theorem execAxpby_answers {i f} (h : Tidy cs s) : Answers cs (execAxpby i f s) := .next h.stackOp
theorem execMin_answers {i f} (h : Tidy cs s) : Answers cs (execMin i f s) := .next h.stackOp
theorem execMax_answers {i f} (h : Tidy cs s) : Answers cs (execMax i f s) := .next h.stackOp
theorem execCvt_answers {i f} (h : Tidy cs s) : Answers cs (execCvt i f s) := .next h.stackOp
theorem execQuantMx_answers {i f} (h : Tidy cs s) : Answers cs (execQuantMx i f s) := .next h.stackOp
theorem execDiv_answers {i f} (h : Tidy cs s) : Answers cs (execDiv i f s) := .next h.stackOp
theorem execSqrt_answers {i f} (h : Tidy cs s) : Answers cs (execSqrt i f s) := .next h.stackOp
theorem execRowsum_answers {i f} (h : Tidy cs s) : Answers cs (execRowsum i f s) := .next h.stackOp
theorem execRowmax_answers {i f} (h : Tidy cs s) : Answers cs (execRowmax i f s) := .next h.stackOp
theorem execAccum_answers {i f} (h : Tidy cs s) : Answers cs (execAccum i f s) := .next h.stackOp
theorem execCopy_answers {i f} (h : Tidy cs s) : Answers cs (execCopy i f s) := .next h.stackOp
theorem execGather_answers {i f} (h : Tidy cs s) : Answers cs (execGather i f s) := .next h.stackOp
theorem execStageLocal_answers {i f} (h : Tidy cs s) : Answers cs (execStageLocal i f s) := .next h.stackOp
theorem execStageReduce_answers {i f} (h : Tidy cs s) : Answers cs (execStageReduce i f s) := .next h.stackOp
theorem execAdamw_answers {i f} (h : Tidy cs s) : Answers cs (execAdamw i f s) := .next h.stackOp
theorem execAdam_answers {i f} (h : Tidy cs s) : Answers cs (execAdam i f s) := .next h.stackOp
theorem execSgdm_answers {i f} (h : Tidy cs s) : Answers cs (execSgdm i f s) := .next h.stackOp
theorem execTrustNorm_answers {i f} (h : Tidy cs s) : Answers cs (execTrustNorm i f s) := .next h.stackOp
theorem execTrustApply_answers {i f} (h : Tidy cs s) : Answers cs (execTrustApply i f s) := .next h.stackOp

theorem execStackWait_answers {i group} (h : Tidy cs s) : Answers cs (execStackWait i group s) :=
  .next (h.stackSlot fun _ h => .ite h (.restall (.onStack (.ite h.stackHazard h))))

theorem execStackLoopBegin_answers {i level trip} (h : Tidy cs s) : Answers cs (execStackLoopBegin i level trip s) :=
  .next (h.stackSlot fun _ h => h.onStack)

theorem execStackLoopEnd_answers {i level} (h : Tidy cs s) : Answers cs (execStackLoopEnd i level s) := .next (h.stackSlot fun _ h => h.onStack)
theorem execStackSheafEnd_answers {i} (h : Tidy cs s) : Answers cs (execStackSheafEnd i s) := .next (h.stackSlot fun _ h => h.onStack.finishDigest)

theorem execIllegalStackInstruction_answers {i cause} (h : Tidy cs s) : Answers cs (execIllegalStackInstruction i cause s) := by
  unfold execIllegalStackInstruction
  extract_lets t
  have ht : Tidy cs t := h.onStack.illegalStack
  exact .next (.ite (.ite ht.onStack ht) h)

theorem Tidy.refreshed {i g} (h : Tidy cs s) : Tidy cs (s.refreshed i g) := h.onStack.stackLost
theorem execRefreshDebtIncrement_answers {i pc bg} (h : Tidy cs s) : Answers cs (execRefreshDebtIncrement i pc bg s) := .next h.onStack
theorem execAutonomousRefresh_answers {i} (h : Tidy cs s) : Answers cs (execAutonomousRefresh i s) := .next (.ite h h.onStack)
theorem execPlannedRefresh_answers {i pc bg} (h : Tidy cs s) : Answers cs (execPlannedRefresh i pc bg s) := .next (.ite h.refreshed h)

theorem Tidy.onSeq {u f} (h : Tidy cs s) : Tidy cs (s.onSeq u f) := by
  unfold State.onSeq
  split
  · exact h.onBlock
  · exact h.onStack

theorem execWaitProceed_answers {u} (h : Tidy cs s) : Answers cs (execWaitProceed u s) := by
  unfold execWaitProceed
  split
  · exact .next h
  · split
    · exact .ite (.next h.proceedBlock.restall) (.next h)
    · exact .ite (.next h.onSeq.restall) (.next h)

theorem execInstructionStall_answers {u} (h : Tidy cs s) : Answers cs (execInstructionStall u s) := .ite (.next h.onSeq.restall) (.next h)

theorem Tidy.fetchRead {place off n requester} (h : Tidy cs s) : Tidy cs (s.fetchRead place off n requester).1 :=
  .iteFst h (.iteFst h.stackCheck h.stackHazard.stackFault)

theorem Tidy.putAt {u line bs} (h : Tidy cs s) : Tidy cs (s.putAt u line bs) := by
  unfold State.putAt
  split
  · exact h.poke
  · exact h.onStack

theorem Tidy.putLines {u line bs} (h : Tidy cs s) : Tidy cs (s.putLines u line bs) := h.putAt.putAt

theorem Tidy.fetchLines {u x first n} (h : Tidy cs s) : Tidy cs (s.fetchLines u x first n) := by
  unfold State.fetchLines
  extract_lets
  split
  · exact h
  · exact .ite h h.fetchRead.putLines

theorem Tidy.beginLine {u} (h : Tidy cs s) : Tidy cs (s.beginLine u) := by
  unfold State.beginLine
  split
  · exact h.beginBundle
  · exact h.beginWord

theorem execStreamFetch_answers {u count} (h : Tidy cs s) : Answers cs (execStreamFetch u count s) := by
  unfold execStreamFetch
  extract_lets _ _ _ _ _ _ _ _ t2
  have ht2 : Tidy cs t2 := h.fetchLines.fetchLines.onSeq.restall
  exact .next (.ite ht2.beginLine ht2)

/-! Regions and crossings -/

theorem execMarginMeasure_answers {r code} (h : Tidy cs s) : Answers cs (execMarginMeasure r code s) := by
  unfold execMarginMeasure
  extract_lets t
  have ht : Tidy cs t := h.onRegion
  exact .ite (.next (.ite ht.log ht)) (.next h)

theorem execDroopWarning_answers {r} (h : Tidy cs s) : Answers cs (execDroopWarning r s) :=
  .ite (.next h) (.ite (.next h.onRegion) (.next h.onRegion.log))

theorem execCrossingHold_answers {r held} (h : Tidy cs s) : Answers cs (execCrossingHold r held s) := .ite (.next h.onRegion) (.next h)
theorem execLeadHold_answers {r held} (h : Tidy cs s) : Answers cs (execLeadHold r held s) := .ite (.next h.onRegion) (.next h)
theorem Tidy.badArrival {b g dst} (h : Tidy cs s) : Tidy cs (s.badArrival b g dst) := h.onBlock.blockErr.stepError
theorem Tidy.isolatedArrival {b g dst} (h : Tidy cs s) : Tidy cs (s.isolatedArrival b g dst) := h.onBlock.blockErr.stepError
theorem Tidy.badStackArrival {i g dst} (h : Tidy cs s) : Tidy cs (s.badStackArrival i g dst) := h.onStack.stackErr.hardError
theorem Tidy.turnedAway {b requester} (h : Tidy cs s) : Tidy cs (s.turnedAway b requester) := h.log
theorem Tidy.countBlock {b g requester} (h : Tidy cs s) : Tidy cs (s.countBlock b g requester) := .ite h.turnedAway (.ite h.badArrival h.onBlock)
theorem Tidy.signalBlock {b g requester} (h : Tidy cs s) : Tidy cs (s.signalBlock b g requester) := .ite h.turnedAway (.ite h.badArrival h.onBlock)
theorem Tidy.countStack {i g} (h : Tidy cs s) : Tidy cs (s.countStack i g) := .ite h.badStackArrival h.onStack

theorem Tidy.landEgress {a bs} (h : Tidy cs s) : Tidy cs (s.landEgress a bs) := by
  unfold State.landEgress
  extract_lets u
  have hu : Tidy cs u := h.pokeEgress
  exact .ite hu.onNet hu

theorem Tidy.deliver {t} (h : Tidy cs s) : Tidy cs (s.deliver t) := by
  unfold State.deliver
  split
  · exact .ite h.turnedAway h.laterAs
  · exact h.signalBlock
  · exact h.onLink
  · exact h.landEgress
  · extract_lets _ _ _ _ _ u
    have hu : Tidy cs u := .ite h.moveHazard.stackCheck h.stackHazard.stackFault
    exact .ite (.ite hu hu.token) (.token (.ite hu hu.token))
  · exact .ite h.turnedAway h.laterAs
  · exact .ite h.moveHazard.post.writeCheck h.stackHazard.stackFault

theorem Tidy.release {t} (h : Tidy cs s) : Tidy cs (s.release t) := by
  unfold State.release
  extract_lets s1
  have hs1 : Tidy cs s1 := h.set
  exact .ite hs1.deliver hs1

theorem Tidy.releaseDue {r} (h : Tidy cs s) : Tidy cs (s.releaseDue r) := .foldl h fun _ _ h => h.release

theorem execCrossingRelease_answers {src dst crcOk} (h : Tidy cs s) : Answers cs (execCrossingRelease src dst crcOk s) := by
  unfold execCrossingRelease
  split
  · exact .next h
  · exact .next (.release (.ite h h.onRegion.hardError))

/-! The DDR5 channels and the tier-move engines -/

theorem Tidy.copyMem {src dst n ok into} (h : Tidy cs s) : Tidy cs (s.copyMem src dst n ok into) := .setMem h (wf_copySpan h.mem)
theorem Tidy.ddrUe {c a} (h : Tidy cs s) : Tidy cs (s.ddrUe c a) := h.onChan
theorem Tidy.ddrCe {c n} (h : Tidy cs s) : Tidy cs (s.ddrCe c n) := .ite h h.onChan.log

theorem Tidy.ddrLost {c units} (h : Tidy cs s) : Tidy cs (s.ddrLost c units) := by
  unfold State.ddrLost
  split
  · exact h
  · exact .log (.foldl h.ddrUe fun _ _ h => h.ddrUe)

theorem Tidy.ddrCheck {a n} (h : Tidy cs s) : Tidy cs (s.ddrCheck a n) := h.ddrCe.ddrLost
theorem Tidy.memLost {a units} (h : Tidy cs s) : Tidy cs (s.memLost a units) := .ite h.stackLost (.ite h.ddrLost (.ite h.sramLost h.stackLost))
theorem Tidy.memCheck {a n} (h : Tidy cs s) : Tidy cs (s.memCheck a n) := .ite h (.ite h.stackCheck (.ite h.ddrCheck (.ite h.sramCheck h.stackCheck)))
theorem Tidy.memChecks {a n} (h : Tidy cs s) : Tidy cs (s.memChecks a n) := .foldl h fun _ _ h => h.memCheck

theorem execTierMoveStart_answers {c} (h : Tidy cs s) : Answers cs (execTierMoveStart c s) := by
  unfold execTierMoveStart
  extract_lets
  split
  · exact .ite (.next h) (.next h.onChan)
  · exact .next h

theorem Tidy.moveData {m} (h : Tidy cs s) : Tidy cs (s.moveData m) := .ite h.copyMem (.copyMem (.foldl h fun _ _ h => h.retireWrites.stackCheck))

theorem Tidy.moveCounts {m} (h : Tidy cs s) : Tidy cs (s.moveCounts m) := by
  unfold State.moveCounts
  split
  · exact h.countStack
  · split
    · exact h.countBlock
    · exact h

theorem Tidy.moveErrors {c m ue lost corrected} (h : Tidy cs s) : Tidy cs (s.moveErrors c m ue lost corrected) := by
  unfold State.moveErrors
  extract_lets t
  have ht : Tidy cs t := h.ddrCe
  exact .ite (.hardError (.onChan (.foldl ht fun _ _ h => h.ddrUe))) ht

theorem Tidy.sourceLost {m} (h : Tidy cs s) : Tidy cs (s.sourceLost m) := by
  unfold State.sourceLost
  split
  · exact h
  · exact h.stackLost

theorem execTierMoveComplete_answers {c ue} (h : Tidy cs s) : Answers cs (execTierMoveComplete c ue s) := by
  unfold execTierMoveComplete
  extract_lets
  split
  · exact .next h
  · extract_lets _ t
    have ht : Tidy cs t := h.moveData.moveErrors
    exact .ite (.next h) (.next (.moveCounts (.onChan (.ite ht.sourceLost ht))))

theorem execBackgroundMove_answers {c b} (h : Tidy cs s) : Answers cs (execBackgroundMove c b s) := by
  unfold execBackgroundMove
  extract_lets _ t
  have ht : Tidy cs t := h.onChan
  split
  · exact .ite (.next h.onChan) (.next h)
  · exact .ite (.next h.onChan) (.next h)
  · exact .ite (.ite (.next ht.ddrUe.log) (.next ht)) (.next h)

end Sys2Proof.Machine
end

/-! SUPPORT. What every command keeps: the rota, the links, recovery and network time. -/

section
namespace Sys2Proof.Machine

open Sys2Proof

variable {cs : List Instr} {s t : State}

/-! The latched consensus -/

theorem Tidy.joinIndex {f} (h : Tidy cs s) : Tidy cs (s.joinIndex f) := .ite h.set h

theorem Tidy.readSync {l f} (h : Tidy cs s) : Tidy cs (s.readSync l f) := by
  unfold State.readSync
  extract_lets t
  have ht : Tidy cs t := h.joinIndex
  exact .ite ht.onLink ht

/-! The plan of a job -/

theorem Tidy.installTables {gen form positions} (h : Tidy cs s) : Tidy cs (s.installTables gen form positions) := h.set.set

/-! The time tree -/

theorem Tidy.takeParent (h : Tidy cs s) : Tidy cs s.takeParent := by
  unfold State.takeParent
  extract_lets
  split
  · exact h.set
  · exact h.set

theorem Tidy.leaveParent {l} (h : Tidy cs s) : Tidy cs (s.leaveParent l) := .ite h.takeParent h

/-! The rota -/

theorem Tidy.onPart {n f} (h : Tidy cs s) : Tidy cs (s.onPart n f) := h.onNet.onRegion
theorem Tidy.entryDone {n} (h : Tidy cs s) : Tidy cs (s.entryDone n) := h.onNet
theorem Tidy.darkSkip {n i} (h : Tidy cs s) : Tidy cs (s.darkSkip n i) := h.onNet.stepError
theorem Tidy.latch {n l d} (h : Tidy cs s) : Tidy cs (s.latch n l d) := h.onLink.token

theorem Tidy.egressNow {n} (h : Tidy cs s) : Tidy cs (s.egressNow n) := by
  unfold State.egressNow
  refine .foldl h fun t x h => ?_
  split
  · exact h.landEgress
  · exact h

theorem Tidy.egressHazard {n e} (h : Tidy cs s) : Tidy cs (s.egressHazard n e) := .ite h.netHazard h

theorem Tidy.sendEntry {n e phys v read} (h : Tidy cs s) (hread : ∀ t, Tidy cs t → Tidy cs (read t)) : Tidy cs (s.sendEntry n e phys v read) :=
  .ite (.entryDone (hread _ h.onLink)) (.ite h.onPart (.entryDone (hread _ h.latch)))

theorem Tidy.windowStalls {n} (h : Tidy cs s) : Tidy cs (s.windowStalls n) := h.onPart

theorem Tidy.entryGo {n kind f e} (h : Tidy cs s) (hf : ∀ t x1 x2, Tidy cs t → Tidy cs (f t x1 x2)) : Tidy cs (State.entry.go n kind f s e) := by
  unfold State.entry.go
  extract_lets
  split
  · exact h
  · exact .ite h.entryDone (.ite (hf _ _ _ h) h.darkSkip.entryDone)

theorem Tidy.entry {n word kind f} (h : Tidy cs s) (hf : ∀ t x1 x2, Tidy cs t → Tidy cs (f t x1 x2)) : Tidy cs (s.entry n word kind f) := by
  unfold State.entry
  extract_lets
  split
  · split
    · exact h.windowStalls
    · split
      · exact h.onNet.entryDone.hardError
      · exact h.entryGo fun _ _ _ h => hf _ _ _ h
      · extract_lets t1
        have ht1 : Tidy cs t1 := h.entryGo fun _ _ _ h => hf _ _ _ h
        exact .ite ht1 ht1.onNet
  · exact h

theorem execSend_answers {n entry} (h : Tidy cs s) : Answers cs (execSend n entry s) :=
  .next (h.entry fun _ _ _ h => h.egressHazard.sendEntry fun _ h => h)

theorem execCut_answers {n entry} (h : Tidy cs s) : Answers cs (execCut n entry s) := by
  unfold execCut
  refine .next (.entry h fun t x x h => ?_)
  extract_lets
  split
  · exact h.onPart
  · exact h.sendEntry fun _ h => h.set

theorem execStageFwd_answers {n entry} (h : Tidy cs s) : Answers cs (execStageFwd n entry s) :=
  .next (h.entry fun _ _ _ h => h.egressHazard.sendEntry fun _ h => h.onNet)

theorem execMaint_answers {n entry} (h : Tidy cs s) : Answers cs (execMaint n entry s) := .next (h.entry fun _ _ _ h => h.onLink.entryDone)
theorem execWindowStall_answers {n} (h : Tidy cs s) : Answers cs (execWindowStall n s) := .ite (.next h.windowStalls) (.next h)

theorem Tidy.fetchPart {p pattern first n} (h : Tidy cs s) : Tidy cs (s.fetchPart p pattern first n).1 := by
  unfold State.fetchPart
  split
  · exact h
  · exact .iteFst h h.fetchRead

theorem execRotaFetch_answers {n count} (h : Tidy cs s) : Answers cs (execRotaFetch n count s) := .next h.fetchPart.fetchPart.onPart
theorem execForwardHold_answers {n entry} (h : Tidy cs s) : Answers cs (execForwardHold n entry s) := .ite (.next h.onPart) (.next h)
theorem execRotaHold_answers {n link} (h : Tidy cs s) : Answers cs (execRotaHold n link s) := .ite (.next h.onPart) (.next h)
theorem execRotaHoldEnd_answers {n} (h : Tidy cs s) : Answers cs (execRotaHoldEnd n s) := .ite (.next h.onPart) (.next h)
theorem Tidy.sendTable {dest t} (h : Tidy cs s) : Tidy cs (s.sendTable dest t) := h.sendSeries

theorem execTableAcknowledgement_answers {src gen} (h : Tidy cs s) : Answers cs (execTableAcknowledgement src gen s) := by
  unfold execTableAcknowledgement
  extract_lets _ _ u
  have hu : Tidy cs u := h.set
  split
  · exact .ite (.ite (.next hu.set.sendAll) (.ite (.next hu.send) (.next hu))) (.next h)
  · exact .next h

theorem execTableCommit_answers {gen} (h : Tidy cs s) : Answers cs (execTableCommit gen s) := by
  unfold execTableCommit
  extract_lets
  split
  · exact .ite (.next h.set) (.next h.send)
  · exact .ite (.next h) (.next h.send)

theorem execTableResendRequest_answers {src gen} (h : Tidy cs s) : Answers cs (execTableResendRequest src gen s) := by
  unfold execTableResendRequest
  split
  · exact .ite (.next h.sendTable) (.next h)
  · exact .next h

theorem Tidy.startGrace {l} (h : Tidy cs s) : Tidy cs (s.startGrace l) := .ite h.onLink h
theorem Tidy.graceFollows (h : Tidy cs s) : Tidy cs s.graceFollows := .foldl h fun _ _ h => .ite (.ite h.onLink h) (.ite h.startGrace h)
theorem Tidy.setTables {gen form positions} (h : Tidy cs s) : Tidy cs (s.setTables gen form positions) := h.installTables.graceFollows

theorem Tidy.stageLocalTable (h : Tidy cs s) : Tidy cs s.stageLocalTable := by
  unfold State.stageLocalTable
  extract_lets
  split
  · exact h.set
  · exact h.set

theorem Tidy.tablesChanged (h : Tidy cs s) : Tidy cs s.tablesChanged := .ite h.stageLocalTable (.ite h.setTables.set h)

/-! The links -/

theorem Tidy.tellLink {l event} (h : Tidy cs s) : Tidy cs (s.tellLink l event) := h.sendKept
theorem Tidy.dropVia {l} (h : Tidy cs s) : Tidy cs (s.dropVia l) := .foldl h.onLink fun _ _ h => .ite h.onLink h
theorem Tidy.startFast {l} (h : Tidy cs s) : Tidy cs (s.startFast l) := h.dropVia.startGrace.onLink.leaveParent

theorem Tidy.startFull {l} (h : Tidy cs s) : Tidy cs (s.startFull l) := by
  unfold State.startFull
  extract_lets t
  have ht : Tidy cs t := h.dropVia
  exact .leaveParent (.onLink (.ite ht.startGrace ht))

theorem Tidy.linkDown {l light} (h : Tidy cs s) : Tidy cs (s.linkDown l light) := .ite h.onLink.startFast.log h

theorem execLinkDown_answers {link cause} (h : Tidy cs s) : Answers cs (execLinkDown link cause s) := by
  unfold execLinkDown
  extract_lets
  split
  · exact .next (.linkDown (.ite h.onLink h))
  · exact .next (.linkDown (.ite h.onLink h))
  · exact .next h.linkDown

theorem Tidy.laneFailed {l lane lightLost} (h : Tidy cs s) : Tidy cs (s.laneFailed l lane lightLost) := by
  unfold State.laneFailed
  extract_lets
  split
  · exact .ite h.onLink.onLink.startFast.log h.onLink.linkDown
  · exact h
  · exact h
  · exact h
  · exact h.onLink

theorem execLaneFailure_answers {link lane lightLost} (h : Tidy cs s) : Answers cs (execLaneFailure link lane lightLost s) := .next h.laneFailed

theorem execMaintenanceRetrain_answers {link} (h : Tidy cs s) : Answers cs (execMaintenanceRetrain link s) :=
  .ite (.next h.onLink.startFast) (.next h)

theorem execLightDetected_answers {link} (h : Tidy cs s) : Answers cs (execLightDetected link s) := .ite (.next h.onLink.startFull) (.next h)
theorem execFailedLinkRetry_answers {link} (h : Tidy cs s) : Answers cs (execFailedLinkRetry link s) := .ite (.next h.onLink.startFull) (.next h)
theorem execFecLock_answers {link} (h : Tidy cs s) : Answers cs (execFecLock link s) := .ite (.next h.onLink) (.next h)
theorem execTrainingTimeout_answers {link} (h : Tidy cs s) : Answers cs (execTrainingTimeout link s) := .ite (.next h.startFull) (.next h)
theorem execFastRetrainTimeout_answers {link} (h : Tidy cs s) : Answers cs (execFastRetrainTimeout link s) := .ite (.next h.startFull) (.next h)
theorem execLightLossTimeout_answers {link} (h : Tidy cs s) : Answers cs (execLightLossTimeout link s) := .ite (.next h.onLink.set) (.next h)
theorem execProbe_answers {link lit} (h : Tidy cs s) : Answers cs (execProbe link lit s) := .ite (.next h.onLink) (.next h)
theorem Tidy.linkLost {l event} (h : Tidy cs s) : Tidy cs (s.linkLost l event) := .tellLink (.ite h.abortFor h)

theorem Tidy.declareLink {l} (h : Tidy cs s) : Tidy cs (s.declareLink l) :=
  .tablesChanged (.linkLost (.log (.foldl h.onLink fun _ _ h => .ite h.onPart h)))

theorem execGraceExpired_answers {link} (h : Tidy cs s) : Answers cs (execGraceExpired link s) := .ite (.next h.declareLink) (.next h)
theorem Tidy.replayLimit {l} (h : Tidy cs s) : Tidy cs (s.replayLimit l) := h.onLink.linkDown
theorem Tidy.startReplay {l hdr} (h : Tidy cs s) : Tidy cs (s.startReplay l hdr) := .ite h.replayLimit h.onLink

theorem Tidy.nakFor {l n} (h : Tidy cs s) : Tidy cs (s.nakFor l n) := by
  unfold State.nakFor
  split
  · exact h
  · exact h.startReplay

theorem execReplayTimeout_answers {link} (h : Tidy cs s) : Answers cs (execReplayTimeout link s) := by
  unfold execReplayTimeout
  split
  · split
    · exact .next h
    · exact .next (.ite h h.startReplay)
  · exact .next h

theorem Tidy.header {l hdr isData} (h : Tidy cs s) : Tidy cs (s.header l hdr isData) := by
  unfold State.header
  extract_lets _ t1
  have ht1 : Tidy cs t1 := .onLink (.ite h.readSync h)
  exact .ite (.ite ht1.nakFor ht1) h

theorem Tidy.takeData {l seq d} (h : Tidy cs s) : Tidy cs (s.takeData l seq d) := .ite (.ite h.onLink h.onLink) (.ite h.onLink h.onLink.startFast)

theorem execData_answers {link hdr dgrp dst op payload} (h : Tidy cs s) : Answers cs (execData link hdr dgrp dst op payload s) := by
  unfold execData
  extract_lets t
  have ht : Tidy cs t := h.header
  exact .ite (.next (.ite ht.takeData ht)) (.next h)

theorem execIdle_answers {link hdr} (h : Tidy cs s) : Answers cs (execIdle link hdr s) := .next h.header

theorem execNakrec_answers {link hdr first highest cause} (h : Tidy cs s) : Answers cs (execNakrec link hdr first highest cause s) := by
  unfold execNakrec
  extract_lets t
  have ht : Tidy cs t := h.header
  exact .next (.ite ht.nakFor ht)

theorem execReservedTypePacket_answers {link hdr} (h : Tidy cs s) : Answers cs (execReservedTypePacket link hdr s) :=
  .ite (.next h.header.onLink) (.next h)

theorem execPacketCrcFailure_answers {packet} (h : Tidy cs s) : Answers cs (execPacketCrcFailure packet s) := .ite (.next h.onLink.logOpen) (.next h)

theorem Tidy.doRequest {l r} (h : Tidy cs s) : Tidy cs (s.doRequest l r) := by
  unfold State.doRequest
  extract_lets
  split
  · exact h.startFull.onLink
  · extract_lets t
    have ht : Tidy cs t := h.onLink
    exact .ite (.ite ht.startFast ht) h.linkDown
  · exact .ite h.startFast h
  · exact h

theorem execTrain_answers {link hdr req peerKey peerLink} (h : Tidy cs s) : Answers cs (execTrain link hdr req peerKey peerLink s) := by
  unfold execTrain
  extract_lets s1
  have hs1 : Tidy cs s1 := h.header
  split
  · exact .next hs1.onLink
  · exact .next hs1.laneFailed
  · split
    · exact .next hs1.doRequest
    · split
      · split
        · exact .next (.ite hs1.doRequest hs1)
        · exact .next (.onLink (.ite hs1.doRequest hs1))
      · exact .next hs1

theorem Tidy.freePlace {l} (h : Tidy cs s) : Tidy cs (s.freePlace l) := h.onLink
theorem Tidy.dropBypass {l} (h : Tidy cs s) : Tidy cs (s.dropBypass l) := h.onLink

theorem Tidy.deliverMsg {l m} (h : Tidy cs s) : Tidy cs (s.deliverMsg l m) := by
  unfold State.deliverMsg
  extract_lets _ _ _ _ t _ t1
  have ht : Tidy cs t := h.freePlace
  have ht1 : Tidy cs t1 := ht.set
  split
  · split
    · exact ht1
    · exact .ite ht1.enqueue ht1.queueFor
  · exact ht.set

theorem Tidy.takeBypass {l m} (h : Tidy cs s) : Tidy cs (s.takeBypass l m) := by
  unfold State.takeBypass
  extract_lets _ t t1
  have ht : Tidy cs t := h.deliverMsg
  have ht1 : Tidy cs t1 := .ite h.declareLink h
  split
  · exact h.freePlace.dropBypass
  · split
    · exact .ite ht.declareLink ht
    · split
      · exact ht1.freePlace.dropBypass
      · split
        · exact ht1.freePlace.dropBypass
        · exact ht1.onLink

theorem execBypass_answers {link hdr msgs} (h : Tidy cs s) : Answers cs (execBypass link hdr msgs s) :=
  .ite (.next (.foldl h.header.onLink fun _ _ h => h.takeBypass)) (.next h)

theorem execBypassForwardTimeout_answers {link} (h : Tidy cs s) : Answers cs (execBypassForwardTimeout link s) := by
  unfold execBypassForwardTimeout
  extract_lets
  split
  · exact .next h
  · extract_lets t
    have ht : Tidy cs t := h.onLink.dropBypass
    split
    · exact .next h
    · refine .next ?_
      split
      · exact ht.freePlace
      · exact ht

theorem Tidy.transmit {l type seq d msgs} (h : Tidy cs s) : Tidy cs (s.transmit l type seq d msgs) := h.onLink
theorem Tidy.transmitOther {l type payload msgs} (h : Tidy cs s) : Tidy cs (s.transmitOther l type payload msgs) := h.transmit
theorem Tidy.transmitRest {l} (h : Tidy cs s) : Tidy cs (s.transmitRest l) := .ite h.transmitOther h.transmitOther

theorem Tidy.transmitHeld {l hdr} (h : Tidy cs s) : Tidy cs (s.transmitHeld l hdr) := by
  unfold State.transmitHeld
  extract_lets _ _ t2
  have ht2 : Tidy cs t2 := h.transmit.onLink.onLink
  exact .ite ht2.onNet ht2

theorem Tidy.transmitReplay {l hdr} (h : Tidy cs s) : Tidy cs (s.transmitReplay l hdr) := .ite h.replayLimit h.transmitHeld

theorem Tidy.transmitBypass {l} (h : Tidy cs s) : Tidy cs (s.transmitBypass l) := by
  unfold State.transmitBypass
  extract_lets _ _ _ t1
  have ht1 : Tidy cs t1 := by
    refine .foldl h.transmitOther fun t x h => ?_
    split
    · exact h.freePlace
    · exact h
  exact ht1.onLink

theorem Tidy.window {l} (h : Tidy cs s) : Tidy cs (s.window l) := by
  unfold State.window
  extract_lets
  split
  · exact .ite h.transmitBypass.onLink h.transmitReplay.onLink
  · exact .onLink (.ite h.transmitBypass h.transmitRest)

theorem Tidy.scheduled {l} (h : Tidy cs s) : Tidy cs (s.scheduled l) := by
  unfold State.scheduled
  extract_lets _ rest
  have hrest : Tidy cs rest := by
    unfold rest
    split
    · exact h.transmitReplay
    · exact h.transmitRest
  split
  · exact .ite (.ite h.onLink.window hrest) (.ite h.transmitHeld hrest)
  · exact .ite h.transmitHeld hrest
  · exact .ite h.onLink.window hrest
  · exact hrest

theorem Tidy.backToBack {l} (h : Tidy cs s) : Tidy cs (s.backToBack l) := by
  unfold State.backToBack
  extract_lets _ rest
  have hrest : Tidy cs rest := .ite h.transmitRest h.transmitBypass
  split
  · exact h.transmitReplay
  · split
    · exact .ite h.transmitHeld hrest
    · exact hrest

theorem Tidy.gather {l} (h : Tidy cs s) : Tidy cs (s.gather l) := .foldl h fun _ _ h => .ite h (.ite h h.onLink.onLink)

theorem Tidy.sendPosition {l maintenance} (h : Tidy cs s) : Tidy cs (s.sendPosition l maintenance) := by
  unfold State.sendPosition
  extract_lets _ train
  have htrain : Tidy cs train := h.transmitOther
  split
  · exact h
  · exact .ite htrain h
  · exact .ite htrain h
  · exact htrain
  · exact htrain
  · exact htrain
  · exact .ite htrain h.transmitBypass
  · exact .ite h.transmitRest h.transmitBypass
  · exact .ite (.ite h.window h.scheduled) h.backToBack

theorem Tidy.settleFatal (h : Tidy cs s) : Tidy cs s.settleFatal := .ite (.leaveParent (.foldl h fun _ _ h => h.onLink)) h

theorem execPacketPosition_answers {link maintenance} (h : Tidy cs s) : Answers cs (execPacketPosition link maintenance s) :=
  .next (.settleFatal (.sendPosition (.ite h.gather h)))

/-! Discovery -/

theorem Tidy.sendIdentity {l} (h : Tidy cs s) : Tidy cs (s.sendIdentity l) := h.sendLink.onLink
theorem Tidy.goUp {l} (h : Tidy cs s) : Tidy cs (s.goUp l) := h.onLink

theorem Tidy.latencyOver {l} (h : Tidy cs s) : Tidy cs (s.latencyOver l) := by
  unfold State.latencyOver
  extract_lets t
  have ht : Tidy cs t := h.onLink
  exact .ite ht.log.linkLost ht

theorem Tidy.noteSpare {l good} (h : Tidy cs s) : Tidy cs (s.noteSpare l good) := by
  unfold State.noteSpare
  split
  · exact h
  · exact .foldl h fun _ _ h => h.onLink

theorem Tidy.classify {l} (h : Tidy cs s) : Tidy cs (s.classify l) := h.onLink

theorem execAlignComplete_answers {link latency peerNext peerBase lanes} (h : Tidy cs s) : Answers cs (execAlignComplete link latency peerNext peerBase lanes s) := by
  unfold execAlignComplete
  extract_lets _ t _ t2 t3
  have ht : Tidy cs t := h.onLink
  have ht2 : Tidy cs t2 := .classify (.ite ht.noteSpare ht)
  have ht3 : Tidy cs t3 := .ite ht2.latencyOver ht2
  exact .ite (.next (.ite ht3.onLink.sendIdentity ht3.goUp)) (.next h)

theorem execIdentityRepeat_answers {link} (h : Tidy cs s) : Answers cs (execIdentityRepeat link s) := .ite (.next h.enqueue) (.next h)

theorem Tidy.discoveryBad {l goal} (h : Tidy cs s) : Tidy cs (s.discoveryBad l goal) := by
  unfold State.discoveryBad
  extract_lets _ t1
  have ht1 : Tidy cs t1 := h.onLink.log.platform
  exact .ite ht1.tablesChanged ht1

theorem Tidy.exchangeLinks {a b} (h : Tidy cs s) : Tidy cs (s.exchangeLinks a b) := .ite h h.set.tablesChanged

theorem Tidy.remapTo {l} (h : Tidy cs s) : Tidy cs (s.remapTo l) := by
  unfold State.remapTo
  split
  · exact h
  · exact h.exchangeLinks

theorem Tidy.unmap {l} (h : Tidy cs s) : Tidy cs (s.unmap l) := h.exchangeLinks

theorem Tidy.settleDiscovery {l} (h : Tidy cs s) : Tidy cs (s.settleDiscovery l) := by
  unfold State.settleDiscovery
  extract_lets _ _ _ _ _ t1
  have ht1 : Tidy cs t1 := .goUp (.ite h.remapTo (.ite h.unmap h))
  exact .ite h (.ite h.discoveryBad (.ite h (.ite (.ite ht1.tellLink ht1) h.discoveryBad)))

theorem Tidy.evaluate {l id} (h : Tidy cs s) : Tidy cs (s.evaluate l id) := h.onLink.answerLink.settleDiscovery
theorem Tidy.rediscover {l} (h : Tidy cs s) : Tidy cs (s.rediscover l) := h.startGrace.onLink.leaveParent.sendIdentity

theorem execIdentity_answers {link id} (h : Tidy cs s) : Answers cs (execIdentity link id s) := by
  unfold execIdentity
  split
  · exact .next h.evaluate
  · exact .next h.rediscover.evaluate
  · exact .next h

theorem execIdentityResult_answers {link code} (h : Tidy cs s) : Answers cs (execIdentityResult link code s) :=
  .ite (.next h.onLink.settleDiscovery) (.next h)

theorem execLinkMissingTimeout_answers {link} (h : Tidy cs s) : Answers cs (execLinkMissingTimeout link s) := .ite (.next h.onLink.platform) (.next h)
theorem Tidy.leaveDark {l} (h : Tidy cs s) : Tidy cs (s.leaveDark l) := .ite h.onLink h

theorem Tidy.renewLink {newKey l} (h : Tidy cs s) : Tidy cs (s.renewLink newKey l) := by
  unfold State.renewLink
  extract_lets _ t
  have ht : Tidy cs t := h.onLink
  split
  · exact .ite h (.ite h.leaveDark h.startFull)
  · split
    · exact h.onLink.leaveParent
    · split
      · exact ht.leaveDark
      · exact ht.onLink.startFull
      · split
        · exact ht.startFull
        · split
          · exact ht.evaluate
          · exact ht
      · exact ht
      · exact ht
      · exact .ite ht.startFull ht.onLink.startFast
      · exact .ite ht.startFull ht.onLink

theorem Tidy.renewLinks {newKey} (h : Tidy cs s) : Tidy cs (s.renewLinks newKey) := .foldl h fun _ _ h => h.renewLink

/-! Arrivals -/

theorem Tidy.strayArrival {l d} (h : Tidy cs s) : Tidy cs (s.strayArrival l d) := h.stepError
theorem Tidy.landBlock {l b d} (h : Tidy cs s) : Tidy cs (s.landBlock l b d) := .ite h.isolatedArrival (.ite h.badArrival h.onBlock)
theorem Tidy.landStaging {l i d} (h : Tidy cs s) : Tidy cs (s.landStaging l i d) := .ite h.badStackArrival h.noteStaging.onStack
theorem Tidy.landForward {l d} (h : Tidy cs s) : Tidy cs (s.landForward l d) := .ite h.strayArrival h.set

theorem Tidy.storeForward {a} (h : Tidy cs s) : Tidy cs (s.storeForward a) := by
  unfold State.storeForward
  extract_lets
  split
  · exact h.onNet.stepError
  · exact .foldl h.set fun _ _ h => .ite h.onPart h

theorem Tidy.settleForward (h : Tidy cs s) : Tidy cs s.settleForward := .foldl h.set fun _ _ h => h.storeForward

theorem Tidy.land {l d} (h : Tidy cs s) : Tidy cs (s.land l d) := by
  unfold State.land
  extract_lets
  split
  · exact .ite h.landStaging h.strayArrival
  · exact h.landForward
  · split
    · exact h.strayArrival
    · exact .ite h.strayArrival (.ite h.landBlock h.badArrival)

theorem execVectorLanding_answers {link dgrp dst op payload} (h : Tidy cs s) : Answers cs (execVectorLanding link dgrp dst op payload s) :=
  .ite (.next h.onLink.land) (.next h)

theorem execRelayHoldRequest_answers {src isAbort} (h : Tidy cs s) : Answers cs (execRelayHoldRequest src isAbort s) :=
  .ite (.ite (.next h.abortFor) (.next h.set)) (.next h)

theorem Tidy.relayFails (h : Tidy cs s) : Tidy cs s.relayFails := h.sendKept.set.settleFatal
theorem execRelayFatalFault_answers (h : Tidy cs s) : Answers cs (execRelayFatalFault s) := .next (.ite h.relayFails h)

/-! Recovery -/

theorem Tidy.ack {src msgId} (h : Tidy cs s) : Tidy cs (s.ack src msgId) := h.answerTo
theorem Tidy.logFailed {k} (h : Tidy cs s) : Tidy cs (s.logFailed k) := h.logOpen

theorem Tidy.declareFailed {k} (h : Tidy cs s) : Tidy cs (s.declareFailed k) :=
  .ite (.ite h h.set.platform.logFailed) (.ite h h.set.platform.logFailed)

theorem Tidy.declareDue (h : Tidy cs s) : Tidy cs s.declareDue := .ite (.set (.foldl h fun _ _ h => h.declareFailed)) h
theorem Tidy.declareByLink {r} (h : Tidy cs s) : Tidy cs (s.declareByLink r) := .ite h h.declareFailed
theorem Tidy.attributeLinks (h : Tidy cs s) : Tidy cs s.attributeLinks := .ite (.foldl h fun _ _ h => h.declareByLink) h
theorem Tidy.sendVerdict {v k} (h : Tidy cs s) : Tidy cs (s.sendVerdict v k) := h.sendKept

theorem Tidy.vote (h : Tidy cs s) : Tidy cs s.vote := by
  unfold State.vote
  extract_lets _ _ _ _ t1
  have ht1 : Tidy cs t1 := .set (.foldl h fun _ _ h => h.sendVerdict)
  exact .ite (.ite ht1.set ht1) h

theorem execLinkEvent_answers {src phys event peer step logical msgId} (h : Tidy cs s) : Answers cs (execLinkEvent src phys event peer step logical msgId s) := by
  unfold execLinkEvent
  extract_lets _ _ _ _ t
  have ht : Tidy cs t := h.set
  exact .ite (.next (.ack (.vote (.set (.ite ht.declareFailed ht))))) (.next h)

theorem execFailing_answers {src cause seq msgId} (h : Tidy cs s) : Answers cs (execFailing src cause seq msgId s) :=
  .ite (.next h) (.ite (.next h.set.ack) (.next h.declareFailed.vote.ack))

theorem Tidy.takeRemoval {key} (h : Tidy cs s) : Tidy cs (s.takeRemoval key) := .set (.ite h.declareFailed h.set)
theorem execRemoval_answers {key msgId} (h : Tidy cs s) : Answers cs (execRemoval key msgId s) := .ite (.next h.takeRemoval.vote.ack) (.next h)
theorem Tidy.servedRemovals (h : Tidy cs s) : Tidy cs s.servedRemovals := .foldl h.set fun _ _ h => h.takeRemoval

theorem execRecoveryDone_answers {src step gen repairs refill msgId} (h : Tidy cs s) : Answers cs (execRecoveryDone src step gen repairs refill msgId s) :=
  .ite (.next h.set.ack) (.next h)

theorem execRecoveryTimeout_answers (h : Tidy cs s) : Answers cs (execRecoveryTimeout s) := .ite (.next h.set.log) (.next h)
theorem Tidy.sendRefill {dests gen l} (h : Tidy cs s) : Tidy cs (s.sendRefill dests gen l) := .foldl h fun _ _ h => h.sendAll

theorem Tidy.offerUpdate (h : Tidy cs s) : Tidy cs s.offerUpdate :=
  .ite h.set (.ite h.set.log (.ite h.set.log (.sendRefill (.foldl h.set.set fun _ _ h => h.sendTable))))

theorem execRefillOrder_answers {step gen replicas} (h : Tidy cs s) : Answers cs (execRefillOrder step gen replicas s) := .next h.set
theorem Tidy.applyExclude {keys} (h : Tidy cs s) : Tidy cs (s.applyExclude keys) := .foldl h.set fun _ _ h => h.log
theorem Tidy.sendExclude {dests keys} (h : Tidy cs s) : Tidy cs (s.sendExclude dests keys) := .foldl h fun _ _ h => h.sendAll
theorem execExclude_answers {step keys} (h : Tidy cs s) : Answers cs (execExclude step keys s) := .next h.applyExclude.vote

theorem execHeldTickLimit_answers {missing} (h : Tidy cs s) : Answers cs (execHeldTickLimit missing s) :=
  .ite (.next h) (.ite (.next h.sendExclude.applyExclude.vote) (.next h.log.abortFor))

theorem Tidy.resend {u} (h : Tidy cs s) : Tidy cs (s.resend u) := h.sendWith
theorem Tidy.resendMoved (h : Tidy cs s) : Tidy cs s.resendMoved := .foldl h fun _ _ h => h.resend
theorem Tidy.tellNext {x switchStep} (h : Tidy cs s) : Tidy cs (s.tellNext x switchStep) := .ite h h.send

theorem Tidy.follow {k} (h : Tidy cs s) : Tidy cs (s.follow k) := by
  unfold State.follow
  extract_lets _ _ t t1
  have ht : Tidy cs t := h.set
  have ht1 : Tidy cs t1 := by
    unfold t1
    split
    · exact ht.tellNext
    · exact ht
  exact .ite h ht1.log

theorem execCoordBeatSend_answers (h : Tidy cs s) : Answers cs (execCoordBeatSend s) := .ite (.next h.set.sendAll) (.next h)
theorem Tidy.joinStep {step} (h : Tidy cs s) : Tidy cs (s.joinStep step) := .ite h.set h

theorem execCoordBeat_answers {src number step gen} (h : Tidy cs s) : Answers cs (execCoordBeat src number step gen s) := by
  unfold execCoordBeat
  extract_lets _ _ t
  have ht : Tidy cs t := h.follow
  exact .ite (.next (.joinStep (.set (.ite ht.resendMoved ht)))) (.next h)

theorem execCoordBeatTimeout_answers (h : Tidy cs s) : Answers cs (execCoordBeatTimeout s) := by
  unfold execCoordBeatTimeout
  extract_lets
  split
  · exact .next h
  · split
    · exact .next h
    · extract_lets t
      have ht : Tidy cs t := h.follow
      exact .next (.ite ht.resendMoved.declareFailed.vote ht)

theorem execAssayAck_answers {msgId} (h : Tidy cs s) : Answers cs (execAssayAck msgId s) := .next h.set
theorem execMessageRetry_answers (h : Tidy cs s) : Answers cs (execMessageRetry s) := .next (.foldl h fun _ _ h => h.resend)
theorem execJoinRetry_answers (h : Tidy cs s) : Answers cs (execJoinRetry s) := .next (.foldl h fun _ _ h => h.resend)

theorem execJoin_answers {key planHash mapHash start msgId} (h : Tidy cs s) : Answers cs (execJoin key planHash mapHash start msgId s) := by
  unfold execJoin
  extract_lets _ _ _ _ t
  have ht : Tidy cs t := h.answerTo
  split
  · exact .next h
  · split
    · exact .next h.queueFor
    · exact .ite (.next ht.set.send.sendTable) (.next ht)

theorem execMgmt_answers {link body} (h : Tidy cs s) : Answers cs (execMgmt link body s) := .next h.set
theorem execMgmtSend_answers (h : Tidy cs s) : Answers cs (execMgmtSend s) := .next (.foldl h fun _ _ h => h.sendLink)

/-! The assay -/

theorem Tidy.markSuspect {causeSeq} (h : Tidy cs s) : Tidy cs (s.markSuspect causeSeq) := by
  unfold State.markSuspect
  extract_lets _ _ _ t1
  have ht1 : Tidy cs t1 := h.set.log
  exact .ite ht1 (.ite ht1.platform ht1.sendKept)

theorem execAssayParam_answers {src step replica digest msgId} (h : Tidy cs s) : Answers cs (execAssayParam src step replica digest msgId s) := by
  unfold execAssayParam
  extract_lets _ _ t
  have ht : Tidy cs t := .ite h h.set
  exact .ite (.next (.ack (.ite ht ht.vote))) (.next h)

theorem execAssayVerdict_answers {step verdict minority digest src msgId} (h : Tidy cs s) : Answers cs (execAssayVerdict step verdict minority digest src msgId s) := by
  unfold execAssayVerdict
  extract_lets t _ u _ t1 _ t2
  have ht : Tidy cs t := h.ack
  have hu : Tidy cs u := ht.set
  have ht1 : Tidy cs t1 := hu.set
  have ht2 : Tidy cs t2 := ht1.stepError
  exact .ite (.next hu) (.ite (.next ht) (.ite (.next (.ite ht2.markSuspect ht2)) (.ite (.next ht1.stepError.set) (.next ht1))))

theorem Tidy.sendContrib {d} (h : Tidy cs s) : Tidy cs (s.sendContrib d) := by
  unfold State.sendContrib
  split
  · exact h
  · exact h.send

theorem Tidy.tellOutcome {d outcome} (h : Tidy cs s) : Tidy cs (s.tellOutcome d outcome) := .ite h.sendKept h
theorem Tidy.twinSettled {d outcome} (h : Tidy cs s) : Tidy cs (s.twinSettled d outcome) := h.set.tellOutcome

theorem Tidy.twinMismatch {own peer code severity outcome} (h : Tidy cs s) : Tidy cs (s.twinMismatch own peer code severity outcome) :=
  h.stepError.set.tellOutcome

theorem Tidy.twinCompare {own peer} (h : Tidy cs s) : Tidy cs (s.twinCompare own peer) := by
  unfold State.twinCompare
  dsimp only
  refine .ite h.twinSettled (.ite ?_ (.ite (.ite h.twinMismatch h.twinMismatch.set) h.twinMismatch))
  split
  · exact .ite h.twinSettled (.ite h.log.markSuspect.twinSettled h.log.twinSettled)
  · exact h.twinSettled

theorem Tidy.twinTry {step attempt} (h : Tidy cs s) : Tidy cs (s.twinTry step attempt) := by
  unfold State.twinTry
  split
  · exact .ite h.twinCompare h
  · exact h

theorem Tidy.finalizeContrib (h : Tidy cs s) : Tidy cs s.finalizeContrib := by
  unfold State.finalizeContrib
  extract_lets _ _ _ _ _ t
  have ht : Tidy cs t := h.set
  exact .ite (.ite ht.sendContrib.twinTry ht) h

theorem execTwinContrib_answers {src step attempt form digest} (h : Tidy cs s) : Answers cs (execTwinContrib src step attempt form digest s) := by
  unfold execTwinContrib
  extract_lets _ _ t
  have ht : Tidy cs t := h.set
  split
  · split
    · exact .ite (.next ht.sendContrib) (.next ht.twinTry)
    · exact .next ht
  · exact .next h

theorem execTwinResult_answers {src step attempt outcome msgId} (h : Tidy cs s) : Answers cs (execTwinResult src step attempt outcome msgId s) := by
  unfold execTwinResult
  extract_lets _ _ _ t
  have ht : Tidy cs t := h.set
  exact .ite (.next (.ack (.ite ht.set ht))) (.next h)

theorem execTwinWaitExpired_answers (h : Tidy cs s) : Answers cs (execTwinWaitExpired s) := .ite (.next h.set.log) (.next h)

/-! Flags and alerts -/

theorem Tidy.captureAt {o} (h : Tidy cs s) : Tidy cs (s.captureAt o) := by
  unfold State.captureAt
  extract_lets
  split
  · exact h.set
  · exact h.set
  · exact h.set
  · exact h.set
  · exact h.set
  · exact h.set
  · exact h.set
  · exact h

theorem Tidy.readBar0 {p off} (h : Tidy cs s) : Tidy cs (s.readBar0 p off).1 := .ite h.captureAt h

/-! Network time and its servo -/

theorem Tidy.takeSegment {e p se} (h : Tidy cs s) : Tidy cs (s.takeSegment e p se) := h.set
theorem Tidy.chooseEpoch {p se} (h : Tidy cs s) : Tidy cs (s.chooseEpoch p se) := h.sendAll.set.takeSegment

theorem execSegmentAnnouncement_answers {src epoch p syncEpoch} (h : Tidy cs s) : Answers cs (execSegmentAnnouncement src epoch p syncEpoch s) :=
  .ite (.next h.takeSegment.answer) (.next h)

theorem execSegmentAcknowledgement_answers {src epoch} (h : Tidy cs s) : Answers cs (execSegmentAcknowledgement src epoch s) :=
  .ite (.next h.set.set) (.next h)

theorem execEpochNotAcknowledged_answers (h : Tidy cs s) : Answers cs (execEpochNotAcknowledged s) := by
  unfold execEpochNotAcknowledged
  split
  · exact .ite (.next h.chooseEpoch) (.next h)
  · exact .next h

theorem execNextArmWrite_answers {v} (h : Tidy cs s) : Answers cs (execNextArmWrite v s) := .next (.ite h.set h)
theorem execStagedTimeLoad_answers (h : Tidy cs s) : Answers cs (execStagedTimeLoad s) := .next h.set
theorem execCaptureRead_answers {r} (h : Tidy cs s) : Answers cs (execCaptureRead r s) := .next h.captureAt
theorem Tidy.stageTime {rate phase} (h : Tidy cs s) : Tidy cs (s.stageTime rate phase) := h.set

theorem execTimeExchange_answers (h : Tidy cs s) : Answers cs (execTimeExchange s) := by
  unfold execTimeExchange
  extract_lets _ _ t
  have ht : Tidy cs t := h.takeParent
  split
  · exact .next h.set
  · refine .next ?_
    split
    · exact ht.set.sendLink
    · exact ht

theorem execTimeExchangeRequest_answers {link src msgId} (h : Tidy cs s) : Answers cs (execTimeExchangeRequest link src msgId s) := .next h.answerLink
theorem Tidy.steer (h : Tidy cs s) : Tidy cs s.steer := .ite h h.stageTime.set
theorem Tidy.rateForJob (h : Tidy cs s) : Tidy cs s.rateForJob := .ite h h.stageTime.set
theorem Tidy.enterHoldover (h : Tidy cs s) : Tidy cs s.enterHoldover := h.set

theorem execTimeExchangeResponse_answers {link t2 t3 master masterSeq} (h : Tidy cs s) : Answers cs (execTimeExchangeResponse link t2 t3 master masterSeq s) := by
  unfold execTimeExchangeResponse
  extract_lets _ _ _ _ t
  have ht : Tidy cs t := h.set
  exact .ite (.next h) (.ite (.next h.set.enterHoldover) (.ite (.next h) (.next (.steer (.ite ht.log ht)))))

theorem execMasterSequenceTimeout_answers (h : Tidy cs s) : Answers cs (execMasterSequenceTimeout s) := .ite (.next h.enterHoldover) (.next h)

theorem execHoldoverExpired_answers (h : Tidy cs s) : Answers cs (execHoldoverExpired s) := by
  unfold execHoldoverExpired
  extract_lets _ _ _ t1
  have ht1 : Tidy cs t1 := h.set.log
  exact .ite (.next (.ite ht1.abortFor ht1)) (.next h)

theorem Tidy.pulseEdges (h : Tidy cs s) : Tidy cs s.pulseEdges := h.set
theorem execPulseEdge_answers {out} (h : Tidy cs s) : Answers cs (execPulseEdge out s) := .next h.set
theorem execTpulseCtrlWrite_answers {out v} (h : Tidy cs s) : Answers cs (execTpulseCtrlWrite out v s) := .next h.set

theorem execTcaptureEdge_answers {rising} (h : Tidy cs s) : Answers cs (execTcaptureEdge rising s) :=
  .ite (.next h) (.ite (.next h.set) (.ite (.next h.set) (.next h.set)))

end Sys2Proof.Machine
end

/-! SUPPORT. What every command keeps: host commands, jobs and the granary. -/

section
namespace Sys2Proof.Machine

open Sys2Proof

variable {cs : List Instr} {s t : State}

/-! Completions of commands -/

theorem Tidy.respond {p m status resp dup} (h : Tidy cs s) : Tidy cs (s.respond p m status resp dup) := h.completes (respond_completes ..)
theorem Tidy.recordDup {p m status} (h : Tidy cs s) : Tidy cs (s.recordDup p m status) := h.completes (recordDup_completes ..)
theorem Tidy.completeFollowers {p m status} (h : Tidy cs s) : Tidy cs (s.completeFollowers p m status) := h.completes (completeFollowers_completes ..)
theorem Tidy.complete {p m status detail body} (h : Tidy cs s) : Tidy cs (s.complete p m status detail body) := h.completes (complete_completes ..)
theorem Tidy.hostAway (h : Tidy cs s) : Tidy cs s.hostAway := h.set
theorem Tidy.refuse {p m status detail} (h : Tidy cs s) : Tidy cs (s.refuse p m status detail) := h.completes (refuse_completes ..)
theorem Tidy.succeed {p m body} (h : Tidy cs s) : Tidy cs (s.succeed p m body) := h.completes (succeed_completes ..)
theorem Tidy.waitScrub {p m} (h : Tidy cs s) : Tidy cs (s.waitScrub p m) := h.onMbx
theorem Tidy.running {p m} (h : Tidy cs s) : Tidy cs (s.running p m) := h.onMbx

theorem Tidy.runBody {p m r reserved run} (h : Tidy cs s) (hrun : ∀ t x, Tidy cs t → Tidy cs (run t x)) :
    Tidy cs (s.runBody p m r reserved run) := by
  unfold State.runBody
  extract_lets _ t
  have ht : Tidy cs t := hrun _ _ h
  split
  · exact ht
  · exact .ite ht h.refuse

theorem Tidy.sort {p m} (h : Tidy cs s) : Tidy cs (s.sort p m) := h.completes (sort_completes ..)
theorem Tidy.sortPort {p} (h : Tidy cs s) : Tidy cs (s.sortPort p) := h.completes (sortPort_completes ..)

theorem Tidy.serve {p m r state reserved run} (h : Tidy cs s) (hrun : ∀ t x, Tidy cs t → Tidy cs (run t x)) : Tidy cs (s.serve p m r state reserved run) := by
  unfold State.serve
  extract_lets t _ _ t1
  have ht : Tidy cs t := h.sortPort
  have ht1 : Tidy cs t1 := .ite ht.set ht
  split
  · refine .sortPort ?_
    split
    · exact ht1.refuse
    · exact ht1.runBody fun _ _ h => hrun _ _ h
  · exact ht

theorem Tidy.journalCommand {p k} (h : Tidy cs s) : Tidy cs (s.journalCommand p k) := .ite h.journalNow h
theorem Tidy.addWindows {p bs} (h : Tidy cs s) : Tidy cs (s.addWindows p bs) := h.onPort
theorem Tidy.dropWindows {bs} (h : Tidy cs s) : Tidy cs (s.dropWindows bs) := h.completes (dropWindows_completes ..)

theorem Tidy.bufferWrite {b o bs} (h : Tidy cs s) : Tidy cs (s.bufferWrite b o bs) :=
  .foldlFst h fun _ _ h => .ite h.hostWrite h

theorem Tidy.dropAhead (h : Tidy cs s) : Tidy cs s.dropAhead := h.set
theorem Tidy.restUnits (h : Tidy cs s) : Tidy cs s.restUnits := h.set.dropAhead
theorem Tidy.completeAll {l status body} (h : Tidy cs s) : Tidy cs (s.completeAll l status body) := h.completes (completeAll_completes ..)

theorem Tidy.endJob {cause} (h : Tidy cs s) : Tidy cs (s.endJob cause) := by
  unfold State.endJob
  extract_lets _ _ _ _ _ _ t3 _ _ _ _ _ _ _ _ _ _ _ _ _ t6
  have ht3 : Tidy cs t3 := .completeAll (.completeAll (.completeAll (.ite h.journalNow h)))
  have ht6 : Tidy cs t6 := .set (.restUnits (.ite ht3.completeAll ht3))
  exact .ite h (.ite ht6.eventAll ht6)

theorem Tidy.sendFailing (h : Tidy cs s) : Tidy cs s.sendFailing := h.sendKept

/-! The host ports, feeds and results -/

theorem Tidy.postMbx {p m v} (h : Tidy cs s) : Tidy cs (s.postMbx p m v) := .ite h.onMbx h.onMbx.onPort.sortPort
theorem execMbxPost_answers {p m v} (h : Tidy cs s) : Answers cs (execMbxPost p m v s) := .next h.postMbx

theorem Tidy.abortPort {p} (h : Tidy cs s) : Tidy cs (s.abortPort p) := by
  unfold State.abortPort
  extract_lets _ t1
  have ht1 : Tidy cs t1 := h.completeAll.set
  exact .ite ht1.set ht1

theorem Tidy.abortWrite {p v} (h : Tidy cs s) : Tidy cs (s.abortWrite p v) := by
  unfold State.abortWrite
  extract_lets _ t1
  have ht1 : Tidy cs t1 := h.onPort.abortPort
  exact .ite h (.ite ht1.completeAll.endJob.onPort ht1)

theorem execAbort_answers {p v} (h : Tidy cs s) : Answers cs (execAbort p v s) := .next h.abortWrite
theorem Tidy.abortFinish {p forced} (h : Tidy cs s) : Tidy cs (s.abortFinish p forced) := h.onPort.event
theorem Tidy.hardAbort {p m} (h : Tidy cs s) : Tidy cs (s.hardAbort p m) := .ite h.onMbx h

theorem Tidy.stageFeed {step bytes} (h : Tidy cs s) : Tidy cs (s.stageFeed step bytes) := by
  unfold State.stageFeed
  extract_lets t
  have ht : Tidy cs t := by
    unfold t
    split
    · exact h.poke
    · exact h
  exact .ite ht.set ht.set

theorem Tidy.beginPull {step} (h : Tidy cs s) : Tidy cs (s.beginPull step) := by
  unfold State.beginPull
  dsimp only
  split
  · exact h
  · split
    · exact h.stageFeed
    · exact h.set

theorem Tidy.feedReject (h : Tidy cs s) : Tidy cs s.feedReject := h.set

theorem Tidy.feedValid {step payload retention} (h : Tidy cs s) : Tidy cs (s.feedValid step payload retention) := by
  unfold State.feedValid
  extract_lets _ _ _ _ _ _ _ t _ _ _ _ t2 t3
  have ht : Tidy cs t := h.stageFeed
  have ht2 : Tidy cs t2 := .set (.ite ht ht.journal)
  have ht3 : Tidy cs t3 := by
    unfold t3
    split
    · exact ht2.bufferWrite
    · exact ht2
  exact .ite h.set ht3.event

theorem execFeedPoll_answers {sight} (h : Tidy cs s) : Answers cs (execFeedPoll sight s) := by
  unfold execFeedPoll
  extract_lets
  split
  · exact .next h
  · split
    · exact .next h
    · split
      · exact .next h.hostAway
      · split
        · exact .next h.hostAway
        · exact .ite (.next (.ite h h.feedReject)) (.ite (.next h.feedReject.set.log) (.ite (.next h.feedReject) (.ite (.next h.feedValid) (.next h.set))))

theorem Tidy.writeResult {i r w} (h : Tidy cs s) : Tidy cs (s.writeResult i r w) := by
  unfold State.writeResult
  extract_lets
  split
  · exact h
  · exact h.bufferWrite.bufferWrite.bufferWrite.bufferWrite.bufferWrite.set.event

theorem execResultWrite_answers {stream} (h : Tidy cs s) : Answers cs (execResultWrite stream s) := by
  unfold execResultWrite
  extract_lets
  split
  · exact .next h
  · exact .ite (.next h) (.ite (.next h) (.ite (.next h.hostAway) (.next h.writeResult)))

theorem Tidy.bar2Fail {p cause} (h : Tidy cs s) : Tidy cs (s.bar2Fail p cause) := h.onPort

theorem Tidy.bar2Write : ∀ {l s a}, Tidy cs s → Tidy cs (State.bar2Write s a l)
  | [], _, _, h => h
  | _ :: _, _, _, h => by
    rw [State.bar2Write]
    exact bar2Write (.ite h.poke h)

theorem Tidy.bar2Checks {a n} (h : Tidy cs s) : Tidy cs (s.bar2Checks a n) := .foldl h fun _ _ h => .ite h h.memCheck

theorem execBar2Access_answers {p offset op ue} (h : Tidy cs s) : Answers cs (execBar2Access p offset op ue s) := by
  have failed {t : State} {c : Option Nat} (h : Tidy cs t) : Tidy cs (match c with | some x => t.bar2Fail p x | none => t) := by
    split
    · exact h.bar2Fail
    · exact h
  unfold execBar2Access
  dsimp only
  refine .ite ?_ ?_
  · refine .next ?_
    split
    · exact h.bar2Fail.set
    · exact h.bar2Fail
  · split
    · refine .next (.set (failed ?_))
      split
      · exact h.bar2Checks.memLost
      · exact h.bar2Checks
    · exact .next (failed h.bar2Write)

theorem Tidy.logUncoded {unit} (h : Tidy cs s) : Tidy cs (s.logUncoded unit) := h.set.log
theorem execPortLinkDown_answers {p} (h : Tidy cs s) : Answers cs (execPortLinkDown p s) := .ite (.next h.onPort.logUncoded) (.next h)

theorem execPortLinkUp_answers {p} (h : Tidy cs s) : Answers cs (execPortLinkUp p s) := by
  unfold execPortLinkUp
  extract_lets _ t
  have ht : Tidy cs t := h.onPort
  exact .ite (.next h) (.next (.ite ht.vector ht))

theorem Tidy.deregisterPort {p} (h : Tidy cs s) : Tidy cs (s.deregisterPort p) := h.set.onPort
theorem execPortReset_answers {p} (h : Tidy cs s) : Answers cs (execPortReset p s) := .next h.abortPort.deregisterPort.onPort.set.logUncoded
theorem Tidy.writeCapStatus {v} (h : Tidy cs s) : Tidy cs (s.writeCapStatus v) := h.set

theorem Tidy.writeTime {o v} (h : Tidy cs s) : Tidy cs (s.writeTime o v) := by
  unfold State.writeTime
  extract_lets
  split
  · exact h.set
  · exact h.set
  · exact h.set
  · exact h.set
  · exact h.set
  · exact h.set
  · exact h.set
  · exact h.set
  · exact .ite h.set h
  · exact h.set
  · exact h.set
  · exact h.set
  · exact h.set
  · exact h.set
  · exact h.writeCapStatus
  · exact .ite h.set (.ite h.set h)

theorem Tidy.writeFault {o v} (h : Tidy cs s) : Tidy cs (s.writeFault o v) := by
  unfold State.writeFault
  extract_lets
  split
  · exact h.set
  · exact h.set
  · exact h.set
  · exact h

theorem Tidy.writeProcessor {off v} (h : Tidy cs s) : Tidy cs (s.writeProcessor off v) := by
  unfold State.writeProcessor
  extract_lets
  split
  · exact .ite h.writeTime h
  · exact .ite h.onRegion h
  · exact .ite h.onBlock h
  · exact .ite h.onStack h
  · exact .ite h.onChan h
  · exact .ite h.onLink (.ite h.set h)
  · exact .ite h.writeFault h
  · exact h

theorem Tidy.writeMailbox {p m o v} (h : Tidy cs s) : Tidy cs (s.writeMailbox p m o v) := by
  unfold State.writeMailbox
  split
  · exact h.onMbx
  · exact h.postMbx
  · exact h.onMbx
  · exact h.onMbx
  · exact h.onMbx
  · exact h

theorem Tidy.writePort {p o v} (h : Tidy cs s) : Tidy cs (s.writePort p o v) := by
  unfold State.writePort
  split
  · exact h.onPort
  · exact h.onPort
  · exact h.abortWrite
  · exact .ite h.onPort h
  · exact .ite h.writeMailbox h

theorem Tidy.writeMsix {p i v} (h : Tidy cs s) : Tidy cs (s.writeMsix p i v) := by
  unfold State.writeMsix
  extract_lets _ _ t
  have ht : Tidy cs t := h.onPort
  exact .ite ht.onPort.vector ht

theorem Tidy.writeArea {p o v} (h : Tidy cs s) : Tidy cs (s.writeArea p o v) := .ite h (.ite h.onMbx h.onMbx)

theorem Tidy.writeHost {p off v} (h : Tidy cs s) : Tidy cs (s.writeHost p off v) :=
  .ite h.writePort (.ite h.writeMsix (.ite h.writeArea (.ite h.writeCapStatus h)))

theorem execRegisterWrite_answers {w offset data} (h : Tidy cs s) : Answers cs (execRegisterWrite w offset data s) := by
  unfold execRegisterWrite
  split
  · exact .ite (.next (.foldl h fun _ _ h => h.writeHost)) (.next h.set)
  · exact .ite (.next (.foldl h fun _ _ h => h.writeProcessor)) (.next h)

/-! The checks of a plan -/

theorem Tidy.refusePlan {p m l} (h : Tidy cs s) : Tidy cs (s.refusePlan p m l) := h.complete

/-! Plans and the machine map -/

theorem Tidy.placeSections {image} (h : Tidy cs s) : Tidy cs (s.placeSections image) := by
  unfold State.placeSections
  refine .foldl h fun t x h => ?_
  extract_lets _ t1
  have ht1 : Tidy cs t1 := .ite h.poke h
  exact .ite ht1.poke ht1

theorem Tidy.storePlan {next x image switchStep key} (h : Tidy cs s) : Tidy cs (s.storePlan next x image switchStep key) := by
  unfold State.storePlan
  extract_lets t
  have ht : Tidy cs t := h.placeSections
  exact .ite ht.set.tellNext ht.set

theorem execLoadPlan_answers {p m image body} (h : Tidy cs s) : Answers cs (execLoadPlan p m image body s) := by
  refine .next (.serve h fun t k h => ?_)
  dsimp only
  split
  · exact h.onPort.refuse
  · refine .ite h.onPort.waitScrub ?_
    split
    · exact h.onPort.refuse
    · refine .ite h.onPort.refuse (.ite h.onPort.refuse ?_)
      split
      · exact h.onPort.storePlan.succeed
      · exact h.onPort.refusePlan

theorem execVerifyPlan_answers {p m} (h : Tidy cs s) : Answers cs (execVerifyPlan p m s) := by
  unfold execVerifyPlan
  refine .next (.serve h fun t x h => ?_)
  split
  · exact h
  · split
    · exact h.succeed
    · exact .ite h.refuse h.refusePlan

theorem Tidy.endOwnership (h : Tidy cs s) : Tidy cs s.endOwnership := .set (.foldl h fun _ _ h => h.onPort)
theorem Tidy.unload (h : Tidy cs s) : Tidy cs s.unload := h.dropWindows.dropWindows.set.endOwnership
theorem execUnloadPlan_answers {p m} (h : Tidy cs s) : Answers cs (execUnloadPlan p m s) := .next (h.serve fun _ _ h => h.unload.succeed)

theorem Tidy.computeRoutes (h : Tidy cs s) : Tidy cs s.computeRoutes := by
  unfold State.computeRoutes
  extract_lets
  split
  · exact h.set
  · exact h.set

theorem Tidy.nameMaster {k} (h : Tidy cs s) : Tidy cs (s.nameMaster k) := by
  unfold State.nameMaster
  extract_lets _ _ t _ _ u1
  have ht : Tidy cs t := h.set
  have hu1 : Tidy cs u1 := ht.set.set
  exact .ite (.ite hu1 hu1.stageTime) (.ite ht.enterHoldover (.ite ht.set ht))

theorem Tidy.bind {m} (h : Tidy cs s) : Tidy cs (s.bind m) := by
  unfold State.bind
  extract_lets _ t
  have ht : Tidy cs t := h.set
  exact .foldl (.renewLinks (.setTables (.computeRoutes (.set (.set (.ite ht ht.nameMaster)))))) fun _ _ h => h.classify

theorem execBindMachine_answers {p m image} (h : Tidy cs s) : Answers cs (execBindMachine p m image s) := by
  unfold execBindMachine
  extract_lets
  refine .next (.serve h fun t x h => ?_)
  extract_lets
  split
  · exact h.refuse
  · exact .ite h.refuse (.ite h.refuse h.bind.succeed)

/-! Jobs, saves and replay -/

theorem Tidy.buildMap {n} (h : Tidy cs s) : Tidy cs (s.buildMap n) :=
  .foldlFst h fun _ _ h => .iteFst h.onBlock h.onBlock

theorem Tidy.loadTables (h : Tidy cs s) : Tidy cs s.loadTables := .foldl (.foldl h.set.dropAhead fun _ _ h => h.onStack) fun _ _ h => h.onNet

theorem Tidy.loadInit (h : Tidy cs s) : Tidy cs s.loadInit := by
  unfold State.loadInit
  refine .foldl h fun t x h => ?_
  split
  · split
    · exact h.poke
    · exact h
  · exact h

theorem Tidy.instantiate {x} (h : Tidy cs s) : Tidy cs (s.instantiate x) := by
  unfold State.instantiate
  extract_lets _ _ _ _ _ t1 t2
  have ht1 : Tidy cs t1 := h.set.setTables
  have ht2 : Tidy cs t2 := ht1.buildMap.loadTables
  exact .ite ht1 (.ite ht2 ht2.loadInit)

theorem Tidy.endStart {status l} (h : Tidy cs s) : Tidy cs (s.endStart status l) := .ite h (.set (.ite (.ite h.refuse h.refusePlan) h))

theorem Tidy.judgeStarts (h : Tidy cs s) : Tidy cs s.judgeStarts := by
  unfold State.judgeStarts
  dsimp only
  split
  · exact h
  · split
    · exact .endStart (.foldl h fun _ _ h => h.send.send)
    · exact .ite h.chooseEpoch h

theorem Tidy.noteStart {k r} (h : Tidy cs s) : Tidy cs (s.noteStart k r) := h.set.judgeStarts
theorem Tidy.sendJoin (h : Tidy cs s) : Tidy cs s.sendJoin := h.set.sendKept

theorem Tidy.tryReport (h : Tidy cs s) : Tidy cs s.tryReport := by
  unfold State.tryReport
  extract_lets _ _ _ t
  have ht : Tidy cs t := h.set
  split
  · exact h
  · split
    · exact h.set
    · split
      · exact h
      · split
        · exact .ite h.sendJoin (.ite ht.noteStart ht.send)
        · exact h.endStart

theorem Tidy.beginStart {p m wait replay first seed} (h : Tidy cs s) : Tidy cs (s.beginStart p m wait replay first seed) := by
  unfold State.beginStart
  extract_lets
  split
  · exact h
  · exact h.set.instantiate.running.beginPull.tryReport

theorem execStartJob_answers {p m} (h : Tidy cs s) : Answers cs (execStartJob p m s) := by
  unfold execStartJob
  refine .next (.serve h fun t x h => ?_)
  extract_lets
  split
  · exact h.refuse
  · split
    · exact h.refuse
    · exact .ite h.refuse (.ite h.waitScrub h.beginStart)

theorem execStartReadinessReport_answers {src r} (h : Tidy cs s) : Answers cs (execStartReadinessReport src r s) :=
  .ite (.next h.set) (.ite (.next h.noteStart) (.ite (.next h.endStart) (.next h)))

theorem execStartWaitExpired_answers (h : Tidy cs s) : Answers cs (execStartWaitExpired s) := .ite (.next h) (.next h.endStart)

theorem execJoinResult_answers {outcome gen} (h : Tidy cs s) : Answers cs (execJoinResult outcome gen s) := by
  unfold execJoinResult
  extract_lets _ t
  have ht : Tidy cs t := h.set
  exact .ite (.next (.ite ht ht.endStart)) (.next h)

theorem execHoldAtStep_answers {p m} (h : Tidy cs s) : Answers cs (execHoldAtStep p m s) :=
  .next (h.serve fun _ _ h => .ite h.refuse h.journalCommand.running.set)

theorem execResume_answers {p m} (h : Tidy cs s) : Answers cs (execResume p m s) :=
  .next (h.serve fun _ _ h => h.journalCommand.running.completeAll.set)

theorem execStopJob_answers {p m} (h : Tidy cs s) : Answers cs (execStopJob p m s) := by
  unfold execStopJob
  refine .next (.serve h fun t x h => ?_)
  extract_lets _ t1 _ _ t3
  have ht1 : Tidy cs t1 := h.journalCommand.running
  have ht3 : Tidy cs t3 := .set (.ite ht1.sendAll ht1.send)
  exact .ite h.refuse (.ite ht3.endJob ht3)

theorem Tidy.pokeRange {r a bs} (h : Tidy cs s) : Tidy cs (s.pokeRange r a bs) :=
  .foldlFst h fun _ _ h => h.poke

theorem execSaveState_answers {p m ranges} (h : Tidy cs s) : Answers cs (execSaveState p m ranges s) := by
  unfold execSaveState
  extract_lets
  refine .next (.serve h fun t x h => ?_)
  split
  · exact h.refuse
  · split
    · exact h.refuse
    · extract_lets
      split
      · exact .ite h.refuse h.journalCommand.addWindows.running.set
      · exact h.refuse

theorem Tidy.saveFails {status} (h : Tidy cs s) : Tidy cs (s.saveFails status) := by
  unfold State.saveFails
  extract_lets _ _ t
  have ht : Tidy cs t := h.set
  exact .ite ht.complete ht

theorem Tidy.captureRange {b x} (h : Tidy cs s) : Tidy cs (s.captureRange b x) := by
  unfold State.captureRange
  extract_lets
  split
  · exact h.set.poke
  · exact h.bufferWrite

theorem execSaveCaptureEnd_answers (h : Tidy cs s) : Answers cs (execSaveCaptureEnd s) := by
  unfold execSaveCaptureEnd
  extract_lets _ _ t
  have ht : Tidy cs t := .foldl h fun _ _ h => h.memCheck
  split
  · exact .next h
  · split
    · exact .next ht.set.saveFails
    · split
      · exact .next ht.saveFails
      · exact .ite (.next ht.hostAway.saveFails) (.next (.set (.journalNow (.foldl ht fun _ _ h => h.captureRange))))

theorem execSaveUploadComplete_answers {error} (h : Tidy cs s) : Answers cs (execSaveUploadComplete error s) := by
  unfold execSaveUploadComplete
  extract_lets _ t _ t1
  have ht : Tidy cs t := h.set
  have ht1 : Tidy cs t1 := .foldl ht fun _ _ h => h.ddrCheck
  split
  · exact .next h
  · split
    · exact .next h
    · split
      · exact .next (.ite ht.complete ht)
      · split
        · exact .next ht
        · extract_lets _ _ t4
          have ht4 : Tidy cs t4 := .bufferWrite (.bufferWrite (.foldl ht1 fun _ _ h => h.bufferWrite))
          split
          · exact .next (.ite ht.hostAway.complete ht.hostAway)
          · exact .ite (.next (.ite ht1.set.complete ht1.set)) (.next (.ite ht4.complete ht4))

theorem execRestoreState_answers {p m image} (h : Tidy cs s) : Answers cs (execRestoreState p m image s) := by
  unfold execRestoreState
  refine .next (.serve h fun t x h => ?_)
  extract_lets
  split
  · exact h.refuse
  · extract_lets _ _ t2
    have ht2 : Tidy cs t2 := by
      refine .foldl h.buildMap fun t x h => ?_
      split
      · split
        · exact h.pokeRange
        · exact h
      · exact h
    split
    · exact h.refuse
    · split
      · exact h.refuse
      · split
        · exact h.refuse
        · exact ht2.set.set.journal.succeed

theorem execJournalConfig_answers {p m ranges} (h : Tidy cs s) : Answers cs (execJournalConfig p m ranges s) := by
  unfold execJournalConfig
  refine .next (.serve h fun t x h => ?_)
  extract_lets
  split
  · exact h.refuse
  · split
    · exact h.refuse
    · split
      · exact h.dropWindows.set.succeed
      · split
        · exact h.refuse
        · split
          · exact h.refuse
          · exact h.dropWindows.addWindows.set.succeed

theorem Tidy.spill {b r} : ∀ {l s}, Tidy cs s → Tidy cs (State.spill s b r l)
  | [], _, h => h
  | i :: rest, s, h => by
    unfold State.spill
    split
    · exact spill h
    · dsimp only
      split
      · exact h
      · exact spill (.set (.bufferWrite (.ite h.bufferWrite h)))

theorem Tidy.loseRecord {x} (h : Tidy cs s) : Tidy cs (s.loseRecord x) := .journalNow (.set (.foldl h fun _ _ h => h.ddrLost.healed))
theorem Tidy.journalLoss (h : Tidy cs s) : Tidy cs s.journalLoss := .foldl h fun _ _ h => h.loseRecord

theorem execJournalSpill_answers {readOffset} (h : Tidy cs s) : Answers cs (execJournalSpill readOffset s) := by
  unfold execJournalSpill
  extract_lets t t1
  have ht : Tidy cs t := h.ddrCe.journalLoss
  have ht1 : Tidy cs t1 := by
    unfold t1
    split
    · exact ht
    · extract_lets t2
      have ht2 : Tidy cs t2 := ht.spill
      exact .ite ht.hostAway (.ite ht2 ht2.bufferWrite.event)
  exact .ite (.next h) (.next ht1.dropRecords)

theorem execReplayStart_answers {p m records} (h : Tidy cs s) : Answers cs (execReplayStart p m records s) := by
  unfold execReplayStart
  refine .next (.serve h fun t x h => ?_)
  extract_lets
  split
  · exact h.refuse
  · split
    · exact h.refuse
    · split
      · exact h.refuse
      · split
        · exact h.waitScrub
        · split
          · exact h.refuse
          · split
            · exact h.refuse
            · exact h.set.beginStart

/-! The granary -/

theorem Tidy.deviceLost {ty second} (h : Tidy cs s) : Tidy cs (s.deviceLost ty second) := h.set.endOfLife
theorem Tidy.wornOut {ty} (h : Tidy cs s) : Tidy cs (s.wornOut ty) := h.errs (wornOut_logs ..).errs

theorem Tidy.updateFails {ty second one} (h : Tidy cs s) : Tidy cs (s.updateFails ty second one) := by
  unfold State.updateFails
  extract_lets _ _ _ _ t1
  have ht1 : Tidy cs t1 := h.onRecord.set.wornOut
  exact .ite ht1.deviceLost ht1

theorem Tidy.programOn {ty second one c} (h : Tidy cs s) : Tidy cs (s.programOn ty second one c) := h.errs (programOn_logs ..).errs
theorem Tidy.noteCommit {ty body} (h : Tidy cs s) : Tidy cs (s.noteCommit ty body) := h.errs (noteCommit_logs ..).errs

theorem Tidy.program {ty body e} (h : Tidy cs s) : Tidy cs (s.program ty body e) := by
  unfold State.program
  extract_lets _ _ t
  have ht : Tidy cs t := h.programOn
  split
  · exact h
  · split
    · exact h.programOn.programOn.noteCommit
    · exact .ite (.updateFails (.ite ht.noteCommit ht)) h.updateFails
    · exact h.onRecord

theorem Tidy.updateRecord {ty body e} (h : Tidy cs s) : Tidy cs (s.updateRecord ty body e) := .ite h.onRecord (.ite h.onRecord.set h.program)
theorem execGranaryUpdate_answers {r body e} (h : Tidy cs s) : Answers cs (execGranaryUpdate r body e s) := .next h.updateRecord

theorem Tidy.commitHeld {ty e} (h : Tidy cs s) : Tidy cs (s.commitHeld ty e) := by
  unfold State.commitHeld
  split
  · exact h.onRecord.program
  · exact h

theorem execNorDeferExpiry_answers {r e} (h : Tidy cs s) : Answers cs (execNorDeferExpiry r e s) := by
  unfold execNorDeferExpiry
  extract_lets _ t
  have ht : Tidy cs t := h.onRecord
  exact .ite (.next (.ite ht ht.commitHeld)) (.next h)

theorem Tidy.addRepair {kind place value} (h : Tidy cs s) : Tidy cs (s.addRepair kind place value) := .ite h.set.committed h.set.program

theorem Tidy.fold {e} (h : Tidy cs s) : Tidy cs (s.fold e) := by
  unfold State.fold
  extract_lets _ _ t
  have ht : Tidy cs t := h.program
  exact .ite ht.set.committed ht

theorem execRepairFold_answers {e} (h : Tidy cs s) : Answers cs (execRepairFold e s) := .ite (.next h) (.ite (.next h.set) (.next h.fold))

theorem Tidy.flushDeferred (h : Tidy cs s) : Tidy cs s.flushDeferred := by
  unfold State.flushDeferred
  extract_lets t
  have ht : Tidy cs t := .foldl h fun _ _ h => h.commitHeld
  exact .ite ht.fold ht

theorem Tidy.lasersOff (h : Tidy cs s) : Tidy cs s.lasersOff := h.set
theorem Tidy.powerFails (h : Tidy cs s) : Tidy cs s.powerFails := .ite h h.set.lasersOff.committed
theorem execPowerFail_answers (h : Tidy cs s) : Answers cs (execPowerFail s) := .next h.powerFails

theorem Tidy.resumeRecord {ty} (h : Tidy cs s) : Tidy cs (s.resumeRecord ty) := by
  unfold State.resumeRecord
  extract_lets t t1
  have ht : Tidy cs t := h.onRecord
  have ht1 : Tidy cs t1 := by
    unfold t1
    split
    · exact .ite ht.fold ht.program
    · exact h
  exact .ite ht1 ht1.commitHeld

theorem execPowerReturn_answers (h : Tidy cs s) : Answers cs (execPowerReturn s) := .next (.ite (.foldl h.set fun _ _ h => h.resumeRecord) h)
theorem execCountersCommit_answers (h : Tidy cs s) : Answers cs (execCountersCommit s) := .next h.set.committed

theorem execLaserCommit_answers {bias worstRatio} (h : Tidy cs s) : Answers cs (execLaserCommit bias worstRatio s) := by
  unfold execLaserCommit
  extract_lets _ _ _ _ t1
  have ht1 : Tidy cs t1 := h.set.updateRecord
  exact .next (.ite ht1.endOfLife ht1)

theorem execRollbackRaise_answers (h : Tidy cs s) : Answers cs (execRollbackRaise s) := .ite (.next h.set.committed) (.next h)
theorem Tidy.onTemper {r f} (h : Tidy cs s) : Tidy cs (s.onTemper r f) := h.set
theorem execTemperSample_answers (h : Tidy cs s) : Answers cs (execTemperSample s) := .ite (.next (.foldl h fun _ _ h => .ite h.onTemper h)) (.next h)

theorem Tidy.endWeek {r} (h : Tidy cs s) : Tidy cs (s.endWeek r) := by
  unfold State.endWeek
  extract_lets _ _ _ t
  have ht : Tidy cs t := h.onTemper
  exact .ite h.onTemper (.ite ht (.ite ht.onTemper.onRegion.committed (.ite ht ht.onTemper.onRegion.committed.endOfLife.log)))

theorem execTemperWeekEnd_answers (h : Tidy cs s) : Answers cs (execTemperWeekEnd s) :=
  .next (.committed (.updateRecord (.foldl h fun _ _ h => h.endWeek)))

theorem execTemperWeekCommit_answers (h : Tidy cs s) : Answers cs (execTemperWeekCommit s) := .ite (.next h.set.committed) (.next h)

/-! Settings and registers -/

theorem execIdentify_answers {p m} (h : Tidy cs s) : Answers cs (execIdentify p m s) := .next (h.serve fun _ _ h => h.succeed)
theorem execGetStatus_answers {p m} (h : Tidy cs s) : Answers cs (execGetStatus p m s) := .next (h.serve fun _ _ h => h.succeed)
theorem Tidy.registerFeed {p bs} (h : Tidy cs s) : Tidy cs (s.registerFeed p bs) := h.dropWindows.set.addWindows

theorem execFeedRegister_answers {p m ranges} (h : Tidy cs s) : Answers cs (execFeedRegister p m ranges s) := by
  unfold execFeedRegister
  extract_lets
  refine .next (.serve h fun t x h => ?_)
  extract_lets
  split
  · exact h.refuse
  · split
    · exact h.refuse
    · exact h.registerFeed.succeed

theorem Tidy.registerResult {p i overwrite bs} (h : Tidy cs s) : Tidy cs (s.registerResult p i overwrite bs) := h.dropWindows.set.addWindows

theorem execResultRegister_answers {p m ranges} (h : Tidy cs s) : Answers cs (execResultRegister p m ranges s) := by
  unfold execResultRegister
  refine .next (.serve h fun t x h => ?_)
  extract_lets
  split
  · exact h.refuse
  · split
    · exact h.refuse
    · split
      · exact h.refuse
      · split
        · exact h.refuse
        · split
          · exact h.refuse
          · split
            · exact h.refuse
            · split
              · exact h.refuse
              · exact h.registerResult.succeed

theorem execResultAck_answers {p m} (h : Tidy cs s) : Answers cs (execResultAck p m s) :=
  .next (h.serve fun _ _ h => .ite h.refuse (.ite h.refuse (.ite h.refuse h.set.succeed)))

theorem execAssayConfig_answers {p m} (h : Tidy cs s) : Answers cs (execAssayConfig p m s) :=
  .next (h.serve fun _ _ h => .ite h.refuse (.ite h.refuse (.ite h.refuse h.set.succeed)))

theorem Tidy.setBudget {ms} (h : Tidy cs s) : Tidy cs (s.setBudget ms) := .ite h.set h.set

theorem execTimeConfig_answers {p m} (h : Tidy cs s) : Answers cs (execTimeConfig p m s) := by
  unfold execTimeConfig
  refine .next (.serve h fun t x h => ?_)
  extract_lets _ _ _ _ _ t1 t2
  have ht1 : Tidy cs t1 := h.journalCommand
  have ht2 : Tidy cs t2 := .ite ht1.setBudget ht1
  exact .ite h.refuse (.ite h.refuse (.ite h.refuse (.succeed (.ite ht2.set ht2))))

theorem execPulseConfig_answers {p m} (h : Tidy cs s) : Answers cs (execPulseConfig p m s) :=
  .next (h.serve fun _ _ h => .ite h.refuse (.ite h.refuse (.ite h.journalCommand.set.succeed h.refuse)))

theorem Tidy.readWords {p} : ∀ {n s off}, Tidy cs s → Tidy cs (State.readWords s p off n).1
  | 0, _, _, h => h
  | _ + 1, _, _, h => by
    rw [State.readWords]
    exact readWords h.readBar0

theorem execReadCounters_answers {p m} (h : Tidy cs s) : Answers cs (execReadCounters p m s) :=
  .next (h.serve fun _ _ h => .ite h.refuse (.ite h.refuse h.readWords.succeed))

theorem execReadErrors_answers {p m} (h : Tidy cs s) : Answers cs (execReadErrors p m s) :=
  .next (h.serve fun _ _ h => .ite h.refuse (.ite h.refuse h.complete))

theorem execGrantRole_answers {p m} (h : Tidy cs s) : Answers cs (execGrantRole p m s) :=
  .next (h.serve fun _ _ h => .ite h.refuse (.ite h.refuse (.ite h.refuse (.ite h.refuse h.onPort.committed.succeed))))

theorem execPowerCap_answers {p m} (h : Tidy cs s) : Answers cs (execPowerCap p m s) :=
  .next (h.serve fun _ _ h => .ite h.refuse (.ite h.refuse h.journalCommand.set.succeed))

end Sys2Proof.Machine
end

/-! SUPPORT. What every command keeps: resets, management, boundaries and the clock. -/

section
namespace Sys2Proof.Machine

open Sys2Proof

variable {cs : List Instr} {s t : State}

/-! Resets -/

theorem Tidy.failBlock {b} (h : Tidy cs s) : Tidy cs (s.failBlock b) := h.onBlock.addRepair.log.endOfLife

theorem Tidy.repairCell {b c} (h : Tidy cs s) : Tidy cs (s.repairCell b c) := by
  unfold State.repairCell
  extract_lets
  split
  · exact h
  · split
    · exact h.onBlock.addRepair
    · extract_lets _ t
      have ht : Tidy cs t := h.onBlock.addRepair
      exact .ite (.ite ht.endOfLife ht) h.onBlock.addRepair.failBlock

theorem Tidy.keepMem {keep} (h : Tidy cs s) : Tidy cs (s.keepMem keep) := .setMem h (wf_filter _ h.mem)

theorem Tidy.zeroOnDie (h : Tidy cs s) : Tidy cs s.zeroOnDie := by
  obtain ⟨waiting, mem, _⟩ := h.keepMem (keep := fun a => !onDie a)
  exact ⟨waiting, mem, rfl⟩

theorem Tidy.clearBlock {b} (h : Tidy cs s) : Tidy cs (s.clearBlock b) := h.keepMem.onBlock
theorem Tidy.darkenLink {l} (h : Tidy cs s) : Tidy cs (s.darkenLink l) := .leaveParent (.onLink (.ite h.startGrace h))

theorem Tidy.clearRegion {r} (h : Tidy cs s) : Tidy cs (s.clearRegion r) := by
  have emptied {t : State} (keep : Nat × Byte → Bool) (h : Tidy cs t) : Tidy cs { t with egress := t.egress.filter keep } := by
    obtain ⟨waiting, mem, egress⟩ := h
    exact ⟨waiting, mem, wf_filter keep egress⟩
  unfold State.clearRegion
  extract_lets _ t
  have ht : Tidy cs t := .set h.onRegion
  exact .ite (.foldl ht fun _ _ h => h.clearBlock) (.ite (.foldl (emptied _ ht.onNet) fun _ _ h => h.darkenLink) (.ite ht.keepMem.onStack ht))

theorem Tidy.clearJob (h : Tidy cs s) : Tidy cs s.clearJob := .set (.foldl h.endJob.zeroOnDie.set fun _ _ h => h.darkenLink)

theorem Tidy.clearWide {reach} (h : Tidy cs s) : Tidy cs (s.clearWide reach) := by
  obtain ⟨waiting, mem, _⟩ := h.keepMem (keep := fun a => decide (reach = 3) && !onDie a)
  exact ⟨waiting, mem, rfl⟩

theorem Tidy.assertReset {x} (h : Tidy cs s) : Tidy cs (s.assertReset x) := by
  unfold State.assertReset
  extract_lets _ _ _ t
  have ht : Tidy cs t := h.set
  exact .ite ht.clearWide (.ite ht.clearJob ht)

theorem Tidy.releaseReset {x} (h : Tidy cs s) : Tidy cs (s.releaseReset x) := h.set

theorem execPowerGood_answers {inRegulation} (h : Tidy cs s) : Answers cs (execPowerGood inRegulation s) := by
  unfold execPowerGood
  extract_lets _ t
  have ht : Tidy cs t := h.set
  exact .next (.ite ht.releaseReset (.ite ht.assertReset ht))

theorem execSupplyMonitor_answers {fault} (h : Tidy cs s) : Answers cs (execSupplyMonitor fault s) := .next (.ite h.set.assertReset h.releaseReset)
theorem execRstN_answers {low} (h : Tidy cs s) : Answers cs (execRstN low s) := .ite (.next h.assertReset.set) (.next h.releaseReset)
theorem Tidy.excursion {celsius} (h : Tidy cs s) : Tidy cs (s.excursion celsius) := .ite h.set h.set

theorem execThermalTrip_answers {hot} (h : Tidy cs s) : Answers cs (execThermalTrip hot s) :=
  .ite (.next (.assertReset (.ite h h.excursion))) (.next h.releaseReset)

theorem execWatchdog_answers (h : Tidy cs s) : Answers cs (execWatchdog s) := .ite (.next h.assertReset) (.next h)

theorem Tidy.unitReset {x f} (h : Tidy cs s) (hf : ∀ t, Tidy cs t → Tidy cs (f t)) : Tidy cs (s.unitReset x f) := by
  unfold State.unitReset
  extract_lets _ t t1
  have ht : Tidy cs t := h.assertReset
  have ht1 : Tidy cs t1 := hf _ ht
  exact .ite ht (.ite ht1.abortFor ht1)

theorem execFirmwareRegionReset_answers {r} (h : Tidy cs s) : Answers cs (execFirmwareRegionReset r s) :=
  .ite (.next (h.set.unitReset fun _ h => h.clearRegion)) (.next h)

theorem execFirmwareBlockReset_answers {b} (h : Tidy cs s) : Answers cs (execFirmwareBlockReset b s) :=
  .ite (.next (h.set.unitReset fun _ h => h.clearBlock)) (.next h)

theorem Tidy.setHotplug {hdr} (h : Tidy cs s) : Tidy cs (s.setHotplug hdr) := .ite h h.set.platform

theorem Tidy.absentRecord {ty} (h : Tidy cs s) : Tidy cs (s.absentRecord ty) := by
  unfold State.absentRecord
  extract_lets _ t
  have ht : Tidy cs t := h.set
  split
  · exact ht.endOfLife
  · exact ht.set
  · exact ht.set
  · exact ht.set
  · exact ht.set
  · exact ht.set
  · exact ht.set
  · exact ht.set
  · exact ht.set
  · exact ht.set
  · exact ht.set
  · exact ht.set
  · exact ht.set.set
  · exact ht.set
  · exact ht.set
  · exact ht

theorem Tidy.calibrate {x} (h : Tidy cs s) : Tidy cs (s.calibrate x) := by
  unfold State.calibrate
  split
  · extract_lets
    split
    · exact h
    · extract_lets _ t _ t1
      have ht : Tidy cs t := h.onRegion
      have ht1 : Tidy cs t1 := .ite ht.log ht
      exact .ite ht1.log ht1

theorem Tidy.storeXcal {delays} (h : Tidy cs s) : Tidy cs (s.storeXcal delays) := .ite h h.updateRecord
theorem Tidy.applyTemper {rebuilt r} (h : Tidy cs s) : Tidy cs (s.applyTemper rebuilt r) := .onRegion (.ite h.onTemper.committed h)
theorem Tidy.clockRegions (h : Tidy cs s) : Tidy cs s.clockRegions := .foldl h fun _ _ h => h.onRegion

theorem Tidy.applyRepairs {bad} (h : Tidy cs s) : Tidy cs (s.applyRepairs bad) :=
  .foldl (.foldl h fun _ _ h => .ite h.onBlock (.ite h.onBlock h)) fun _ _ h => h.repairCell

theorem Tidy.trainDdr {dimms failed} (h : Tidy cs s) : Tidy cs (s.trainDdr dimms failed) := by
  unfold State.trainDdr
  extract_lets _ _ t
  have ht : Tidy cs t := by
    refine .foldl h fun t x h => ?_
    extract_lets _ _ t1
    have ht1 : Tidy cs t1 := h.onChan
    exact .ite (.ite ht1 ht1.set.updateRecord) (.ite ht1.log ht1)
  exact .ite ht.platform ht

theorem Tidy.hardRepairs (h : Tidy cs s) : Tidy cs s.hardRepairs := .ite h.set h
theorem Tidy.senseFuses (h : Tidy cs s) : Tidy cs s.senseFuses := h.set
theorem Tidy.endEpisode (h : Tidy cs s) : Tidy cs s.endEpisode := h.set.committed

theorem Tidy.finishWide {x} (h : Tidy cs s) : Tidy cs (s.finishWide x) := by
  unfold State.finishWide
  extract_lets _ _ _ t1 _ _ _ _ _ _ _ _ t6
  have ht1 : Tidy cs t1 := h.set.endEpisode
  have ht6 : Tidy cs t6 := .set (.zeroOnDie (.committed (.committed (.set (.ite ht1.applyRepairs.trainDdr ht1)))))
  exact .renewLinks (.setHotplug (.ite ht6.hardRepairs ht6))

theorem Tidy.exitWide {x} (h : Tidy cs s) : Tidy cs (s.exitWide x) := by
  unfold State.exitWide
  extract_lets _ _ _ _ _ _ _ _ _ t2 _ _ _ _ t4 t5 _ t6 t7 t8 t9 t10 _ _ _ t14 _ _ t15
  have ht2 : Tidy cs t2 := .set (.set (.ite h.set h))
  have ht4 : Tidy cs t4 := .set (.ite (.foldl ht2 fun _ _ h => h.absentRecord) ht2)
  have ht5 : Tidy cs t5 := .ite ht4.platform ht4
  have ht6 : Tidy cs t6 := ht5.set
  have ht7 : Tidy cs t7 := .ite (.ite ht6.endOfLife ht6) ht5
  have ht8 : Tidy cs t8 := .ite ht7.senseFuses ht7
  have ht9 : Tidy cs t9 := .ite (.foldl ht8 fun _ _ h => h.onBlock) ht8
  have ht10 : Tidy cs t10 := by
    unfold t10
    split
    · exact .foldl ht9 fun t x h => h.applyTemper
    · exact ht9
  have ht14 : Tidy cs t14 := .foldl (.storeXcal (.foldl (.foldl ht10.clockRegions fun _ _ h => h.onRegion) fun _ _ h => h.calibrate)) fun _ _ h => h.onRegion
  have ht15 : Tidy cs t15 := ht14.set
  split
  · exact ht14.set.finishWide
  · exact .ite ht15.platform ht15

theorem Tidy.exitNarrow (h : Tidy cs s) : Tidy cs s.exitNarrow := by
  unfold State.exitNarrow
  extract_lets _ _ _ _ t2 t3 _ t5
  have ht2 : Tidy cs t2 := h.endEpisode.set.clockRegions
  have ht3 : Tidy cs t3 := .ite ht2 ht2.set
  have ht5 : Tidy cs t5 := .foldl (.ite (.foldl ht3 fun _ _ h => h.onLink) ht3) fun _ _ h => h.leaveDark
  split
  · split
    · exact ht5.set.complete
    · exact ht5
  · exact ht5

theorem execResetExit_answers {sight} (h : Tidy cs s) : Answers cs (execResetExit sight s) :=
  .ite (.next h) (.ite (.next h.exitWide) (.next h.exitNarrow))

theorem execRecoveryImagePost_answers {signed version} (h : Tidy cs s) : Answers cs (execRecoveryImagePost signed version s) := by
  unfold execRecoveryImagePost
  extract_lets
  split
  · exact .next h
  · exact .ite (.next h.set.finishWide) (.next h)

theorem execScrub_answers (h : Tidy cs s) : Answers cs (execScrub s) := .ite (.next h.zeroOnDie) (.next h)
theorem execScrubEnd_answers (h : Tidy cs s) : Answers cs (execScrubEnd s) := .ite (.next h.keepMem.set) (.ite (.next h.keepMem.set) (.next h))
theorem Tidy.abortOthers {keep} (h : Tidy cs s) : Tidy cs (s.abortOthers keep) := h.completeAll

theorem execReset_answers {p m} (h : Tidy cs s) : Answers cs (execReset p m s) :=
  .next (h.serve fun _ _ h => .ite h.succeed.set (.ite (.assertReset (.set (.abortOthers (.running (.ite h.sendFailing h))))) h.refuse))

theorem execAbortTimeout_answers {p} (h : Tidy cs s) : Answers cs (execAbortTimeout p s) := by
  unfold execAbortTimeout
  extract_lets
  exact .ite (.next h) (.ite (.next (.abortFinish (.set (.assertReset (.foldl h.abortOthers fun _ _ h => h.onPort))))) (.next (.abortFinish (.foldl h fun _ _ h => h.hardAbort))))

/-! Power, sensors and the chassis -/

theorem execPwrEnRise_answers (h : Tidy cs s) : Answers cs (execPwrEnRise s) := .ite (.next h) (.next h.set.assertReset)
theorem execPwrEnLow_answers (h : Tidy cs s) : Answers cs (execPwrEnLow s) := .ite (.next h.powerFails.clearWide.set) (.next h)

theorem execGatingFractionUpdate_answers {meanW hottest currentTrip} (h : Tidy cs s) : Answers cs (execGatingFractionUpdate meanW hottest currentTrip s) :=
  .next h.excursion.set

theorem execOverCurrentWarning_answers (h : Tidy cs s) : Answers cs (execOverCurrentWarning s) := .next h.set

theorem execSensorThresholdCrossing_answers {sensor critical} (h : Tidy cs s) : Answers cs (execSensorThresholdCrossing sensor critical s) :=
  .next h.platform

theorem Tidy.removalEnds (h : Tidy cs s) : Tidy cs s.removalEnds := by
  unfold State.removalEnds
  extract_lets t
  have ht : Tidy cs t := h.lasersOff
  exact .ite ht ht.set.setHotplug

theorem Tidy.sendRemoval (h : Tidy cs s) : Tidy cs s.sendRemoval := h.sendKept

theorem Tidy.latchRemoval (h : Tidy cs s) : Tidy cs s.latchRemoval := by
  unfold State.latchRemoval
  extract_lets _ _ _ t1 t2
  have ht1 : Tidy cs t1 := h.set.setHotplug.flushDeferred
  have ht2 : Tidy cs t2 := .ite ht1 ht1.sendRemoval
  exact .ite h (.ite ht1.removalEnds (.ite ht2.set.platform ht2))

theorem execAttnN_answers (h : Tidy cs s) : Answers cs (execAttnN s) := .ite (.next h.latchRemoval) (.next h)
theorem execSurpriseRemoval_answers (h : Tidy cs s) : Answers cs (execSurpriseRemoval s) := .next h.set.setHotplug.powerFails

/-! Management -/

theorem Tidy.vendorReply {code status body} (h : Tidy cs s) : Tidy cs (s.vendorReply code status body) := h.set
theorem Tidy.vendorFree {code} (h : Tidy cs s) : Tidy cs (s.vendorFree code) := h.set.vendorReply

theorem Tidy.vendor {code session deny effect} (h : Tidy cs s) (heffect : ∀ t, Tidy cs t → Tidy cs (effect t)) : Tidy cs (s.vendor code session deny effect) := by
  unfold State.vendor
  split
  · exact h
  · split
    · exact h.vendorReply
    · split
      · exact h.vendorReply
      · exact heffect _ h

theorem execGetInfo_answers (h : Tidy cs s) : Answers cs (execGetInfo s) := .next (.ite h.vendorReply h)

theorem Tidy.takePosition {key tag} (h : Tidy cs s) : Tidy cs (s.takePosition key tag) := by
  unfold State.takePosition
  extract_lets _ t
  have ht : Tidy cs t := h.set
  exact .setHotplug (.renewLinks (.computeRoutes (.ite ht.lasersOff ht)))

theorem execSetPosition_answers {session key tag} (h : Tidy cs s) : Answers cs (execSetPosition session key tag s) :=
  .next (h.vendor fun _ h => h.takePosition.vendorReply)

theorem execNameTimeMaster_answers {session key} (h : Tidy cs s) : Answers cs (execNameTimeMaster session key s) := by
  unfold execNameTimeMaster
  refine .next (.vendor h fun t h => ?_)
  extract_lets _ t1
  have ht1 : Tidy cs t1 := h.set.nameMaster
  exact .ite h.vendorFree (.vendorReply (.ite ht1.removalEnds ht1))

theorem execMgmtReset_answers {session kind} (h : Tidy cs s) : Answers cs (execMgmtReset session kind s) :=
  .next (h.vendor fun _ h => h.vendorReply.set)

theorem execMgmtUnloadPlan_answers {session} (h : Tidy cs s) : Answers cs (execMgmtUnloadPlan session s) :=
  .next (h.vendor fun _ h => .ite h.vendorReply h.unload.vendorReply)

theorem execSetPlanKeys_answers {session keys} (h : Tidy cs s) : Answers cs (execSetPlanKeys session keys s) :=
  .next (h.vendor fun _ h => .ite h.vendorFree (.vendorReply (.ite h.absentRecord h.updateRecord)))

theorem execProgramFuses_answers {session bank readBack} (h : Tidy cs s) : Answers cs (execProgramFuses session bank readBack s) :=
  .next (h.vendor fun _ h => h.set.vendorReply)

theorem execRaiseFloor_answers {session f} (h : Tidy cs s) : Answers cs (execRaiseFloor session f s) := .next (h.vendor fun _ h => h.set.vendorReply)

theorem execRequestRemoval_answers {session} (h : Tidy cs s) : Answers cs (execRequestRemoval session s) :=
  .next (h.vendor fun _ h => h.latchRemoval.vendorReply)

theorem Tidy.cancelRemoval (h : Tidy cs s) : Tidy cs s.cancelRemoval := h.set.setHotplug

theorem execCancelRemoval_answers {session} (h : Tidy cs s) : Answers cs (execCancelRemoval session s) :=
  .next (h.vendor fun _ h => .ite h.vendorFree (.ite h.vendorReply h.cancelRemoval.vendorReply))

theorem execGetNeighbours_answers (h : Tidy cs s) : Answers cs (execGetNeighbours s) := .next (.ite h.vendorReply h)

theorem execClearCause_answers {session mask} (h : Tidy cs s) : Answers cs (execClearCause session mask s) :=
  .next (h.vendor fun _ h => h.set.vendorReply)

theorem execPollPlatformEvent_answers {ack} (h : Tidy cs s) : Answers cs (execPollPlatformEvent ack s) := by
  unfold execPollPlatformEvent
  extract_lets
  split
  · exact .next h
  · split
    · exact .next h.set
    · exact .next h.set.set

theorem execFirmwareUpdate_answers {version verified} (h : Tidy cs s) : Answers cs (execFirmwareUpdate version verified s) :=
  .ite (.next h.updateRecord.set) (.next h)

theorem Tidy.spdmReply {what bytes} (h : Tidy cs s) : Tidy cs (s.spdmReply what bytes) := h.set
theorem Tidy.drawn (h : Tidy cs s) : Tidy cs s.drawn.1 := h.set

theorem execSpdmRequest_answers {r} (h : Tidy cs s) : Answers cs (execSpdmRequest r s) := by
  unfold execSpdmRequest
  extract_lets
  split
  · exact .next h
  · split
    · exact .next h.spdmReply
    · exact .next h.drawn.spdmReply
    · split
      · exact .next h.drawn.spdmReply
      · exact .next h.spdmReply
    · exact .ite (.next h.spdmReply) (.next h.set.drawn.spdmReply)
    · exact .ite (.next h.set.spdmReply) (.next h.spdmReply)
    · exact .next h.set.spdmReply

theorem execEntdaa_answers {address} (h : Tidy cs s) : Answers cs (execEntdaa address s) := .ite (.next h.set) (.next h)

/-! A step's boundary -/

theorem Tidy.restartCounters (h : Tidy cs s) : Tidy cs s.restartCounters := h.set

theorem Tidy.moveBlock {b} (h : Tidy cs s) : Tidy cs (s.moveBlock b) := by
  unfold State.moveBlock
  extract_lets
  split
  · exact h.copyMem.onBlock.onBlock
  · exact h

theorem Tidy.repairBlock {b} (h : Tidy cs s) : Tidy cs (s.repairBlock b) := by
  unfold State.repairBlock
  extract_lets _ t1 u
  have ht1 : Tidy cs t1 := .onBlock (.foldl h fun _ _ h => h.repairCell)
  have hu : Tidy cs u := ht1.moveBlock
  exact .ite h (.ite (.ite hu.sendKept hu) ht1)

theorem Tidy.needRestore (h : Tidy cs s) : Tidy cs s.needRestore := h.set.log

theorem Tidy.restoreRange {a n} (h : Tidy cs s) : Tidy cs (s.restoreRange a n) := by
  unfold State.restoreRange
  split
  · exact .ite h.needRestore h.healed
  · exact h.healed

theorem Tidy.recopyRow {a n} (h : Tidy cs s) : Tidy cs (s.recopyRow a n) :=
  .ite h.restoreRange (.ite (.healed (.foldl h fun _ _ h => h.copyMem)) h.set.relayFails.platform)

theorem Tidy.retireRow {i q} (h : Tidy cs s) : Tidy cs (s.retireRow i q) := .ite h.onStack.log.endOfLife.sendKept h.onStack.recopyRow.addRepair.log
theorem Tidy.repairStack {i} (h : Tidy cs s) : Tidy cs (s.repairStack i) := .onStack (.foldl h fun _ _ h => h.retireRow)
theorem Tidy.restoreFeed {place} (h : Tidy cs s) : Tidy cs (s.restoreFeed place) := .foldl h.set fun _ _ h => h.beginPull
theorem Tidy.repairRows {c} (h : Tidy cs s) : Tidy cs (s.repairRows c) := .ite h (.onChan (.foldl h fun _ _ h => h.addRepair))

theorem Tidy.repairChan {c} (h : Tidy cs s) : Tidy cs (s.repairChan c) := by
  unfold State.repairChan
  extract_lets _ t
  have ht : Tidy cs t := by
    refine .foldl h fun t x h => ?_
    split
    · exact .ite h.restoreFeed h.restoreRange
    · exact h
  exact ht.onChan.repairRows

theorem Tidy.recoveryDone {bits} (h : Tidy cs s) : Tidy cs (s.recoveryDone bits) := h.sendKept

theorem Tidy.localRepairs (h : Tidy cs s) : Tidy cs s.localRepairs := by
  unfold State.localRepairs
  extract_lets _ _ t2
  have ht2 : Tidy cs t2 := .foldl (.foldl (.foldl h fun _ _ h => h.repairBlock) fun _ _ h => h.repairStack) fun _ _ h => h.repairChan
  exact .ite ht2.recoveryDone (.ite ht2.recoveryDone h)

theorem Tidy.quiet (h : Tidy cs s) : Tidy cs s.quiet := .set (.restUnits (.foldl h fun _ _ h => h.retireWrites))
theorem Tidy.boundaryLinks (h : Tidy cs s) : Tidy cs s.boundaryLinks := h.set
theorem Tidy.jobState {before} (h : Tidy cs s) : Tidy cs (s.jobState before) := .ite h h.eventAll
theorem Tidy.produce {step x} (h : Tidy cs s) : Tidy cs (s.produce step x) := h.memChecks.set

theorem Tidy.replayCompare (h : Tidy cs s) : Tidy cs s.replayCompare := by
  unfold State.replayCompare
  extract_lets
  split
  · exact h
  · split
    · exact h
    · exact .ite h h.set.log

theorem Tidy.closeStep (h : Tidy cs s) : Tidy cs s.closeStep :=
  .set (.journalNow (.foldl (.foldl h.replayCompare fun _ _ h => h.produce) fun _ _ h => h.repairRows))

theorem Tidy.markAborted {step} (h : Tidy cs s) : Tidy cs (s.markAborted step) := .set (.foldl h fun _ _ h => h.storeItem)

theorem Tidy.abortLimits {cause} (h : Tidy cs s) : Tidy cs (s.abortLimits cause) := by
  unfold State.abortLimits
  extract_lets _ _ t _ _ t1
  have ht : Tidy cs t := h.set
  have ht1 : Tidy cs t1 := .ite ht.set.log ht
  exact .ite ht1.set.log ht1

theorem Tidy.logAbort (h : Tidy cs s) : Tidy cs s.logAbort := h.log.set

theorem Tidy.checkFeed (h : Tidy cs s) : Tidy cs s.checkFeed := by
  unfold State.checkFeed
  extract_lets
  split
  · exact h
  · split
    · exact h
    · exact .ite h.set.restoreFeed h

theorem Tidy.abortStep (h : Tidy cs s) : Tidy cs s.abortStep := by
  unfold State.abortStep
  dsimp only
  refine .localRepairs (.abortLimits ?_)
  generalize hl : (if (if bit s.sheaf.sampled 5 = true then s.fault.abort.getD .consensus else .consensus) == .consensus then s.logAbort else s) = l
  have logged : Tidy cs l := hl ▸ .ite h.logAbort h
  exact .set (.journalNow (.beginPull (.markAborted logged.quiet.checkFeed)))

theorem Tidy.noteInstall {before} (h : Tidy cs s) : Tidy cs (s.noteInstall before) := by
  unfold State.noteInstall
  extract_lets _ _ _ _ _ _ _ t1
  have ht1 : Tidy cs t1 := .set (.foldl h fun _ _ h => h.journalNow.log)
  exact .ite ht1.journalNow ht1

theorem Tidy.prepare {positions} (h : Tidy cs s) : Tidy cs (s.prepare positions) := by
  unfold State.prepare
  extract_lets _ t u v
  have ht : Tidy cs t := h.set
  have hu : Tidy cs u := ht.buildMap.loadTables
  have hv : Tidy cs v := .ite hu hu.loadInit
  split
  · exact h.setMem hv.mem
  · exact h

theorem execTableUpdate_answers {src gen form positions} (h : Tidy cs s) : Answers cs (execTableUpdate src gen form positions s) :=
  .ite (.next h.answer) (.ite (.next h) (.next h.prepare.set.answer))

theorem Tidy.takePlace {before} (h : Tidy cs s) : Tidy cs (s.takePlace before) := .ite h (.ite h.buildMap.loadTables (.ite h.buildMap.loadTables h))

theorem Tidy.install (h : Tidy cs s) : Tidy cs s.install := by
  unfold State.install
  extract_lets t
  have ht : Tidy cs t := h.setTables
  split
  · exact h
  · exact .ite h (.ite (.ite ht.set.stageLocalTable ht) h.set.setTables.set.noteInstall.takePlace)

theorem Tidy.switchPlan (h : Tidy cs s) : Tidy cs s.switchPlan := by
  unfold State.switchPlan
  extract_lets
  split
  · exact h
  · exact h.set.setTables.loadTables.journalNow

theorem Tidy.refillEnds (h : Tidy cs s) : Tidy cs s.refillEnds := .recoveryDone (.foldl h.set fun _ _ h => h.log)

/-! Ticks, the cutoff and segments -/

theorem Tidy.startUnits (h : Tidy cs s) : Tidy cs s.startUnits :=
  .foldl (.foldl (.set (.settleForward (.foldl h fun _ _ h => h.retireWrites))) fun _ _ h => h.beginBundle) fun _ _ h => h.beginWord

theorem Tidy.openStep (h : Tidy cs s) : Tidy cs s.openStep := h.set
theorem Tidy.commitTick (h : Tidy cs s) : Tidy cs s.commitTick := .ite h (.foldl h fun _ _ h => h.onStack)
theorem Tidy.sheafPulses (h : Tidy cs s) : Tidy cs s.sheafPulses := h.set

theorem Tidy.nextSheaf (h : Tidy cs s) : Tidy cs s.nextSheaf := by
  unfold State.nextSheaf
  extract_lets _ _ _ _ _ t2 t3
  have ht2 : Tidy cs t2 := .sheafPulses (.startUnits (.set (.ite h.openStep h)))
  have ht3 : Tidy cs t3 := .ite ht2.commitTick ht2
  exact .ite ht3.beginPull ht3

theorem Tidy.refillSheaf {i left} (h : Tidy cs s) : Tidy cs (s.refillSheaf i left) := h.set.startUnits.sheafPulses

theorem Tidy.boundarySheaf (h : Tidy cs s) : Tidy cs s.boundarySheaf :=
  .ite (.ite h.refillEnds.nextSheaf h.refillSheaf) (.ite (.ite h.refillEnds.nextSheaf h.refillSheaf) h.nextSheaf)

theorem Tidy.stopHere (h : Tidy cs s) : Tidy cs s.stopHere := h.set.endJob

theorem Tidy.leaveCoord (h : Tidy cs s) : Tidy cs s.leaveCoord := by
  unfold State.leaveCoord
  extract_lets
  split
  · split
    · exact h.follow.sendRemoval
    · exact h
  · exact h

theorem Tidy.atBoundaryTick (h : Tidy cs s) : Tidy cs s.atBoundaryTick := h.boundaryLinks.leaveCoord.servedRemovals
theorem Tidy.showPlace (h : Tidy cs s) : Tidy cs s.showPlace := .ite h h.setHotplug

theorem Tidy.startBoundary (h : Tidy cs s) : Tidy cs s.startBoundary := by
  unfold State.startBoundary
  extract_lets t
  have ht : Tidy cs t := h.atBoundaryTick.install
  exact .ite ht.endJob.removalEnds ht.switchPlan.boundarySheaf.showPlace

theorem Tidy.startTick (h : Tidy cs s) : Tidy cs s.startTick := by
  unfold State.startTick
  extract_lets t
  have ht : Tidy cs t := .ite h.closeStep h
  exact .ite ht.stopHere (.ite ht.startBoundary ht.nextSheaf)

theorem Tidy.countHeld {midStep} (h : Tidy cs s) : Tidy cs (s.countHeld midStep) := h.set
theorem Tidy.hostHeld (h : Tidy cs s) : Tidy cs s.hostHeld := .set (.foldl h fun _ _ h => .ite h.completeAll (.ite h h.completeAll))
theorem Tidy.saveCaptures (h : Tidy cs s) : Tidy cs s.saveCaptures := .ite h.set h

theorem Tidy.heldBoundary (h : Tidy cs s) : Tidy cs s.heldBoundary := by
  unfold State.heldBoundary
  extract_lets _ _ _ t2
  have ht2 : Tidy cs t2 := .saveCaptures (.hostHeld (.atBoundaryTick (.set (.ite h.refillEnds h))))
  exact .ite ht2.stopHere ht2

theorem Tidy.heldTick {done hold} (h : Tidy cs s) : Tidy cs (s.heldTick done hold) := by
  unfold State.heldTick
  extract_lets _ t1 t2
  have ht1 : Tidy cs t1 := .countHeld (.ite h.logOpen h)
  have ht2 : Tidy cs t2 := .ite ht1.closeStep ht1
  exact .ite ht2.heldBoundary (.ite ht2.stopHere ht2)

theorem Tidy.abortTick {done} (h : Tidy cs s) : Tidy cs (s.abortTick done) := by
  unfold State.abortTick
  extract_lets _ _ t _ t2
  have ht : Tidy cs t := h.countHeld
  have ht2 : Tidy cs t2 := .atBoundaryTick (.abortStep (.ite ht.closeStep ht))
  exact .ite h.set.countHeld (.ite ht2.stopHere ht2)

theorem Tidy.act (h : Tidy cs s) : Tidy cs s.act := .ite h.abortTick (.ite h.heldTick (.ite h.heldTick h.startTick))
theorem Tidy.passTick (h : Tidy cs s) : Tidy cs s.passTick := h.set
theorem Tidy.enterSegment {e p se} (h : Tidy cs s) : Tidy cs (s.enterSegment e p se) := h.set

theorem Tidy.beginJob (h : Tidy cs s) : Tidy cs s.beginJob := by
  unfold State.beginJob
  extract_lets _ _ _ _ _ _ _ _ _ _ t4
  have ht4 : Tidy cs t4 := h.restartCounters.set.set.rateForJob.journalNow
  exact .showPlace (.eventAll (.completeAll (.nextSheaf (.ite ht4.switchPlan ht4))))

theorem Tidy.waitTick (h : Tidy cs s) : Tidy cs s.waitTick := .ite h.abortTick h.heldTick
theorem Tidy.chooseAgain {e p se} (h : Tidy cs s) : Tidy cs (s.chooseAgain e p se) := .ite h h.chooseEpoch

theorem execTick_answers (h : Tidy cs s) : Answers cs (execTick s) := by
  unfold execTick
  extract_lets _ next wait
  have hnext : Tidy cs next := h.set
  have hwait : Tidy cs wait := hnext.waitTick.passTick.jobState
  split
  · exact .next h
  · split
    · extract_lets t
      have ht : Tidy cs t := h.enterSegment
      exact .ite (.next (.chooseAgain (.ite hwait h))) (.next (.ite ht.beginJob (.ite ht.act.passTick.jobState h)))
    · exact .next (.ite h (.ite hwait hnext.act.passTick.jobState))

theorem Tidy.raiseDeferred (h : Tidy cs s) : Tidy cs s.raiseDeferred := by
  unfold State.raiseDeferred
  extract_lets
  split
  · exact h.set
  · exact h

theorem Tidy.armHolds (h : Tidy cs s) : Tidy cs s.armHolds := h.set
theorem Tidy.feedHold (h : Tidy cs s) : Tidy cs s.feedHold := h.set
theorem Tidy.resultHold (h : Tidy cs s) : Tidy cs s.resultHold := h.set
theorem Tidy.journalHold (h : Tidy cs s) : Tidy cs s.journalHold := h.set
theorem Tidy.timeHold (h : Tidy cs s) : Tidy cs s.timeHold := h.set

theorem Tidy.tableHold (h : Tidy cs s) : Tidy cs s.tableHold := by
  unfold State.tableHold
  extract_lets _ t
  have ht : Tidy cs t := .ite h.offerUpdate (.ite h h.set)
  split
  · exact .ite ht.set ht.set
  · exact ht.set

theorem Tidy.replayHold (h : Tidy cs s) : Tidy cs s.replayHold := h.set

theorem Tidy.boundaryCutoff (h : Tidy cs s) : Tidy cs s.boundaryCutoff :=
  h.declareDue.attributeLinks.vote.raiseDeferred.armHolds.feedHold.resultHold.journalHold.timeHold.tableHold.replayHold

theorem Tidy.twinHold (h : Tidy cs s) : Tidy cs s.twinHold := .ite h.set h
theorem Tidy.resumed (h : Tidy cs s) : Tidy cs s.resumed := .ite h h.completeAll.set

theorem execSyncCutoff_answers (h : Tidy cs s) : Answers cs (execSyncCutoff s) := by
  unfold execSyncCutoff
  extract_lets t t1
  have ht : Tidy cs t := h.finalizeContrib.twinHold
  have ht1 : Tidy cs t1 := .resumed (.ite ht.boundaryCutoff ht)
  exact .ite (.next (.set (.ite ht1.relayRequest ht1))) (.next h)

theorem execConsensusLatch_answers (h : Tidy cs s) : Answers cs (execConsensusLatch s) := by
  unfold execConsensusLatch
  extract_lets _ _ t
  have ht : Tidy cs t := h.set
  exact .ite (.ite (.next ht.chooseEpoch) (.next ht)) (.next h)

/-! A period of the network clock -/

theorem Tidy.blockCycleOn {b} (h : Tidy cs s) : Tidy cs (s.blockCycleOn b) := by
  unfold State.blockCycleOn
  extract_lets _ _ t2
  have ht2 : Tidy cs t2 := h.finishChunks.onBlock.settle fun _ h => h.landArrivals
  exact .ite (.ite ht2.beginBundle ht2) h

theorem Tidy.stackCycleOn {i} (h : Tidy cs s) : Tidy cs (s.stackCycleOn i) := by
  unfold State.stackCycleOn
  extract_lets t
  have ht : Tidy cs t := h.onStack.stackCycle
  exact .ite (.ite ht.beginWord ht) h.onStack

theorem Tidy.netCycleOn {n} (h : Tidy cs s) : Tidy cs (s.netCycleOn n) := h.onRegion

theorem Tidy.regionCycle {r} (h : Tidy cs s) : Tidy cs (s.regionCycle r) := by
  unfold State.regionCycle
  extract_lets t
  have ht : Tidy cs t := h.onRegion
  exact .ite (.foldl ht fun _ _ h => h.blockCycleOn) (.ite ht.netCycleOn (.ite ht.stackCycleOn ht))

theorem Tidy.stalledPeriod {r} (h : Tidy cs s) : Tidy cs (s.stalledPeriod r) := by
  unfold State.stalledPeriod
  extract_lets _ _ _ t1
  have ht1 : Tidy cs t1 := h.onNet
  exact .ite (.foldl h.onRegion fun _ _ h => h.onBlock) (.ite (.ite ht1.onLink ht1) (.ite h.onRegion.onStack h))

theorem Tidy.refreshPeriod {i} (h : Tidy cs s) : Tidy cs (s.refreshPeriod i) := by
  unfold State.refreshPeriod
  extract_lets t
  have ht : Tidy cs t := h.onStack
  split
  · split
    · exact ht.refreshed.onStack
    · exact ht
  · exact ht

theorem Tidy.stallPeriod {r} (h : Tidy cs s) : Tidy cs (s.stallPeriod r) := .ite h.stalledPeriod h
theorem Tidy.runPeriod {r warned} (h : Tidy cs s) : Tidy cs (s.runPeriod r warned) := .regionCycle (.ite h.onRegion h)

theorem Tidy.regionPeriod {r} (h : Tidy cs s) : Tidy cs (s.regionPeriod r) := by
  unfold State.regionPeriod
  extract_lets _ t t1
  have ht : Tidy cs t := h.onRegion.releaseDue
  have ht1 : Tidy cs t1 := .ite ht.onRegion ht
  split
  · exact h
  · split
    · exact h.onRegion.stallPeriod
    · split
      · exact h.onRegion
      · exact .ite ht.onRegion.stallPeriod (.ite ht1.refreshPeriod.stallPeriod (.ite ht1.stalledPeriod ht1.runPeriod))

theorem Tidy.assertDue (h : Tidy cs s) : Tidy cs s.assertDue := .foldl h.set fun _ _ h => h.assertReset
theorem Tidy.endAborts (h : Tidy cs s) : Tidy cs s.endAborts := .foldl h fun _ _ h => .ite (.abortFinish (.ite h.sendFailing h)) h
theorem Tidy.landAll (h : Tidy cs s) : Tidy cs s.landAll := .settleForward (.foldl (.foldl h fun _ _ h => h.landArrivals) fun _ _ h => h.landStaged)

theorem Tidy.idle (h : Tidy cs s) : Tidy cs s.idle := by
  unfold State.idle
  extract_lets _ _ _ _ t3
  have ht3 : Tidy cs t3 := .landAll (.foldl h.assertDue.set.pulseEdges.endAborts.tryReport fun _ _ h => h.regionPeriod)
  exact .ite ht3.finalizeContrib ht3

/-! The step -/

/-- Every command answers a next state, and keeps the queue and the canonical form. -/
theorem exec_answers (c : Instr) (h : Tidy cs s) : Answers cs (exec c s) := by
  unfold exec
  cases c with
  | tick => exact execTick_answers h
  | syncCutoff => exact execSyncCutoff_answers h
  | consensusLatch => exact execConsensusLatch_answers h
  | heldTickLimit => exact execHeldTickLimit_answers h
  | segmentAnnouncement => exact execSegmentAnnouncement_answers h
  | segmentAcknowledgement => exact execSegmentAcknowledgement_answers h
  | epochNotAcknowledged => exact execEpochNotAcknowledged_answers h
  | nextArmWrite => exact execNextArmWrite_answers h
  | stagedTimeLoad => exact execStagedTimeLoad_answers h
  | captureRead => exact execCaptureRead_answers h
  | timeExchange => exact execTimeExchange_answers h
  | timeExchangeRequest link src msgId => exact execTimeExchangeRequest_answers (msgId := msgId) h
  | timeExchangeResponse => exact execTimeExchangeResponse_answers h
  | masterSequenceTimeout => exact execMasterSequenceTimeout_answers h
  | holdoverExpired => exact execHoldoverExpired_answers h
  | pulseEdge => exact execPulseEdge_answers h
  | tpulseCtrlWrite => exact execTpulseCtrlWrite_answers h
  | tcaptureEdge => exact execTcaptureEdge_answers h
  | marginMeasure => exact execMarginMeasure_answers h
  | droopWarning => exact execDroopWarning_answers h
  | crossingHold => exact execCrossingHold_answers h
  | leadHold => exact execLeadHold_answers h
  | crossingRelease => exact execCrossingRelease_answers h
  | temperSample => exact execTemperSample_answers h
  | temperWeekEnd => exact execTemperWeekEnd_answers h
  | temperWeekCommit => exact execTemperWeekCommit_answers h
  | chunk => exact execChunk_answers h
  | chunkEnd => exact execChunkEnd_answers h
  | drainTree => exact execDrainTree_answers h
  | drainVec => exact execDrainVec_answers h
  | drainSram => exact execDrainSram_answers h
  | vadd => exact execVadd_answers h
  | vsub => exact execVsub_answers h
  | vmul => exact execVmul_answers h
  | vfma => exact execVfma_answers h
  | vmin => exact execVmin_answers h
  | vmax => exact execVmax_answers h
  | vcmp => exact execVcmp_answers h
  | vsel => exact execVsel_answers h
  | vmov => exact execVmov_answers h
  | vcvtNarrow => exact execVcvtNarrow_answers h
  | vcvtWide => exact execVcvtWide_answers h
  | vexp => exact execVexp_answers h
  | vlog => exact execVlog_answers h
  | vrcp => exact execVrcp_answers h
  | vrsqrt => exact execVrsqrt_answers h
  | vtanh => exact execVtanh_answers h
  | viadd => exact execViadd_answers h
  | tadd => exact execTadd_answers h
  | taddi => exact execTaddi_answers h
  | tload => exact execTload_answers h
  | tstore => exact execTstore_answers h
  | ttov => exact execTtov_answers h
  | vtot => exact execVtot_answers h
  | ldOpb => exact execLdOpb_answers h
  | ldV => exact execLdV_answers h
  | stV => exact execStV_answers h
  | hbmRd => exact execHbmRd_answers h
  | hbmWr => exact execHbmWr_answers h
  | egress => exact execEgress_answers h
  | xfer => exact execXfer_answers h
  | wait => exact execWait_answers h
  | waitFirst => exact execWaitFirst_answers h
  | waitProceed => exact execWaitProceed_answers h
  | signal => exact execSignal_answers h
  | readT => exact execReadT_answers h
  | sample => exact execSample_answers h
  | loopBegin => exact execLoopBegin_answers h
  | loopEnd => exact execLoopEnd_answers h
  | sheafEnd => exact execSheafEnd_answers h
  | instructionStall => exact execInstructionStall_answers h
  | streamFetch => exact execStreamFetch_answers h
  | vectorLanding => exact execVectorLanding_answers h
  | add => exact execAdd_answers h
  | sub => exact execSub_answers h
  | mul => exact execMul_answers h
  | fma => exact execFma_answers h
  | axpby => exact execAxpby_answers h
  | min => exact execMin_answers h
  | max => exact execMax_answers h
  | cvt => exact execCvt_answers h
  | quantMx => exact execQuantMx_answers h
  | div => exact execDiv_answers h
  | sqrt => exact execSqrt_answers h
  | rowsum => exact execRowsum_answers h
  | rowmax => exact execRowmax_answers h
  | accum => exact execAccum_answers h
  | copy => exact execCopy_answers h
  | gather => exact execGather_answers h
  | stageLocal => exact execStageLocal_answers h
  | stageReduce => exact execStageReduce_answers h
  | adamw => exact execAdamw_answers h
  | adam => exact execAdam_answers h
  | sgdm => exact execSgdm_answers h
  | trustNorm => exact execTrustNorm_answers h
  | trustApply => exact execTrustApply_answers h
  | stackWait => exact execStackWait_answers h
  | stackLoopBegin => exact execStackLoopBegin_answers h
  | stackLoopEnd => exact execStackLoopEnd_answers h
  | stackSheafEnd => exact execStackSheafEnd_answers h
  | refreshDebtIncrement => exact execRefreshDebtIncrement_answers h
  | autonomousRefresh => exact execAutonomousRefresh_answers h
  | tierMoveStart => exact execTierMoveStart_answers h
  | tierMoveComplete => exact execTierMoveComplete_answers h
  | backgroundMove => exact execBackgroundMove_answers h
  | send => exact execSend_answers h
  | cut => exact execCut_answers h
  | stageFwd => exact execStageFwd_answers h
  | maint => exact execMaint_answers h
  | windowStall => exact execWindowStall_answers h
  | rotaFetch => exact execRotaFetch_answers h
  | forwardHold => exact execForwardHold_answers h
  | tableUpdate => exact execTableUpdate_answers h
  | tableAcknowledgement => exact execTableAcknowledgement_answers h
  | tableCommit => exact execTableCommit_answers h
  | tableResendRequest => exact execTableResendRequest_answers h
  | data => exact execData_answers h
  | bypass => exact execBypass_answers h
  | idle => exact execIdle_answers h
  | nakrec => exact execNakrec_answers h
  | train => exact execTrain_answers h
  | reservedTypePacket => exact execReservedTypePacket_answers h
  | replayTimeout => exact execReplayTimeout_answers h
  | rotaHold => exact execRotaHold_answers h
  | rotaHoldEnd => exact execRotaHoldEnd_answers h
  | bypassForwardTimeout => exact execBypassForwardTimeout_answers h
  | maintenanceRetrain => exact execMaintenanceRetrain_answers h
  | lightDetected => exact execLightDetected_answers h
  | fecLock => exact execFecLock_answers h
  | alignComplete => exact execAlignComplete_answers h
  | trainingTimeout => exact execTrainingTimeout_answers h
  | fastRetrainTimeout => exact execFastRetrainTimeout_answers h
  | lightLossTimeout => exact execLightLossTimeout_answers h
  | identity => exact execIdentity_answers h
  | identityRepeat => exact execIdentityRepeat_answers h
  | identityResult => exact execIdentityResult_answers h
  | linkMissingTimeout => exact execLinkMissingTimeout_answers h
  | laneFailure => exact execLaneFailure_answers h
  | linkDown => exact execLinkDown_answers h
  | graceExpired => exact execGraceExpired_answers h
  | failedLinkRetry => exact execFailedLinkRetry_answers h
  | probe => exact execProbe_answers h
  | linkEvent => exact execLinkEvent_answers h
  | relayHoldRequest => exact execRelayHoldRequest_answers h
  | relayFatalFault => exact execRelayFatalFault_answers h
  | assayParam => exact execAssayParam_answers h
  | assayVerdict => exact execAssayVerdict_answers h
  | twinContrib => exact execTwinContrib_answers h
  | twinResult => exact execTwinResult_answers h
  | twinWaitExpired => exact execTwinWaitExpired_answers h
  | assayAck => exact execAssayAck_answers h
  | messageRetry => exact execMessageRetry_answers h
  | coordBeatSend => exact execCoordBeatSend_answers h
  | coordBeat => exact execCoordBeat_answers h
  | coordBeatTimeout => exact execCoordBeatTimeout_answers h
  | failing => exact execFailing_answers h
  | refillOrder => exact execRefillOrder_answers h
  | exclude => exact execExclude_answers h
  | recoveryDone => exact execRecoveryDone_answers h
  | recoveryTimeout => exact execRecoveryTimeout_answers h
  | removal => exact execRemoval_answers h
  | join => exact execJoin_answers h
  | joinResult => exact execJoinResult_answers h
  | joinRetry => exact execJoinRetry_answers h
  | mgmt => exact execMgmt_answers h
  | mgmtSend => exact execMgmtSend_answers h
  | journalSpill => exact execJournalSpill_answers h
  | saveCaptureEnd => exact execSaveCaptureEnd_answers h
  | saveUploadComplete => exact execSaveUploadComplete_answers h
  | startReadinessReport => exact execStartReadinessReport_answers h
  | startWaitExpired => exact execStartWaitExpired_answers h
  | mbxPost => exact execMbxPost_answers h
  | abort => exact execAbort_answers h
  | abortTimeout => exact execAbortTimeout_answers h
  | feedPoll => exact execFeedPoll_answers h
  | resultWrite => exact execResultWrite_answers h
  | bar2Access => exact execBar2Access_answers h
  | portLinkDown => exact execPortLinkDown_answers h
  | portLinkUp => exact execPortLinkUp_answers h
  | portReset => exact execPortReset_answers h
  | registerWrite => exact execRegisterWrite_answers h
  | identify => exact execIdentify_answers h
  | getStatus => exact execGetStatus_answers h
  | loadPlan => exact execLoadPlan_answers h
  | verifyPlan => exact execVerifyPlan_answers h
  | unloadPlan => exact execUnloadPlan_answers h
  | bindMachine => exact execBindMachine_answers h
  | startJob => exact execStartJob_answers h
  | holdAtStep => exact execHoldAtStep_answers h
  | resume => exact execResume_answers h
  | stopJob => exact execStopJob_answers h
  | feedRegister => exact execFeedRegister_answers h
  | resultRegister => exact execResultRegister_answers h
  | resultAck => exact execResultAck_answers h
  | saveState => exact execSaveState_answers h
  | restoreState => exact execRestoreState_answers h
  | journalConfig => exact execJournalConfig_answers h
  | replayStart => exact execReplayStart_answers h
  | assayConfig => exact execAssayConfig_answers h
  | timeConfig => exact execTimeConfig_answers h
  | pulseConfig => exact execPulseConfig_answers h
  | readCounters => exact execReadCounters_answers h
  | readErrors => exact execReadErrors_answers h
  | grantRole => exact execGrantRole_answers h
  | powerCap => exact execPowerCap_answers h
  | reset => exact execReset_answers h
  | recoveryImagePost => exact execRecoveryImagePost_answers h
  | powerGood => exact execPowerGood_answers h
  | supplyMonitor => exact execSupplyMonitor_answers h
  | rstN => exact execRstN_answers h
  | thermalTrip => exact execThermalTrip_answers h
  | watchdog => exact execWatchdog_answers h
  | firmwareRegionReset => exact execFirmwareRegionReset_answers h
  | firmwareBlockReset => exact execFirmwareBlockReset_answers h
  | resetExit => exact execResetExit_answers h
  | scrub => exact execScrub_answers h
  | scrubEnd => exact execScrubEnd_answers h
  | norDeferExpiry => exact execNorDeferExpiry_answers h
  | repairFold => exact execRepairFold_answers h
  | granaryUpdate => exact execGranaryUpdate_answers h
  | powerFail => exact execPowerFail_answers h
  | powerReturn => exact execPowerReturn_answers h
  | countersCommit => exact execCountersCommit_answers h
  | laserCommit => exact execLaserCommit_answers h
  | rollbackRaise => exact execRollbackRaise_answers h
  | pwrEnRise => exact execPwrEnRise_answers h
  | pwrEnLow => exact execPwrEnLow_answers h
  | gatingFractionUpdate => exact execGatingFractionUpdate_answers h
  | attnN => exact execAttnN_answers h
  | surpriseRemoval => exact execSurpriseRemoval_answers h
  | getInfo => exact execGetInfo_answers h
  | setPosition => exact execSetPosition_answers h
  | nameTimeMaster => exact execNameTimeMaster_answers h
  | mgmtReset => exact execMgmtReset_answers h
  | mgmtUnloadPlan => exact execMgmtUnloadPlan_answers h
  | setPlanKeys => exact execSetPlanKeys_answers h
  | programFuses => exact execProgramFuses_answers h
  | raiseFloor => exact execRaiseFloor_answers h
  | requestRemoval => exact execRequestRemoval_answers h
  | cancelRemoval => exact execCancelRemoval_answers h
  | getNeighbours => exact execGetNeighbours_answers h
  | clearCause => exact execClearCause_answers h
  | pollPlatformEvent => exact execPollPlatformEvent_answers h
  | firmwareUpdate => exact execFirmwareUpdate_answers h
  | spdmRequest => exact execSpdmRequest_answers h
  | entdaa => exact execEntdaa_answers h
  | illegalBundle => exact execIllegalBundle_answers h
  | illegalStackInstruction => exact execIllegalStackInstruction_answers h
  | packetPosition => exact execPacketPosition_answers h
  | packetCrcFailure => exact execPacketCrcFailure_answers h
  | plannedRefresh => exact execPlannedRefresh_answers h
  | sensorThresholdCrossing => exact execSensorThresholdCrossing_answers h
  | overCurrentWarning => exact execOverCurrentWarning_answers h

/-- Settles O56: what each command answers is tidy (`exec_answers`), and so is an idle period of the clock (`Tidy.idle`). -/
theorem everyStepKeepsCanonicalMemory : Obligations.EveryStepKeepsCanonicalMemory := by
  intro s t inv next
  unfold step at next
  split at next
  · rename_i c rest _
    obtain ⟨u, answered, _, kept⟩ := exec_answers c (show Tidy rest { s with pending := rest } from ⟨rfl, inv⟩)
    rw [← Host.Outcome.next.inj (answered.symm.trans next)]
    exact kept
  · have idles : Tidy s.pending s.idle := Tidy.idle ⟨rfl, inv⟩
    rw [← Host.Outcome.next.inj next]
    exact idles.2

end Sys2Proof.Machine
end

/-! SUPPORT. The tier-move engines (R182, R198 to R204): a run of bytes copied, what a move's data, errors and count leave: O5. -/

section
namespace Sys2Proof.Machine

open Sys2Proof

-- Each default of a relation is a tactic that waits for all earlier declarations: one proof at a time.
set_option Elab.async false

/-! A run of bytes copied -/

section
variable {α : Type}

theorem rising_bound : ∀ {m : Sparse α} {lo : Nat}, rising lo m = true → ∀ p ∈ m, lo ≤ p.1
  | [], _, _, _, inside => nomatch inside
  | (k, v) :: m, lo, up, p, inside => by
    simp only [rising, Bool.and_eq_true, decide_eq_true_eq] at up
    rcases List.mem_cons.mp inside with rfl | later
    · exact up.1
    · exact Nat.le_of_succ_le (Nat.le_trans (Nat.succ_le_succ up.1) (rising_bound up.2 p later))

end

section
variable {src dst x : Nat}

/-- Bytes put at other places than `x`. -/
theorem readByte_foldl_other (l acc : Memory) (apart : ∀ p ∈ l, dst + (p.1 - src) ≠ x) :
    readByte (l.foldl (fun acc p => writeByte acc (dst + (p.1 - src)) p.2) acc) x = readByte acc x :=
  List.foldlRecOn (motive := fun t => readByte t x = readByte acc x) l _ rfl fun _ same p inside =>
    (readByte_writeByte_other _ p.2 (apart p inside).symm).trans same

/-- Bytes of a table put each at its offset from another base, over zeros: a byte there is the table's byte of that offset. -/
theorem readByte_foldl_shift : ∀ (l acc : Memory) {lo : Nat}, rising lo l = true → (∀ p ∈ l, src ≤ p.1) → dst ≤ x → readByte acc x = 0 →
    readByte (l.foldl (fun acc p => writeByte acc (dst + (p.1 - src)) p.2) acc) x = readByte l (src + (x - dst))
  | [], _, _, _, _, _, blank => blank
  | (k, v) :: l, acc, lo, up, above, inside, blank => by
    simp only [rising, Bool.and_eq_true, decide_eq_true_eq] at up
    obtain ⟨here, rest⟩ := List.forall_mem_cons.mp above
    dsimp only at here
    rw [List.foldl_cons, readByte, readByte, get_cons]
    by_cases hit : src + (x - dst) = k
    · have later := rising_bound up.2
      have place : x = dst + (k - src) := by omega
      rw [if_pos hit]
      refine (readByte_foldl_other l _ fun p member => ?_).trans ?_
      · have := later p member
        omega
      · rw [place]
        exact readByte_writeByte_same acc _ v
    · rw [if_neg hit]
      refine readByte_foldl_shift l _ up.2 rest inside ?_
      exact (readByte_writeByte_other acc v (by dsimp only; omega)).trans blank

/-- A copied run: the source's bytes where they may be read, zeros where they may not; every other byte stays. -/
theorem readByte_copySpan {m : Memory} (canonical : Memory.wf m = true) (src dst n : Nat) (ok into : Nat → Bool) (x : Nat) :
    readByte (copySpan m src dst n ok into) x =
      if dst ≤ x ∧ x < dst + n ∧ into x = true then (if ok (src + (x - dst)) then readByte m (src + (x - dst)) else 0)
      else readByte m x := by
  have kept := readByte_filter m (fun y => !(decide (dst ≤ y) && decide (y < dst + n) && into y)) x
  have taken := readByte_filter m (fun y => decide (src ≤ y) && decide (y < src + n) && ok y && into (dst + (y - src))) (src + (x - dst))
  have up : rising 0 m = true := by
    simp only [Memory.wf, canon, Bool.and_eq_true] at canonical
    exact canonical.1
  unfold copySpan
  by_cases target : dst ≤ x ∧ x < dst + n ∧ into x = true
  · obtain ⟨low, high, written⟩ := target
    have source : dst + (src + (x - dst) - src) = x := by omega
    rw [if_neg (by simp [low, high, written])] at kept
    rw [if_pos ⟨low, high, written⟩, readByte_foldl_shift _ _ (rising_filter _ up) (fun p member => by simp at member; omega) low kept, taken, source,
      written]
    simp only [Nat.le_add_right, decide_true, Nat.add_lt_add_iff_left, show x - dst < n by omega, Bool.true_and, Bool.and_true]
  · have stays : (!(decide (dst ≤ x) && decide (x < dst + n) && into x)) = true := by
      simp only [Bool.not_eq_true', ← Bool.not_eq_true, Bool.and_eq_true, decide_eq_true_eq, and_assoc]
      exact target
    rw [if_neg target, readByte_foldl_other _ _ fun p member place => ?_, kept, if_pos stays]
    simp only [List.mem_filter, Bool.and_eq_true, decide_eq_true_eq] at member
    obtain ⟨_, ⟨⟨low, high⟩, _⟩, written⟩ := member
    exact target ⟨by omega, by omega, place ▸ written⟩

end

/-! The course of a step and the channels -/

/-- The DDR5 channels stay, and so does what decides whether an error aborts (R37). -/
structure Carries (s t : State) : Prop where
  ddr : t.ddr = s.ddr := by rfl
  relay : t.relay = s.relay := by rfl
  inCommit : t.inCommit = s.inCommit := by rfl

theorem Carries.refl (s : State) : Carries s s := {}

theorem Carries.trans {s t u : State} (h : Carries s t) (k : Carries t u) : Carries s u where
  ddr := k.ddr.trans h.ddr
  relay := k.relay.trans h.relay
  inCommit := k.inCommit.trans h.inCommit

theorem Carries.chan {s t : State} (h : Carries s t) (c : Nat) : t.chan c = s.chan c := by rw [State.chan, State.chan, h.ddr]

theorem Errs.carries {s t : State} (h : Errs s t) : Carries s t := by
  obtain ⟨_, _, _, _, _, _, _, _, _, _, _, _, _, rfl⟩ := h
  exact {}

section
variable (s : State)

theorem retireWrites_carries (i cycle : Nat) : Carries s (s.retireWrites i cycle) :=
  (foldl_related (f := fun t (w : StackWrite) => t.poke w.addr w.bytes) Carries.refl Carries.trans (fun _ _ => {}) _ s).trans {}

/-! The data of a move -/

theorem moveData_carries (m : TierMove) : Carries s (s.moveData m) := by
  unfold State.moveData
  dsimp only
  split
  · exact {}
  · exact (foldl_related Carries.refl Carries.trans
      (fun t _ => (retireWrites_carries t _ _).trans (stackCheck_errs _ _ _ _ _ _ _ _).carries) _ s).trans {}

theorem retireWrites_none {i : Nat} (none : (s.stack i).writes = []) (cycle : Nat) :
    ∃ f, s.retireWrites i cycle = s.onStack i f ∧ (f (s.stack i)).writes = [] := by
  unfold State.retireWrites
  simp only [none, List.filter_nil, List.foldl_nil]
  exact ⟨_, rfl, congrArg _ none⟩

end

section
variable {s : State} {a n : Nat} (sound : s.weakness a n = 0)
include sound

/-- No part of a sound run has a unit in error. -/
theorem weakness_part {b k : Nat} (low : a ≤ b) (high : b + k ≤ a + n) : s.weakness b k = 0 := by
  have ⟨_, clean⟩ := foldl_max_eq_zero (fun u : Nat × Nat => u.2) _ _ sound
  refine List.foldlRecOn (motive := fun m => m = 0) _ _ rfl fun m zero u found => ?_
  have unit : u ∈ s.badUnits a n := by
    simp only [State.badUnits, meetsUnit, List.mem_filter, Bool.and_eq_true, decide_eq_true_eq] at found ⊢
    exact ⟨found.1, by omega, by omega⟩
  rw [zero, clean u unit]
  rfl

theorem stackCheck_sound (i : Nat) (wide : Bool) (requester line e : Nat) : s.stackCheck i a n wide requester line e = s := by
  have clean : s.stackCorrect i a n e = s := by rw [State.stackCorrect, corrections_sound sound]; rfl
  rw [State.stackCheck, clean, lostUnits_sound sound]
  rfl

end

theorem hbmParts_within {a n : Nat} : ∀ x ∈ hbmParts a n, a ≤ x.1 ∧ x.1 + x.2 ≤ a + n := by
  intro x inside
  simp only [hbmParts, List.mem_filter, List.mem_cons, List.not_mem_nil, or_false] at inside
  have least : Nat.min n (2 ^ 30 - a % 2 ^ 30) ≤ n := Nat.min_le_left _ _
  obtain ⟨rfl | rfl, _⟩ := inside <;> dsimp only <;> omega

/-- Nothing that a read of HBM through the interface can touch differs: the bytes and their errors, the channels, what is posted. -/
structure ReadsAlike (s t : State) : Prop where
  mem : t.mem = s.mem
  weak : t.weak = s.weak
  ddr : t.ddr = s.ddr
  writes : ∀ i, (t.stack i).writes = []

/-- A sound source behind stacks that have posted nothing is read as it stands (R201). -/
theorem moveData_fromHbm {s : State} {m : TierMove} (from_ : m.toHbm = false) (sound : s.weakness m.hbmAddr (2048 * m.units) = 0)
    (none : ∀ i, (s.stack i).writes = []) :
    (s.moveData m).mem = copySpan s.mem m.hbmAddr m.ddrAddr (2048 * m.units) isHbm (s.ddrReaches m.engine) := by
  unfold State.moveData
  dsimp only
  rw [from_]
  show copySpan (List.foldl _ s _).mem _ _ _ _ _ = _
  refine congrArg (fun t : Memory => copySpan t _ _ _ _ _) ?_
  refine (List.foldlRecOn (motive := ReadsAlike s) _ _ ⟨rfl, rfl, rfl, none⟩ fun t alike x part => ?_).mem
  obtain ⟨low, high⟩ := hbmParts_within x part
  obtain ⟨f, retired, empty⟩ := retireWrites_none t (alike.writes (stackOf x.1)) (t.cyc (stackRegion (stackOf x.1)) + 18)
  rw [retired]
  have clean : (t.onStack (stackOf x.1) f).weakness x.1 x.2 = 0 := by
    rw [← weakness_part sound low high]
    show List.foldl _ 0 (List.filter _ t.weak) = _
    rw [alike.weak]
    rfl
  rw [stackCheck_sound clean]
  refine ⟨alike.mem, alike.weak, alike.ddr, fun i => ?_⟩
  by_cases same : i = stackOf x.1
  · rw [same, stack_onStack_same]
    exact empty
  · rw [stack_onStack_other _ _ same]
    exact alike.writes i

/-! The count of a move in its group (R139, R142, R202) -/

theorem bit_setBit_of_bit {n : Nat} {x : BitVec n} {j : Nat} (stands : bit x j = true) (i : Nat) : bit (setBit x i) j = true := by
  rw [bit, setBit, BitVec.getLsbD_or, show x.getLsbD j = true from stands, Bool.true_or]

theorem have_bump_same (g : Groups) (n : Nat) : (g.bump n).have n = g.have n + 1 := by
  rw [Groups.have, Groups.bump, get_put_same]

section
variable (s : State) (m : TierMove)

theorem countStack_errs (i g : Nat) : Errs s (s.countStack i g) := by
  unfold State.countStack
  split
  · exact (onStack_errs s i _).trans ((stackErr_errs _ _ _ _ _).trans (hardError_errs _ _))
  · exact onStack_errs s i _

theorem countBlock_errs (b g requester : Nat) : Errs s (s.countBlock b g requester) := by
  unfold State.countBlock
  split
  · exact (log_logs s _).errs
  · split
    · exact (onBlock_errs s b _).trans ((blockErr_errs _ _ _).trans (stepError_errs _ _))
    · exact onBlock_errs s b _

theorem moveCounts_errs : Errs s (s.moveCounts m) := by
  unfold State.moveCounts
  split
  · exact countStack_errs s _ _
  · split
    · exact countBlock_errs s _ _ _
    · exact Errs.refl s

/-- A group of a stack that has room takes the count. -/
theorem moveCounts_room {s : State} {m : TierMove} (stack : m.toStack = true)
    (room : (s.stack m.targetUnit).groups.have m.group < (s.stack m.targetUnit).groups.expect m.group) :
    s.moveCounts m = s.onStack m.targetUnit (fun k => { k with groups := k.groups.bump m.group }) := by
  have unfilled : (s.stack m.targetUnit).groups.full m.group = false := decide_eq_false (Nat.not_le.mpr room)
  rw [State.moveCounts, if_pos stack, State.countStack, unfilled]
  rfl

variable {s}

/-- An abort that is set stays: a count that its group cannot take sets one itself. -/
theorem moveCounts_aborts (compute : s.relay = false) (before : s.inCommit = false) (aborts : s.fault.abort.isSome = true) :
    (s.moveCounts m).fault.abort.isSome = true := by
  unfold State.moveCounts
  split
  · unfold State.countStack
    split
    · exact hardError_aborts _ compute before
    · exact aborts
  · split
    · unfold State.countBlock
      split
      · rw [State.turnedAway, log_abort]
        exact aborts
      · split
        · exact (badArrival_fails s _ _ 0 compute before).2.2.1
        · exact aborts
    · exact aborts

theorem stack_onStack_err {i j x : Nat} {f : Stack → Stack} (stands : bit (s.stack i).err j = true)
    (keeps : bit (s.stack i).err j = true → bit (f (s.stack i)).err j = true) : bit ((s.onStack x f).stack i).err j = true := by
  by_cases same : i = x
  · rw [← same, stack_onStack_same]
    exact keeps stands
  · rw [stack_onStack_other s f same]
    exact stands

/-- Errors of a stack that stand stay. -/
theorem moveCounts_err {i j : Nat} (stands : bit (s.stack i).err j = true) : bit ((s.moveCounts m).stack i).err j = true := by
  unfold State.moveCounts
  split
  · unfold State.countStack
    split
    · rw [State.badStackArrival, stack_eq_of_stks (hardError_notes _ _).stks i]
      exact stack_onStack_err (stack_onStack_err stands id) fun h => bit_setBit_of_bit h 5
    · exact stack_onStack_err stands id
  · split
    · rename_i b _
      have block : (s.countBlock b m.group ioRegion).stks = s.stks := by
        unfold State.countBlock
        split
        · exact (log_notes s _).stks
        · split
          · exact (stepError_notes _ _).stks
          · rfl
      rw [stack_eq_of_stks block]
      exact stands
    · exact stands

end

/-! The errors of a move's source (R182, R204) -/

section
variable {s : State} {m : TierMove}

/-- A move whose DDR5 source has no unit in error, and a move from HBM, meet none. -/
theorem moveLost_sound (sound : m.toHbm = true → s.weakness m.ddrAddr (2048 * m.units) = 0) : s.moveLost m = [] ∧ s.moveCorrected m = 0 := by
  unfold State.moveLost State.moveCorrected
  split
  · have ⟨_, clean⟩ := foldl_max_eq_zero (fun u : Nat × Nat => u.2) _ _ (sound ‹_›)
    refine ⟨by rw [lostUnits_sound (sound ‹_›)]; rfl, ?_⟩
    rw [List.length_eq_zero_iff, List.filter_eq_nil_iff]
    intro u found
    simp [clean u found]
  · exact ⟨rfl, rfl⟩

/-- The channel of a move whose DDR5 source has an error that is named at no unit (R204): it stands at the move's own address. -/
def State.ddrNamed (s : State) (c : Nat) (m : TierMove) : State :=
  (s.ddrUe c m.ddrAddr).onChan c (fun k => { k with restore := k.restore ++ [m.ddrAddr] })

/-- Such an error aborts the step (R204, R331). -/
theorem moveErrors_named (c : Nat) : s.moveErrors c m true [] 0 = (s.ddrNamed c m).hardError ((s.ddrNamed c m).ddrEntry c) := rfl

theorem moveErrors_tells (c : Nat) (compute : s.relay = false) (before : s.inCommit = false) :
    let t := s.moveErrors c m true [] 0
    (t.chan c).ue = true ∧ m.ddrAddr ∈ (t.chan c).restore ∧ (t.chan c).moves = (s.chan c).moves ∧ t.fault.abort.isSome = true ∧
      t.relay = false ∧ t.inCommit = false := by
  have told := hardError_notes (s.ddrNamed c m) ((s.ddrNamed c m).ddrEntry c)
  have marked : (s.ddrNamed c m).chan c = { s.chan c with
      ueAddr := ((s.ddrNamed c m).chan c).ueAddr, ue := true, ueRows := ((s.ddrNamed c m).chan c).ueRows
      restore := (s.chan c).restore ++ [m.ddrAddr] } := by
    rw [State.ddrNamed, chan_onChan_same, State.ddrUe, chan_onChan_same]
  have chan : (s.moveErrors c m true [] 0).chan c = (s.ddrNamed c m).chan c := by
    rw [moveErrors_named, State.chan, told.ddr]
    rfl
  refine ⟨?_, ?_, ?_, hardError_aborts _ compute before, told.relay.trans compute, told.inCommit.trans before⟩ <;> rw [chan, marked]
  exact List.mem_append_right _ List.mem_cons_self

theorem hbmParts_first {a n : Nat} (some : 0 < n) (inside : a < hbmSize) : ∃ k rest, hbmParts a n = (a, k) :: rest := by
  have part : min n (2 ^ 30 - a % 2 ^ 30) ≠ 0 := by omega
  unfold hbmParts
  rw [List.filter_cons_of_pos (by rw [isHbm, decide_eq_true inside, Bool.and_true]; exact bne_iff_ne.mpr part)]
  exact ⟨_, _, rfl⟩

/-- An error of the move's HBM source that the state does not show (R182): it stands on the interface path, and the step is to abort. -/
theorem sourceLost_tells (units : 0 < m.units) (inside : m.hbmAddr < hbmSize) (compute : s.relay = false) (before : s.inCommit = false) :
    bit ((s.sourceLost m).stack (stackOf m.hbmAddr)).err 2 = true ∧ (s.sourceLost m).fault.abort.isSome = true ∧ Carries s (s.sourceLost m) := by
  obtain ⟨k, rest, first⟩ := hbmParts_first (a := m.hbmAddr) (n := 2048 * m.units) (by omega) inside
  have unit : isHbm (m.hbmAddr / 32 * 32) = true := decide_eq_true (by omega)
  have tells (line e : Nat) : bit ((s.stackLost (stackOf m.hbmAddr) [m.hbmAddr / 32 * 32] false ioRegion line e).stack (stackOf m.hbmAddr)).err 2 = true ∧
      (s.stackLost (stackOf m.hbmAddr) [m.hbmAddr / 32 * 32] false ioRegion line e).fault.abort.isSome = true := by
    simp only [State.stackLost, if_pos unit]
    refine ⟨?_, hardError_aborts _ compute before⟩
    rw [stack_eq_of_stks (hardError_notes _ _).stks]
    exact (stackErr_stack _ _ _ _ (by decide)).1
  unfold State.sourceLost
  rw [first]
  exact ⟨(tells _ _).1, (tells _ _).2, (stackLost_errs _ _ _ _ _ _ _).carries⟩

end

/-! The end of a move (R202) -/

/-- An engine's channel once its move has ended. -/
def Ddr.ended (k : Ddr) (m : TierMove) (now : Nat) : Ddr := { k with
  run := none
  moves := satInc k.moves
  late := if m.stop < now then satInc k.late else k.late
  lateMax := if m.stop < now ∧ k.lateMax.toNat < now - m.stop then satAdd 0 (now - m.stop) else k.lateMax }

section
variable {s : State} {c : Fin 12} {r : MoveRun} (runs : (s.chan c).run = some r) (served : s.moveServed r = true)

theorem tierMoveComplete_early (runs : (s.chan c).run = some r) (waits : s.moveServed r = false) (ue : Bool) :
    exec (.tierMoveComplete c ue) s = .next s := by
  show execTierMoveComplete c ue s = _
  rw [execTierMoveComplete, runs]
  exact if_pos (by rw [waits]; rfl)

include runs served

theorem tierMoveComplete_served (ue : Bool) : exec (.tierMoveComplete c ue) s =
    let t := (s.moveData r.move).moveErrors c r.move (ue && r.move.toHbm) (s.moveLost r.move) (s.moveCorrected r.move)
    .next (((if ue && !r.move.toHbm then t.sourceLost r.move else t).onChan c (·.ended r.move (s.cyc ioRegion))).moveCounts r.move) := by
  show execTierMoveComplete c ue s = _
  rw [execTierMoveComplete, runs]
  exact if_neg (by rw [served]; decide)

/-- A move whose source shows and tells no error. -/
theorem tierMoveComplete_sound (sound : r.move.toHbm = true → s.weakness r.move.ddrAddr (2048 * r.move.units) = 0) :
    exec (.tierMoveComplete c false) s =
      .next (((s.moveData r.move).onChan c (·.ended r.move (s.cyc ioRegion))).moveCounts r.move) := by
  obtain ⟨lost, corrected⟩ := moveLost_sound sound
  rw [tierMoveComplete_served runs served, lost, corrected]
  rfl

/-- Bytes moved into HBM (R199): the state's other parts change at the engine's channel and the group alone. -/
theorem tierMoveComplete_toHbm (toHbm : r.move.toHbm = true) (inside : r.move.hbmAddr + 2048 * r.move.units ≤ hbmSize)
    (sound : s.weakness r.move.ddrAddr (2048 * r.move.units) = 0) (stack : r.move.toStack = true)
    (room : (s.stack r.move.targetUnit).groups.have r.move.group < (s.stack r.move.targetUnit).groups.expect r.move.group) (canonical : s.Inv) :
    ∃ t, exec (.tierMoveComplete c false) s = .next t ∧ t.chan c = (s.chan c).ended r.move (s.cyc ioRegion) ∧
      (t.stack r.move.targetUnit).groups.have r.move.group = (s.stack r.move.targetUnit).groups.have r.move.group + 1 ∧
      (∀ j < 2048 * r.move.units, readByte t.mem (r.move.hbmAddr + j) =
        if s.ddrReaches r.move.engine (r.move.ddrAddr + j) = true then readByte s.mem (r.move.ddrAddr + j) else 0) ∧
      (∀ a, (a < r.move.hbmAddr ∨ r.move.hbmAddr + 2048 * r.move.units ≤ a) → readByte t.mem a = readByte s.mem a) ∧
      t = { s with mem := t.mem, weak := t.weak, ddr := t.ddr, stks := t.stks } := by
  have data : s.moveData r.move = s.copyMem r.move.ddrAddr r.move.hbmAddr (2048 * r.move.units) (s.ddrReaches r.move.engine) isHbm := by
    rw [State.moveData, toHbm]
    rfl
  have read := readByte_copySpan canonical.1 r.move.ddrAddr r.move.hbmAddr (2048 * r.move.units) (s.ddrReaches r.move.engine) isHbm
  refine ⟨_, tierMoveComplete_sound runs served fun _ => sound, ?_⟩
  rw [data, moveCounts_room (s := (s.copyMem _ _ _ _ _).onChan c _) stack room]
  refine ⟨?_, ?_, fun j low => (read _).trans ?_, fun a outside => (read a).trans (if_neg (by omega)), rfl⟩
  · rw [State.chan, onStack_ddr]
    exact chan_onChan_same _ c _
  · rw [stack_onStack_same]
    exact have_bump_same _ _
  · rw [if_pos ⟨Nat.le_add_right _ j, by omega, decide_eq_true (by omega)⟩, Nat.add_sub_cancel_left]

/-- Bytes moved out of HBM (R201): into what the engine reaches. -/
theorem tierMoveComplete_fromHbm (from_ : r.move.toHbm = false) (inside : r.move.hbmAddr + 2048 * r.move.units ≤ hbmSize)
    (sound : s.weakness r.move.hbmAddr (2048 * r.move.units) = 0) (posted : ∀ i, (s.stack i).writes = []) (canonical : s.Inv) :
    ∃ t, exec (.tierMoveComplete c false) s = .next t ∧ t.chan c = (s.chan c).ended r.move (s.cyc ioRegion) ∧
      (∀ j < 2048 * r.move.units, readByte t.mem (r.move.ddrAddr + j) =
        if s.ddrReaches r.move.engine (r.move.ddrAddr + j) = true then readByte s.mem (r.move.hbmAddr + j)
        else readByte s.mem (r.move.ddrAddr + j)) ∧
      ∀ a, (a < r.move.ddrAddr ∨ r.move.ddrAddr + 2048 * r.move.units ≤ a) → readByte t.mem a = readByte s.mem a := by
  have read := readByte_copySpan canonical.1 r.move.hbmAddr r.move.ddrAddr (2048 * r.move.units) isHbm (s.ddrReaches r.move.engine)
  have counted := moveCounts_errs ((s.moveData r.move).onChan c (·.ended r.move (s.cyc ioRegion))) r.move
  refine ⟨_, tierMoveComplete_sound runs served fun toHbm => absurd toHbm (by rw [from_]; decide), ?_⟩
  rw [counted.carries.chan, chan_onChan_same, (moveData_carries s r.move).chan, counted.rest.1, onChan_mem, moveData_fromHbm from_ sound posted]
  refine ⟨rfl, fun j low => (read _).trans ?_, fun a outside => (read a).trans (if_neg (by omega))⟩
  have source : isHbm (r.move.hbmAddr + j) = true := decide_eq_true (by omega)
  rw [Nat.add_sub_cancel_left, source]
  by_cases reached : s.ddrReaches r.move.engine (r.move.ddrAddr + j) = true
  · rw [if_pos ⟨Nat.le_add_right _ j, by omega, reached⟩, if_pos reached]
    rfl
  · rw [if_neg fun target => reached target.2.2, if_neg reached]

/-- An error of a DDR5 source that only the operand tells (R204). -/
theorem tierMoveComplete_ddrError (toHbm : r.move.toHbm = true) (sound : s.weakness r.move.ddrAddr (2048 * r.move.units) = 0)
    (compute : s.relay = false) (before : s.inCommit = false) :
    ∃ t, exec (.tierMoveComplete c true) s = .next t ∧ (t.chan c).ue = true ∧ r.move.ddrAddr ∈ (t.chan c).restore ∧
      t.fault.abort.isSome = true ∧ (t.chan c).moves = satInc (s.chan c).moves := by
  obtain ⟨lost, corrected⟩ := moveLost_sound fun _ => sound
  have moved := moveData_carries s r.move
  obtain ⟨ue, restore, moves, aborts, stays, outside⟩ := moveErrors_tells (m := r.move) c.val (moved.relay.trans compute) (moved.inCommit.trans before)
  rw [tierMoveComplete_served runs served, lost, corrected, toHbm]
  refine ⟨_, rfl, ?_⟩
  show let t := (((s.moveData r.move).moveErrors c r.move true [] 0).onChan c (·.ended r.move (s.cyc ioRegion))).moveCounts r.move
    (t.chan c).ue = true ∧ r.move.ddrAddr ∈ (t.chan c).restore ∧ t.fault.abort.isSome = true ∧ (t.chan c).moves = satInc (s.chan c).moves
  generalize (s.moveData r.move).moveErrors c r.move true [] 0 = u at *
  have ended : ((u.onChan c (·.ended r.move (s.cyc ioRegion))).moveCounts r.move).chan c = (u.chan c).ended r.move (s.cyc ioRegion) :=
    ((moveCounts_errs _ r.move).carries.chan c).trans (chan_onChan_same u c _)
  dsimp only
  rw [ended]
  exact ⟨ue, restore, moveCounts_aborts r.move stays outside aborts, congrArg satInc (moves.trans (congrArg (·.moves) (moved.chan c)))⟩

/-- An error of an HBM source that only the operand tells (R182). -/
theorem tierMoveComplete_hbmError (from_ : r.move.toHbm = false) (units : 0 < r.move.units) (inside : r.move.hbmAddr < hbmSize)
    (compute : s.relay = false) (before : s.inCommit = false) :
    ∃ t, exec (.tierMoveComplete c true) s = .next t ∧ bit (t.stack (stackOf r.move.hbmAddr)).err 2 = true ∧
      t.fault.abort.isSome = true ∧ t.chan c = (s.chan c).ended r.move (s.cyc ioRegion) := by
  obtain ⟨lost, corrected⟩ := moveLost_sound (s := s) (m := r.move) fun toHbm => absurd toHbm (by rw [from_]; decide)
  have moved := moveData_carries s r.move
  obtain ⟨err, aborts, told⟩ := sourceLost_tells units inside (moved.relay.trans compute) (moved.inCommit.trans before)
  rw [tierMoveComplete_served runs served, lost, corrected, from_]
  refine ⟨_, rfl, ?_⟩
  show let t := (((s.moveData r.move).sourceLost r.move).onChan c (·.ended r.move (s.cyc ioRegion))).moveCounts r.move
    bit (t.stack (stackOf r.move.hbmAddr)).err 2 = true ∧ t.fault.abort.isSome = true ∧ t.chan c = (s.chan c).ended r.move (s.cyc ioRegion)
  have course := moved.trans told
  generalize (s.moveData r.move).sourceLost r.move = u at *
  refine ⟨moveCounts_err r.move err, moveCounts_aborts r.move (course.relay.trans compute) (course.inCommit.trans before) aborts, ?_⟩
  rw [(moveCounts_errs _ r.move).carries.chan, chan_onChan_same, course.chan]

end

/-! Start, and background work (R199, R203, R272) -/

section
variable {s : State} {c : Fin 12}

theorem onChan_only (f : Ddr → Ddr) : let t := s.onChan c f
    t = { s with ddr := t.ddr } ∧ t.chan c = f (s.chan c) ∧ ∀ x, x ≠ c.val → t.chan x = s.chan x :=
  ⟨rfl, chan_onChan_same s c f, fun _ other => chan_onChan_other s f other⟩

theorem tierMoveStart_relay (relay : s.relay = true) : exec (.tierMoveStart c) s = .next s := by
  show execTierMoveStart c s = _
  unfold execTierMoveStart
  dsimp only
  split
  · exact if_pos (by rw [relay]; rfl)
  · rfl

/-- The engine's next planned move begins (R199); background work under way is suspended (R203). -/
theorem tierMoveStart_begins {m : TierMove} {rest : List TierMove} (compute : s.relay = false) (queue : (s.chan c).queue = m :: rest)
    (idle : (s.chan c).run = none) (due : m.start ≤ s.cyc ioRegion) : exec (.tierMoveStart c) s = .next (s.onChan c (fun k => { k with
      run := some { move := m, began := s.cyc ioRegion, slot := s.cyc (stackRegion (stackOf m.hbmAddr)) }
      queue := rest
      suspended := (s.chan c).suspended || (s.chan c).background
      suspends := if (s.chan c).background && !(s.chan c).suspended then satInc (s.chan c).suspends else (s.chan c).suspends })) := by
  show execTierMoveStart c s = _
  unfold execTierMoveStart
  dsimp only
  rw [queue, idle]
  exact if_neg (by simp [compute, due])

theorem backgroundMove_relay (relay : s.relay = true) : exec (.backgroundMove c .start) s = .next s :=
  if_neg (by rw [relay]; exact Bool.false_ne_true)

theorem backgroundMove_start (compute : s.relay = false) (idle : (s.chan c).run = none) (ahead : ∀ x ∈ (s.chan c).queue, s.cyc ioRegion < x.start) :
    exec (.backgroundMove c .start) s = .next (s.onChan c (fun k => { k with background := true })) :=
  if_pos (by simpa [compute, idle] using ahead)

theorem backgroundMove_resume (idle : (s.chan c).run = none) (last : (s.chan c).queue = []) :
    exec (.backgroundMove c .resume) s = .next (s.onChan c (fun k => { k with suspended := false })) :=
  if_pos (by simp [idle, last])

theorem backgroundMove_finish (works : (s.chan c).background = true) (present : (s.chan c).suspended = false) :
    exec (.backgroundMove c (.finish false)) s = .next (s.onChan c (fun k => { k with background := false })) :=
  if_pos (by simp [works, present])

end

/-- Settles O5: a move's end is its data (`moveData`), the errors of its source, its channel (`Ddr.ended`) and the count in its group. -/
theorem tierMoves : Obligations.TierMoves := by
  intro s c m rest r
  dsimp only
  refine ⟨fun relay => ⟨tierMoveStart_relay relay, backgroundMove_relay relay⟩, ?starts, fun runs waits ue => tierMoveComplete_early runs waits ue,
    ?toHbm, ?fromHbm, fun runs served toHbm sound _ _ compute before => tierMoveComplete_ddrError runs served toHbm sound compute before,
    ?hbmError, fun compute idle ahead => ⟨_, backgroundMove_start compute idle ahead, onChan_only _⟩,
    fun idle last => ⟨_, backgroundMove_resume idle last, onChan_only _⟩,
    fun works present => ⟨_, backgroundMove_finish works present, onChan_only _⟩⟩
  case starts =>
    intro compute queue idle due
    refine ⟨_, tierMoveStart_begins compute queue idle due, rfl, (chan_onChan_same s c _).trans ?_, fun _ other => chan_onChan_other s _ other⟩
    simp only [Bool.and_eq_true, Bool.not_eq_true']
  case toHbm =>
    intro runs served toHbm inside sound stack room canonical
    obtain ⟨t, ran, chan, counted, moved, others, rest⟩ := tierMoveComplete_toHbm runs served toHbm inside sound stack room canonical
    exact ⟨t, ran, by rw [chan]; rfl, by rw [chan]; rfl, by rw [chan]; rfl, counted, moved, others, rest⟩
  case fromHbm =>
    intro runs served from_ inside sound posted _ _ canonical
    obtain ⟨t, ran, chan, moved, others⟩ := tierMoveComplete_fromHbm runs served from_ inside sound posted canonical
    exact ⟨t, ran, by rw [chan]; rfl, by rw [chan]; rfl, moved, others⟩
  case hbmError =>
    intro runs served from_ units inside compute before
    obtain ⟨t, ran, err, aborts, chan⟩ := tierMoveComplete_hbmError runs served from_ units inside compute before
    exact ⟨t, ran, err, aborts, by rw [chan]; rfl, by rw [chan]; rfl, by rw [chan]; rfl⟩

end Sys2Proof.Machine
end

/-! SUPPORT. What firmware writes to hosts, a record of any length in the journal, a feed pulled and a result written (R290, R367 to R372). -/

section
namespace Sys2Proof.Machine

open Sys2Proof

/-! Writes to host buffers and events (R371, R374) -/

/-- `t` differs from `s` at most in what a write to a host reaches: the ports, what is sent out, the count of hosts found away. -/
def Posts (s t : State) : Prop := ∃ p o h, t = { s with ports := p, out := o, counts := { s.counts with hostUnavail := h } }

theorem Posts.refl (s : State) : Posts s s := ⟨_, _, _, rfl⟩

theorem Posts.trans {s t u : State} (h : Posts s t) (k : Posts t u) : Posts s u := by
  obtain ⟨_, _, _, rfl⟩ := h
  obtain ⟨_, _, _, rfl⟩ := k
  exact ⟨_, _, _, rfl⟩

section
variable (s : State)

theorem hostWrite_posts (p a : Nat) (bs : List Byte) : Posts s (s.hostWrite p a bs) := by
  unfold State.hostWrite
  split <;> exact ⟨_, _, _, rfl⟩

theorem vector_posts (p v : Nat) : Posts s (s.vector p v) := by
  unfold State.vector
  split
  · exact ⟨_, _, _, rfl⟩
  · split <;> exact ⟨_, _, _, rfl⟩

theorem event_posts (p i : Nat) : Posts s (s.event p i) := by
  have marked : Posts s (s.onPort p (fun q => { q with events := setBit q.events i })) := ⟨_, _, _, rfl⟩
  unfold State.event
  dsimp only
  split
  · exact marked.trans (vector_posts _ p i)
  · exact marked

theorem bufferWrite_posts (b : HostBuffer) (o : Nat) (bs : List Byte) : Posts s (s.bufferWrite b o bs) := by
  unfold State.bufferWrite
  refine List.foldlRecOn (motive := fun x : State × Nat => Posts s x.1) _ _ (Posts.refl s) fun acc ih x _ => ?_
  dsimp only
  split
  · exact ih.trans (hostWrite_posts _ _ _ _)
  · exact ih

/-! A record of any length (R290, R291, R295) -/

variable {s} {k x : Nat}

/-- The parts of a run of up to `k` bytes lie in the journal's range, or run on from its start. -/
theorem parts_reach (g : Glean) {off n : Nat} (short : n ≤ k) : ∀ p ∈ g.parts off n, g.base ≤ p.1 ∧ p.1 + p.2 ≤ g.base + max g.length k := by
  intro p inside
  simp only [Glean.parts, List.mem_filter, List.mem_cons, List.not_mem_nil, or_false, bne_iff_ne, ne_eq] at inside
  have least : Nat.min n (g.length - off) ≤ g.length - off := Nat.min_le_right _ _
  obtain ⟨rfl | rfl, some⟩ := inside <;> dsimp only at some ⊢ <;> omega

theorem ringPoke_outside (off : Nat) {bs : List Byte} (short : bs.length ≤ k) (beyond : x < s.glean.base ∨ s.glean.base + max s.glean.length k ≤ x) :
    readByte (s.ringPoke off bs).mem x = readByte s.mem x := by
  refine List.foldlRecOn (motive := fun acc : State × List Byte => readByte acc.1.mem x = readByte s.mem x) _ _ rfl fun acc ih p part => ?_
  obtain ⟨low, high⟩ := parts_reach s.glean short p part
  have most : (acc.2.take p.2).length ≤ p.2 := List.length_take_le _ _
  exact (readByte_writeBytes_outside _ acc.1.mem p.1 x (by omega)).trans ih

theorem ringPoke_glean (off : Nat) (bs : List Byte) : (s.ringPoke off bs).glean = s.glean :=
  List.foldlRecOn (motive := fun acc : State × List Byte => acc.1.glean = s.glean) _ _ rfl fun _ ih _ _ => ih

theorem appendRecord_stores (rtype : Nat) (flags : Byte) (step : BitVec 48) (n : BitVec 16) (body : List Byte) : ∃ r : JournalRec, r.body = body ∧
    s.appendRecord rtype flags step n body =
      ({ s with glean := s.glean.append rtype flags step n body } : State).ringPoke s.glean.head (recordBytes r) := by
  unfold State.appendRecord
  simp only [Glean.append, List.getLast?_append, List.getLast?_singleton, Option.some_or]
  exact ⟨_, rfl, rfl⟩

/-- A record of up to `k` bytes, and the GAP record that the full policy may put behind it, change memory within `k` bytes of the journal's
base, or in its range. -/
theorem journal_outside (rtype : Nat) (flags : Byte) (step : BitVec 48) (n : BitVec 16) {body : List Byte} (short : body.length + 32 ≤ k) (least : 8192 ≤ k)
    (beyond : s.glean.on = false ∨ x < s.glean.base ∨ s.glean.base + max s.glean.length k ≤ x) :
    readByte (s.journal rtype flags step n body).mem x = readByte s.mem x := by
  rcases beyond with off | beyond
  · rw [journal_off s _ _ _ _ _ off]
  · obtain ⟨r, contents, stored⟩ := appendRecord_stores (s := s) rtype flags step n body
    have record : readByte (s.appendRecord rtype flags step n body).mem x = readByte s.mem x := by
      rw [stored]
      refine ringPoke_outside (s := { s with glean := s.glean.append rtype flags step n body }) _ (k := k) ?_ beyond
      rw [length_recordBytes, contents]
      omega
    have range : (s.appendRecord rtype flags step n body).glean.base = s.glean.base ∧
        (s.appendRecord rtype flags step n body).glean.length = s.glean.length := by
      rw [stored, ringPoke_glean]
      exact ⟨rfl, rfl⟩
    unfold State.journal
    split
    · refine ((dropRecords_journals _).bytes x ?_).trans record
      rw [State.beyondJournal, range.1, range.2]
      omega
    · rfl

end

/-! The feed (R294, R367 to R369) -/

theorem length_slice (bs : List Byte) (o k : Nat) : (slice bs o k).length = k := by
  have short : ((bs.drop o).take k).length ≤ k := List.length_take_le _ _
  rw [slice, List.length_append, List.length_replicate]
  omega

theorem length_hashBytes (h : Hash) : (hashBytes h).length = 32 := by simp [hashBytes, beBytes]

theorem length_feedBody (step : Nat) (payload : List Byte) (index : Nat) (full : Bool) (retention : Word128) :
    (feedBody step payload index full retention).length ≤ payload.length + 128 := by
  have contents : (if full then payload else []).length ≤ payload.length := by split <;> simp
  simp only [feedBody, padBody, ceilDiv, List.length_append, List.length_replicate, length_leBytes, length_hashBytes, List.length_cons, List.length_nil]
  omega

/-- The feed block once the bytes of a further step stand in feed staging (R294): those of the step before stay where their place is another. -/
def State.feedStaged (s : State) (step : Word64) (bytes : List Byte) : Feed :=
  let prior := s.feed.validated.filter (fun y => s.feedPlace y.step.toNat != s.feedPlace step.toNat)
  { s.feed with
    pulling := none
    validated := some { step := step, length := bytes.length, digest := hashOf bytes }
    prior := prior
    lost := s.feed.lost.filter (fun y => y != step && prior.any (fun z => z.step == y)) }

section
variable {s : State} {step : Word64}

/-- The bytes of a step that feed staging does not hold are written at their place, where the plan has one. -/
theorem stageFeed_new (fresh : s.feed.find step = none) (bytes : List Byte) :
    ∃ w m, s.stageFeed step bytes = { s with weak := w, mem := m, feed := s.feedStaged step bytes } ∧
      (∀ a, s.feedPlace step.toNat = some a → m = writeBytes s.mem a bytes) ∧ (s.feedPlace step.toNat = none → m = s.mem) := by
  have new : ¬ (s.feed.find step).isSome = true := by rw [fresh]; exact Bool.false_ne_true
  unfold State.stageFeed
  split
  · rename_i a place
    refine ⟨_, _, if_neg new, fun x same => ?_, fun none => ?_⟩
    · rw [Option.some.inj (place.symm.trans same)]
      rfl
    · exact absurd (none.symm.trans place) nofun
  · rename_i place
    exact ⟨_, _, if_neg new, fun x same => absurd (place.symm.trans same) nofun, fun _ => rfl⟩

/-- A step's bytes in feed staging with the FEED record that tells it (R290, R293). -/
def State.feedRecorded (s : State) (step : Word64) (payload : List Byte) (retention : Word128) (flags : Byte) (full : Bool) : State :=
  (s.stageFeed step payload).journal 2 flags (BitVec.ofNat 48 step.toNat) 0
    (feedBody step.toNat payload (step.toNat % s.feed.ring.length) full retention)

/-- A feed validated and counted (R368); the next damaged one is pulled (R294). -/
def State.feedCounted (s : State) (retention : Word128) : State := { s with
  feed := { s.feed with pulling := s.feed.lost.head?, retention := retention }
  glean := { s.glean with feedChanged := false }
  counts := { s.counts with feedPulls := satInc s.counts.feedPulls } }

/-- A feed that is new is recorded, counted and told to its port (R368). -/
theorem feedValid_posts (fresh : s.feed.find step = none) (payload : List Byte) (retention : Word128) : ∃ flags full,
    Posts ((s.feedRecorded step payload retention flags full).feedCounted retention) (s.feedValid step payload retention) := by
  refine ⟨if s.glean.full && !(s.glean.full && decide (4 * payload.length ≤ s.glean.length)) then 1 else 0,
    s.glean.full && decide (4 * payload.length ≤ s.glean.length), ?_⟩
  unfold State.feedValid
  extract_lets n ix old
  rename_i kept _ _ _ counted written
  have unchanged : ¬ old.any (fun f => f.digest != hashOf payload) = true := by rw [show old = none from fresh]; exact Bool.false_ne_true
  have new : kept = s.feedRecorded step payload retention _ _ := if_neg (by rw [show old = none from fresh]; exact Bool.false_ne_true)
  have posted : Posts counted written := by
    unfold written
    split
    · exact bufferWrite_posts _ _ _ _
    · exact Posts.refl _
  rw [if_neg unchanged, ← new]
  exact posted.trans (event_posts _ _ _)

theorem feedRecorded_outside {payload : List Byte} {x : Nat} (retention : Word128) (flags : Byte) (full : Bool) (fresh : s.feed.find step = none)
    (beyond : s.glean.on = false ∨ x < s.glean.base ∨ s.glean.base + max s.glean.length (payload.length + 8192) ≤ x) :
    readByte (s.feedRecorded step payload retention flags full).mem x = readByte (s.stageFeed step payload).mem x := by
  obtain ⟨w, m, staged, _⟩ := stageFeed_new fresh payload
  have short := length_feedBody step.toNat payload (step.toNat % s.feed.ring.length) full retention
  exact journal_outside 2 flags _ 0 (k := payload.length + 8192) (by omega) (by omega) (by rw [staged]; exact beyond)

/-- What a new feed leaves (R294, R368): the feed block, the counts, the job, and memory beyond the journal as it was staged. -/
theorem feedValid_new (fresh : s.feed.find step = none) (payload : List Byte) (retention : Word128) :
    let t := s.feedValid step payload retention
    t.feed = { s.feedStaged step payload with pulling := (s.feedStaged step payload).lost.head?, retention := retention } ∧
      t.counts.feedPulls = satInc s.counts.feedPulls ∧ t.counts.feedRejects = s.counts.feedRejects ∧ t.job = s.job ∧
      ∀ x, (s.glean.on = false ∨ x < s.glean.base ∨ s.glean.base + max s.glean.length (payload.length + 8192) ≤ x) →
        readByte t.mem x = readByte (s.stageFeed step payload).mem x := by
  obtain ⟨flags, full, posted⟩ := feedValid_posts fresh payload retention
  obtain ⟨w, m, staged, _⟩ := stageFeed_new fresh payload
  have outside (x : Nat) := feedRecorded_outside (payload := payload) (x := x) retention flags full fresh
  have recorded : Records (s.stageFeed step payload) (s.feedRecorded step payload retention flags full) := journal_records _ _ _ _ _ _
  obtain ⟨_, _, _, valid⟩ := posted
  obtain ⟨_, _, _, stored⟩ := recorded
  rw [staged] at stored
  dsimp only
  rw [valid]
  refine ⟨?_, ?_, ?_, ?_, outside⟩ <;> rw [stored] <;> rfl

end

/-! FEED_POLL (R203, R367 to R369) -/

section
variable {s : State} {step seq second : Word64} {len : Nat} {ret : Word128} {payload : List Byte}

theorem feedPoll_idle (idle : s.feed.pulling = none) (x : FeedSight) : exec (.feedPoll x) s = .next s := by
  show execFeedPoll x s = _
  rw [execFeedPoll, idle]

variable (pulls : s.feed.pulling = some step)
include pulls

theorem feedPoll_held (waits : s.pullRuns step.toNat = false) (x : FeedSight) : exec (.feedPoll x) s = .next s := by
  show execFeedPoll x s = _
  rw [execFeedPoll, pulls]
  exact if_pos (by simp [waits])

variable (ring : s.feed.ring ≠ []) (runs : s.pullRuns step.toNat = true)
include ring runs

theorem feedPoll_away (down : (s.port s.feed.port).up = false) (x : FeedSight) : exec (.feedPoll x) s = .next s.hostAway := by
  show execFeedPoll x s = _
  rw [execFeedPoll, pulls]
  dsimp only
  rw [if_neg (by simp [runs, ring]), if_pos (by simp [down])]

variable (up : (s.port s.feed.port).up = true)
include up

theorem feedPoll_failed : exec (.feedPoll .transferFailed) s = .next s.hostAway := by
  show execFeedPoll .transferFailed s = _
  rw [execFeedPoll, pulls]
  dsimp only
  rw [if_neg (by simp [runs, ring]), if_neg (by simp [up])]

/-- A header of another step: an empty slot or the step's own of a ring before are passed over, any other is refused. -/
theorem feedPoll_other (other : seq ≠ step) : exec (.feedPoll (.header seq len ret payload second)) s =
    .next (if seq = 0xFFFFFFFFFFFFFFFF ∨ seq = step - BitVec.ofNat 64 s.feed.ring.length then s else s.feedReject) := by
  show execFeedPoll (.header seq len ret payload second) s = _
  rw [execFeedPoll, pulls]
  dsimp only
  rw [if_neg (by simp [runs, ring]), if_neg (by simp [up]), if_pos (by simpa using other)]
  simp only [Bool.or_eq_true, beq_iff_eq]

/-- A header of the step itself. -/
theorem feedPoll_own : exec (.feedPoll (.header step len ret payload second)) s =
    if s.body.feedLength < len then
      .next (({ s.feedReject with free := s.free + 1 } : State).log
        { code := Config.freeCode s.free, severity := 0, region := ioRegion, action := 1, detail := len })
    else if second != step then .next s.feedReject
    else if s.replayAccepts step.toNat (slice payload 0 len) then .next (s.feedValid step (slice payload 0 len) ret)
    else .next { s with glean := { s.glean with replay := { s.glean.replay with feedMismatch := satInc s.glean.replay.feedMismatch } } } := by
  show execFeedPoll (.header step len ret payload second) s = _
  rw [execFeedPoll, pulls]
  dsimp only
  rw [if_neg (by simp [runs, ring]), if_neg (by simp [up]), if_neg (by simp)]

theorem feedPoll_torn (fits : len ≤ s.body.feedLength) (torn : second ≠ step) :
    exec (.feedPoll (.header step len ret payload second)) s = .next s.feedReject := by
  rw [feedPoll_own pulls ring runs up, if_neg (Nat.not_lt.mpr fits), if_pos (bne_iff_ne.mpr torn)]

theorem feedPoll_long (long : s.body.feedLength < len) : ∃ t, exec (.feedPoll (.header step len ret payload second)) s = .next t ∧
    t.counts.feedRejects = satInc s.counts.feedRejects ∧ t.feed = s.feed ∧ t.mem = s.mem := by
  obtain ⟨_, _, _, _, _, logged⟩ := log_logs ({ s.feedReject with free := s.free + 1 } : State)
    { code := Config.freeCode s.free, severity := 0, region := ioRegion, action := 1, detail := len }
  rw [feedPoll_own pulls ring runs up, if_pos long, logged]
  exact ⟨_, rfl, rfl, rfl, rfl⟩

theorem feedPoll_pulled (fits : len ≤ s.body.feedLength) (live : s.glean.replay.active = false) :
    exec (.feedPoll (.header step len ret payload step)) s = .next (s.feedValid step (slice payload 0 len) ret) := by
  have accepts : s.replayAccepts step.toNat (slice payload 0 len) = true := by simp [State.replayAccepts, live]
  rw [feedPoll_own pulls ring runs up, if_neg (Nat.not_lt.mpr fits), if_neg (by simp), if_pos accepts]

theorem feedPoll_changed {f : FeedBytes} (fits : len ≤ s.body.feedLength) (live : s.glean.replay.active = false) (held : s.feed.find step = some f)
    (changed : f.digest ≠ hashOf (slice payload 0 len)) : exec (.feedPoll (.header step len ret payload step)) s =
      .next { s with glean := { s.glean with feedChanged := true }, holds := { s.holds with feed := true } } := by
  rw [feedPoll_pulled pulls ring runs up fits live]
  refine congrArg Host.Outcome.next ?_
  rw [State.feedValid, held]
  exact if_pos (bne_iff_ne.mpr changed)

theorem feedPoll_new (fits : len ≤ s.body.feedLength) (live : s.glean.replay.active = false) (fresh : s.feed.find step = none) :
    let bytes := slice payload 0 len
    let beyond (x : Nat) : Prop := s.glean.on = false ∨ x < s.glean.base ∨ s.glean.base + max s.glean.length (len + 8192) ≤ x
    ∃ t, exec (.feedPoll (.header step len ret payload step)) s = .next t ∧
      t.feed = { s.feedStaged step bytes with pulling := (s.feedStaged step bytes).lost.head?, retention := ret } ∧
      t.counts.feedPulls = satInc s.counts.feedPulls ∧ t.counts.feedRejects = s.counts.feedRejects ∧ t.job = s.job ∧
      (∀ a, s.feedPlace step.toNat = some a →
        (∀ n < len, beyond (a + n) → readByte t.mem (a + n) = bytes.getD n 0) ∧
        (∀ x, x < a ∨ a + len ≤ x → beyond x → readByte t.mem x = readByte s.mem x)) ∧
      (s.feedPlace step.toNat = none → ∀ x, beyond x → readByte t.mem x = readByte s.mem x) := by
  intro bytes beyond
  obtain ⟨w, m, staged, placed, absent⟩ := stageFeed_new fresh bytes
  obtain ⟨feed, valid, rejects, job, outside⟩ := feedValid_new fresh bytes ret
  have length : bytes.length = len := length_slice payload 0 len
  rw [length, staged] at outside
  refine ⟨_, feedPoll_pulled pulls ring runs up fits live, feed, valid, rejects, job, fun a place => ⟨fun n inside far => ?_, fun x apart far => ?_⟩,
    fun none x far => ?_⟩
  · rw [outside _ far, placed a place, readByte_writeBytes, if_pos ⟨Nat.le_add_right a n, by omega⟩, Nat.add_sub_cancel_left]
  · rw [outside x far, placed a place]
    exact readByte_writeBytes_outside bytes s.mem a x (by omega)
  · rw [outside x far, absent none]

end

/-! RESULT_WRITE (R203, R370 to R372) -/

theorem getD_setAt (l : List Nat) (i v : Nat) : (setAt l i v).getD i 0 = v := by
  unfold setAt
  rw [List.getD_eq_getElem?_getD, List.getElem?_set_self]
  · rfl
  · split
    · assumption
    · rw [List.length_append, List.length_replicate]
      omega

section
variable {s : State} {i : Fin 64} {w : Waiting} {rest : List Waiting}

theorem resultWrite_idle (idle : (get {} s.results i).waiting = []) : exec (.resultWrite i) s = .next s := by
  show execResultWrite i s = _
  unfold execResultWrite
  dsimp only
  rw [idle]

variable (waits : (get {} s.results i).waiting = w :: rest) (slots : (get {} s.results i).slots ≠ [])
include waits slots

theorem resultWrite_full (taken : (get {} s.results i).free (w.q % (get {} s.results i).slots.length) = false)
    (keeps : (get {} s.results i).overwrite = false) : exec (.resultWrite i) s = .next s := by
  show execResultWrite i s = _
  unfold execResultWrite
  dsimp only
  rw [waits]
  dsimp only
  rw [if_neg (by simpa using slots), if_pos (by simp [taken, keeps])]

theorem resultWrite_held (planned : s.resultRuns i = false) : exec (.resultWrite i) s = .next s := by
  show execResultWrite i s = _
  unfold execResultWrite
  dsimp only
  rw [waits]
  dsimp only
  rw [if_neg (by simpa using slots), if_pos (by simp [planned])]

variable (room : (get {} s.results i).free (w.q % (get {} s.results i).slots.length) = true ∨ (get {} s.results i).overwrite = true)
  (runs : s.resultRuns i = true)
include room runs

theorem resultWrite_goes : exec (.resultWrite i) s =
    .next (if (s.port (get {} s.results i).port).up then s.writeResult i (get {} s.results i) w else s.hostAway) := by
  show execResultWrite i s = _
  unfold execResultWrite
  dsimp only
  rw [waits]
  dsimp only
  rw [if_neg (by simpa using slots), if_neg (by simpa [runs, Classical.or_iff_not_imp_left] using room)]
  by_cases up : (s.port (get {} s.results i).port).up = true
  · rw [if_neg (by simp [up]), if_pos up]
  · rw [if_pos (by simpa using up), if_neg up]

end

/-- A result's stream once it stands in its slot (R370 to R372). -/
def ResultStream.written (r : ResultStream) (w : Waiting) : ResultStream :=
  let slot := w.q % r.slots.length
  { r with waiting := r.waiting.drop 1, gens := setAt r.gens slot (w.q + 1), overruns := 0
           lost := if !r.free slot && !r.lost.contains slot then r.lost ++ [slot] else r.lost }

/-- A result written into its slot reaches its stream, the counts and the host alone. -/
theorem writeResult_posts (s : State) (i : Nat) {r : ResultStream} (slots : r.slots ≠ []) (w : Waiting) : ∃ h,
    Posts { s with results := put {} s.results i (r.written w), counts := { s.counts with
      hostUnavail := h, resultWrites := satInc s.counts.resultWrites
      resultOverruns := satAdd s.counts.resultOverruns (b2n (!r.free (w.q % r.slots.length))) } } (s.writeResult i r w) := by
  have inside : w.q % r.slots.length < r.slots.length := Nat.mod_lt _ (List.length_pos_iff.mpr slots)
  unfold State.writeResult
  dsimp only
  rw [List.getElem?_eq_getElem inside]
  dsimp only
  generalize bufs : ((((s.bufferWrite _ _ _).bufferWrite _ _ _).bufferWrite _ _ _).bufferWrite _ _ _).bufferWrite _ _ _ = t
  have posted : Posts s t := by
    rw [← bufs]
    exact (bufferWrite_posts _ _ _ _).trans ((bufferWrite_posts _ _ _ _).trans ((bufferWrite_posts _ _ _ _).trans
      ((bufferWrite_posts _ _ _ _).trans (bufferWrite_posts _ _ _ _))))
  obtain ⟨_, _, h, rfl⟩ := posted
  exact ⟨h, Posts.trans ⟨_, _, _, rfl⟩ (event_posts _ _ _)⟩

/-- A result that goes to its slot (R371, R372): the stream, the counts, and nothing of the job or of memory. -/
theorem resultWrite_writes {s : State} {i : Fin 64} {w : Waiting} {rest : List Waiting} (waits : (get {} s.results i).waiting = w :: rest)
    (slots : (get {} s.results i).slots ≠ [])
    (room : (get {} s.results i).free (w.q % (get {} s.results i).slots.length) = true ∨ (get {} s.results i).overwrite = true)
    (runs : s.resultRuns i = true) (up : (s.port (get {} s.results i).port).up = true) :
    let r := get {} s.results i
    let slot := w.q % r.slots.length
    ∃ t, exec (.resultWrite i) s = .next t ∧
      (let n := get {} t.results i
       n.waiting = rest ∧ n.gens.getD slot 0 = w.q + 1 ∧ n.overruns = 0 ∧ n.slots = r.slots ∧ n.produced = r.produced ∧ n.acked = r.acked) ∧
      (∀ x, x ≠ i.val → get {} t.results x = get {} s.results x) ∧ t.counts.resultWrites = satInc s.counts.resultWrites ∧
      t.counts.resultOverruns = satAdd s.counts.resultOverruns (if r.free slot then 0 else 1) ∧ t.mem = s.mem ∧ t.job = s.job := by
  intro r slot
  obtain ⟨_, _, _, _, written⟩ := writeResult_posts s i slots w
  rw [resultWrite_goes waits slots room runs, if_pos up, written]
  refine ⟨_, rfl, ?_, fun x other => get_put_other _ _ _ other, rfl, ?_, rfl, rfl⟩
  · dsimp only
    rw [get_put_same]
    exact ⟨congrArg (List.drop 1) waits, getD_setAt _ _ _, rfl, rfl, rfl, rfl⟩
  · show satAdd s.counts.resultOverruns (b2n (!r.free slot)) = _
    cases r.free slot <;> rfl

theorem feedAndResults : Claims.FeedAndResults := by
  intro s i step seq second len ret payload w rest
  refine ⟨feedPoll_idle, fun pulls _ waits => feedPoll_held pulls waits, fun pulls ring runs down => feedPoll_away pulls ring runs down,
    fun pulls ring runs up => ⟨feedPoll_failed pulls ring runs up, fun other passed => ?_, fun other notEmpty notOld => ?_,
      fun fits torn => feedPoll_torn pulls ring runs up fits torn, fun long => feedPoll_long pulls ring runs up long, fun fits live fresh => ?_,
      fun f fits live held changed => feedPoll_changed pulls ring runs up fits live held changed⟩,
    resultWrite_idle, fun waits slots => ⟨fun taken keeps => resultWrite_full waits slots taken keeps,
      fun _ planned => resultWrite_held waits slots planned, fun room runs => ⟨fun down => ?_, fun up => resultWrite_writes waits slots room runs up⟩⟩⟩
  · rw [feedPoll_other pulls ring runs up other, if_pos passed]
  · rw [feedPoll_other pulls ring runs up other, if_neg (not_or.mpr ⟨notEmpty, notOld⟩)]
    rfl
  · obtain ⟨t, ran, feed, rest⟩ := feedPoll_new (ret := ret) (payload := payload) pulls ring runs up fits live fresh
    exact ⟨t, ran, feed.trans (by simp only [State.feedStaged, length_slice]), rest⟩
  · rw [resultWrite_goes waits slots room runs, if_neg (by rw [down]; exact Bool.false_ne_true)]
    rfl

end Sys2Proof.Machine
end

/-! SUPPORT. BAR2 (R147, R181, R186, R373, R456), and the settled moves of a host's data: O23. -/

section
namespace Sys2Proof.Machine

open Sys2Proof

/-! The checks of a sound run (R147, R182, R204) -/

/-- The parts of a run lie in it. -/
theorem memParts_within {a n : Nat} : ∀ x ∈ memParts a n, x.2 = 0 ∨ (a ≤ x.1 ∧ x.1 + x.2 ≤ a + n) := by
  intro x inside
  obtain ⟨j, _, rfl⟩ := List.mem_map.mp inside
  have low : a ≤ Nat.max a ((a / 2 ^ 18 + j) * 2 ^ 18) := Nat.le_max_left _ _
  have high : Nat.min (a + n) ((a / 2 ^ 18 + j + 1) * 2 ^ 18) ≤ a + n := Nat.min_le_left _ _
  dsimp only
  omega

section
variable {s : State} {a n : Nat}

theorem ddrCheck_sound (sound : s.weakness a n = 0) : s.ddrCheck a n = s := by
  rw [State.ddrCheck, corrections_sound sound, lostUnits_sound sound]
  rfl

/-- A part that BAR2 reaches and that has no unit in error is told nowhere. -/
theorem memCheck_sound (reached : s.bar2Reaches a = true) (sound : s.weakness a n = 0) : s.memCheck a n = s := by
  unfold State.memCheck
  split
  · rfl
  · split
    · exact stackCheck_sound sound ..
    · split
      · exact ddrCheck_sound sound
      · split
        · refine sramCheck_sound ?_
          have window : 0x200000000000 ≤ a := by
            unfold State.bar2Reaches at reached
            rw [if_neg (by assumption), if_neg (by omega)] at reached
            by_contra outside
            rw [if_neg (by omega)] at reached
            have := of_decide_eq_true reached
            omega
          rw [show blockBase ((a - 0x200000000000) / 0x800000) + (a - 0x200000000000) % 0x800000 = a by unfold blockBase; omega]
          exact sound
        · exact stackCheck_sound sound ..

theorem bar2Checks_sound (sound : s.weakness a n = 0) : s.bar2Checks a n = s := by
  refine List.foldlRecOn (motive := fun t => t = s) _ _ rfl fun t same x part => ?_
  subst same
  split
  · rfl
  · rename_i served
    rcases memParts_within x part with empty | ⟨low, high⟩
    · exact if_pos empty
    · refine memCheck_sound ?_ (weakness_part sound low high)
      by_contra unreached
      refine served ?_
      rw [State.bar2Cause, Bool.eq_false_iff.mpr unreached]
      rfl

theorem bar2Lost_sound (sound : s.weakness a n = 0) {x : Nat} (inside : x < n) : s.bar2Lost (a + x) = false := by
  rw [State.bar2Lost, lostUnits_sound (weakness_part sound (b := a + x) (k := 1) (by omega) (by omega))]
  exact Bool.and_false _

end

theorem ddrLost_mem (s : State) (c : Nat) (units : List Nat) : (s.ddrLost c units).mem = s.mem := by
  unfold State.ddrLost
  split
  · rfl
  · exact (log_notes _ _).mem.trans (List.foldlRecOn (motive := fun t : State => t.mem = s.mem) _ _ rfl fun _ same _ _ => same)

theorem memLost_mem (s : State) (a : Nat) (units : List Nat) : (s.memLost a units).mem = s.mem := by
  unfold State.memLost
  split
  · exact (stackLost_errs s _ _ _ _ _ _).rest.1
  · split
    · exact ddrLost_mem s _ _
    · split
      · exact (sramLost_errs s _ _).rest.1
      · exact (stackLost_errs s _ _ _ _ _ _).rest.1

/-! A read through BAR2 (R373) -/

theorem findSome?_eq_of_forall {α β : Type} {f g : α → Option β} : ∀ {l : List α}, (∀ x ∈ l, f x = g x) → l.findSome? f = l.findSome? g
  | [], _ => rfl
  | x :: l, same => by
    obtain ⟨here, later⟩ := List.forall_mem_cons.mp same
    rw [List.findSome?_cons, List.findSome?_cons, here, findSome?_eq_of_forall later]

/-- The bytes of a run. -/
theorem mem_run {a n x : Nat} : x ∈ (List.range n).map (a + ·) ↔ ∃ k < n, a + k = x := by
  simp only [List.mem_map, List.mem_range]

/-- The byte at which an error stands that the operand tells and the state does not show. -/
def State.bar2Other (s : State) (a n : Nat) (ue : Bool) : Option Nat :=
  if ue && !((List.range n).map (a + ·)).any s.bar2Lost then ((List.range n).map (a + ·)).find? (fun x => (s.bar2Cause x).isNone) else none

/-- Such an error told by its memory. -/
def State.bar2Told (s : State) (other : Option Nat) : State :=
  match other with
  | some x => s.memLost x [x / eccWidth x * eccWidth x]
  | none => s

/-- The cause of one byte's failure in a read. -/
def State.bar2ReadCause (s : State) (other : Option Nat) (x : Nat) : Option Nat :=
  if s.bar2Lost x || other == some x then some 3 else s.bar2Cause x

/-- The first cause in BAR2_STATUS. -/
def State.bar2Noted (s : State) (p : Nat) (cause : Option Nat) : State :=
  match cause with
  | some c => s.bar2Fail p c
  | none => s

section
variable (s : State) (p : Nat) (c : Option Nat)

theorem bar2Noted_only : s.bar2Noted p c = { s with ports := (s.bar2Noted p c).ports } := by
  cases c <;> rfl

theorem bar2Noted_cause (c : Nat) : ((s.bar2Noted p (some c)).port p).bar2Cause = BitVec.ofNat 3 c := by
  show ((s.bar2Fail p c).port p).bar2Cause = _
  rw [State.bar2Fail, port_onPort_same]

theorem bar2Told_mem : (s.bar2Told c).mem = s.mem := by
  cases c with
  | none => rfl
  | some x => exact memLost_mem s _ _

end

/-- What an answer put behind all others leaves: stated of any state, so that the state of a read need not be compared with itself. -/
theorem answered_last {o : Host.Outcome State Fault Refusal} {u : State} {p : Nat} {x : Out} {c : BitVec 3}
    (ran : o = .next { u with out := u.out ++ [x] }) (cause : (u.port p).bar2Cause = c) :
    ∃ t, o = .next t ∧ t.out.getLast? = some x ∧ t.mem = u.mem ∧ (t.port p).bar2Cause = c :=
  ⟨_, ran, List.getLast?_concat, rfl, cause⟩

section
variable {s : State} {p : Fin 4} {offset : BitVec 36} {a n : Nat} {data : List Byte} {ue : Bool}

theorem bar2Access_read (owner : s.bar2Owner p = true) : exec (.bar2Access p offset (.read n) ue) s =
    let a := s.bar2Place p offset
    let other := s.bar2Other a n ue
    let t := ((s.bar2Checks a n).bar2Told other).bar2Noted p (((List.range n).map (a + ·)).findSome? (s.bar2ReadCause other))
    .next { t with out := t.out ++ [if ((List.range n).map (a + ·)).any s.bar2Lost || other.isSome then .completion p false []
      else .completion p true (s.bar2Read a n).1] } := by
  show execBar2Access p offset (.read n) ue s = _
  unfold execBar2Access
  dsimp only
  rw [if_neg (by rw [owner]; exact Bool.false_ne_true)]
  rfl

theorem bar2Access_write (owner : s.bar2Owner p = true) : exec (.bar2Access p offset (.write data) ue) s =
    let a := s.bar2Place p offset
    .next ((s.bar2Write a data).bar2Noted p (((List.range data.length).map (a + ·)).findSome? s.bar2Cause)) := by
  show execBar2Access p offset (.write data) ue s = _
  unfold execBar2Access
  dsimp only
  rw [if_neg (by rw [owner]; exact Bool.false_ne_true)]
  rfl

section
variable (sound : s.weakness a n = 0)
include sound

theorem any_bar2Lost_sound : ((List.range n).map (a + ·)).any s.bar2Lost = false := by
  rw [List.any_eq_false]
  intro y inside
  obtain ⟨x, low, rfl⟩ := mem_run.mp inside
  rw [bar2Lost_sound sound low]
  exact Bool.false_ne_true

theorem bar2Other_sound : s.bar2Other a n ue =
    if ue then ((List.range n).map (a + ·)).find? (fun x => (s.bar2Cause x).isNone) else none := by
  rw [State.bar2Other, any_bar2Lost_sound sound, Bool.not_false, Bool.and_true]

variable (place : s.bar2Place p offset = a)
include place

/-- A read of which no unit is in error and no error is told. -/
theorem bar2Access_read_sound (owner : s.bar2Owner p = true) : exec (.bar2Access p offset (.read n) false) s =
    let t := s.bar2Noted p (((List.range n).map (a + ·)).findSome? s.bar2Cause)
    .next { t with out := t.out ++ [.completion p true (s.bar2Read a n).1] } := by
  have causes : ((List.range n).map (a + ·)).findSome? (s.bar2ReadCause none) =
      ((List.range n).map (a + ·)).findSome? s.bar2Cause := by
    refine findSome?_eq_of_forall fun y inside => if_neg ?_
    obtain ⟨x, low, rfl⟩ := mem_run.mp inside
    rw [bar2Lost_sound sound low]
    exact Bool.false_ne_true
  rw [bar2Access_read owner, place]
  dsimp only
  rw [bar2Other_sound sound, any_bar2Lost_sound sound, bar2Checks_sound sound]
  simp only [Bool.false_eq_true, if_false]
  rw [causes]
  rfl

/-- An error that the operand tells fails the read (R373): its first byte's cause, or 3 where that byte is served. -/
theorem bar2Access_read_ue (owner : s.bar2Owner p = true) (served : ∃ x, x < n ∧ s.bar2Cause (a + x) = none) :
    ∃ t, exec (.bar2Access p offset (.read n) true) s = .next t ∧ t.out.getLast? = some (.completion p false []) ∧ t.mem = s.mem ∧
      (s.bar2Cause a = none → (t.port p).bar2Cause = 3) ∧
      (∀ c, s.bar2Cause a = some c → (t.port p).bar2Cause = BitVec.ofNat 3 c) := by
  obtain ⟨x, low, serves⟩ := served
  have told : (s.bar2Other a n true).isSome = true := by
    rw [bar2Other_sound sound, if_pos rfl, List.find?_isSome]
    exact ⟨_, mem_run.mpr ⟨x, low, rfl⟩, by rw [serves]; rfl⟩
  obtain ⟨k, rfl⟩ : ∃ k, n = k + 1 := ⟨n - 1, by omega⟩
  have run : (List.range (k + 1)).map (a + ·) =
      a :: (List.range k).map (fun i => a + (i + 1)) := by
    rw [List.range_succ_eq_map, List.map_cons, List.map_map]
    rfl
  have first : s.bar2ReadCause (s.bar2Other a (k + 1) true) a =
      some ((s.bar2Cause a).getD 3) := by
    have sure : s.bar2Lost a = false := bar2Lost_sound sound (x := 0) (by omega)
    rw [State.bar2ReadCause, sure, Bool.false_or, bar2Other_sound sound, if_pos rfl, run]
    cases cause : s.bar2Cause a with
    | none =>
      rw [List.find?_cons_of_pos (by rw [cause]; rfl), if_pos (beq_self_eq_true _)]
      rfl
    | some c =>
      refine if_neg fun same => ?_
      have unserved := List.find?_some (beq_iff_eq.mp same)
      rw [cause] at unserved
      cases unserved
  have noted : ((List.range (k + 1)).map (a + ·)).findSome? (s.bar2ReadCause (s.bar2Other a (k + 1) true)) =
      some ((s.bar2Cause a).getD 3) := by
    rw [run, List.findSome?_cons_of_isSome (by rw [first]; rfl), first]
  have kept := (congrArg State.mem (bar2Noted_only (s.bar2Told (s.bar2Other a (k + 1) true)) p (some ((s.bar2Cause a).getD 3)))).trans (bar2Told_mem s _)
  have ran := bar2Access_read (n := k + 1) (offset := offset) (ue := true) owner
  dsimp only at ran
  rw [place, noted, bar2Checks_sound sound, told, Bool.or_true, if_pos rfl] at ran
  obtain ⟨t, ran, last, mem, cause⟩ := answered_last ran (bar2Noted_cause _ p _)
  exact ⟨t, ran, last, mem.trans kept, fun none => cause.trans (by rw [none]; rfl), fun c some => cause.trans (by rw [some]; rfl)⟩

end

section
variable (served : ∀ x, x < n → s.bar2Cause (a + x) = none) (lost : ∃ x, x < n ∧ s.lostUnits (a + x) 1 ≠ [])
include served lost

theorem any_bar2Lost_lost : ((List.range n).map (a + ·)).any s.bar2Lost = true := by
  obtain ⟨x, low, damaged⟩ := lost
  refine List.any_eq_true.mpr ⟨_, mem_run.mpr ⟨x, low, rfl⟩, ?_⟩
  rw [State.bar2Lost, served x low]
  simpa using damaged

theorem bar2Other_lost : s.bar2Other a n ue = none := by
  rw [State.bar2Other, any_bar2Lost_lost served lost, Bool.not_true, Bool.and_false]
  rfl

theorem bar2ReadCause_lost : ((List.range n).map (a + ·)).findSome? (s.bar2ReadCause none) = some 3 := by
  have cause {k : Nat} (inside : k < n) : s.bar2ReadCause none (a + k) = if s.bar2Lost (a + k) then some 3 else none := by
    rw [State.bar2ReadCause, served k inside]
    exact if_congr (by simp) rfl rfl
  obtain ⟨y, inside, bad⟩ := List.any_eq_true.mp (any_bar2Lost_lost served lost)
  obtain ⟨x, low, rfl⟩ := mem_run.mp inside
  obtain ⟨c, first⟩ : ∃ c, ((List.range n).map (a + ·)).findSome? (s.bar2ReadCause none) = some c :=
    Option.isSome_iff_exists.mp (List.findSome?_isSome_iff.mpr ⟨_, inside, by rw [cause low, bad]; rfl⟩)
  obtain ⟨y, found, three⟩ := List.exists_of_findSome?_eq_some first
  obtain ⟨k, high, rfl⟩ := mem_run.mp found
  rw [cause high] at three
  split at three
  · rw [first, three]
  · cases three

theorem bar2Access_read_damaged (place : s.bar2Place p offset = a) (owner : s.bar2Owner p = true) :
    let t := ((s.bar2Checks a n).bar2Told none).bar2Noted p (some 3)
    exec (.bar2Access p offset (.read n) ue) s = .next { t with out := t.out ++ [.completion p false []] } := by
  rw [bar2Access_read owner, place]
  dsimp only
  rw [bar2Other_lost served lost, bar2ReadCause_lost served lost, any_bar2Lost_lost served lost, Bool.true_or, if_pos rfl]

/-- A unit that its memory cannot correct fails a read of served bytes (R147, R373). -/
theorem bar2Access_read_lost (place : s.bar2Place p offset = a) (owner : s.bar2Owner p = true) :
    ∃ t, exec (.bar2Access p offset (.read n) ue) s = .next t ∧ t.out.getLast? = some (.completion p false []) ∧ (t.port p).bar2Cause = 3 := by
  obtain ⟨t, ran, last, _, cause⟩ := answered_last (bar2Access_read_damaged (ue := ue) served lost place owner) (bar2Noted_cause _ p 3)
  exact ⟨t, ran, last, cause⟩

end

end

/-! A write through BAR2, and who is served (R373, R456) -/

/-- A written run, byte by byte: what is served and nothing else. -/
theorem bar2Write_bytes : ∀ (data : List Byte) (s : State) (a : Nat), ∃ m w, s.bar2Write a data = { s with mem := m, weak := w } ∧
    ∀ y, readByte m y = if a ≤ y ∧ y < a + data.length ∧ s.bar2Cause y = none then data.getD (y - a) 0 else readByte s.mem y
  | [], s, a => ⟨_, _, rfl, fun y => (if_neg (by rw [List.length_nil]; omega)).symm⟩
  | b :: bs, s, a => by
    have first : ∃ m w, (if (s.bar2Cause a).isNone then s.poke a [b] else s) = { s with mem := m, weak := w } ∧
        ∀ y, readByte m y = if y = a ∧ s.bar2Cause a = none then b else readByte s.mem y := by
      by_cases served : s.bar2Cause a = none
      · refine ⟨_, _, if_pos (by rw [served]; rfl), fun y => ?_⟩
        by_cases here : y = a
        · rw [if_pos ⟨here, served⟩, here]
          exact readByte_writeByte_same s.mem a b
        · rw [if_neg fun h => here h.1]
          exact readByte_writeByte_other s.mem b here
      · exact ⟨_, _, if_neg (by simpa using served), fun y => (if_neg fun h => served h.2).symm⟩
    obtain ⟨m, w, poked, byte⟩ := first
    obtain ⟨m', w', rest, bytes⟩ := bar2Write_bytes bs { s with mem := m, weak := w } (a + 1)
    refine ⟨m', w', ?_, fun y => (bytes y).trans ?_⟩
    · rw [State.bar2Write, poked]
      exact rest
    · have same : ({ s with mem := m, weak := w } : State).bar2Cause y = s.bar2Cause y := rfl
      rw [same, List.length_cons]
      dsimp only
      by_cases later : a + 1 ≤ y ∧ y < a + 1 + bs.length ∧ s.bar2Cause y = none
      · rw [if_pos later, if_pos ⟨by omega, by omega, later.2.2⟩, show y - a = (y - (a + 1)) + 1 by omega, List.getD_cons_succ]
      · rw [if_neg later, byte]
        by_cases here : y = a ∧ s.bar2Cause a = none
        · rw [if_pos here, here.1, if_pos ⟨Nat.le_refl a, by omega, here.2⟩, Nat.sub_self, List.getD_cons_zero]
        · rw [if_neg here, if_neg ?_]
          rintro ⟨low, high, served⟩
          by_cases equal : y = a
          · exact here ⟨equal, equal ▸ served⟩
          · exact later ⟨by omega, by omega, served⟩

section
variable {s : State} {p : Fin 4} {offset : BitVec 36} {a n : Nat} {data : List Byte} {ue : Bool}

theorem bar2Access_refused (other : s.bar2Owner p = false) :
    exec (.bar2Access p offset (.read n) ue) s = .next { s.bar2Fail p 4 with out := s.out ++ [.unsupported p] } ∧
    exec (.bar2Access p offset (.write data) ue) s = .next (s.bar2Fail p 4) := by
  refine ⟨?_, ?_⟩ <;> exact if_pos (by rw [other]; rfl)

theorem bar2Access_write_bytes (place : s.bar2Place p offset = a) (owner : s.bar2Owner p = true) : ∃ t, exec (.bar2Access p offset (.write data) ue) s = .next t ∧
    (∀ x, x < data.length → readByte t.mem (a + x) =
      if s.bar2Cause (a + x) = none then data.getD x 0 else readByte s.mem (a + x)) ∧
    (∀ x, x < a ∨ a + data.length ≤ x → readByte t.mem x = readByte s.mem x) ∧
    t.out = s.out ∧ t.job = s.job := by
  obtain ⟨m, w, written, bytes⟩ := bar2Write_bytes data s a
  rw [bar2Access_write owner, place]
  dsimp only
  rw [bar2Noted_only, written]
  refine ⟨_, rfl, fun x low => (bytes _).trans ?_, fun x outside => (bytes x).trans (if_neg (by omega)), rfl, rfl⟩
  rw [Nat.add_sub_cancel_left]
  exact if_congr ⟨fun h => h.2.2, fun h => ⟨Nat.le_add_right _ x, by omega, h⟩⟩ rfl rfl

/-- The bytes of a read: zeros for what is not served. -/
theorem bar2Read_bytes (a : Nat) :
    (s.bar2Read a n).1 = (List.range n).map (fun x => if s.bar2Cause (a + x) = none then readByte s.mem (a + x) else 0) := by
  show List.map _ (List.map _ _) = _
  rw [List.map_map]
  refine List.map_congr_left fun x _ => ?_
  exact if_congr Option.isNone_iff_eq_none rfl rfl

/-- BAR2 fails a byte as unmapped or as busy. -/
theorem bar2Cause_kinds {x c : Nat} (cause : s.bar2Cause x = some c) : c = 1 ∨ c = 2 := by
  unfold State.bar2Cause at cause
  split at cause
  · exact .inl (Option.some.inj cause).symm
  · split at cause
    · exact .inr (Option.some.inj cause).symm
    · cases cause

end

/-- The device address of an offset, and whom BAR2 serves. -/
theorem bar2Place_owner (s : State) (p : Fin 4) (offset : BitVec 36) :
    (s.recoveryP0 p = false → s.bar2Place p offset = (s.port p).bar2Base.toNat * 2 ^ 36 + offset.toNat ∧
      (s.bar2Owner p = true ↔ (s.port p).role = .owner)) ∧
    (s.recoveryP0 p = true → s.bar2Place p offset = offset.toNat ∧ s.bar2Owner p = true) := by
  unfold State.bar2Place State.bar2Owner
  refine ⟨fun normal => ⟨?_, ?_⟩, fun wait => ⟨?_, ?_⟩⟩
  · rw [normal, if_neg Bool.false_ne_true]
  · rw [normal, Bool.or_false, beq_iff_eq]
  · rw [wait, if_pos rfl, Nat.zero_mul, Nat.zero_add]
  · rw [wait, Bool.or_true]

/-- The reads of served bytes and of others (R373). -/
theorem bar2Access_read_served {s : State} {p : Fin 4} {offset : BitVec 36} {a n : Nat} (place : s.bar2Place p offset = a)
    (owner : s.bar2Owner p = true) (sound : s.weakness a n = 0) (served : ∀ x, x < n → s.bar2Cause (a + x) = none) :
    exec (.bar2Access p offset (.read n) false) s =
      .next { s with out := s.out ++ [.completion p true ((List.range n).map (fun x => readByte s.mem (a + x)))] } := by
  have clean : ((List.range n).map (a + ·)).findSome? s.bar2Cause = none := List.findSome?_eq_none_iff.mpr fun y inside => by
    obtain ⟨x, low, rfl⟩ := mem_run.mp inside
    exact served x low
  have bytes : (s.bar2Read a n).1 = (List.range n).map (fun x => readByte s.mem (a + x)) :=
    (bar2Read_bytes a).trans (List.map_congr_left fun x inside => if_pos (served x (List.mem_range.mp inside)))
  rw [bar2Access_read_sound sound place owner, clean, bytes]
  rfl

theorem bar2Access_read_failing {s : State} {p : Fin 4} {offset : BitVec 36} {a n : Nat} (place : s.bar2Place p offset = a)
    (owner : s.bar2Owner p = true) (sound : s.weakness a n = 0) (failing : ∃ x, x < n ∧ s.bar2Cause (a + x) ≠ none) :
    ∃ t c, exec (.bar2Access p offset (.read n) false) s = .next t ∧
      t.out = s.out ++ [.completion p true ((List.range n).map (fun x => if s.bar2Cause (a + x) = none then readByte s.mem (a + x) else 0))] ∧
      (t.port p).bar2Cause = BitVec.ofNat 3 c ∧ (c = 1 ∨ c = 2) ∧ t.mem = s.mem := by
  obtain ⟨x, low, fails⟩ := failing
  obtain ⟨c, first⟩ : ∃ c, ((List.range n).map (a + ·)).findSome? s.bar2Cause = some c :=
    Option.isSome_iff_exists.mp (List.findSome?_isSome_iff.mpr ⟨_, mem_run.mpr ⟨x, low, rfl⟩, Option.isSome_iff_ne_none.mpr fails⟩)
  obtain ⟨y, _, cause⟩ := List.exists_of_findSome?_eq_some first
  rw [bar2Access_read_sound sound place owner, first, bar2Read_bytes]
  exact ⟨_, c, rfl, rfl, bar2Noted_cause s p c, bar2Cause_kinds cause, rfl⟩

theorem bar2 : Claims.Bar2 := by
  intro s p offset n data ue
  obtain ⟨normal, wait⟩ := bar2Place_owner s p offset
  dsimp only
  refine ⟨normal, wait, ?_⟩
  generalize place : s.bar2Place p offset = a
  refine ⟨fun other => ?_, fun owner => ⟨fun served sound => bar2Access_read_served place owner sound served,
    fun failing sound => bar2Access_read_failing place owner sound failing, fun served sound => bar2Access_read_ue sound place owner served,
    fun served lost => bar2Access_read_lost served lost place owner, bar2Access_write_bytes place owner⟩⟩
  obtain ⟨reads, writes⟩ := bar2Access_refused (n := n) (data := data) (ue := ue) (offset := offset) other
  exact ⟨⟨_, reads, rfl, bar2Noted_cause s p 4, rfl⟩, ⟨_, writes, rfl, bar2Noted_cause s p 4, rfl⟩⟩

/-- Settles O23: the feed and the results (`feedAndResults`), and BAR2 (`bar2`). -/
theorem hostDataMoves : Obligations.HostDataMoves := ⟨feedAndResults, bar2⟩

end Sys2Proof.Machine
end
